-- ==== Sys2Proof/Word.lean ====
section
/-! DEFINITION. The word types of the QV-7140 (R14, R40, R157): bytes, halfwords, 32-bit lane words and 64-bit
scalar words, all little-endian in memory. -/

namespace Sys2Proof

/-- One byte of memory. -/
abbrev Byte := BitVec 8

/-- A halfword of code (R40). -/
abbrev Half := BitVec 16

/-- A 32-bit lane element (R157). -/
abbrev Word := BitVec 32

/-- A 64-bit scalar register, queue entry or control register (R157, R83). -/
abbrev DWord := BitVec 64

end Sys2Proof
end

