-- ==== Sys2Proof/Machine/Bits.lean ====
section
/-! DEFINITION. Bit fields, sign extension, little-endian byte strings and the integer operations of R161 to R168. -/

namespace Sys2Proof.Machine

/-- Field `[lo + k - 1 : lo]` of a natural number, as a natural number. -/
def bitsN (w lo k : Nat) : Nat := w / 2 ^ lo % 2 ^ k

/-- Field `[lo + k - 1 : lo]` of a bit vector, as a natural number. -/
def bits {n : Nat} (w : BitVec n) (lo k : Nat) : Nat := bitsN w.toNat lo k

/-- One bit of a natural number. -/
def bitN (w i : Nat) : Bool := w / 2 ^ i % 2 == 1

/-- One bit of a bit vector. -/
def bit {n : Nat} (w : BitVec n) (i : Nat) : Bool := bitN w.toNat i

/-- Field `[lo + k - 1 : lo]` of `w` replaced by the low `k` bits of `v`. -/
def setBitsN (w lo k v : Nat) : Nat := w - bitsN w lo k * 2 ^ lo + v % 2 ^ k * 2 ^ lo

/-- `setBitsN` on a bit vector. -/
def setBits {n : Nat} (w : BitVec n) (lo k v : Nat) : BitVec n := BitVec.ofNat n (setBitsN w.toNat lo k v)

/-- The low `k` bits of `v` read as a two's-complement number. -/
def signedN (k v : Nat) : Int :=
  let x := v % 2 ^ k
  if 2 * x < 2 ^ k then Int.ofNat x else Int.ofNat x - Int.ofNat (2 ^ k)

/-- The value of `i` modulo `2^k`, as a natural number. -/
def wrapN (k : Nat) (i : Int) : Nat := (i % (2 : Int) ^ k).toNat

/-- `i` modulo `2^64`. -/
def dword (i : Int) : DWord := BitVec.ofInt 64 i

/-- A Boolean as 0 or 1. -/
def b2n (b : Bool) : Nat := if b then 1 else 0

/-- The little-endian value of a byte string (R14). -/
def leNat : List Byte → Nat
  | [] => 0
  | b :: bs => b.toNat + 256 * leNat bs

/-- The `k` low bytes of `v`, least significant first (R14). -/
def leBytes : Nat → Nat → List Byte
  | 0, _ => []
  | k + 1, v => BitVec.ofNat 8 v :: leBytes k (v / 256)

/-- The `n` naturals from 0 upwards. -/
def upTo (n : Nat) : List Nat := List.range n

/-- Number of 1 bits among the low `n` bits. -/
def popN : Nat → Nat → Nat
  | 0, _ => 0
  | n + 1, v => v % 2 + popN n (v / 2)

/-- Number of trailing zero bits among the low `n` bits. -/
def ctzN : Nat → Nat → Nat
  | 0, _ => 0
  | n + 1, v => if v % 2 == 1 then 0 else 1 + ctzN n (v / 2)

/-- Number of leading zero bits of the low `n` bits. -/
def clzN : Nat → Nat → Nat
  | 0, _ => 0
  | n + 1, v => if bitN v n then 0 else 1 + clzN n v

/-- The low `n` bytes in reverse order. -/
def bswapN (n v : Nat) : Nat := leNat (leBytes n v).reverse

/-- Signed quotient truncated toward zero with the boundary cases of R162. -/
def divS (x y : DWord) : DWord := if y = 0 then BitVec.ofInt 64 (-1) else BitVec.ofInt 64 (Int.tdiv x.toInt y.toInt)

/-- Unsigned quotient (R161, R162). -/
def divU (x y : DWord) : DWord := if y = 0 then BitVec.ofInt 64 (-1) else BitVec.ofNat 64 (x.toNat / y.toNat)

/-- Signed remainder with the sign of `x` (R161, R162). -/
def remS (x y : DWord) : DWord := if y = 0 then x else BitVec.ofInt 64 (Int.tmod x.toInt y.toInt)

/-- Unsigned remainder (R161, R162). -/
def remU (x y : DWord) : DWord := if y = 0 then x else BitVec.ofNat 64 (x.toNat % y.toNat)

/-- Bits above the low `n` of the signed product (R161, R167). -/
def mulHS {n : Nat} (x y : BitVec n) : BitVec n := BitVec.ofInt n (x.toInt * y.toInt / (2 : Int) ^ n)

/-- Bits above the low `n` of the unsigned product (R161, R167). -/
def mulHU {n : Nat} (x y : BitVec n) : BitVec n := BitVec.ofNat n (x.toNat * y.toNat / 2 ^ n)

/-- Signed minimum. -/
def minS {n : Nat} (x y : BitVec n) : BitVec n := if x.slt y then x else y

/-- Signed maximum. -/
def maxS {n : Nat} (x y : BitVec n) : BitVec n := if x.slt y then y else x

/-- Unsigned minimum. -/
def minU {n : Nat} (x y : BitVec n) : BitVec n := if x.ult y then x else y

/-- Unsigned maximum. -/
def maxU {n : Nat} (x y : BitVec n) : BitVec n := if x.ult y then y else x

/-- Shift left by the low 6 bits (64-bit) or 5 bits (32-bit) of the amount (R161, R167). -/
def shlV {n : Nat} (x y : BitVec n) : BitVec n := x <<< (y.toNat % n)

/-- Logical shift right, amount taken as in `shlV`. -/
def shrV {n : Nat} (x y : BitVec n) : BitVec n := x >>> (y.toNat % n)

/-- Arithmetic shift right, amount taken as in `shlV`. -/
def sraV {n : Nat} (x y : BitVec n) : BitVec n := BitVec.sshiftRight x (y.toNat % n)

/-- 64-bit truth value. -/
def flagW (b : Bool) : DWord := if b then 1 else 0

/-- Sign-extension of the low `k` bits to `n` bits. -/
def sextLow {n : Nat} (k : Nat) (x : BitVec n) : BitVec n := (x.setWidth k).signExtend n

/-- Zero-extension of the low `k` bits to `n` bits. -/
def zextLow {n : Nat} (k : Nat) (x : BitVec n) : BitVec n := (x.setWidth k).setWidth n

/-- Absolute value of a lane, the most negative value staying itself (R168). -/
def absW (x : Word) : Word := if x.slt 0 then 0 - x else x

/-- The larger of two naturals. -/
def maxN (a b : Nat) : Nat := if a < b then b else a

/-- The smaller of two naturals. -/
def minN (a b : Nat) : Nat := if a < b then a else b

end Sys2Proof.Machine
end

