-- ==== Sys2Proof/Machine/Float.lean ====
section
/-! DEFINITION. Floating-point formats, rounding and flags (R16 to R31), exact values, and the operations of R172 to
R174 and R178. Every value is an exact dyadic number until its one rounding. -/

namespace Sys2Proof.Machine

/-- The floating-point formats of R16. -/
inductive Fmt where
  | fp64 | fp32 | fp16 | bf16 | e4m3 | e5m2
deriving DecidableEq, Repr

/-- The rounding modes of R25. -/
inductive Rm where
  | rne | rz | rdn | rup
deriving DecidableEq, Repr

/-- Mode of a two-bit code (R25). -/
def rmOf (n : Nat) : Rm :=
  if n % 4 == 0 then .rne else if n % 4 == 1 then .rz else if n % 4 == 2 then .rdn else .rup

/-- The sticky flags of R27, as the low seven bits of `%fflags`. -/
abbrev Fl := BitVec 7

def flNV : Fl := 0x01#7
def flDZ : Fl := 0x02#7
def flOF : Fl := 0x04#7
def flUF : Fl := 0x08#7
def flNX : Fl := 0x10#7
def flTINV : Fl := 0x20#7
def flSPOISON : Fl := 0x40#7

/-- `f` where `b` holds. -/
def flIf (b : Bool) (f : Fl) : Fl := if b then f else 0

/-- Width of a format (R16). -/
def Fmt.width : Fmt → Nat
  | .fp64 => 64 | .fp32 => 32 | .fp16 => 16 | .bf16 => 16 | .e4m3 => 8 | .e5m2 => 8

/-- Fraction bits (R16). -/
def Fmt.frac : Fmt → Nat
  | .fp64 => 52 | .fp32 => 23 | .fp16 => 10 | .bf16 => 7 | .e4m3 => 3 | .e5m2 => 2

/-- Exponent bias (R16). -/
def Fmt.bias : Fmt → Nat
  | .fp64 => 1023 | .fp32 => 127 | .fp16 => 15 | .bf16 => 127 | .e4m3 => 7 | .e5m2 => 15

/-- Whether the format has infinities (R16). -/
def Fmt.hasInf : Fmt → Bool
  | .e4m3 => false
  | _ => true

/-- Canonical NaN (R17, R18). -/
def Fmt.nan : Fmt → Nat
  | .fp64 => 0x7FF8000000000000 | .fp32 => 0x7FC00000 | .fp16 => 0x7E00 | .bf16 => 0x7FC0 | .e4m3 => 0x7F
  | .e5m2 => 0x7E

/-- Largest finite magnitude (R17). -/
def Fmt.maxFin : Fmt → Nat
  | .fp64 => 0x7FEFFFFFFFFFFFFF | .fp32 => 0x7F7FFFFF | .fp16 => 0x7BFF | .bf16 => 0x7F7F | .e4m3 => 0x7E
  | .e5m2 => 0x7B

/-- Magnitude code of an infinity; the largest finite value where the format has none (R28). -/
def Fmt.infBits (f : Fmt) : Nat := if f.hasInf then f.maxFin + 1 else f.maxFin

/-- Exponent of the lowest fraction bit of a subnormal: the value of code 1 is `2^qmin` (R16). -/
def Fmt.qmin (f : Fmt) : Int := 1 - (f.bias : Int) - (f.frac : Int)

/-- A value: a NaN (signalling or quiet), an infinity, or the exact dyadic `(-1)^neg * m * 2^e` (R16, R18). -/
inductive FVal where
  | nan (signalling : Bool)
  | inf (neg : Bool)
  | num (neg : Bool) (m : Nat) (e : Int)
deriving DecidableEq, Repr

/-- The value a bit pattern holds (R16, R18, R19). -/
def unpackF (f : Fmt) (w : Nat) : FVal :=
  let neg := bitN w (f.width - 1)
  let mag := w % 2 ^ (f.width - 1)
  let ex := mag / 2 ^ f.frac
  let fr := mag % 2 ^ f.frac
  if f.maxFin < mag then
    if f.hasInf && fr == 0 then .inf neg
    else .nan (f.hasInf && !bitN fr (f.frac - 1))
  else if ex == 0 then .num neg fr f.qmin
  else .num neg (fr + 2 ^ f.frac) (f.qmin + (ex : Int) - 1)

/-- The sign bit of a format at its place. -/
def signBits (f : Fmt) (neg : Bool) : Nat := if neg then 2 ^ (f.width - 1) else 0

/-- Whether a magnitude with quotient `n` and remainder `rem` of `half * 2` is rounded up in its mode (R25). -/
def roundsUp (m : Rm) (neg : Bool) (n rem half : Nat) : Bool :=
  match m with
  | .rne => half < rem || (rem == half && n % 2 == 1)
  | .rz => false
  | .rdn => neg && rem != 0
  | .rup => !neg && rem != 0

/-- `m * 2^e` rounded to a multiple of `2^q`: the multiple and whether it is inexact (R25). -/
def roundAt (rm : Rm) (neg : Bool) (m : Nat) (e q : Int) : Nat × Bool :=
  if q ≤ e then (m * 2 ^ (e - q).toNat, false)
  else
    let sh := (q - e).toNat
    let n := m / 2 ^ sh
    let rem := m % 2 ^ sh
    (if roundsUp rm neg n rem (2 ^ (sh - 1)) then n + 1 else n, rem != 0)

/-- How an overflow ends: an arithmetic result (R28) or a saturating conversion (R29). -/
inductive Over where
  | arith | saturate
deriving DecidableEq, Repr

/-- Code and flags of a finite overflow (R28, R29). -/
def overflowBits (f : Fmt) (o : Over) (rm : Rm) (neg : Bool) : Nat :=
  let toInf : Bool := match rm with
    | .rne => true
    | .rz => false
    | .rdn => neg
    | .rup => !neg
  match o with
  | .saturate => f.maxFin
  | .arith => if toInf then f.infBits else f.maxFin

/-- `round(fmt, mode, x)` of R15 on a finite value: pattern and flags (R25, R28, R29). -/
def roundFin (f : Fmt) (o : Over) (rm : Rm) (neg : Bool) (m : Nat) (e : Int) : Nat × Fl :=
  if m == 0 then (signBits f neg, 0)
  else
    let top := e + (Nat.log2 m : Int)
    let qu := top - (f.frac : Int)
    let q := if qu < f.qmin then f.qmin else qu
    let (n, inexact) := roundAt rm neg m e q
    let mag := (q - f.qmin).toNat * 2 ^ f.frac + n
    if f.maxFin < mag then (signBits f neg + overflowBits f o rm neg, flOF ||| flNX)
    else
      let (nu, _) := roundAt rm neg m e qu
      -- tiny: the value rounded with an unbounded exponent lies below the smallest normal, 2^(qmin + frac)
      let tiny := qu < f.qmin && (nu < 2 ^ (f.frac + 1) || qu + 1 < f.qmin)
      (signBits f neg + mag, flIf inexact flNX ||| flIf (inexact && tiny) flUF)

/-- Flag of a signalling NaN operand (R18). -/
def sigFlag : FVal → Fl
  | .nan true => flNV
  | _ => 0

/-- Whether a value is a NaN. -/
def FVal.isNan : FVal → Bool
  | .nan _ => true
  | _ => false

/-- A value rounded as the result of an arithmetic instruction (R28). -/
def roundArith (f : Fmt) (rm : Rm) : FVal → Nat × Fl
  | .nan s => (f.nan, flIf s flNV)
  | .inf neg => (signBits f neg + f.infBits, flIf (!f.hasInf) (flOF ||| flNX))
  | .num neg m e => roundFin f .arith rm neg m e

/-- A value converted to a float format with the saturation of R29. -/
def roundConv (f : Fmt) (rm : Rm) : FVal → Nat × Fl
  | .nan s => (f.nan, flIf s flNV)
  | .inf neg => (signBits f neg + f.infBits, flIf (!f.hasInf) flOF)
  | .num neg m e => roundFin f .saturate rm neg m e

/-- `m * 2^e` with its sign rounded to an integer; whether the rounding changed it. -/
def roundToInt (rm : Rm) (neg : Bool) (m : Nat) (e : Int) : Int × Bool :=
  let (n, ix) := roundAt rm neg m e 0
  (if neg then -(n : Int) else (n : Int), ix)

/-- Saturation of an integer to a range: value, and whether it saturated (R30). -/
def satRange (lo hi v : Int) : Int × Bool :=
  if v < lo then (lo, true) else if hi < v then (hi, true) else (v, false)

/-- A float value converted to an integer range (R30). -/
def floatToInt (rm : Rm) (lo hi : Int) : FVal → Int × Fl
  | .nan _ => (0, flNV)
  | .inf neg => (if neg then lo else hi, flNV)
  | .num neg m e =>
    let (v, ix) := roundToInt rm neg m e
    let (w, sat) := satRange lo hi v
    if sat then (w, flNV ||| flNX) else (w, flIf ix flNX)

/-- An integer as an exact value. -/
def intVal (v : Int) : FVal := .num (v < 0) v.natAbs 0

/-- Exact signed mantissa at exponent `q`, for `q` not above `e`. -/
def mantAt (neg : Bool) (m : Nat) (e q : Int) : Int :=
  let n : Int := ((m * 2 ^ (e - q).toNat : Nat) : Int)
  if neg then -n else n

/-- Exact sum of two values; the sign of a zero sum is R25's. -/
def addV (rm : Rm) (x y : FVal) : FVal × Fl :=
  match x, y with
  | .nan a, .nan b => (.nan false, flIf (a || b) flNV)
  | .nan a, .inf _ => (.nan false, flIf a flNV)
  | .nan a, .num _ _ _ => (.nan false, flIf a flNV)
  | .inf _, .nan b => (.nan false, flIf b flNV)
  | .num _ _ _, .nan b => (.nan false, flIf b flNV)
  | .inf a, .inf b => if a == b then (.inf a, 0) else (.nan false, flNV)
  | .inf a, .num _ _ _ => (.inf a, 0)
  | .num _ _ _, .inf b => (.inf b, 0)
  | .num na ma ea, .num nb mb eb =>
    if ma == 0 && mb == 0 then (.num (if na == nb then na else rm == .rdn) 0 0, 0)
    else
      let q := if ea < eb then ea else eb
      let s := mantAt na ma ea q + mantAt nb mb eb q
      if s == 0 then (.num (rm == .rdn) 0 0, 0) else (.num (s < 0) s.natAbs q, 0)

/-- A value with its sign inverted; NaNs stay. -/
def negV : FVal → FVal
  | .nan s => .nan s
  | .inf n => .inf (!n)
  | .num n m e => .num (!n) m e

/-- `exact_prod` of R15, with the invalid cases of R172. -/
def mulV (x y : FVal) : FVal × Fl :=
  match x, y with
  | .nan a, .nan b => (.nan false, flIf (a || b) flNV)
  | .nan a, .inf _ => (.nan false, flIf a flNV)
  | .nan a, .num _ _ _ => (.nan false, flIf a flNV)
  | .inf _, .nan b => (.nan false, flIf b flNV)
  | .num _ _ _, .nan b => (.nan false, flIf b flNV)
  | .inf a, .inf b => (.inf (a != b), 0)
  | .inf a, .num b m _ => if m == 0 then (.nan false, flNV) else (.inf (a != b), 0)
  | .num a m _, .inf b => if m == 0 then (.nan false, flNV) else (.inf (a != b), 0)
  | .num a m e, .num b k f => (.num (a != b) (m * k) (e + f), 0)

/-- Order of two values that are not NaN: `x < y`, with -0 below +0 when `zeros` holds (R31) and equal otherwise. -/
def ltV (zeros : Bool) (x y : FVal) : Bool :=
  match x, y with
  | .nan _, _ => false
  | _, .nan _ => false
  | .inf a, .inf b => a && !b
  | .inf a, .num _ _ _ => a
  | .num _ _ _, .inf b => !b
  | .num na ma ea, .num nb mb eb =>
    let q := if ea < eb then ea else eb
    let a := mantAt na ma ea q
    let b := mantAt nb mb eb q
    a < b || (zeros && a == b && ma == 0 && na && !nb)

/-- Equality of values that are not NaN, -0 equal to +0 (R173). -/
def eqV (x y : FVal) : Bool := !x.isNan && !y.isNan && !ltV false x y && !ltV false y x

/-- Two-operand float operations of R172. -/
inductive FOp2 where
  | fadd | fsub | fmul | fmin | fmax
deriving DecidableEq, Repr

/-- One element of fmin or fmax (R31, R172); `flip` chooses the greater. -/
def minMaxF (f : Fmt) (greater : Bool) (a b : Nat) : Nat × Fl :=
  let x := unpackF f a
  let y := unpackF f b
  let fl := sigFlag x ||| sigFlag y
  if x.isNan && y.isNan then (f.nan, fl)
  else if x.isNan then (b, fl)
  else if y.isNan then (a, fl)
  else if greater then (if ltV true x y then b else a, fl)
  else (if ltV true y x then b else a, fl)

/-- One element of a two-operand float operation (R172): pattern and flags. -/
def fop2 (op : FOp2) (f : Fmt) (rm : Rm) (a b : Nat) : Nat × Fl :=
  let x := unpackF f a
  let y := unpackF f b
  match op with
  | .fadd => let (v, fl) := addV rm x y; let (r, g) := roundArith f rm v; (r, fl ||| g)
  | .fsub => let (v, fl) := addV rm x (negV y); let (r, g) := roundArith f rm v; (r, fl ||| g)
  | .fmul => let (v, fl) := mulV x y; let (r, g) := roundArith f rm v; (r, fl ||| g)
  | .fmin => minMaxF f false a b
  | .fmax => minMaxF f true a b

/-- One element of ffma: `round(x * y + z)` with one rounding (R172). -/
def ffmaF (f : Fmt) (rm : Rm) (a b c : Nat) : Nat × Fl :=
  let (p, fl) := mulV (unpackF f a) (unpackF f b)
  let (v, fl2) := addV rm p (unpackF f c)
  let (r, g) := roundArith f rm v
  (r, fl ||| fl2 ||| g)

/-- The eight conditions of fcmp on one element (R173): truth and flags. -/
def fcmpF (cond : Nat) (f : Fmt) (a b : Nat) : Bool × Fl :=
  let x := unpackF f a
  let y := unpackF f b
  let un := x.isNan || y.isNan
  let sig := sigFlag x ||| sigFlag y
  let ordered := sig ||| flIf un flNV
  match cond % 8 with
  | 0 => (eqV x y, sig)
  | 1 => (ltV false x y, ordered)
  | 2 => (ltV false x y || eqV x y, ordered)
  | 3 => (ltV false y x, ordered)
  | 4 => (ltV false y x || eqV x y, ordered)
  | 5 => (!eqV x y, sig)
  | 6 => (!un, sig)
  | _ => (un, sig)

/-- Integer square root by bits: the largest `r` with `r * r ≤ x`, for `x < 2^(2 * k)`; `r` holds the bits found. -/
def isqrtAux (x : Nat) : Nat → Nat → Nat
  | 0, r => r
  | k + 1, r => let t := r + 2 ^ k; isqrtAux x k (if t * t ≤ x then t else r)

/-- Integer square root. -/
def isqrt (x : Nat) : Nat := isqrtAux x (Nat.log2 x / 2 + 1) 0

/-- A positive value known as `m * 2^e` and, when `ix` holds, strictly below the next unit: the extra low bit keeps
every later rounding right as long as `m` has more bits than the target. -/
def stickyNum (neg : Bool) (m : Nat) (e : Int) (ix : Bool) : FVal := .num neg (2 * m + b2n ix) (e - 1)

/-- The exact square root of `m * 2^e`, `m` not 0, to at least 64 bits and a sticky bit (R174). -/
def sqrtV (m : Nat) (e : Int) : FVal :=
  let odd := e % 2 != 0
  let m1 := if odd then 2 * m else m
  let e1 := if odd then e - 1 else e
  let big := m1 * 2 ^ 160
  let r := isqrt big
  stickyNum false r (e1 / 2 - 80) (r * r != big)

/-- The exact quotient `(a * 2^ea) / (b * 2^eb)`, `b` not 0, to at least 80 bits beyond `b` and a sticky bit. -/
def divV (neg : Bool) (a : Nat) (ea : Int) (b : Nat) (eb : Int) : FVal :=
  let k := Nat.log2 b + 80
  let big := a * 2 ^ k
  stickyNum neg (big / b) (ea - eb - (k : Int)) (big % b != 0)

/-- The exact value of `1 / sqrt (m * 2^e)`, `m` not 0, to at least 64 bits and a sticky bit (R174). -/
def rsqrtV (m : Nat) (e : Int) : FVal :=
  let odd := e % 2 != 0
  let m1 := if odd then 2 * m else m
  let e1 := if odd then e - 1 else e
  let k := Nat.log2 m1 + 160
  let k2 := k + k % 2
  let r := isqrt (2 ^ k2 / m1)
  stickyNum false r (-(e1 / 2) - (k2 / 2 : Nat)) (r * r * m1 != 2 ^ k2)

/-- Round a value to an integral value in a given mode, with no NX (R174). -/
def integralF (f : Fmt) (rm : Rm) (w : Nat) : Nat × Fl :=
  match unpackF f w with
  | .nan s => (f.nan, flIf s flNV)
  | .inf _ => (w, 0)
  | .num neg m e =>
    if m == 0 then (w, 0)
    else
      let (n, _) := roundAt rm neg m e 0
      if 0 ≤ e then (w, 0) else ((roundFin f .arith rm neg n 0).1, 0)

/-- fclass on one element (R174). -/
def classF (f : Fmt) (w : Nat) : Nat :=
  match unpackF f w with
  | .nan s => if s then 0x100 else 0x200
  | .inf neg => if neg then 0x001 else 0x080
  | .num neg m _ =>
    if m == 0 then (if neg then 0x008 else 0x010)
    else if m < 2 ^ f.frac then (if neg then 0x004 else 0x020)
    else (if neg then 0x002 else 0x040)

/-- Format of a float instruction's `f` field (R46, R171); code 3 is not an encoding. -/
def fmtOfCode (c : Nat) : Fmt := if c == 0 then .fp32 else if c == 1 then .fp16 else .bf16

/-- One float operation over the elements of a lane: one for FP32, two for the packed formats (R171). -/
def perElem1 (f : Fmt) (op : Nat → Nat × Fl) (a : Word) : Word × Fl :=
  if f.width == 32 then let (r, g) := op a.toNat; (BitVec.ofNat 32 r, g)
  else
    let (r0, g0) := op (bits a 0 16)
    let (r1, g1) := op (bits a 16 16)
    (BitVec.ofNat 32 (r0 % 65536 + 65536 * r1), g0 ||| g1)

/-- As `perElem1`, on two operands. -/
def perElem2 (f : Fmt) (op : Nat → Nat → Nat × Fl) (a b : Word) : Word × Fl :=
  if f.width == 32 then let (r, g) := op a.toNat b.toNat; (BitVec.ofNat 32 r, g)
  else
    let (r0, g0) := op (bits a 0 16) (bits b 0 16)
    let (r1, g1) := op (bits a 16 16) (bits b 16 16)
    (BitVec.ofNat 32 (r0 % 65536 + 65536 * r1), g0 ||| g1)

/-- As `perElem1`, on three operands. -/
def perElem3 (f : Fmt) (op : Nat → Nat → Nat → Nat × Fl) (a b c : Word) : Word × Fl :=
  if f.width == 32 then let (r, g) := op a.toNat b.toNat c.toNat; (BitVec.ofNat 32 r, g)
  else
    let (r0, g0) := op (bits a 0 16) (bits b 0 16) (bits c 0 16)
    let (r1, g1) := op (bits a 16 16) (bits b 16 16) (bits c 16 16)
    (BitVec.ofNat 32 (r0 % 65536 + 65536 * r1), g0 ||| g1)

/-- fcmp on a lane: the condition must hold for every element (R173). -/
def fcmpLane (cond : Nat) (f : Fmt) (a b : Word) : Bool × Fl :=
  if f.width == 32 then fcmpF cond f a.toNat b.toNat
  else
    let (r0, g0) := fcmpF cond f (bits a 0 16) (bits b 0 16)
    let (r1, g1) := fcmpF cond f (bits a 16 16) (bits b 16 16)
    (r0 && r1, g0 ||| g1)

end Sys2Proof.Machine
end

