-- ==== Sys2Proof/Config.lean ====
section
/-! DEFINITION. What the implementation fixes and what the manual leaves open. A constant without a body is a free value:
nothing is known of it (log 2). -/

namespace Sys2Proof.Config

/-- Free values: bits that the manual gives no value, one for each use (log 2). -/
opaque freeValue : Nat → BitVec 64

/-- The SHA-256 digest of R390's attestation log, an external standard the manual does not restate (log 9). -/
opaque sha256 : List Byte → BitVec 256

/-- The signature of R390's attestation report, an external standard the manual does not restate (log 9). -/
opaque signature : List Byte → List Byte

/-- The firmware image of a KIND as the part's flash holds it: header, body and signature, whose contents no rule gives (R388,
log 9). -/
opaque image : Nat → List Byte

/-- The public key beside the images, and the digest of it fused into the part (R388, log 9). -/
opaque bootKey : List Byte
opaque keyDigest : BitVec 256

/-- Whether a signature over some bytes verifies against a key under SLH-DSA-SHA2-128s, an external standard the manual does
not restate (R388, log 9). -/
opaque verifies : (key message signature : List Byte) → Bool

/-- The entry of an application boot image, whose place in the image no rule gives (R391, log 9). -/
opaque imageEntry : List Byte → Nat

/-- Installed external memory of package 0 in bytes (R352); DESIGN CHOICE (log 4): the largest size the manual allows. -/
def installedBytes : Nat := 0x4000000000

/-- Entries of the translation structures (R357), by kind: vision partition, vision core, tile LE, tile SE, and one of the
16 slices of a die's translation cache. -/
def tlbEntries (kind : Nat) : Nat :=
  if kind == 0 then 64 else if kind == 1 then 1024 else if kind == 2 then 512 else if kind == 3 then 512 else 1024

end Sys2Proof.Config
end

