-- ==== Sys2Proof/Machine/Tab.lean ====
section
/-! DEFINITION. Finite tables over natural-number keys: the plain data that registers, memories and records are held in.
A table lists its entries in rising order of key; a key it does not list reads as the default the reader gives. -/

namespace Sys2Proof.Machine

/-- A table: entries in rising order of key. -/
abbrev Tab (β : Type) := List (Nat × β)

/-- The value at a key, or the default where no entry is listed. -/
def Tab.get {β : Type} (d : β) : Tab β → Nat → β
  | [], _ => d
  | e :: t, k => if e.1 = k then e.2 else Tab.get d t k

/-- The entry of a key removed. -/
def Tab.del {β : Type} : Tab β → Nat → Tab β
  | [], _ => []
  | e :: t, k => if e.1 = k then Tab.del t k else e :: Tab.del t k

/-- A new entry put before the first entry with a greater key. -/
def Tab.ins {β : Type} : Tab β → Nat → β → Tab β
  | [], k, v => [(k, v)]
  | e :: t, k, v => if e.1 < k then e :: Tab.ins t k v else (k, v) :: e :: t

/-- The value at a key replaced; a value equal to the default is not listed. -/
def Tab.set {β : Type} [DecidableEq β] (d : β) (t : Tab β) (k : Nat) (v : β) : Tab β :=
  if v = d then Tab.del t k else Tab.ins (Tab.del t k) k v

/-- The value at a key replaced, listed whatever it is. -/
def Tab.put {β : Type} (t : Tab β) (k : Nat) (v : β) : Tab β := Tab.ins (Tab.del t k) k v

/-- The entry of a key, if one is listed. -/
def Tab.find {β : Type} : Tab β → Nat → Option β
  | [], _ => none
  | e :: t, k => if e.1 = k then some e.2 else Tab.find t k

/-- Whether a key is listed. -/
def Tab.has {β : Type} (t : Tab β) (k : Nat) : Bool := (t.find k).isSome

/-- The entries whose keys satisfy a test. -/
def Tab.keep {β : Type} (p : Nat → Bool) (t : Tab β) : Tab β := t.filter fun e => p e.1

/-- The listed keys. -/
def Tab.keys {β : Type} (t : Tab β) : List Nat := t.map (·.1)

/-- Whether keys rise strictly and no entry equals the default. -/
def Tab.canon {β : Type} [DecidableEq β] (d : β) : Tab β → Bool
  | [] => true
  | [e] => e.2 != d
  | e :: f :: t => e.1 < f.1 && e.2 != d && Tab.canon d (f :: t)

end Sys2Proof.Machine
end

