-- ==== Sys2Proof/Syntax.lean ====
section
/-! DEFINITION. The instructions and events of the part: one constructor for each row of spec/opcode_table.json, in
the table's order. A row with a word has the table's fields as its arguments, each under the table's letter. A row
with no word names an event of the part (file 95); its arguments say where it happens. -/

namespace Sys2Proof

/-- A place that executes instructions: an engine stream of a tile core (R71) or a vision thread (R134). -/
inductive Agent where
  | stream (core ctx eng : Nat)
  | thread (core slot lane : Nat)
deriving DecidableEq, Repr

/-- The instruction set and the events of the part. -/
inductive Instr where
  /-- BR (R87). Unconditional branch to a block header; leaves the current block. -/
  | br (o : BitVec 14) (g : BitVec 4)
  /-- BZ (R87). Branches to a header when the scalar is zero. -/
  | bz (c : BitVec 6) (o : BitVec 14) (g : BitVec 4)
  /-- BNZ (R87). Branches to a header when the scalar is not zero. -/
  | bnz (c : BitVec 6) (o : BitVec 14) (g : BitVec 4)
  /-- BP (R87). Branches when the predicate is set (some lane on tile VE, own lane on vision). -/
  | bp (p : BitVec 3) (o : BitVec 14) (g : BitVec 4)
  /-- BNP (R87). Branches when the predicate is clear (every lane on tile VE, own lane on vision). -/
  | bnp (p : BitVec 3) (o : BitVec 14) (g : BitVec 4)
  /-- LOOP (R88). Decrements the counter modulo 2^64 and branches while it is not zero. -/
  | loop (c : BitVec 6) (o : BitVec 14) (g : BitVec 4)
  /-- CALL (R89). Writes the next header's address to the link scalar and branches. -/
  | call (c : BitVec 6) (o : BitVec 14) (g : BitVec 4)
  /-- NOP (R91). Does nothing but its token pops and pushes. -/
  | nop (g : BitVec 4)
  /-- HALT (R93). Stops the tile stream for good without rendezvous. -/
  | halt (g : BitVec 4)
  /-- RDV (R94). Waits for the stream's operations, then counts its arrival; the last arrival ends the job. -/
  | rdv (g : BitVec 4)
  /-- YIELD (R91). A switch point ceding the engine to another ready stream; on vision ends the issue turn. -/
  | yield (g : BitVec 4)
  /-- WAIT (R92). Blocking wait on a clock, copy count, token count or queue condition. -/
  | wait (k : BitVec 3) (a : BitVec 6) (g : BitVec 4)
  /-- JR (R89). Branches to the header address in a scalar. -/
  | jr (a : BitVec 6) (g : BitVec 4)
  /-- TRAP (R378). Raises trap cause 0x40 + N of class 1 after retiring. -/
  | trap (n : BitVec 6) (g : BitVec 4)
  /-- ERET (R379). Checks the trap record and leaves the handler, resuming at RETADDR with the recorded passes. -/
  | eret (g : BitVec 4)
  /-- HOLD (R95). Opens or shortens a hold region of N tile cycles. -/
  | hold (n : BitVec 12) (g : BitVec 4)
  /-- UNHOLD (R95). Closes the hold region; deferred events are delivered at the next boundary. -/
  | unhold (g : BitVec 4)
  /-- SRD (R96). Reads a special register into a scalar. -/
  | srd (d : BitVec 6) (r : BitVec 6) (g : BitVec 4)
  /-- SWR (R96). Writes a special register from a scalar. -/
  | swr (r : BitVec 6) (a : BitVec 6) (g : BitVec 4)
  /-- PROF (R133). Writes a profiling marker record to the sillage ring when tracing is enabled. -/
  | prof (k : BitVec 6) (a : BitVec 6) (g : BitVec 4)
  /-- RDTIME (R100). Samples package time into a scalar. -/
  | rdtime (d : BitVec 6) (g : BitVec 4)
  /-- RDCYC (R100). Samples the deterministic cycle counter into a scalar. -/
  | rdcyc (d : BitVec 6) (g : BitVec 4)
  /-- EXIT (R156). Makes each executing vision thread Exited, abandoning any open region. -/
  | exit (g : BitVec 4)
  /-- ARE (R337). Commits the open atomic region, replaying stale slots and rechecking constraints, or aborts. -/
  | are (g : BitVec 4)
  /-- ARX (R338). Explicitly aborts the open atomic region with cause 10. -/
  | arx (g : BitVec 4)
  /-- RET (R89). Branches to the return address in a scalar. -/
  | ret (a : BitVec 6) (g : BitVec 4)
  /-- QBIND (R85). Binds queue q8-q15 to a producer and consumer engine. -/
  | qbind (d : BitVec 6) (a : BitVec 6) (g : BitVec 4)
  /-- QBIND_TAKES_EFFECT (R85). The binding reaches the context's queue unit and is checked and applied. -/
  | qbindTakesEffect (core ctx eng : Nat)
  /-- ADD (R161). Scalar add modulo 2^64. -/
  | add (d : BitVec 6) (a : BitVec 6) (b : BitVec 6) (g : BitVec 4)
  /-- SUB (R161). Scalar subtract. -/
  | sub (d : BitVec 6) (a : BitVec 6) (b : BitVec 6) (g : BitVec 4)
  /-- AND (R161). Scalar bitwise and. -/
  | and (d : BitVec 6) (a : BitVec 6) (b : BitVec 6) (g : BitVec 4)
  /-- OR (R161). Scalar bitwise or. -/
  | or (d : BitVec 6) (a : BitVec 6) (b : BitVec 6) (g : BitVec 4)
  /-- XOR (R161). Scalar bitwise xor. -/
  | xor (d : BitVec 6) (a : BitVec 6) (b : BitVec 6) (g : BitVec 4)
  /-- SHL (R161). Scalar shift left. -/
  | shl (d : BitVec 6) (a : BitVec 6) (b : BitVec 6) (g : BitVec 4)
  /-- SHR (R161). Scalar logical shift right. -/
  | shr (d : BitVec 6) (a : BitVec 6) (b : BitVec 6) (g : BitVec 4)
  /-- SRA (R161). Scalar arithmetic shift right. -/
  | sra (d : BitVec 6) (a : BitVec 6) (b : BitVec 6) (g : BitVec 4)
  /-- MUL (R161). Scalar multiply, low 64 bits. -/
  | mul (d : BitVec 6) (a : BitVec 6) (b : BitVec 6) (g : BitVec 4)
  /-- MULH (R161). Scalar signed multiply, high 64 bits. -/
  | mulh (d : BitVec 6) (a : BitVec 6) (b : BitVec 6) (g : BitVec 4)
  /-- MULHU (R161). Scalar unsigned multiply, high 64 bits. -/
  | mulhu (d : BitVec 6) (a : BitVec 6) (b : BitVec 6) (g : BitVec 4)
  /-- MAD (R161). Scalar multiply-add into the destination. -/
  | mad (d : BitVec 6) (a : BitVec 6) (b : BitVec 6) (g : BitVec 4)
  /-- MIN (R161). Scalar signed minimum. -/
  | min (d : BitVec 6) (a : BitVec 6) (b : BitVec 6) (g : BitVec 4)
  /-- MAX (R161). Scalar signed maximum. -/
  | max (d : BitVec 6) (a : BitVec 6) (b : BitVec 6) (g : BitVec 4)
  /-- MINU (R161). Scalar unsigned minimum. -/
  | minu (d : BitVec 6) (a : BitVec 6) (b : BitVec 6) (g : BitVec 4)
  /-- MAXU (R161). Scalar unsigned maximum. -/
  | maxu (d : BitVec 6) (a : BitVec 6) (b : BitVec 6) (g : BitVec 4)
  /-- DIV (R162). Scalar signed division, never faulting. -/
  | div (d : BitVec 6) (a : BitVec 6) (b : BitVec 6) (g : BitVec 4)
  /-- DIVU (R162). Scalar unsigned division. -/
  | divu (d : BitVec 6) (a : BitVec 6) (b : BitVec 6) (g : BitVec 4)
  /-- REM (R162). Scalar signed remainder. -/
  | rem (d : BitVec 6) (a : BitVec 6) (b : BitVec 6) (g : BitVec 4)
  /-- REMU (R162). Scalar unsigned remainder. -/
  | remu (d : BitVec 6) (a : BitVec 6) (b : BitVec 6) (g : BitVec 4)
  /-- SEQ (R161). Sets 1 when the scalars are equal. -/
  | seq (d : BitVec 6) (a : BitVec 6) (b : BitVec 6) (g : BitVec 4)
  /-- SLT (R161). Sets 1 when less than, signed. -/
  | slt (d : BitVec 6) (a : BitVec 6) (b : BitVec 6) (g : BitVec 4)
  /-- SLTU (R161). Sets 1 when less than, unsigned. -/
  | sltu (d : BitVec 6) (a : BitVec 6) (b : BitVec 6) (g : BitVec 4)
  /-- SEL (R161). Selects a or b by the destination's old value. -/
  | sel (d : BitVec 6) (a : BitVec 6) (b : BitVec 6) (g : BitVec 4)
  /-- ADDI (R163). Scalar add of a signed 6-bit immediate. -/
  | addi (d : BitVec 6) (a : BitVec 6) (i : BitVec 6) (g : BitVec 4)
  /-- ANDI (R163). Scalar and with a signed 6-bit immediate. -/
  | andi (d : BitVec 6) (a : BitVec 6) (i : BitVec 6) (g : BitVec 4)
  /-- SHLI (R163). Scalar shift left by an immediate. -/
  | shli (d : BitVec 6) (a : BitVec 6) (i : BitVec 6) (g : BitVec 4)
  /-- SHRI (R163). Scalar logical shift right by an immediate. -/
  | shri (d : BitVec 6) (a : BitVec 6) (i : BitVec 6) (g : BitVec 4)
  /-- LI (R164). Loads a sign-extended 14-bit immediate. -/
  | li (d : BitVec 6) (k : BitVec 14) (g : BitVec 4)
  /-- LSI (R164). Shifts the scalar left 14 and inserts an immediate. -/
  | lsi (d : BitVec 6) (k : BitVec 14) (g : BitVec 4)
  /-- CLZ (R165). Scalar count of leading zeros. -/
  | clz (d : BitVec 6) (a : BitVec 6) (g : BitVec 4)
  /-- CTZ (R165). Scalar count of trailing zeros. -/
  | ctz (d : BitVec 6) (a : BitVec 6) (g : BitVec 4)
  /-- POPC (R165). Scalar population count. -/
  | popc (d : BitVec 6) (a : BitVec 6) (g : BitVec 4)
  /-- NOT (R165). Scalar bitwise not. -/
  | not (d : BitVec 6) (a : BitVec 6) (g : BitVec 4)
  /-- NEG (R165). Scalar negate. -/
  | neg (d : BitVec 6) (a : BitVec 6) (g : BitVec 4)
  /-- SEXT8 (R165). Scalar sign-extend from 8 bits. -/
  | sext8 (d : BitVec 6) (a : BitVec 6) (g : BitVec 4)
  /-- SEXT16 (R165). Scalar sign-extend from 16 bits. -/
  | sext16 (d : BitVec 6) (a : BitVec 6) (g : BitVec 4)
  /-- SEXT32 (R165). Scalar sign-extend from 32 bits. -/
  | sext32 (d : BitVec 6) (a : BitVec 6) (g : BitVec 4)
  /-- ZEXT8 (R165). Scalar zero-extend from 8 bits. -/
  | zext8 (d : BitVec 6) (a : BitVec 6) (g : BitVec 4)
  /-- ZEXT16 (R165). Scalar zero-extend from 16 bits. -/
  | zext16 (d : BitVec 6) (a : BitVec 6) (g : BitVec 4)
  /-- ZEXT32 (R165). Scalar zero-extend from 32 bits. -/
  | zext32 (d : BitVec 6) (a : BitVec 6) (g : BitVec 4)
  /-- BSWAP (R165). Scalar byte reversal. -/
  | bswap (d : BitVec 6) (a : BitVec 6) (g : BitVec 4)
  /-- ADD_LANE (R167). Lane add modulo 2^32. -/
  | addLane (d : BitVec 6) (a : BitVec 6) (b : BitVec 6) (g : BitVec 4)
  /-- SUB_LANE (R167). Lane subtract. -/
  | subLane (d : BitVec 6) (a : BitVec 6) (b : BitVec 6) (g : BitVec 4)
  /-- AND_LANE (R167). Lane bitwise and. -/
  | andLane (d : BitVec 6) (a : BitVec 6) (b : BitVec 6) (g : BitVec 4)
  /-- OR_LANE (R167). Lane bitwise or. -/
  | orLane (d : BitVec 6) (a : BitVec 6) (b : BitVec 6) (g : BitVec 4)
  /-- XOR_LANE (R167). Lane bitwise xor. -/
  | xorLane (d : BitVec 6) (a : BitVec 6) (b : BitVec 6) (g : BitVec 4)
  /-- SHL_LANE (R167). Lane shift left. -/
  | shlLane (d : BitVec 6) (a : BitVec 6) (b : BitVec 6) (g : BitVec 4)
  /-- SHR_LANE (R167). Lane logical shift right. -/
  | shrLane (d : BitVec 6) (a : BitVec 6) (b : BitVec 6) (g : BitVec 4)
  /-- SRA_LANE (R167). Lane arithmetic shift right. -/
  | sraLane (d : BitVec 6) (a : BitVec 6) (b : BitVec 6) (g : BitVec 4)
  /-- MUL_LANE (R167). Lane multiply, low 32 bits. -/
  | mulLane (d : BitVec 6) (a : BitVec 6) (b : BitVec 6) (g : BitVec 4)
  /-- MULH_LANE (R167). Lane signed multiply, high 32 bits. -/
  | mulhLane (d : BitVec 6) (a : BitVec 6) (b : BitVec 6) (g : BitVec 4)
  /-- MULHU_LANE (R167). Lane unsigned multiply, high 32 bits. -/
  | mulhuLane (d : BitVec 6) (a : BitVec 6) (b : BitVec 6) (g : BitVec 4)
  /-- MAD_LANE (R167). Lane multiply-add into the destination. -/
  | madLane (d : BitVec 6) (a : BitVec 6) (b : BitVec 6) (g : BitVec 4)
  /-- MIN_LANE (R167). Lane signed minimum. -/
  | minLane (d : BitVec 6) (a : BitVec 6) (b : BitVec 6) (g : BitVec 4)
  /-- MAX_LANE (R167). Lane signed maximum. -/
  | maxLane (d : BitVec 6) (a : BitVec 6) (b : BitVec 6) (g : BitVec 4)
  /-- MINU_LANE (R167). Lane unsigned minimum. -/
  | minuLane (d : BitVec 6) (a : BitVec 6) (b : BitVec 6) (g : BitVec 4)
  /-- MAXU_LANE (R167). Lane unsigned maximum. -/
  | maxuLane (d : BitVec 6) (a : BitVec 6) (b : BitVec 6) (g : BitVec 4)
  /-- ADDI_LANE (R167). Lane add of a signed immediate. -/
  | addiLane (d : BitVec 6) (a : BitVec 6) (i : BitVec 6) (g : BitVec 4)
  /-- ANDI_LANE (R167). Lane and with a signed immediate. -/
  | andiLane (d : BitVec 6) (a : BitVec 6) (i : BitVec 6) (g : BitVec 4)
  /-- SHLI_LANE (R167). Lane shift left by an immediate 0-31. -/
  | shliLane (d : BitVec 6) (a : BitVec 6) (i : BitVec 5) (g : BitVec 4)
  /-- SHRI_LANE (R167). Lane logical shift right by an immediate 0-31. -/
  | shriLane (d : BitVec 6) (a : BitVec 6) (i : BitVec 5) (g : BitVec 4)
  /-- CLZ_LANE (R168). Lane count of leading zeros. -/
  | clzLane (d : BitVec 6) (a : BitVec 6) (g : BitVec 4)
  /-- POPC_LANE (R168). Lane population count. -/
  | popcLane (d : BitVec 6) (a : BitVec 6) (g : BitVec 4)
  /-- NOT_LANE (R168). Lane bitwise not. -/
  | notLane (d : BitVec 6) (a : BitVec 6) (g : BitVec 4)
  /-- NEG_LANE (R168). Lane negate. -/
  | negLane (d : BitVec 6) (a : BitVec 6) (g : BitVec 4)
  /-- ABS (R168). Lane absolute value. -/
  | abs (d : BitVec 6) (a : BitVec 6) (g : BitVec 4)
  /-- SEXT8_LANE (R168). Lane sign-extend from 8 bits. -/
  | sext8Lane (d : BitVec 6) (a : BitVec 6) (g : BitVec 4)
  /-- SEXT16_LANE (R168). Lane sign-extend from 16 bits. -/
  | sext16Lane (d : BitVec 6) (a : BitVec 6) (g : BitVec 4)
  /-- ZEXT8_LANE (R168). Lane zero-extend from 8 bits. -/
  | zext8Lane (d : BitVec 6) (a : BitVec 6) (g : BitVec 4)
  /-- ZEXT16_LANE (R168). Lane zero-extend from 16 bits. -/
  | zext16Lane (d : BitVec 6) (a : BitVec 6) (g : BitVec 4)
  /-- BSWAP_LANE (R168). Lane byte reversal. -/
  | bswapLane (d : BitVec 6) (a : BitVec 6) (g : BitVec 4)
  /-- CMP_EQ (R169). Writes predicate lanes where a equals b. -/
  | cmpEq (d : BitVec 3) (a : BitVec 6) (b : BitVec 6) (g : BitVec 4)
  /-- CMP_LT (R169). Writes predicate lanes where a is less than b, signed. -/
  | cmpLt (d : BitVec 3) (a : BitVec 6) (b : BitVec 6) (g : BitVec 4)
  /-- CMP_LTU (R169). Writes predicate lanes where a is less than b, unsigned. -/
  | cmpLtu (d : BitVec 3) (a : BitVec 6) (b : BitVec 6) (g : BitVec 4)
  /-- CMP_NE (R169). Writes predicate lanes where a differs from b. -/
  | cmpNe (d : BitVec 3) (a : BitVec 6) (b : BitVec 6) (g : BitVec 4)
  /-- FADD (R172). Float add in FP32 or packed FP16/BF16, rounded once. -/
  | fadd (d : BitVec 6) (a : BitVec 6) (b : BitVec 6) (f : BitVec 2) (g : BitVec 4)
  /-- FSUB (R172). Float subtract. -/
  | fsub (d : BitVec 6) (a : BitVec 6) (b : BitVec 6) (f : BitVec 2) (g : BitVec 4)
  /-- FMUL (R172). Float multiply. -/
  | fmul (d : BitVec 6) (a : BitVec 6) (b : BitVec 6) (f : BitVec 2) (g : BitVec 4)
  /-- FFMA (R172). Fused multiply-add into the destination with one rounding. -/
  | ffma (d : BitVec 6) (a : BitVec 6) (b : BitVec 6) (f : BitVec 2) (g : BitVec 4)
  /-- FMIN (R172). Float minimum under R31. -/
  | fmin (d : BitVec 6) (a : BitVec 6) (b : BitVec 6) (f : BitVec 2) (g : BitVec 4)
  /-- FMAX (R172). Float maximum under R31. -/
  | fmax (d : BitVec 6) (a : BitVec 6) (b : BitVec 6) (f : BitVec 2) (g : BitVec 4)
  /-- FCMP (R173). Float comparison under one of eight conditions into a predicate. -/
  | fcmp (c : BitVec 3) (p : BitVec 3) (a : BitVec 6) (b : BitVec 6) (f : BitVec 2) (g : BitVec 4)
  /-- FSQRT (R174). Correctly rounded square root. -/
  | fsqrt (d : BitVec 6) (a : BitVec 6) (f : BitVec 2) (g : BitVec 4)
  /-- FRCP (R174). Correctly rounded reciprocal. -/
  | frcp (d : BitVec 6) (a : BitVec 6) (f : BitVec 2) (g : BitVec 4)
  /-- FRSQ (R174). Correctly rounded reciprocal square root. -/
  | frsq (d : BitVec 6) (a : BitVec 6) (f : BitVec 2) (g : BitVec 4)
  /-- FEXP2 (R174). Correctly rounded base-2 exponential. -/
  | fexp2 (d : BitVec 6) (a : BitVec 6) (f : BitVec 2) (g : BitVec 4)
  /-- FLOG2 (R174). Correctly rounded base-2 logarithm. -/
  | flog2 (d : BitVec 6) (a : BitVec 6) (f : BitVec 2) (g : BitVec 4)
  /-- FSIN (R174). Correctly rounded sine. -/
  | fsin (d : BitVec 6) (a : BitVec 6) (f : BitVec 2) (g : BitVec 4)
  /-- FCOS (R174). Correctly rounded cosine. -/
  | fcos (d : BitVec 6) (a : BitVec 6) (f : BitVec 2) (g : BitVec 4)
  /-- FABS (R174). Clears the sign. -/
  | fabs (d : BitVec 6) (a : BitVec 6) (f : BitVec 2) (g : BitVec 4)
  /-- FNEG (R174). Inverts the sign. -/
  | fneg (d : BitVec 6) (a : BitVec 6) (f : BitVec 2) (g : BitVec 4)
  /-- FFLOOR (R174). Rounds to an integral value toward minus infinity. -/
  | ffloor (d : BitVec 6) (a : BitVec 6) (f : BitVec 2) (g : BitVec 4)
  /-- FCEIL (R174). Rounds to an integral value toward plus infinity. -/
  | fceil (d : BitVec 6) (a : BitVec 6) (f : BitVec 2) (g : BitVec 4)
  /-- FTRUNC (R174). Rounds to an integral value toward zero. -/
  | ftrunc (d : BitVec 6) (a : BitVec 6) (f : BitVec 2) (g : BitVec 4)
  /-- FROUND (R174). Rounds to an integral value in the %fmode mode. -/
  | fround (d : BitVec 6) (a : BitVec 6) (f : BitVec 2) (g : BitVec 4)
  /-- FCLASS (R174). Writes the class mask of each element. -/
  | fclass (d : BitVec 6) (a : BitVec 6) (f : BitVec 2) (g : BitVec 4)
  /-- CVT (R175). Converts lanes by the pair table index in the named rounding mode. -/
  | cvt (d : BitVec 6) (a : BitVec 6) (n : BitVec 6) (r : BitVec 2) (g : BitVec 4)
  /-- XL_GET (R176). Reads the lane chosen per lane by b. -/
  | xlGet (d : BitVec 6) (a : BitVec 6) (b : BitVec 6) (g : BitVec 4)
  /-- XL_SH (R176). Reads a lane shifted by a signed per-lane amount. -/
  | xlSh (d : BitVec 6) (a : BitVec 6) (b : BitVec 6) (g : BitVec 4)
  /-- XL_ROT (R176). Reads a lane rotated by a per-lane amount. -/
  | xlRot (d : BitVec 6) (a : BitVec 6) (b : BitVec 6) (g : BitVec 4)
  /-- XL_XOR (R176). Reads the lane whose number is xored with a per-lane amount. -/
  | xlXor (d : BitVec 6) (a : BitVec 6) (b : BitVec 6) (g : BitVec 4)
  /-- XLI_GET (R176). Reads the lane given by an immediate. -/
  | xliGet (d : BitVec 6) (a : BitVec 6) (i : BitVec 6) (g : BitVec 4)
  /-- XLI_SH (R176). Reads a lane shifted by a signed immediate. -/
  | xliSh (d : BitVec 6) (a : BitVec 6) (i : BitVec 6) (g : BitVec 4)
  /-- XLI_ROT (R176). Reads a lane rotated by an immediate. -/
  | xliRot (d : BitVec 6) (a : BitVec 6) (i : BitVec 6) (g : BitVec 4)
  /-- XLI_XOR (R176). Reads the lane xored with an immediate. -/
  | xliXor (d : BitVec 6) (a : BitVec 6) (i : BitVec 6) (g : BitVec 4)
  /-- RFAL (R177). Copies the lowest active lane's value to a scalar. -/
  | rfal (d : BitVec 6) (a : BitVec 6) (g : BitVec 4)
  /-- BALLOT (R177). Gathers a predicate's active lanes into a scalar mask. -/
  | ballot (d : BitVec 6) (p : BitVec 3) (g : BitVec 4)
  /-- VANY (R177). 1 if any active predicate lane is set. -/
  | vany (d : BitVec 6) (p : BitVec 3) (g : BitVec 4)
  /-- VALL (R177). 1 if every active predicate lane is set. -/
  | vall (d : BitVec 6) (p : BitVec 3) (g : BitVec 4)
  /-- PCOUNT (R177). Counts active set predicate lanes. -/
  | pcount (d : BitVec 6) (p : BitVec 3) (g : BitVec 4)
  /-- MOVS (R177). Broadcasts a scalar's low word to every active lane. -/
  | movs (d : BitVec 6) (a : BitVec 6) (g : BitVec 4)
  /-- MOV (R177). Lane move. -/
  | mov (d : BitVec 6) (a : BitVec 6) (g : BitVec 4)
  /-- LANEID (R177). Writes each lane's number. -/
  | laneid (d : BitVec 6) (g : BitVec 4)
  /-- VREDADD (R177). Exact signed sum of active lanes to a scalar. -/
  | vredadd (d : BitVec 6) (a : BitVec 6) (g : BitVec 4)
  /-- VREDMIN (R177). Signed minimum of active lanes to a scalar. -/
  | vredmin (d : BitVec 6) (a : BitVec 6) (g : BitVec 4)
  /-- VREDMAX (R177). Signed maximum of active lanes to a scalar. -/
  | vredmax (d : BitVec 6) (a : BitVec 6) (g : BitVec 4)
  /-- FREDADD (R178). FP32 sum of active lanes in ascending order, rounding each addition. -/
  | fredadd (d : BitVec 6) (a : BitVec 6) (g : BitVec 4)
  /-- PAND (R170). Predicate and. -/
  | pand (d : BitVec 3) (a : BitVec 3) (b : BitVec 3) (g : BitVec 4)
  /-- POR (R170). Predicate or. -/
  | por (d : BitVec 3) (a : BitVec 3) (b : BitVec 3) (g : BitVec 4)
  /-- PXOR (R170). Predicate xor. -/
  | pxor (d : BitVec 3) (a : BitVec 3) (b : BitVec 3) (g : BitVec 4)
  /-- PANDN (R170). Predicate and-not. -/
  | pandn (d : BitVec 3) (a : BitVec 3) (b : BitVec 3) (g : BitVec 4)
  /-- LD (R285). Contiguous per-lane load from a scalar base. -/
  | ld (d : BitVec 6) (s : BitVec 6) (o : BitVec 6) (z : BitVec 2) (g : BitVec 4)
  /-- ST (R285). Contiguous per-lane store to a scalar base. -/
  | st (d : BitVec 6) (s : BitVec 6) (o : BitVec 6) (z : BitVec 2) (g : BitVec 4)
  /-- LDG (R286). Per-lane 32-bit gather. -/
  | ldg (d : BitVec 6) (a : BitVec 6) (b : BitVec 6) (g : BitVec 4)
  /-- STG (R286). Per-lane 32-bit scatter. -/
  | stg (d : BitVec 6) (a : BitVec 6) (b : BitVec 6) (g : BitVec 4)
  /-- LDG16 (R286). Per-lane 16-bit gather. -/
  | ldg16 (d : BitVec 6) (a : BitVec 6) (b : BitVec 6) (g : BitVec 4)
  /-- STG16 (R286). Per-lane 16-bit scatter. -/
  | stg16 (d : BitVec 6) (a : BitVec 6) (b : BitVec 6) (g : BitVec 4)
  /-- LDS (R287). Scalar load. -/
  | lds (d : BitVec 6) (s : BitVec 6) (o : BitVec 6) (z : BitVec 2) (g : BitVec 4)
  /-- STS (R287). Scalar store. -/
  | sts (d : BitVec 6) (s : BitVec 6) (o : BitVec 6) (z : BitVec 2) (g : BitVec 4)
  /-- LDS_ACQ (R288). 64-bit scalar load with acquire at dom scope. -/
  | ldsAcq (d : BitVec 6) (s : BitVec 6) (o : BitVec 6) (g : BitVec 4)
  /-- STS_REL (R288). 64-bit scalar store with release at dom scope. -/
  | stsRel (d : BitVec 6) (s : BitVec 6) (o : BitVec 6) (g : BitVec 4)
  /-- FENCE_ACQ (R283). Acquire fence at the named scope. -/
  | fenceAcq (s : BitVec 2) (g : BitVec 4)
  /-- FENCE_REL (R283). Release fence at the named scope. -/
  | fenceRel (s : BitVec 2) (g : BitVec 4)
  /-- FENCE_AR (R283). Acquire-release fence at the named scope. -/
  | fenceAr (s : BitVec 2) (g : BitVec 4)
  /-- FENCE_SC (R283). Sequentially consistent fence at the named scope. -/
  | fenceSc (s : BitVec 2) (g : BitVec 4)
  /-- QSYNC (R282). Orders every pair of the agent's plain accesses and atomics, without scope. -/
  | qsync (g : BitVec 4)
  /-- AFENCE (R294). Orders accesses across aliases of the agent. -/
  | afence (g : BitVec 4)
  /-- CCLEAN (R318). Writes dirty data of a range back to memory unit by unit. -/
  | cclean (n : BitVec 6) (a : BitVec 6) (g : BitVec 4)
  /-- CFLUSH (R318). Cleans and invalidates every copy of a range. -/
  | cflush (n : BitVec 6) (a : BitVec 6) (g : BitVec 4)
  /-- CINV (R318). Invalidates a range, discarding dirty data of whole units. -/
  | cinv (n : BitVec 6) (a : BitVec 6) (g : BitVec 4)
  /-- PREFETCH (R318). Requests shared copies or slice fills for up to 64 KiB of a range. -/
  | prefetch (n : BitVec 6) (a : BitVec 6) (g : BitVec 4)
  /-- ATOM_ADD (R327). Atomic add returning the old value. -/
  | atomAdd (d : BitVec 6) (a : BitVec 6) (b : BitVec 6) (g : BitVec 4)
  /-- ATOM_AND (R327). Atomic and returning the old value. -/
  | atomAnd (d : BitVec 6) (a : BitVec 6) (b : BitVec 6) (g : BitVec 4)
  /-- ATOM_OR (R327). Atomic or returning the old value. -/
  | atomOr (d : BitVec 6) (a : BitVec 6) (b : BitVec 6) (g : BitVec 4)
  /-- ATOM_XOR (R327). Atomic xor returning the old value. -/
  | atomXor (d : BitVec 6) (a : BitVec 6) (b : BitVec 6) (g : BitVec 4)
  /-- ATOM_MIN (R327). Atomic signed minimum. -/
  | atomMin (d : BitVec 6) (a : BitVec 6) (b : BitVec 6) (g : BitVec 4)
  /-- ATOM_MAX (R327). Atomic signed maximum. -/
  | atomMax (d : BitVec 6) (a : BitVec 6) (b : BitVec 6) (g : BitVec 4)
  /-- ATOM_MINU (R327). Atomic unsigned minimum. -/
  | atomMinu (d : BitVec 6) (a : BitVec 6) (b : BitVec 6) (g : BitVec 4)
  /-- ATOM_MAXU (R327). Atomic unsigned maximum. -/
  | atomMaxu (d : BitVec 6) (a : BitVec 6) (b : BitVec 6) (g : BitVec 4)
  /-- ATOM_XCHG (R327). Atomic exchange. -/
  | atomXchg (d : BitVec 6) (a : BitVec 6) (b : BitVec 6) (g : BitVec 4)
  /-- ATOM_CAS (R327). Atomic compare-and-swap against the destination's value. -/
  | atomCas (d : BitVec 6) (a : BitVec 6) (b : BitVec 6) (g : BitVec 4)
  /-- ATOM_FADD_F32 (R327). Atomic FP32 add. -/
  | atomFaddF32 (d : BitVec 6) (a : BitVec 6) (b : BitVec 6) (g : BitVec 4)
  /-- ATOM_FADD_BF16X2 (R327). Atomic packed BF16 add. -/
  | atomFaddBf16x2 (d : BitVec 6) (a : BitVec 6) (b : BitVec 6) (g : BitVec 4)
  /-- RED_ADD (R327). Non-returning atomic add. -/
  | redAdd (a : BitVec 6) (b : BitVec 6) (g : BitVec 4)
  /-- RED_AND (R327). Non-returning atomic and. -/
  | redAnd (a : BitVec 6) (b : BitVec 6) (g : BitVec 4)
  /-- RED_OR (R327). Non-returning atomic or. -/
  | redOr (a : BitVec 6) (b : BitVec 6) (g : BitVec 4)
  /-- RED_XOR (R327). Non-returning atomic xor. -/
  | redXor (a : BitVec 6) (b : BitVec 6) (g : BitVec 4)
  /-- RED_MIN (R327). Non-returning atomic signed minimum. -/
  | redMin (a : BitVec 6) (b : BitVec 6) (g : BitVec 4)
  /-- RED_MAX (R327). Non-returning atomic signed maximum. -/
  | redMax (a : BitVec 6) (b : BitVec 6) (g : BitVec 4)
  /-- RED_MINU (R327). Non-returning atomic unsigned minimum. -/
  | redMinu (a : BitVec 6) (b : BitVec 6) (g : BitVec 4)
  /-- RED_MAXU (R327). Non-returning atomic unsigned maximum. -/
  | redMaxu (a : BitVec 6) (b : BitVec 6) (g : BitVec 4)
  /-- RED_XCHG (R327). Non-returning atomic exchange. -/
  | redXchg (a : BitVec 6) (b : BitVec 6) (g : BitVec 4)
  /-- RED_CAS (R327). Non-returning compare-with-zero and store. -/
  | redCas (a : BitVec 6) (b : BitVec 6) (g : BitVec 4)
  /-- RED_FADD_F32 (R327). Non-returning atomic FP32 add. -/
  | redFaddF32 (a : BitVec 6) (b : BitVec 6) (g : BitVec 4)
  /-- RED_FADD_BF16X2 (R327). Non-returning atomic packed BF16 add. -/
  | redFaddBf16x2 (a : BitVec 6) (b : BitVec 6) (g : BitVec 4)
  /-- ARB (R332). Opens an atomic region naming its fallback header. -/
  | arb (o : BitVec 14) (g : BitVec 4)
  /-- FINC (R341). Adds to a gang flag at the flag home. -/
  | finc (x : BitVec 6) (y : BitVec 6) (g : BitVec 4)
  /-- FSET (R341). Sets a gang flag at the flag home. -/
  | fset (x : BitVec 6) (y : BitVec 6) (g : BitVec 4)
  /-- FWAIT (R341). Blocking wait until a flag reaches a threshold. -/
  | fwait (x : BitVec 6) (y : BitVec 6) (g : BitVec 4)
  /-- FREAD (R341). Reads a gang flag with acquire. -/
  | fread (x : BitVec 6) (y : BitVec 6) (g : BitVec 4)
  /-- FLAG_UPDATE (R341). A finc or fset arrives at and is performed by the flag home. -/
  | flagUpdate (id : Nat)
  /-- BAR_INIT (R343). Initialises a barrier object. -/
  | barInit (x : BitVec 6) (y : BitVec 6) (g : BitVec 4)
  /-- BAR_ARRIVE (R343). Arrives at a barrier phase and returns the phase. -/
  | barArrive (x : BitVec 6) (y : BitVec 6) (g : BitVec 4)
  /-- BAR_EXPECT (R343). Adds expected bytes to a barrier's pending count. -/
  | barExpect (x : BitVec 6) (y : BitVec 6) (g : BitVec 4)
  /-- BAR_WAIT (R343). Blocking wait until the barrier phase differs from the given one. -/
  | barWait (x : BitVec 6) (y : BitVec 6) (g : BitVec 4)
  /-- FUT_RES (R346). Resolves a pending future and decrements any registered continuation. -/
  | futRes (x : BitVec 6) (y : BitVec 6) (g : BitVec 4)
  /-- FUT_REG (R346). Registers a continuation card slot on a future. -/
  | futReg (x : BitVec 6) (y : BitVec 6) (g : BitVec 4)
  /-- FUT_FAIL (R346). Fails a pending future. -/
  | futFail (x : BitVec 6) (y : BitVec 6) (g : BitVec 4)
  /-- FUT_GET (R346). Reads a future, optionally waiting until it is not pending. -/
  | futGet (x : BitVec 6) (y : BitVec 6) (w : BitVec 1) (g : BitVec 4)
  /-- LDT (R207). Issues a copy of a tensor box into the dense scratchpad side. -/
  | ldt (x : BitVec 6) (y : BitVec 6) (z : BitVec 6) (g : BitVec 4)
  /-- STT (R207). Issues a copy of the dense side into a tensor box. -/
  | stt (x : BitVec 6) (y : BitVec 6) (z : BitVec 6) (g : BitVec 4)
  /-- COPY (R209). Issues a linear copy of LEN bytes. -/
  | copy (x : BitVec 6) (y : BitVec 6) (z : BitVec 6) (g : BitVec 4)
  /-- COPY_RESUME (R214). Issues the remainder of a faulted copy from its fault record. -/
  | copyResume (x : BitVec 6) (g : BitVec 4)
  /-- COPY_CK (R216). Issues a linear copy with a running checksum. -/
  | copyCk (x : BitVec 6) (y : BitVec 6) (z : BitVec 6) (g : BitVec 4)
  /-- COPY_CKV (R216). Issues a checksummed copy compared with an expected value. -/
  | copyCkv (x : BitVec 6) (y : BitVec 6) (z : BitVec 6) (g : BitVec 4)
  /-- COPY_RED (R217). Issues an element-wise reduction into memory, including the BFX phases. -/
  | copyRed (x : BitVec 6) (y : BitVec 6) (z : BitVec 6) (g : BitVec 4)
  /-- COPY_MC (R219). Issues a multicast copy to the gang scratchpads named by a mask. -/
  | copyMc (x : BitVec 6) (y : BitVec 6) (z : BitVec 6) (g : BitVec 4)
  /-- TREC (R208). Checks a tensor record and box and writes their byte count. -/
  | trec (d : BitVec 6) (r : BitVec 6) (b : BitVec 6) (g : BitVec 4)
  /-- COPY_COMPLETION (R204). A copy command has performed every byte and signals its completion object and tokens. -/
  | copyCompletion (id : Nat)
  /-- COPY_ELEMENT_FAULT (R211). A copy element cannot be completed; the command stops and writes its fault record. -/
  | copyElementFault (id : Nat)
  /-- DEFERRED_FAULT_DELIVERY (R212). A recorded copy fault or other deferred precise fault is taken at a delivery point. -/
  | deferredFaultDelivery (core ctx eng : Nat)
  /-- RCLAIM (R189). Claims the next free slot of a tile-class ring. -/
  | rclaim (x : BitVec 6) (n : BitVec 6) (g : BitVec 4)
  /-- RFILL (R189). Marks a filling slot FULL as a release. -/
  | rfill (x : BitVec 6) (n : BitVec 6) (g : BitVec 4)
  /-- RWAITF (R191). Blocking wait for the next slot in order to be FULL, then takes it. -/
  | rwaitf (x : BitVec 6) (n : BitVec 6) (g : BitVec 4)
  /-- RWAITE (R189). Blocking wait until the ring has a free slot. -/
  | rwaite (n : BitVec 6) (g : BitVec 4)
  /-- RFREE (R191). Frees a draining slot and advances the head over freed slots. -/
  | rfree (x : BitVec 6) (n : BitVec 6) (g : BitVec 4)
  /-- RBIND (R193). Binds a VE ring-stream register to a ring. -/
  | rbind (k : BitVec 6) (a : BitVec 6) (g : BitVec 4)
  /-- RPUSH (R195). Sends bytes to up to 16 rings on this or other cores. -/
  | rpush (s : BitVec 6) (p : BitVec 6) (g : BitVec 4)
  /-- RINIT (R192). Claims, replaces or yields a ring from a control block. -/
  | rinit (a : BitVec 6) (n : BitVec 6) (g : BitVec 4)
  /-- RPUSH_DELIVERY_ARRIVAL (R196). A delivery arrives at its target ring and is checked, or dropped. -/
  | rpushDeliveryArrival (id : Nat)
  /-- RPUSH_DELIVERY_ACCEPT (R196). An accepted delivery finds room and is written into the ring slot. -/
  | rpushDeliveryAccept (id : Nat)
  /-- RPUSH_COMPLETION (R197). Every target accepted or dropped; STATUS written, tokens pushed, FOU trap owed. -/
  | rpushCompletion (id : Nat)
  /-- RING_ELEMENT_DELIVERY (R194). An element pushed through ex0 or ex1 reaches another core's ring and is accepted or dropped. -/
  | ringElementDelivery (id : Nat)
  /-- MMA (R235). Algebra matrix multiply-accumulate into an accumulator tile. -/
  | mma (m : BitVec 3) (a : BitVec 3) (e : BitVec 1) (c : BitVec 1) (s : BitVec 4) (z : BitVec 1) (b : BitVec 1) (t : BitVec 4) (g : BitVec 4)
  /-- MMA_P24 (R236). Pruned 2-of-4 multiply-accumulate. -/
  | mmaP24 (m : BitVec 3) (a : BitVec 3) (e : BitVec 1) (c : BitVec 1) (s : BitVec 4) (z : BitVec 1) (b : BitVec 1) (t : BitVec 4) (g : BitVec 4)
  /-- MMAR (R237). Multiply-accumulate and read out into the following shape. -/
  | mmar (m : BitVec 3) (a : BitVec 3) (e : BitVec 1) (c : BitVec 1) (s : BitVec 4) (z : BitVec 1) (b : BitVec 1) (t : BitVec 4) (g : BitVec 4)
  /-- MMAR_P24 (R237). Pruned multiply-accumulate with readout. -/
  | mmarP24 (m : BitVec 3) (a : BitVec 3) (e : BitVec 1) (c : BitVec 1) (s : BitVec 4) (z : BitVec 1) (b : BitVec 1) (t : BitVec 4) (g : BitVec 4)
  /-- SHP (R230). Loads a shape record into a shape register. -/
  | shp (n : BitVec 6) (y : BitVec 6) (g : BitVec 4)
  /-- ACCLD (R227). Loads an accord table image. -/
  | accld (n : BitVec 6) (y : BitVec 6) (g : BitVec 4)
  /-- ACCZERO (R232). Zeroes an accumulator tile. -/
  | acczero (n : BitVec 6) (g : BitVec 4)
  /-- ACCRD (R240). Reads an accumulator tile out into a shape, optionally scaled. -/
  | accrd (i : BitVec 1) (a : BitVec 3) (d : BitVec 4) (c : BitVec 1) (r : BitVec 5) (g : BitVec 4)
  /-- AMUL (R242). Algebra multiply on lanes under a scalar-held table. -/
  | amul (d : BitVec 6) (a : BitVec 6) (b : BitVec 6) (g : BitVec 4)
  /-- ACONJ (R242). Algebra conjugate on lanes. -/
  | aconj (d : BitVec 6) (a : BitVec 6) (g : BitVec 4)
  /-- ANORM (R242). Algebra norm on lanes. -/
  | anorm (d : BitVec 6) (a : BitVec 6) (g : BitVec 4)
  /-- COMPRESS (R243). Keeps the two largest of every four lanes and writes keep masks. -/
  | compress (d : BitVec 6) (a : BitVec 6) (f : BitVec 3) (g : BitVec 4)
  /-- ACCUMULATOR_RETIREMENT (R235). An array instruction's accumulators hold their values; it retires and pushes tokens. -/
  | accumulatorRetirement (core ctx : Nat)
  /-- READOUT_COMPLETION (R237). The last destination byte of mmar, accrd or tmard is performed and tokens are pushed. -/
  | readoutCompletion (id : Nat)
  /-- WLOAD (R251). Writes page images into a page of a run of weight macros. -/
  | wload (p : BitVec 6) (a : BitVec 6) (c : BitVec 6) (g : BitVec 4)
  /-- TMA (R254). Applies an INT8 activation tile to a chain of macro pages into column accumulators. -/
  | tma (p : BitVec 3) (n : BitVec 3) (z : BitVec 1) (u : BitVec 1) (s : BitVec 4) (g : BitVec 4)
  /-- TMARD (R257). Reads column accumulators out with activation and weight scales. -/
  | tmard (o : BitVec 2) (s : BitVec 2) (w : BitVec 5) (a : BitVec 5) (d : BitVec 4) (g : BitVec 4)
  /-- WSTAT (R258). Returns page format tags or column-accumulator ownership status. -/
  | wstat (d : BitVec 6) (s : BitVec 6) (g : BitVec 4)
  /-- WLOAD_RETIREMENT (R251). Every weight of a wload is written; it retires and pushes tokens. -/
  | wloadRetirement (core ctx : Nat)
  /-- COLUMN_ACCUMULATOR_RETIREMENT (R254). A tma's column accumulators hold their values; it retires and pushes tokens. -/
  | columnAccumulatorRetirement (core ctx : Nat)
  /-- ROUTE (R266). Assigns row-choices to ports under capacity and sends deliveries, claiming a reassembly entry. -/
  | route (v : BitVec 6) (y : BitVec 6) (g : BitVec 4)
  /-- RRET (R268). Returns data for a delivered row-choice to its origin. -/
  | rret (s : BitVec 6) (h : BitVec 6) (g : BitVec 4)
  /-- RASM (R273). Blocking wait for a reassembly entry to be DONE, then takes its status and frees it. -/
  | rasm (d : BitVec 6) (n : BitVec 6) (g : BitVec 4)
  /-- RPORT (R263). Registers a port from a descriptor. -/
  | rport (y : BitVec 6) (g : BitVec 4)
  /-- RPORT_KEY (R263). Loads the gang keyway from an image. -/
  | rportKey (y : BitVec 6) (g : BitVec 4)
  /-- RPORT_REL (R263). Unregisters a port registered from this core. -/
  | rportRel (y : BitVec 6) (g : BitVec 4)
  /-- RPORT_RETIREMENT (R263). Every core's table holds the new port or keyway; the rport form retires. -/
  | rportRetirement (core ctx eng : Nat)
  /-- ROUTE_RETURN_ARRIVAL (R269). A return arrives at the origin's reassembly entry and is accepted or discarded. -/
  | routeReturnArrival (id : Nat)
  /-- ROUTE_DEADLINE (R272). The route deadline takes effect; outstanding choices drop and the entry completes. -/
  | routeDeadline (core entry : Nat)
  /-- ROUTE_TIMEOUT_NOTIFICATION (R272). The route-timeout asynchronous exception is taken by the issuing stream. -/
  | routeTimeoutNotification (core ctx eng : Nat)
  /-- RRET_COMPLETION (R268). The origin accepted or discarded the return; rret's tokens are pushed. -/
  | rretCompletion (id : Nat)
  /-- FETCHWG (R149). Asks the distributor to withdraw the next unplaced workgroup into a mailbox. -/
  | fetchwg (x : BitVec 6) (g : BitVec 4)
  /-- XACQ (R147). Claims an extended register block for the wave, or queues for one. -/
  | xacq (g : BitVec 4)
  /-- XREL (R147). Returns the wave's extended block to the pool. -/
  | xrel (g : BitVec 4)
  /-- GBAR (R151). Grid-wide barrier at pkg scope. -/
  | gbar (g : BitVec 4)
  /-- WBAR (R150). Workgroup barrier. -/
  | wbar (g : BitVec 4)
  /-- SAMPLE (R155). Bilinear image sample from a descriptor. -/
  | sample (d : BitVec 6) (c : BitVec 6) (i : BitVec 6) (g : BitVec 4)
  /-- WAITL (R348). Blocking wait until a location's value differs. -/
  | waitl (v : BitVec 6) (a : BitVec 6) (z : BitVec 2) (g : BitVec 4)
  /-- WAITL_TIMEOUT (R348). A waitl ends unchanged after 1,500,000 tile cycles. -/
  | waitlTimeout (who : Agent)
  /-- WAITL_WATCH_LOST (R348). A waitl ends unchanged because its copy or watch was lost. -/
  | waitlWatchLost (who : Agent)
  /-- ADD_LANE_SHORT (R52). Short family-00 lane add. -/
  | addLaneShort (d : BitVec 4) (a : BitVec 4) (s : BitVec 1)
  /-- SUB_LANE_SHORT (R52). Short lane subtract. -/
  | subLaneShort (d : BitVec 4) (a : BitVec 4) (s : BitVec 1)
  /-- AND_LANE_SHORT (R52). Short lane and. -/
  | andLaneShort (d : BitVec 4) (a : BitVec 4) (s : BitVec 1)
  /-- OR_LANE_SHORT (R52). Short lane or. -/
  | orLaneShort (d : BitVec 4) (a : BitVec 4) (s : BitVec 1)
  /-- XOR_LANE_SHORT (R52). Short lane xor. -/
  | xorLaneShort (d : BitVec 4) (a : BitVec 4) (s : BitVec 1)
  /-- SHL_LANE_SHORT (R52). Short lane shift left. -/
  | shlLaneShort (d : BitVec 4) (a : BitVec 4) (s : BitVec 1)
  /-- SHR_LANE_SHORT (R52). Short lane logical shift right. -/
  | shrLaneShort (d : BitVec 4) (a : BitVec 4) (s : BitVec 1)
  /-- SRA_LANE_SHORT (R52). Short lane arithmetic shift right. -/
  | sraLaneShort (d : BitVec 4) (a : BitVec 4) (s : BitVec 1)
  /-- MUL_LANE_SHORT (R52). Short lane multiply. -/
  | mulLaneShort (d : BitVec 4) (a : BitVec 4) (s : BitVec 1)
  /-- MIN_LANE_SHORT (R52). Short lane signed minimum. -/
  | minLaneShort (d : BitVec 4) (a : BitVec 4) (s : BitVec 1)
  /-- MAX_LANE_SHORT (R52). Short lane signed maximum. -/
  | maxLaneShort (d : BitVec 4) (a : BitVec 4) (s : BitVec 1)
  /-- MINU_LANE_SHORT (R52). Short lane unsigned minimum. -/
  | minuLaneShort (d : BitVec 4) (a : BitVec 4) (s : BitVec 1)
  /-- MAXU_LANE_SHORT (R52). Short lane unsigned maximum. -/
  | maxuLaneShort (d : BitVec 4) (a : BitVec 4) (s : BitVec 1)
  /-- FADD_F32_SHORT (R52). Short FP32 add. -/
  | faddF32Short (d : BitVec 4) (a : BitVec 4) (s : BitVec 1)
  /-- FSUB_F32_SHORT (R52). Short FP32 subtract. -/
  | fsubF32Short (d : BitVec 4) (a : BitVec 4) (s : BitVec 1)
  /-- FMUL_F32_SHORT (R52). Short FP32 multiply. -/
  | fmulF32Short (d : BitVec 4) (a : BitVec 4) (s : BitVec 1)
  /-- FFMA_F32_SHORT (R52). Short FP32 fused multiply-add. -/
  | ffmaF32Short (d : BitVec 4) (a : BitVec 4) (s : BitVec 1)
  /-- FMIN_F32_SHORT (R52). Short FP32 minimum. -/
  | fminF32Short (d : BitVec 4) (a : BitVec 4) (s : BitVec 1)
  /-- FMAX_F32_SHORT (R52). Short FP32 maximum. -/
  | fmaxF32Short (d : BitVec 4) (a : BitVec 4) (s : BitVec 1)
  /-- FADD_F16_SHORT (R52). Short packed FP16 add. -/
  | faddF16Short (d : BitVec 4) (a : BitVec 4) (s : BitVec 1)
  /-- FMUL_F16_SHORT (R52). Short packed FP16 multiply. -/
  | fmulF16Short (d : BitVec 4) (a : BitVec 4) (s : BitVec 1)
  /-- FFMA_F16_SHORT (R52). Short packed FP16 fused multiply-add. -/
  | ffmaF16Short (d : BitVec 4) (a : BitVec 4) (s : BitVec 1)
  /-- FADD_BF16_SHORT (R52). Short packed BF16 add. -/
  | faddBf16Short (d : BitVec 4) (a : BitVec 4) (s : BitVec 1)
  /-- FMUL_BF16_SHORT (R52). Short packed BF16 multiply. -/
  | fmulBf16Short (d : BitVec 4) (a : BitVec 4) (s : BitVec 1)
  /-- FFMA_BF16_SHORT (R52). Short packed BF16 fused multiply-add. -/
  | ffmaBf16Short (d : BitVec 4) (a : BitVec 4) (s : BitVec 1)
  /-- MOV_SHORT (R52). Short lane move. -/
  | movShort (d : BitVec 4) (a : BitVec 4)
  /-- NEG_LANE_SHORT (R52). Short lane negate. -/
  | negLaneShort (d : BitVec 4) (a : BitVec 4)
  /-- NOT_LANE_SHORT (R52). Short lane not. -/
  | notLaneShort (d : BitVec 4) (a : BitVec 4)
  /-- ABS_SHORT (R52). Short lane absolute value. -/
  | absShort (d : BitVec 4) (a : BitVec 4)
  /-- FNEG_F32_SHORT (R52). Short FP32 negate. -/
  | fnegF32Short (d : BitVec 4) (a : BitVec 4)
  /-- FABS_F32_SHORT (R52). Short FP32 absolute value. -/
  | fabsF32Short (d : BitVec 4) (a : BitVec 4)
  /-- ADD_SHORT (R53). Short scalar add. -/
  | addShort (d : BitVec 4) (x : BitVec 6)
  /-- SUB_SHORT (R53). Short scalar subtract. -/
  | subShort (d : BitVec 4) (x : BitVec 6)
  /-- AND_SHORT (R53). Short scalar and. -/
  | andShort (d : BitVec 4) (x : BitVec 6)
  /-- OR_SHORT (R53). Short scalar or. -/
  | orShort (d : BitVec 4) (x : BitVec 6)
  /-- XOR_SHORT (R53). Short scalar xor. -/
  | xorShort (d : BitVec 4) (x : BitVec 6)
  /-- SHL_SHORT (R53). Short scalar shift left. -/
  | shlShort (d : BitVec 4) (x : BitVec 6)
  /-- SHR_SHORT (R53). Short scalar logical shift right. -/
  | shrShort (d : BitVec 4) (x : BitVec 6)
  /-- SRA_SHORT (R53). Short scalar arithmetic shift right. -/
  | sraShort (d : BitVec 4) (x : BitVec 6)
  /-- MV (R53). Short scalar move, equal to addi with 0. -/
  | mv (d : BitVec 4) (x : BitVec 6)
  /-- ADDI_SHORT (R53). Short scalar add immediate. -/
  | addiShort (d : BitVec 4) (i : BitVec 6)
  /-- LI_SHORT (R53). Short load of a sign-extended 6-bit immediate. -/
  | liShort (d : BitVec 4) (i : BitVec 6)
  /-- SHLI_SHORT (R53). Short scalar shift left immediate. -/
  | shliShort (d : BitVec 4) (i : BitVec 6)
  /-- SHRI_SHORT (R53). Short scalar shift right immediate. -/
  | shriShort (d : BitVec 4) (i : BitVec 6)
  /-- ANDI_SHORT (R53). Short scalar and immediate. -/
  | andiShort (d : BitVec 4) (i : BitVec 6)
  /-- NEG_SHORT (R53). Short scalar negate. -/
  | negShort (d : BitVec 4) (x : BitVec 6)
  /-- NOT_SHORT (R53). Short scalar not. -/
  | notShort (d : BitVec 4) (x : BitVec 6)
  /-- NOP_SHORT (R54). Short nop carrying token bits. -/
  | nopShort (g : BitVec 4)
  /-- YIELD_SHORT (R54). Short yield. -/
  | yieldShort
  /-- STAMP (R101). Arms the next ME instruction to issue at %sbase + S. -/
  | stamp (s : BitVec 12)
  /-- AMOD (R55). Gives ordering, scope and placement to the following atomic or fence. -/
  | amod (c : BitVec 1) (p : BitVec 2) (s : BitVec 2) (o : BitVec 2)
  /-- STAMPED_ISSUE (R101). The cycle counter reaches an armed stamp's target and the instruction issues or takes schedule-miss. -/
  | stampedIssue (core ctx : Nat)
  /-- STALL_RELEASE (R80). A stream stalled at issue or retirement finds its tokens, queue entries or ring room and proceeds. -/
  | stallRelease (core ctx eng : Nat)
  /-- BLOCKING_WAIT_END (R92). A blocking wait's condition holds and the stopped stream or thread continues. -/
  | blockingWaitEnd (who : Agent)
  /-- PENDING_PUSH_DRAIN (R81). Space appears in a full FIFO and a pending completion push is made. -/
  | pendingPushDrain (core ctx eng : Nat)
  /-- HOLD_REGION_EXPIRY (R95). The cycle counter reaches an open hold region's end and the region closes. -/
  | holdRegionExpiry (core ctx eng : Nat)
  /-- HOLD_OVERRUN (R95). The hold-overrun trap is taken at the stream's next instruction boundary. -/
  | holdOverrun (core ctx eng : Nat)
  /-- DSP_SUBMIT_SV (R106). A card address written to the supervisor submit port is checked, admitted or queued. -/
  | dspSubmitSv (addr : BitVec 64)
  /-- DSP_SUBMIT_SI (R108). A card address written to the safety island submit port is checked, admitted or queued. -/
  | dspSubmitSi (addr : BitVec 64)
  /-- DSP_WITHDRAW (R114). Ends the job in a slot at once and reclaims all it holds. -/
  | dspWithdraw (value : BitVec 64)
  /-- DSP_TIME_SET (R109). Steps package time forward, or is refused. -/
  | dspTimeSet (value : BitVec 64)
  /-- DSP_TPAIR_NS_READ (R99). Returns the latest time pair's time and latches its count for the reading agent. -/
  | dspTpairNsRead (agent : Nat)
  /-- TIME_PAIR_CAPTURE (R99). At each multiple of 1000 ns the hub captures package time and the cycle counter. -/
  | timePairCapture
  /-- PTP_DISCIPLINE (R97). Timing messages on the selected Ethernet port adjust the rate of package time. -/
  | ptpDiscipline (rate : Nat)
  /-- CARD_QUEUE_SCAN (R111). Every 50 µs queued cards move from the memory card queue into free slots. -/
  | cardQueueScan
  /-- JOB_RELEASE (R112). A card's release time is reached and an instance is released or held. -/
  | jobRelease (slot : Nat)
  /-- DISPATCHER_EVALUATION (R115). The dispatcher evaluates an event and places, pre-empts or evicts jobs. -/
  | dispatcherEvaluation
  /-- EVICTION_SAVE_COMPLETE (R120). A victim's state is saved on every core; its slot becomes EVICTED. -/
  | evictionSaveComplete (slot : Nat)
  /-- HINGE_FALLBACK (R122). A stream not at a hinge HINGE_BOUND ns after the decision is stopped and saved in full. -/
  | hingeFallback (core ctx eng : Nat)
  /-- JOB_RESTORE (R120). An evicted job's state is restored and its streams may issue again. -/
  | jobRestore (slot : Nat)
  /-- DEADLINE_MISS (R128). Package time reaches an unfinished instance's deadline; a record is written and MISS applies. -/
  | deadlineMiss (slot : Nat)
  /-- DEADLINE_MISS_EXCEPTION (R130). The deadline-miss exception is taken by a stream or thread at a boundary. -/
  | deadlineMissException (who : Agent)
  /-- REGION_CLEAR_DONE (R183). A reclaimed scratchpad region has been cleared to zero. -/
  | regionClearDone (id : Nat)
  /-- PAGE_CLEAR_DONE (R248). A reclaimed weight page has been cleared to T2 zero. -/
  | pageClearDone (id : Nat)
  /-- WORKGROUP_PLACEMENT (R138). The distributor places the next workgroup on a core with room. -/
  | workgroupPlacement (slot : Nat)
  /-- KERNEL_CLASSIFICATION (R138). 64 µs after a kernel's first wave issues it is classified compute- or memory-bound. -/
  | kernelClassification (slot : Nat)
  /-- FETCHWG_ANSWER (R149). The distributor withdraws a workgroup, or answers EMPTY, into the mailbox. -/
  | fetchwgAnswer (id : Nat)
  /-- GETS (R303). A shared-read request is served at the home. -/
  | gets (id : Nat)
  /-- GETM (R303). A request for write ownership is served at the home. -/
  | getm (id : Nat)
  /-- UPG (R303). An upgrade request from a holder is served at the home. -/
  | upg (id : Nat)
  /-- PUTS (R303). A shared copy's eviction notice is handled at the home. -/
  | puts (id : Nat)
  /-- PUTM (R303). A modified copy's eviction with data is handled at the home. -/
  | putm (id : Nat)
  /-- PUTO (R303). An owned copy's eviction with data is handled at the home. -/
  | puto (id : Nat)
  /-- ATOM_FAR (R305). A far atomic is performed at the home's ALU and answered. -/
  | atomFar (id : Nat)
  /-- HOME_READ (R305). A non-caching agent's read is performed as a home operation. -/
  | homeRead (id : Nat)
  /-- HOME_WRITE (R305). A non-caching agent's write is performed as a home operation. -/
  | homeWrite (id : Nat)
  /-- RECALLED_DATA (R305). An owner's data recalled by a home operation arrives at the home. -/
  | recalledData (id : Nat)
  /-- INV (R302). An invalidation is handled by an agent's cache. -/
  | inv (id : Nat)
  /-- FWD_GETS (R302). A forwarded shared request is served by the owner. -/
  | fwdGets (id : Nat)
  /-- FWD_GETM (R302). A forwarded ownership request is served by the owner. -/
  | fwdGetm (id : Nat)
  /-- DATA (R302). Data from the home or an owner arrives at the requester. -/
  | data (id : Nat)
  /-- GRANT (R302). A grant of ownership without data arrives at the requester. -/
  | grant (id : Nat)
  /-- PUT_ACK (R302). The home's acknowledgement of an eviction arrives. -/
  | putAck (id : Nat)
  /-- NACK_MOVED (R316). A request to a migrated unit is re-sent to its NEW address. -/
  | nackMoved (id : Nat)
  /-- ATOM_RESP (R330). A far atomic's answer arrives at its issuer. -/
  | atomResp (id : Nat)
  /-- INV_ACK (R302). An invalidation acknowledgement reaches the requester. -/
  | invAck (id : Nat)
  /-- PROBE_MISS (R308). A probe-miss answer reaches the requester. -/
  | probeMiss (id : Nat)
  /-- SLICE_FILL (R310). An external-memory fill arrives and merges into a slice sector. -/
  | sliceFill (id : Nat)
  /-- KOLTE_LINK_FAILURE (R324). A Kolte link fails or the peer resets; its units are poisoned and copies end. -/
  | kolteLinkFailure (peer : Nat)
  /-- MIGRATION_START (R315). Writing COPY to a migration entry records the cut at every home. -/
  | migrationStart (entry : Nat)
  /-- MIGRATION_UNIT_COPY (R315). The migration engine takes one OLD unit and writes it to NEW. -/
  | migrationUnitCopy (entry : Nat)
  /-- TRANSLATION_WALK (R358). A page walk completes, installing a translation or raising a translation fault. -/
  | translationWalk (who : Agent) (va : BitVec 64)
  /-- XLT_INV_PAGE (R359). Invalidation command kind 0: pages containing xlt_inv_va in one partition. -/
  | xltInvPage (value : BitVec 64)
  /-- XLT_INV_PARTITION (R359). Invalidation command kind 1: all of one partition. -/
  | xltInvPartition (value : BitVec 64)
  /-- XLT_INV_ALL (R359). Invalidation command kind 2: all partitions. -/
  | xltInvAll (value : BitVec 64)
  /-- XLT_INV_DONE (R360). All named entries are dropped and prior walks ended; BUSY clears. -/
  | xltInvDone
  /-- SECTOR_REQUEST (R366). A sector request of a partition arrives at a controller and is admitted or held. -/
  | sectorRequest (id : Nat)
  /-- REGULATOR_WINDOW_START (R366). A partition's window starts; counts reset, held requests admitted and pending pairs take effect. -/
  | regulatorWindowStart (partition : Nat)
  /-- BUDGET_OVERRUN_EXCEPTION (R367). The budget-overrun exception is taken by a live stream or thread at a boundary. -/
  | budgetOverrunException (who : Agent)
  /-- ESC_CMD_RESUME (R381). ACTION 0: resumes an escalated stream as by eret of its trap record. -/
  | escCmdResume (value : BitVec 64)
  /-- ESC_CMD_END (R381). ACTION 1: ends an escalated stream as by rdv or exit. -/
  | escCmdEnd (value : BitVec 64)
  /-- ESC_FREEZE_TILE (R381). Writing esc_freeze_tile freezes or unfreezes tile cores. -/
  | escFreezeTile (value : BitVec 64)
  /-- ESC_FREEZE_VIS (R381). Writing esc_freeze_vis freezes or unfreezes vision cores. -/
  | escFreezeVis (value : BitVec 64)
  /-- FREEZE_COMPLETE (R381). A frozen core's engines have stopped; its esc_frozen bit sets. -/
  | freezeComplete (core : Nat)
  /-- SI_CMD_RESTART (R392). A write to si_cmd requests a domain restart and is queued or discarded. -/
  | siCmdRestart (value : BitVec 64)
  /-- DOMAIN_RESTART_START (R392). The island begins a queued restart: isolation, reclaim and job withdrawal. -/
  | domainRestartStart
  /-- DOMAIN_RESTART_DONE (R392). The domain has been reset and self-tested and rejoins. -/
  | domainRestartDone
  /-- SI_PLIMIT_WRITE (R394). Sets the package power limit and derives the tile-core cap and hub allowance. -/
  | siPlimitWrite (value : BitVec 64)
  /-- SI_ATTEST_WRITE (R390). Points the island at an attestation request. -/
  | siAttestWrite (value : BitVec 64)
  /-- ATTESTATION_REPORT (R390). The island writes the signed report and sets the request's completion byte. -/
  | attestationReport
  /-- SI_ERRCLR (R385). Writing ERRCLR deasserts SI_ERR. -/
  | siErrclr (value : BitVec 64)
  /-- LOCKSTEP_MISMATCH (R385). The island cores disagree; they stop, SI_ERR asserts and the island restarts. -/
  | lockstepMismatch
  /-- ISLAND_RESTART_DONE (R385). The island completes its restart from ROM. -/
  | islandRestartDone
  /-- RESET_N_RELEASE (R391). Release of RESET_N starts secure boot and bring-up. -/
  | resetNRelease
  /-- BRINGUP_STAGE_DONE (R391). A bring-up stage completes and the next begins, or READY is set, or ERROR stops it. -/
  | bringupStageDone (ok : Bool)
  /-- THERMTRIP (R393). 125 °C on any sensor asserts THERMTRIP and holds the domains in reset. -/
  | thermtrip
  /-- MONITOR_CROSSING (R393). A monitor reading crosses a non-zero limit and interrupts island and supervisor. -/
  | monitorCrossing (monitor : Nat) (reading : BitVec 32)
  /-- CORRECTABLE_ERROR (R371). A correctable SRAM or memory error is corrected and counted. -/
  | correctableError (unit : Nat)
  /-- UNCORRECTABLE_ERROR (R371). An uncorrectable error poisons its granule. -/
  | uncorrectableError (id : Nat)
  /-- INGEST_FRAME (R396). A camera or 1722 frame is stashed into a buffer and announced by a descriptor, or dropped. -/
  | ingestFrame (id : Nat)
  /-- REGISTER_WRITE (R382). A supervisor or island write to a control register with no behaviour of its own. -/
  | registerWrite (addr value : BitVec 64)
  /-- POWER_CYCLE (R393). Power is removed from the part, taking every domain, the island and the THERMTRIP hold down until the next power-on and RESET_N release. -/
  | powerCycle
  /-- DOMAIN_SELF_CHECK_FAILURE (R392). A reset domain's self-check fails and the safety island starts a restart of that domain on its own initiative. -/
  | domainSelfCheckFailure (domain : Nat)
  /-- INGEST_STREAM_ENABLE (R396). Writing EN of an ingest stream from 0 to 1 checks its configuration and starts the stream, setting RUNNING or CFGERR. -/
  | ingestStreamEnable (stream : Nat)
deriving DecidableEq, Repr

end Sys2Proof
end

