-- ==== Sys2Proof/Machine/State.lean ====
section
/-! DEFINITION. The state of the part as plain data, the reasons a step stops, and the state after reset. Registers and
memories are tables (Machine/Tab.lean); the key of each table stands with its field. -/

namespace Sys2Proof.Machine

/-- Key of an engine stream: engines 0 to 4 are CE, LE, ME, VE, SE (R71). -/
def streamKey (core ctx eng : Nat) : Nat := core * 20 + ctx * 5 + eng

/-- Key of a wave: vision core `64 + core`, slot 0 to 47 (R134). -/
def waveKey (core slot : Nat) : Nat := 2048 + core * 48 + slot

/-- Key of a tile stream context. -/
def ctxKey (core ctx : Nat) : Nat := core * 4 + ctx

/-- What has become of a stream or thread: no job, running, after halt (R93), after rdv (R94), exited (R140), or stopped
by an escalation (R380). -/
inductive Life where
  | off | live | halted | arrived | exited | escalated
deriving DecidableEq, Repr

/-- What a stalled stream waits for (R80, R84, R194, R199, R216). `fifo` is an index of R402's order. -/
inductive Need where
  | tokens (fifo count : Nat)
  | tokenRoom (fifo : Nat)
  | entries (queue count : Nat)
  | queueRoom (queue : Nat)
  | elements (ring count : Nat)
  | elementRoom (ring : Nat)
  | register (n : Nat)
  | copySlot
  | recordRoom
  | stamp (target : Nat)
  | remote (k : Nat)
deriving DecidableEq, Repr

/-- A blocking wait in progress with the operands read at its issue (R43, R92); `rdv` is the wait inside rdv (R94). -/
inductive Wait where
  | cls (k : Nat) (v : DWord)
  | barWait (addr : Nat) (phase : Bool)
  | fwait (flag : Nat) (v : DWord)
  | rwaitf (ring d : Nat)
  | rwaite (ring : Nat)
  | rasm (entry d : Nat)
  | waitl (addr size : Nat) (v : Nat) (start : Nat)
  | futGet (addr d : Nat)
  | xacq
  | wbar (phase : Nat)
  | gbar (phase : Nat)
  | rdv
deriving DecidableEq, Repr

/-- Pushes owed at retirement (R80): FIFO indices, a queue entry, ring-stream elements (register 2 or 3 and lane
values), and the trap to take once they are made: cause, information and address of the instruction. -/
structure Retire where
  fifos : List Nat := []
  queues : List (Nat × DWord) := []
  elems : List (Nat × List Word) := []
  trap : Option (Nat × DWord × DWord) := none
  /-- Address of the instruction. -/
  iaddr : DWord := 0
  /-- Cycles of the region that a hold opens as it retires (R95). -/
  hold : Option Nat := none
  /-- Cycle in which the instruction first came to retire (R80). -/
  since : Nat := 0
  /-- Numbers of arrival of elements that wait at a full ring of another core, by register (R188, R194). -/
  arrived : Tab Nat := []
deriving DecidableEq, Repr

/-- A deferred precise fault or a held trap (R370, R377): cause, class, information, detail. `byHandler` marks the rpush
trap of an rpush that the handler issued (R377). -/
structure Deferred where
  /-- Number of the operation that caused it, which gives the issue order. -/
  ord : Nat
  cause : Nat
  cls : Nat
  info : DWord
  atDelivery : Bool
  byHandler : Bool
  /-- Address of the instruction, for the trap of an rpush (R376). -/
  iaddr : Option DWord := none
deriving DecidableEq, Repr

/-- Asynchronous exceptions and deferred faults a stream or thread is owed (R377, R402). -/
structure Owed where
  miss : Option DWord := none
  overrun : Option DWord := none
  routeTo : List Nat := []
  deferred : List Deferred := []
deriving DecidableEq, Repr

/-- A trap record (R376). -/
structure TrapRec where
  hdr : DWord := 0
  ret : DWord := 0
  passes : DWord := 0
  iaddr : DWord := 0
  cause : DWord := 0
  info : DWord := 0
  detail : DWord := 0
  time : DWord := 0
deriving DecidableEq, Repr

/-- A tag of an atomic region: the snapshot field `(slot, off, size)` plus `c` (R334). -/
structure RTag where
  slot : Nat
  off : Nat
  size : Nat
  c : Nat
deriving DecidableEq, Repr

/-- A load slot (R334): an address of the line and the 256-byte line, its snapshot, whether it is stale (R336) and pinned. -/
structure RSlot where
  va : Nat
  line : Nat
  snap : List Byte
  stale : Bool
  pinned : Bool
deriving DecidableEq, Repr

/-- One side of a constraint: an optional tag and a value, which is a constant where there is no tag (R335). -/
structure RSide where
  tag : Option RTag
  k : Nat
deriving DecidableEq, Repr

/-- A constraint entry (R335); `op` is 0 for =, 1 for ≠, 2 for signed <, 3 for unsigned <. -/
structure RCons where
  op : Nat
  lhs : RSide
  rhs : RSide
  outcome : Bool
deriving DecidableEq, Repr

/-- A store entry (R335), at a virtual and a physical address. -/
structure RStore where
  va : Nat
  addr : Nat
  size : Nat
  data : Nat
  tag : Option RTag
deriving DecidableEq, Repr

/-- An undo entry: register file (0 scalar, 1 lane, 2 predicate), register, old value (R335), and whether that was poisoned
(R371). -/
structure RUndo where
  file : Nat
  reg : Nat
  old : Nat
  poison : Bool := false
deriving DecidableEq, Repr

/-- An open atomic region (R332 to R335). `tags` is keyed by scalar number, or 64 plus a lane specifier. -/
structure Region where
  fallback : DWord
  slots : List RSlot := []
  cons : List RCons := []
  stores : List RStore := []
  undo : List RUndo := []
  tags : Tab RTag := []
  t0 : Word := 0
  t1 : Word := 0
  poison0 : Bool := false
  poison1 : Bool := false
  /-- Queue entries that the region has popped, oldest first, and those that it will push as it commits (R338). -/
  taken : List (Nat × DWord) := []
  pushes : List (Nat × DWord) := []
deriving DecidableEq, Repr

/-- A registered port (R261). -/
structure Port where
  core : Nat
  ring : Nat
  gen : Nat
  cap : Nat
  policy : Nat
  spill : Nat
deriving DecidableEq, Repr

/-- What a home operation is for (R305): the last three are one unit's step of cclean, cflush and cinv (R318). -/
inductive HomeKind where
  | read | write | atomic | backInv | clean | flush | inv
deriving DecidableEq, Repr

/-- An instruction of a stream that has issued and retires later: an array, macro-page, tma, queue-binding, port or cache
maintenance instruction (R85, R235, R251, R254, R263, R318). What it writes is held here until then. -/
inductive Late where
  /-- Accumulator elements, flags, and for mmar the readout bytes by scratchpad key (R235 to R237). -/
  | array (writes : List (Nat × DWord)) (fl : Nat) (readout : Option (List (Nat × Byte)))
  | wload (bytes : List (Nat × Byte)) (tags : List (Nat × Nat)) (fl : Nat)
  | tma (writes : List (Nat × Word)) (zero : Bool) (rows fl : Nat)
  /-- Queue, binding word, and the cycle of its issue. -/
  | qbind (queue : Nat) (w : DWord) (cyc : Nat)
  | port (n : Nat) (entry : Option Port)
  | keyway (image : List Nat)
  /-- cclean, cflush or cinv on its way through its range (R318): the next byte, the bytes left, and the operation on the
  unit there, once it has begun. -/
  | maint (op : HomeKind) (va n : Nat) (busy : Option Nat)
  /-- A thread that issued the instruction together with the lane that performs it. -/
  | follow (lead : Nat)
deriving DecidableEq, Repr

/-- An amod word waiting for its instruction: its fields and its address (R55). -/
structure Amod where
  sc : Bool
  place : Nat
  scope : Nat
  ord : Nat
  addr : DWord
  hdr : DWord
deriving DecidableEq, Repr

/-- Control state of a stream (R72, R402) or of a vision thread (R135). -/
structure Ctl where
  life : Life := .off
  /-- Card slot of the job. -/
  job : Nat := 0
  pc : DWord := 0
  hdr : DWord := 0
  /-- LEN, RPT and the passes still to run after the current one (R42, R402). -/
  len : Nat := 0
  rpt : Nat := 0
  passes : Nat := 0
  atHeader : Bool := true
  loopBuf : Tab Half := []
  fmode : DWord := 0
  fflags : DWord := 0
  sbase : DWord := 0
  trapcause : DWord := 0
  trapinfo : DWord := 0
  arcause : DWord := 0
  handling : Bool := false
  /-- A vision thread's trap record; a tile stream's stands in its save image (R376). -/
  tr : TrapRec := {}
  owed : Owed := {}
  waiting : Option Wait := none
  waitG : Nat := 0
  /-- Token FIFOs and queue entries that the instruction in `waiting` or `late` popped: a fault of its own puts them back
  (R57, R86). -/
  poppedT : List Nat := []
  poppedQ : List (Nat × DWord) := []
  waitStart : DWord := 0
  /-- The watched wait ended without its condition, or its ring was replaced (R348, R192). -/
  waitLost : Bool := false
  region : Option Region := none
  /-- Target of an armed stamp (R101). -/
  armed : Option DWord := none
  amod : Option Amod := none
  /-- End of an open hold region, and the end cycle of an overrun not yet taken (R95). -/
  holdEnd : Option DWord := none
  holdOver : Option DWord := none
  /-- What the stream is stalled on at issue; empty when it is not stalled. -/
  stall : List Need := []
  retire : Option Retire := none
  /-- Pending-push record, oldest first; `true` is the FIFO to next (R81, R402). Entries after the first 64 are completions
  that wait for room in it (log 38). -/
  pp : List Bool := []
  /-- An instruction that retires later. -/
  late : Option Late := none
  /-- Pending checksum registers (R216). -/
  pendRegs : List Nat := []
  /-- Bindings of in0, in1, ex0, ex1 (R193). -/
  ringIn : Tab DWord := []
  /-- Cycle at which the stream stopped for a freeze (R381), and for an eviction, and whether that was at a hinge (R102,
  R122). -/
  frozenAt : Option Nat := none
  stopAt : Option Nat := none
  hinge : Bool := false
  /-- Not at a hinge in time: it stops as outside hinge mode (R122). A pre-emption order to its engine (R119). -/
  fellBack : Bool := false
  preempt : Bool := false
  /-- Restored with pushes pending: nothing issues before they are made (R81). -/
  resumed : Bool := false
  /-- The next main-set issue of the wave follows a backward branch at this address (R143; held on lane 0). -/
  yieldAbove : Option DWord := none
  /-- Y bit of the block, and a switch point reached and not yet used: 1 the end of a block with Y = 0, 2 the end of a
  block with Y = 1 or a yield (R77). -/
  yBit : Bool := false
  sw : Nat := 0
  /-- The stream has stalled or stopped at a wait, and its engine has not yet chosen again for that (R77). -/
  ceded : Bool := false
deriving DecidableEq, Repr

/-- A ring of a tile core (R185, R186). -/
structure Ring where
  holder : Option Nat := none
  gen : Nat := 0
  base : Nat := 0
  slotSize : Nat := 64
  count : Nat := 1
  cls : Nat := 0
  flags : Nat := 0
  prod : Nat := 0
  cons : Nat := 0
  tail : Nat := 0
  take : Nat := 0
  head : Nat := 0
  /-- Slot tags: 0 EMPTY, 1 FILLING, 2 FULL, 3 DRAINING. -/
  tags : Tab Nat := []
  bytes : Tab Nat := []
deriving DecidableEq, Repr

/-- One level of a loop table (R105). -/
structure Level where
  trips : Nat
  kind : Nat
deriving DecidableEq, Repr

/-- A wave slot in use (R135, R136): job, workgroup index on the core, wave number, extended block held, and the turn at
which it last issued (R141, R142). -/
structure Wave where
  job : Nat
  wg : Nat
  num : Nat
  block : Option Nat := none
  lastIssue : Nat := 0
  /-- Place in the cyclic order of issue sets: 0 the main set is next, `k + 1` the Handling thread of lane `k` or above. -/
  rot : Nat := 0
deriving DecidableEq, Repr

/-- A workgroup's place in the images of its job: core and index there, first local-store unit and wave slots (R125). -/
structure Home where
  key : Nat
  base : Nat
  slots : List Nat
deriving DecidableEq, Repr

/-- A workgroup resident on a vision core (R136, R137, R150): job, coordinates, threads, local-store units, slots. -/
structure Workgroup where
  job : Nat
  x : Nat
  y : Nat
  z : Nat
  threads : Nat
  base : Nat
  units : Nat
  slots : List Nat
  phase : Nat := 0
  arrived : Nat := 0
  requests : Nat := 0
  /-- The place in the images that it was restored from (log 39). -/
  home : Option Home := none
deriving DecidableEq, Repr

/-- A card slot (R110). -/
structure Slot where
  /-- State code of R110. -/
  state : Nat := 0
  /-- The slot's copy of the card, 128 bytes (R103). -/
  card : List Byte := []
  levels : List Level := []
  join : Nat := 0
  /-- Package time at which the card entered its slot. -/
  entered : Nat := 0
  /-- Next release to come: number and time; `none` when there is none (R112). -/
  nextRel : Option (Nat × Nat) := none
  /-- Releases held while an instance runs: numbers (R113). -/
  heldRel : List Nat := []
  skipNext : Bool := false
  dropped : Nat := 0
  /-- The instance: its number, release time and absolute deadline, and whether it has missed it. -/
  relNo : Nat := 0
  release : Nat := 0
  deadline : Nat := 0
  missed : Bool := false
  execNs : Nat := 0
  fallbacks : Nat := 0
  /-- Tile: the gang's cores in ascending order, kept while evicted. Vision: the cores occupied. -/
  cores : List Nat := []
  /-- Whether the instance's streams have been started. -/
  started : Bool := false
  /-- Under a stop order (R120), and whether in hinge mode (R122) with its decision time. -/
  stopping : Bool := false
  hingeMode : Bool := false
  decided : Nat := 0
  /-- Chosen to be restored (R120). -/
  restoring : Bool := false
  arrivals : Nat := 0
  /-- Flag file fl0 to fl63 (R340). -/
  flags : Tab DWord := []
  /-- Grid: next workgroup in linear order, workgroups ended or withdrawn, barrier phase and arrivals (R138, R139, R151). -/
  nextWg : Nat := 0
  endedWg : Nat := 0
  gbarPhase : Nat := 0
  gbarCount : Nat := 0
  /-- Kernel class (0 unclassified, 1 compute-bound, 2 memory-bound), lane operations, sectors, first issue (R138). -/
  cls : Nat := 0
  laneOps : Nat := 0
  sectors : Nat := 0
  firstIssue : Option Nat := none
  /-- Releases of continuations refused (R346). -/
  strayDecrements : Nat := 0
  /-- Control state of an evicted job's streams, `5 * core + engine`, beside the save image that holds the rest (R121). -/
  saved : Tab Ctl := []
  /-- An evicted vision job's waves, workgroups and threads as they were, and the register bytes whose place in the save
  image the spec does not give (R125): by their old keys; and its waves whose xacq requests were withdrawn, in order. -/
  savedWaves : Tab Wave := []
  savedGroups : Tab Workgroup := []
  savedLanes : Tab Word := []
  savedQueue : List Nat := []
  /-- Entries of the queues of an evicted tile job beyond the 16 that the save image holds: `16 * ctxKey + n` (log 16). -/
  savedEntries : Tab (List DWord) := []
  savedPoison : Tab Bool := []
  savedPoisonS : Tab Bool := []
  /-- The gang's port table and keyway (R261, R262). -/
  ports : Tab Port := []
  keyway : Tab Nat := []
  /-- The window start of the last budget overrun raised for the job (R367). -/
  overrunAt : Option Nat := none
deriving DecidableEq, Repr

/-- A translation held by a TLB or the die translation cache (R354, R357): partition, virtual and physical page, log2 of
the page size, the entry's low 16 bits as walked, and where the entry stands. -/
structure TlbEnt where
  part : Nat
  vpage : Nat
  ppage : Nat
  lg : Nat
  bits : Nat
  pte : Nat
  level : Nat
deriving DecidableEq, Repr

/-- A copy command issued and not completed (R199): its issuer, the address of its word, its MAJ, f and tokens, its
operands as read, the records read at issue, and how far it has come. -/
structure Cmd where
  key : Nat
  job : Nat
  iaddr : DWord
  maj : Nat
  f : Nat
  g : Nat
  x : DWord
  y : DWord
  z : List DWord
  zreg : Nat
  rm : Nat
  /-- Tensor record and box of ldt and stt. -/
  recs : List Byte := []
  /-- Ring that the completion slot belongs to, and its generation at issue (R190). -/
  ring : Nat := 0
  ringGen : Nat := 0
  /-- Position of the next element, the running checksum, and the flags raised. -/
  pos : Nat := 0
  run : Nat := 0
  fl : Nat := 0
  /-- Sectors of external memory that it has read and written (R220). -/
  rd : List Nat := []
  wr : List Nat := []
  /-- The command of the same stream whose checksum it continues, and whether it stopped because that one did (R216). -/
  after : Option Nat := none
  chained : Bool := false
  /-- REASON and FADDR where it has stopped (R211), and whether its fault record stands written. -/
  stop : Option (Nat × Nat) := none
  told : Bool := false
  /-- Issued by copy.resume (R214). -/
  resumed : Bool := false
deriving DecidableEq, Repr

/-- An rpush issued and not completed (R195 to R197): key of its descriptor in the scratchpad, the state of each target
(0 outstanding, 1 accepted, 2 dropped) and the ring it names. -/
structure Push where
  key : Nat
  job : Nat
  desc : Nat
  fou : Bool
  status : List Nat
  ringsOf : List Nat
  g : Nat
  byHandler : Bool
  iaddr : DWord
deriving DecidableEq, Repr

/-- Whose delivery it is: a target of an rpush, or a row-choice of a route. -/
inductive Source where
  | push (id target : Nat)
  | route (core entry seq row choice : Nat)
deriving DecidableEq, Repr

/-- A delivery on its way to a ring (R196, R267), and its bytes as read at issue (log 21). -/
structure Delivery where
  key : Nat
  job : Nat
  source : Source
  core : Nat
  ring : Nat
  gen : Nat
  head : List Byte
  arrived : Bool := false
  /-- Number of its arrival, which orders the deliveries at a ring (R188). -/
  order : Nat := 0
deriving DecidableEq, Repr

/-- A return of rret on its way to the origin core (R268). -/
structure Ret where
  key : Nat
  job : Nat
  origin : Nat
  rte : Nat
  seq : Nat
  row : Nat
  choice : Nat
  /-- The returned bytes, as read at issue (log 21). -/
  bytes : List Byte
  g : Nat
  /-- The origin has accepted or discarded it. -/
  answered : Bool := false
deriving DecidableEq, Repr

/-- A finc or fset on its way to the flag home (R341). -/
structure FlagUpd where
  key : Nat
  job : Nat
  flag : Nat
  add : Bool
  value : DWord
deriving DecidableEq, Repr

/-- A readout whose destination bytes are not yet performed (R237, R240, R257). -/
structure Readout where
  key : Nat
  job : Nat
  bytes : List (Nat × Byte)
  g : Nat
deriving DecidableEq, Repr

/-- A fetchwg not yet answered (R149): its wave, job, workgroup key and mailbox key in the local store. -/
structure Mailbox where
  key : Nat
  job : Nat
  group : Nat
  box : Nat
deriving DecidableEq, Repr

/-! ### Lines, the directory and the messages of the protocol (R297 to R316) -/

/-- States of a unit in an agent's cache (R300, R302). -/
inductive CState where
  | i | isD | imAD | imA | s | smAD | smA | m | o | omA | miA | oiA | siA | iiA
deriving DecidableEq, Repr

/-- Kinds of message (R301), and the fill of a slice sector (R310). -/
inductive MsgKind where
  | getS | getM | upg | putS | putM | putO | atomFar | homeRead | homeWrite
  | inv | fwdGetS | fwdGetM | data | grant | putAck | nackMoved | atomResp
  | invAck | probeMiss | recalled | fill
deriving DecidableEq, Repr

/-- A message on its way. Agent 31 stands for the home, and for an agent that caches nothing (R297). -/
structure Msg where
  kind : MsgKind
  /-- Address of the unit, its page's grain and memory type, and the requester's partition. -/
  unit : Nat
  grain : Nat
  mtype : Nat := 0
  part : Nat
  /-- Card slot of the job (R362). -/
  slot : Option Nat := none
  /-- Sender and receiver. -/
  src : Nat
  dst : Nat
  /-- The requester that a forward or an Inv names (R301). -/
  req : Nat := 31
  /-- Count of answers that the requester must collect (R301). -/
  n : Nat := 0
  /-- The home operation that a recall belongs to. -/
  op : Nat := 0
  /-- First byte and bytes of a home access or a fill, and of the sector that a packet of data carries (R299). -/
  addr : Nat := 0
  len : Nat := 0
  /-- New address of a migrated unit (R316). -/
  moved : Nat := 0
  contended : Bool := false
  /-- Bytes of a write that arrives from a peer package (R397); this package's own writes stand in memory already. -/
  bytes : List Byte := []
  /-- Endpoint of R320 that an access by an agent that caches nothing comes from; 200 is none. -/
  ep : Nat := 200
  /-- A home write that goes through to external memory without allocation (R313), and an access whose sectors a copy
  command has been charged for already (R220). -/
  through : Bool := false
  uncharged : Bool := false
  /-- It arrived at its home before the cut of a migration (R315). -/
  early : Bool := false
  /-- The kind of request that a NackMoved answers (R316). -/
  asked : MsgKind := .getS
  /-- Bytes of an uncached write of a job as they stood before it: physical address, old and new byte (R400). -/
  undo : List (Nat × Byte × Byte) := []
deriving DecidableEq, Repr

/-- A home operation that holds its unit while it collects answers (R305). -/
structure HomeOp where
  kind : HomeKind
  unit : Nat
  grain : Nat
  mtype : Nat
  part : Nat
  slot : Option Nat
  /-- Agent to answer, for a far atomic. -/
  agent : Nat
  addr : Nat
  len : Nat
  waiting : Nat
  contended : Bool := false
  through : Bool := false
  uncharged : Bool := false
  /-- Number of the request that it serves, and the endpoint that a read or an atomic of an agent that caches nothing is
  answered at; 200 is none. -/
  req : Nat := 0
  ep : Nat := 200
  /-- Sectors of the owner's data that have arrived, as a mask (R299). -/
  got : Nat := 0
  /-- The forward or Inv from a remote home that it recalls the local copies for (R323). -/
  probe : Option Nat := none
  undo : List (Nat × Byte × Byte) := []
deriving DecidableEq, Repr

/-- An access that waits in a cache until its unit leaves a transient state (R302): whether it stores, and the location of a
near atomic (R331). -/
structure CStall where
  store : Bool
  atomic : Option Nat
  part : Nat
  slot : Option Nat
deriving DecidableEq, Repr

/-- An access that waits until the agent's cache has room for its unit (R297, log 8): address, the page's grain, and the rest as
`CStall` has it. -/
structure RoomWait where
  agent : Nat
  pa : Nat
  grain : Nat
  access : CStall
deriving DecidableEq, Repr

/-- A unit in an agent's cache (R299, R302). -/
structure CUnit where
  st : CState := .i
  grain : Nat := 0
  part : Nat := 0
  slot : Option Nat := none
  need : Int := 0
  /-- Deferred messages by number, in arrival order, and accesses that wait, oldest first. -/
  deferred : List Nat := []
  stalled : List CStall := []
  /-- Location of a near atomic that waits for M, and whether its request met another holder (R331). -/
  atomic : Option Nat := none
  contended : Bool := false
  /-- Sectors of the awaited data that have arrived, as a mask (R299). -/
  got : Nat := 0
  /-- Turn at which it was installed. -/
  age : Nat := 0
deriving DecidableEq, Repr

/-- A directory entry (R306, R307): state 1 S, 2 O, 3 M. -/
structure DirEnt where
  unit : Nat
  grain : Nat
  state : Nat
  owner : Option Nat := none
  sharers : List Nat := []
  coarse : Bool := false
  groups : Nat := 0
  age : Nat := 0
deriving DecidableEq, Repr

/-- A sector of a slice line (R310). -/
structure Sector where
  v : Bool := false
  d : Bool := false
  wmask : Nat := 0
  fillRec : Nat := 0
  filling : Bool := false
deriving DecidableEq, Repr

/-- A slice line (R299, R309, R310): FOLLOW marks the three upper lines of a group of grain 1024. -/
structure Line where
  line : Nat
  part : Nat
  grain : Nat := 0
  follow : Bool := false
  sectors : List Sector := [{}, {}, {}, {}]
  age : Nat := 0
deriving DecidableEq, Repr

/-- A sector request on its way to its controller (R364, R366). -/
structure SectorReq where
  part : Nat
  slot : Option Nat
  pa : Nat
  /-- A request of a job's own that the regulator may hold; the others are only counted. -/
  holds : Bool
  /-- The sector fills its slice line once it is admitted (R310). -/
  fill : Bool := false
  /-- As in a message (R400). -/
  undo : List (Nat × Byte × Byte) := []
deriving DecidableEq, Repr

/-- A frame that has reached a port (R395, R396): where it came from, its bytes and what the port saw. -/
structure Frame where
  source : Nat
  port : Nat
  vc : Nat
  dt : Nat
  sid : Nat
  bytes : List Byte
  seq : Nat
  capture : Nat
  bad : Bool
deriving DecidableEq, Repr

/-- Storage that an uncorrectable error strikes (R371): a sector of external memory, the newer copy of one in a cache or slice,
and so on. -/
inductive Store where
  | memory | cached | scratch | lane | scalar | acc | colAcc | page
deriving DecidableEq, Repr

/-! ### Regulators, the dispatcher's and the island's state -/

/-- A partition's regulator (R363, R366): the pair in effect, its window, the pending pair, and at each controller the
count, the hold queue and the weights that the window uses. -/
structure Regulator where
  window : Nat := 0
  budget : Nat := 0
  start : Nat := 0
  /-- End of the current window. -/
  stop : Nat := 0
  /-- Pending pair and the instant it takes effect. -/
  pending : Option (Nat × Nat × Nat) := none
  weights : DWord := 0
  counts : Tab Nat := []
  held : Tab (List SectorReq) := []
  /-- Controllers that have admitted a request in this window. -/
  admitted : List Nat := []
deriving DecidableEq, Repr

/-- The safety island (R385 to R394). -/
structure Island where
  /-- Bring-up: 0 held in reset, 1 running a stage, 2 ready, 3 stopped by an error. -/
  phase : Nat := 0
  stage : Nat := 0
  error : Nat := 0
  lserr : Nat := 0
  siErr : Bool := false
  /-- The island is restarting from ROM (R385). -/
  restarting : Bool := false
  thermTrip : Bool := false
  /-- Restart requests queued, and the restart under way (R392). -/
  queue : List (Nat × Nat) := []
  current : Option (Nat × Nat) := none
  restarts : Nat := 0
  withdrawn : Nat := 0
  lost : Bool := false
  /-- Attestation request not yet answered (R390), the log's entries and its digest (R389). -/
  attest : Option Nat := none
  log : List (List Byte) := []
  digest : List Byte := List.replicate 32 0#8
  /-- Application clusters out of reset, as a mask (R391). -/
  clusters : Nat := 0
  /-- Monitors now beyond a limit, as 2 * monitor, plus 1 for the upper (R393). -/
  crossed : List Nat := []
  /-- Domains that the dispatcher places nothing on (R392). -/
  isolated : List (Nat × Nat) := []
  /-- Entry address of the application cores' boot image (R391). -/
  bootEntry : Nat := 0
deriving DecidableEq, Repr

/-- An operation under way, held by its number. The clearings are of R183 and R248: core, first unit and units; core and
page. -/
inductive Flight where
  | copy (c : Cmd)
  | push (p : Push)
  | delivery (d : Delivery)
  | ret (r : Ret)
  | flag (u : FlagUpd)
  | readout (r : Readout)
  | mailbox (m : Mailbox)
  | clearRegion (core base units : Nat)
  | clearPage (core page : Nat)
  /-- A protocol message, and a home operation that holds its unit. -/
  | msg (m : Msg)
  | home (h : HomeOp)
  /-- One unit's step of cache maintenance at the home of a peer package (R318). -/
  | away (k : HomeKind) (unit grain : Nat)
  /-- A sector request on its way to its controller. -/
  | sector (r : SectorReq)
  | frame (f : Frame)
  | upset (store : Store) (key : Nat)
deriving DecidableEq, Repr

/-- A reassembly entry (R269): state 0 FREE, 1 ACTIVE, 2 DONE; the route's issuer, descriptor, vector, variant and
rounding mode; each row-choice's fate (1 outstanding, 2 returned, 3 dropped) and accepted return; and the rows written. -/
structure Rte where
  state : Nat := 0
  job : Nat := 0
  seq : Nat := 0
  deadline : Nat := 0
  key : Nat := 0
  desc : List Byte := []
  vec : List Nat := []
  variant : Nat := 0
  rm : Nat := 0
  g : Nat := 0
  fate : List Nat := []
  rets : Tab (List Byte) := []
  rowsDone : List Bool := []
  spilled : Nat := 0
  late : Nat := 0
  timedOut : Bool := false
  fl : Nat := 0
deriving DecidableEq, Repr

/-- The column accumulators' state of one context (R249). -/
structure CaCtx where
  claimed : Bool := false
  mlast : Nat := 0
  lost : Bool := false
deriving DecidableEq, Repr

/-- The image of the real algebra, which every accord table holds at job start (R224, R226). -/
def realAccord : List Byte := 1#8 :: 0#8 :: 1#8 :: (List.replicate 13 0#8 ++ 1#8 :: List.replicate 239 0#8)

/-- Who issues the instruction that exec performs: a stream, or the issue set of a wave (R142), and the address of the
instruction. Set by step; the model's own. -/
structure Cur where
  wave : Bool
  key : Nat
  /-- Threads of the issue set in ascending lane order; `[0]` for a stream. -/
  set : List Nat
deriving DecidableEq, Repr

/-- What an application core does to the part (R1, R391): a load, a store of bytes, an atomic that leaves bytes, and cluster 0
letting another cluster out of reset. -/
inductive AppAct where
  | load (n : Nat)
  | store (bytes : List Byte)
  | atomic (bytes : List Byte)
  | release (cluster : Nat)
deriving DecidableEq, Repr

/-- An access of an application cluster: its cluster, the physical address, the page's memory type and grain, the partition it
is charged to, and what it does. Which accesses come is decided by the cores' own code (log 17). -/
structure AppTurn where
  cluster : Nat
  pa : Nat := 0
  mtype : Nat := 0
  grain : Nat := 0
  part : Nat := 0
  act : AppAct
deriving DecidableEq, Repr

/-- What comes to the part from its PCIe root port and over its Kolte ports (R323, R395): a read or write of bytes at a virtual
address of the partition that the root port is configured for, that configuration, a message of a peer package, and its home's
answer that a unit's step of cache maintenance is done. -/
inductive Outside where
  | pcieRead (va n : Nat)
  | pcieWrite (va : Nat) (bytes : List Byte)
  | pciePart (part : Nat)
  | link (m : Msg)
  | linkDone (id : Nat)
deriving DecidableEq, Repr

/-- A store of an agent since its last afence, in the order in which they are performed (R294): its virtual and physical
address, whether the page is of the device type, and each byte as it stood before. -/
structure OwnStore where
  va : Nat
  pa : Nat
  device : Bool
  before : List Byte
deriving DecidableEq, Repr

/-- What the next step does: the model's own schedule (log 1). -/
inductive Turn where
  /-- An engine of a tile core takes its turn. -/
  | tile (core eng : Nat)
  /-- A scheduler partition of vision core `64 + core` takes a turn. -/
  | vision (core part : Nat)
  /-- A copy command performs its next element. -/
  | copy (id : Nat)
  /-- An application cluster acts (log 17). -/
  | app (a : AppTurn)
  /-- The outside acts (log 17). -/
  | outside (o : Outside)
  /-- An event of the part. -/
  | event (e : Instr)
deriving DecidableEq, Repr

/-- A scheduled step: tile cycles and nanoseconds that pass before it, and what it does (log 1). -/
structure Sched where
  cyc : Nat
  ns : Nat
  turn : Turn
deriving DecidableEq, Repr

/-- Why a step stops the model. -/
inductive Fault where
  /-- Raised by an instruction word's meaning when no stream or wave is issuing (`State.cur` is empty): exec was asked to
  perform an instruction that step did not fetch. Safe. -/
  | noIssuer
deriving DecidableEq, Repr

/-- Why an instruction has no meaning here. -/
inductive Refusal where
  /-- Raised by an arm of exec whose meaning is not written yet. Safe. -/
  | notModelled (mnemonic : String)
deriving DecidableEq, Repr

/-- The state of the part. -/
structure State where
  /-- Package time in ns (R97). -/
  ns : Nat := 0
  /-- The deterministic cycle counter (R98). -/
  cyc : Nat := 0
  /-- The model's schedule and current issuer (log 1). -/
  agenda : List Sched := []
  cur : Option Cur := none
  /-- Rank of a tile core's last turn in the present tile cycle: engines by %corekind, then deliveries (R85, R188). -/
  rank : Tab Nat := []
  /-- Counter of free values taken (log 2). -/
  free : Nat := 0
  /-- Control state of streams and threads: key `32 * streamKey`, or `32 * waveKey + lane`. -/
  ctl : Tab Ctl := []
  /-- Scalar registers: `64 * (streamKey or waveKey) + n`. -/
  sreg : Tab DWord := []
  /-- Lane registers: `64 * (64 * (streamKey or waveKey) + specifier) + lane`, specifiers as R47. -/
  lreg : Tab Word := []
  /-- Predicates p1 to p7 as lane masks: `8 * (streamKey or waveKey) + n`. -/
  preg : Tab DWord := []
  /-- Token FIFO counts: `8 * ctxKey + index of R402` (R79). -/
  tokens : Tab Nat := []
  /-- FIFOs and queues that were empty before a push of the present tile cycle, from which nothing pops in it (R80, R84):
  `24 * ctxKey + FIFO`, `24 * ctxKey + 8 + queue`. -/
  fresh : List Nat := []
  /-- Queue entries, oldest first, and bindings of q8 to q15: `16 * ctxKey + n` (R83, R85). -/
  queues : Tab (List DWord) := []
  qbinds : Tab Nat := []
  /-- Card slot that holds a tile context: `ctxKey`. -/
  ctxJob : Tab Nat := []
  /-- Context an engine issues from: `5 * core + engine`; 4 is none (R77). -/
  engCtx : Tab Nat := []
  /-- Card slots (R110). -/
  slots : Tab Slot := []
  /-- Waves by `waveKey`, workgroups by `64 * core + index` (R135, R136). -/
  waves : Tab Wave := []
  groups : Tab Workgroup := []
  /-- Extended-block requests of a vision partition, oldest first: `4 * core + partition` (R147). -/
  xqueue : Tab (List Nat) := []
  /-- Vision region buffers in use: `4 * core + partition`, as the waves that hold one (R332). -/
  regionBufs : Tab (List Nat) := []
  /-- Turn counter for the rotation of waves (R141). -/
  turns : Nat := 0
  /-- External memory by physical address, and the bytes of modified lines that it does not hold yet (R300, R310). -/
  mem : Tab Byte := []
  dirty : Tab Byte := []
  /-- Stores of an agent since its last afence, by its control key (R294). -/
  aliases : Tab (List OwnStore) := []
  /-- Scratchpads and local stores: `2^24 * core + offset`, vision cores from 64 (R180). -/
  loc : Tab Byte := []
  /-- Rings: `32 * core + n` (R186). -/
  rings : Tab Ring := []
  /-- Operations under way by number, and the next number (R199, R196, R341, R237, R149, R183). -/
  flights : Tab Flight := []
  nextId : Nat := 0
  /-- Accumulator elements: `1024 * (8 * core + tile) + 32 * row + column` (R231). -/
  acc : Tab DWord := []
  /-- Cycle until which a unit of the matrix path is occupied: `32 * core + unit`, units 0 to 7 the pages of a macro array,
  8 the issue path, 10 the column accumulators, 16 to 23 the accumulator tiles, 24 to 31 the same tiles until the results of an mma
  or mmar have retired and been read out (R101, R239, log 42). -/
  busy : Tab Nat := []
  /-- Column accumulators: `64 * (32 * (32 * core + macro) + row) + column`; owner by core as `4 * slot + context`; state
  by `ctxKey` (R249). -/
  colAcc : Tab Word := []
  caOwner : Tab Nat := []
  caCtx : Tab CaCtx := []
  /-- Macro pages: bytes by `4096 * (8 * (32 * core + macro) + page) + byte`, tags by `8 * (32 * core + macro) + page`
  (R246 to R248). -/
  pages : Tab Byte := []
  pageTags : Tab Nat := []
  /-- Shape registers `16 * ctxKey + n`, 64 bytes each, and accord tables `4 * ctxKey + n`, 256 bytes (R224, R228). -/
  shapes : Tab (List Byte) := []
  accords : Tab (List Byte) := []
  /-- Reassembly entries `64 * core + n`, and orphan returns of each core (R269). -/
  rtes : Tab Rte := []
  orphans : Tab Nat := []
  /-- Contention predictor counters: `256 * agent + index` (R331). -/
  predictor : Tab Nat := []
  /-- Poisoned granules (R371): sectors of external memory, sectors whose newer copy is or is no longer poisoned, 8-byte
  granules of `loc`, lane elements, scalars. -/
  poisonMem : Tab Bool := []
  poisonNew : Tab Bool := []
  /-- Sectors of external memory rewritten with zeros while a slice line keeps the data that `mem` still lists (R392). -/
  zeroed : Tab Bool := []
  poisonLoc : Tab Bool := []
  poisonLane : Tab Bool := []
  poisonScalar : Tab Bool := []
  /-- Poisoned accumulator elements, column-accumulator elements and pages, by the keys of their tables (R371). -/
  poisonAcc : Tab Bool := []
  poisonCa : Tab Bool := []
  poisonPage : Tab Bool := []
  /-- Translation structures (R357): key `2^16 * kind + number`, kinds 0 vision partition (4 * core + partition),
  1 vision core, 2 tile LE, 3 tile SE, 4 the slices of the dies as `16 * die + slice` (log 8). -/
  tlbs : Tab (List TlbEnt) := []
  /-- Installed memory of the packages, in bytes, where it is not Config's (R352). -/
  installed : Tab Nat := []
  /-- This package's number (R298), and the packages whose link has failed or that were reset (R324). -/
  pkg : Nat := 0
  failedLinks : List Nat := []
  /-- Control registers of the part by PA[45:0] (R382), where their value is not the reset value. -/
  creg : Tab DWord := []
  /-- Sectors that the instruction cache of a core holds, oldest first (R74, log 36). -/
  icache : Tab (List Nat) := []
  /-- Units in agents' caches: `2^48 * agent + address + grain code` (R302). -/
  caches : Tab CUnit := []
  roomWait : List RoomWait := []
  /-- Directory entries: `65536 * slice + 16 * set + way` (R306). -/
  dir : Tab DirEnt := []
  /-- Slice lines: `8192 * slice + 16 * set + way` (R309). -/
  lines : Tab Line := []
  /-- Requests that wait at a home, by number, oldest first (R304). -/
  homeQueue : Tab (List Nat) := []
  /-- Protocol errors of the agents (R302). -/
  protocolErrors : Tab Nat := []
  /-- Next offset that each migration entry copies, for the entries that have made their cut (R315). -/
  migrated : Tab Nat := []
  /-- Routing tables, `50 * router + destination`, and routing errors of the routers (R321, R322). -/
  routing : Tab Nat := []
  routingErrors : Tab Nat := []
  /-- Invalidation command under way: kind, partition, address (R360). -/
  invalidating : Option (Nat × Nat × Nat) := none
  /-- Regulators by partition (R363). -/
  regulators : Tab Regulator := []
  /-- The safety island. -/
  island : Island := {}
  /-- The latest time pair and the counts latched for its readers (R99). -/
  pairNs : Nat := 0
  pairCyc : Nat := 0
  /-- The multiples of 1000 ns and of 50,000 ns at which the next pair is captured and the card queue is next scanned (R99,
  R109, R111). -/
  nextPair : Nat := 1000
  nextScan : Nat := 50000
  pairLatch : Tab Nat := []
  /-- Rate of package time set by the timing messages, in ppm above -200 (R97). -/
  rate : Nat := 200
  /-- Corrected errors by unit, units 0 to 15 the controllers, and poisoned sectors by controller (R371, R382). -/
  corrected : Tab Nat := []
  poisoned : Tab Nat := []
  /-- Events of R115 that the dispatcher has not evaluated yet. -/
  evaluations : Nat := 0
  /-- Partition that the PCIe root port is configured for (R364, R395). -/
  pciePart : Nat := 0
  /-- Frames dropped by each ingest stream since its last descriptor (R396). -/
  ingestDropped : Tab Nat := []
  /-- Interrupts sent to the safety island. -/
  islandInterrupts : Nat := 0
  /-- Message-signalled interrupts sent, newest last: address and data (R108). -/
  msi : List (Nat × Nat) := []
deriving DecidableEq, Repr

/-- The part right after reset (R388, R391): nothing placed, every register at its reset value. -/
def State.reset : State := {}

end Sys2Proof.Machine
end

