-- ==== Sys2Proof/Machine/Memory.lean ====
section
/-! DEFINITION. The control registers of the part (R382), external memory and the bytes newer than it (R300, R352), the
scratchpads and local stores, and the operations under way. -/

namespace Sys2Proof.Machine

/-! ### Control registers of the part -/

/-- Reset values of the control registers by PA[45:0] (R108, R312, R359, R368, R381, R386). -/
def cregReset (a : Nat) : DWord :=
  if a == 0x3F0000008018 then 300
  else if 0x3F0000100000 ≤ a && a < 0x3F0000150000 && a % 4096 < 0x200 then 0xFFFF else 0

/-- A control register. -/
def State.creg_ (s : State) (a : Nat) : DWord := (s.creg.find a).getD (cregReset a)

/-- A control register written. -/
def State.setCreg (s : State) (a : Nat) (v : DWord) : State := { s with creg := s.creg.put a v }

/-- Bases of the control blocks (R382). -/
def dspBase : Nat := 0x3F0000000000
def xltBase : Nat := 0x3F0000010000
def regBase : Nat := 0x3F0000020000
def migBase : Nat := 0x3F0000030000
def escBase : Nat := 0x3F0000040000
def ingBase : Nat := 0x3F0000050000
def slcBase (h : Nat) : Nat := 0x3F0000100000 + 0x1000 * h

/-- Whether a control block or the state window stands at PA[45:0] (R382). -/
def ctlBlockAt (a : Nat) : Bool :=
  let within (b n : Nat) : Bool := b ≤ a && a < b + n
  within 0x3F0000000000 0x10000 || within 0x3F0000010000 0x1000 || within 0x3F0000020000 0x2000 ||
  within 0x3F0000030000 0x1000 || within 0x3F0000040000 0x1000 || within 0x3F0000050000 0x1000 ||
  within 0x3F0000100000 0x50000 || within 0x3F1000000000 0x10000000 ||
  within 0x3F1010000000 0x18000000 || within 0x3F1030000000 0x10000 || within 0x3F1040000000 0x50000000 ||
  within 0x3F1090000000 0x32000 || within 0x3F1091000000 0x100000

/-! ### Memory -/

/-- Whether a memory table is in canonical form: addresses strictly rising, no entry equal to what an unlisted address
reads as (R391 stage 4: 0). -/
def Memory.wf (m : Tab Byte) : Bool := Tab.canon 0 m

/-- Installed bytes of a package (R352). -/
def State.installedOf (s : State) (p : Nat) : Nat :=
  (s.installed.find p).getD (if p == s.pkg then Config.installedBytes else 0)

/-- Whether external memory stands at a physical address (R352). -/
def State.backed (s : State) (pa : Nat) : Bool := pa % 2 ^ 46 < s.installedOf (pa / 2 ^ 46)

/-- Where the data of a byte stands while its page migrates (R315, R316): from the cut on at NEW, where every access to OLD
is sent, while OLD keeps the data of the cut. -/
def State.settled (s : State) (pa : Nat) : Nat :=
  s.migrated.foldl (fun pa e =>
    let reg := migBase + 32 * e.1
    let old := (s.creg_ reg).toNat
    if old ≤ pa && pa < old + (s.creg_ (reg + 16)).toNat then (s.creg_ (reg + 8)).toNat + (pa - old) else pa) pa

/-- The byte that every agent reads at a physical address: the newest of the caches and external memory (R281, R300). -/
def State.byteAt (s : State) (pa0 : Nat) : Byte :=
  let pa := s.settled pa0
  (s.dirty.find pa).getD (s.mem.get 0 pa)

/-- Number of the sector where a sector's data stands while its page migrates (R315). -/
def State.settledSector (s : State) (x : Nat) : Nat := s.settled (64 * x) / 64

/-- Whether a sector's data is poisoned as an agent reads it: its newer copy's mark, else external memory's (R371). -/
def State.sectorPoisoned (s : State) (x : Nat) : Bool :=
  (s.poisonNew.find (s.settledSector x)).getD (s.poisonMem.has (s.settledSector x))

/-- The newer copy of a sector poisoned, or written whole and so no longer (R371). -/
def State.markNew (s : State) (x : Nat) (b : Bool) : State :=
  let k := s.settledSector x
  { s with poisonNew := if s.poisonMem.has k == b then s.poisonNew.del k else s.poisonNew.put k b }

/-- A sector of external memory written whole: poison of it is gone (R371). -/
def State.cleanMem (s : State) (x : Nat) : State :=
  { s with poisonMem := s.poisonMem.del (s.settledSector x), poisonNew := s.poisonNew.del (s.settledSector x) }

/-- `n` bytes at a physical address, little-endian. -/
def State.physRead (s : State) (pa n : Nat) : Nat := leNat ((upTo n).map fun i => s.byteAt (pa + i))

/-- Bytes written as data newer than external memory (R300, R310). -/
def State.physWrite (s : State) (pa : Nat) : List Byte → State
  | [] => s
  | b :: bs => State.physWrite { s with dirty := s.dirty.put (s.settled pa) b } (pa + 1) bs

/-- Bytes written to external memory itself, every newer copy of them dropped (R401). -/
def State.extWrite (s : State) (pa : Nat) : List Byte → State
  | [] => s
  | b :: bs =>
    State.extWrite { s with mem := s.mem.set 0 (s.settled pa) b, dirty := s.dirty.del (s.settled pa) } (pa + 1) bs

/-- Modified bytes of a range written back to external memory (R318, R401); the sectors that they stand in are written whole. -/
def State.writeBack (s : State) (lo n : Nat) : State :=
  let within (a : Nat) : Bool := lo ≤ a && a < lo + n
  { s with
    dirty := s.dirty.filter fun e => !within e.1
    zeroed := s.zeroed.filter fun e => !s.dirty.any fun b => within b.1 && b.1 / 64 == e.1
    mem := (s.dirty.filter fun e => within e.1).foldl (fun m e => Tab.set 0 m e.1 e.2) s.mem
    poisonNew := s.poisonNew.filter fun e => !within (64 * e.1)
    poisonMem := (s.poisonNew.filter fun e => within (64 * e.1)).foldl
      (fun t e => if e.2 then Tab.put t e.1 true else t.del e.1) s.poisonMem }

/-- Modified bytes of a range discarded, and what they were poisoned with (R318 cinv, R371). -/
def State.dropDirty (s : State) (lo n : Nat) : State :=
  { s with dirty := s.dirty.filter fun e => !(lo ≤ e.1 && e.1 < lo + n),
           poisonNew := s.poisonNew.filter fun e => !(lo ≤ 64 * e.1 && 64 * e.1 < lo + n) }

/-- The slice lines of a range gone: what they alone kept of a controller's memory from before its restart goes with them
(R392). -/
def State.dropKept (s : State) (lo n : Nat) : State :=
  let gone (x : Nat) : Bool := lo < 64 * x + 64 && 64 * x < lo + n && s.zeroed.has x
  if s.zeroed == [] then s
  else
    { s with
      mem := s.mem.filter fun e => !gone (e.1 / 64)
      poisonMem := s.poisonMem.filter fun e => !gone e.1
      zeroed := s.zeroed.filter fun e => !gone e.1 }

/-- Key of a byte of a core's scratchpad or local store. -/
def locKey (core off : Nat) : Nat := 2 ^ 24 * core + off

/-- `n` bytes of a scratchpad or local store. -/
def State.locRead (s : State) (k n : Nat) : Nat := leNat ((upTo n).map fun i => s.loc.get 0 (k + i))

/-- Bytes of a scratchpad or local store as a list. -/
def State.locBytes (s : State) (k n : Nat) : List Byte := (upTo n).map fun i => s.loc.get 0 (k + i)

/-- Bytes written to a scratchpad or local store; granules written whole lose their poison (R371). -/
def State.locWriteRaw (s : State) (k : Nat) : List Byte → State
  | [] => s
  | b :: bs => State.locWriteRaw { s with loc := s.loc.set 0 k b } (k + 1) bs

def State.locWrite (s : State) (k : Nat) (bs : List Byte) : State :=
  let first := (k + 7) / 8
  let past := (k + bs.length) / 8
  let s1 := s.locWriteRaw k bs
  { s1 with poisonLoc := s1.poisonLoc.filter fun e => !(first ≤ e.1 && e.1 < past) }

/-- An operation under way taken up under a new number (R199). -/
def State.launch (s : State) (f : Flight) : State :=
  { s with flights := s.flights.put s.nextId f, nextId := s.nextId + 1 }

/-- A count that orders what the caches and the homes take up: the steps and the operations begun. -/
def State.clock (s : State) : Nat := s.turns + s.nextId

/-- An operation that is over. -/
def State.land (s : State) (id : Nat) : State := { s with flights := s.flights.del id }

/-- An operation's record replaced. -/
def State.setFlight (s : State) (id : Nat) (f : Flight) : State := { s with flights := s.flights.put id f }

/-- Home slice of a physical address (R298). -/
def homeSlice (pa : Nat) : Nat := pa % 2 ^ 46 / 1024 % 80

/-- Bytes in the coherence unit of a grain (R299). -/
def unitBytes (grain : Nat) : Nat := if grain == 0 then 64 else if grain == 1 then 256 else 1024

/-- Whether a partition may allocate lines in the home slice of an address (R312). -/
def State.mayAllocate (s : State) (part pa : Nat) : Bool :=
  bits (s.creg_ (slcBase (homeSlice pa) + 8 * part)) 0 16 != 0

/-- reg_sectors of a partition increased (R368). -/
def State.countSectors (s : State) (p n : Nat) : State :=
  let a := regBase + 0x1018 + 32 * p
  s.setCreg a (s.creg_ a + BitVec.ofNat 64 n)

/-- A sector of a peer's memory moves at the peer's controllers: the peer's reg_sectors, held under its whole physical address,
counts it (R220, R364). -/
def State.countPeer (s : State) (part pa : Nat) : State := s.countSectors (2 ^ 41 * (pa / 2 ^ 46) + part) 1

/-! ### Cards and slots -/

/-- A little-endian field of a card (R103). -/
def cardF (c : List Byte) (off n : Nat) : Nat := leNat ((c.drop off).take n)

def cardKind (c : List Byte) : Nat := cardF c 0x00 1
def cardFlags (c : List Byte) : Nat := cardF c 0x01 1
def cardPart (c : List Byte) : Nat := cardF c 0x02 1
def cardCtx (c : List Byte) : Nat := cardF c 0x03 1
def cardPolicy (c : List Byte) : Nat := cardF c 0x26 2
def cardBase (c : List Byte) : Nat := cardF c 0x2C 2
def cardSize (c : List Byte) : Nat := cardF c 0x2E 2
def cardPages (c : List Byte) : Nat := cardF c 0x30 1
def cardAcc (c : List Byte) : Nat := cardF c 0x31 1
def cardEntry (c : List Byte) (eng : Nat) : Nat := cardF c (0x40 + 8 * eng) 8
def cardArgs (c : List Byte) : Nat := cardF c 0x68 8
def cardHandler (c : List Byte) : Nat := cardF c 0x70 8
def cardSave (c : List Byte) : Nat := cardF c 0x78 8

/-- Whether a card is a vision card (R103 KIND 2 or 4). -/
def cardVision (c : List Byte) : Bool := cardKind c == 2 || cardKind c == 4

/-- Whether a card has the sillage flag (R103 FLAGS bit 0). -/
def cardTraced (c : List Byte) : Bool := bitN (cardFlags c) 0

/-- A card slot. -/
def State.slotAt (s : State) (k : Nat) : Slot := s.slots.get {} k

/-- A card slot replaced. -/
def State.setSlot (s : State) (k : Nat) (x : Slot) : State := { s with slots := s.slots.put k x }

/-- A card slot changed. -/
def State.modSlot (s : State) (k : Nat) (f : Slot → Slot) : State := s.setSlot k (f (s.slotAt k))

end Sys2Proof.Machine
end

