-- ==== Sys2Proof/Machine/Lines.lean ====
section
/-! DEFINITION. Lines, the directory and the messages of the coherence protocol (R297 to R316): what an agent's cache
holds, what the homes know, and the messages between them. The bytes themselves stand in `State.mem` and `State.dirty`
(log 5); these tables say which copies of them are held where. -/

namespace Sys2Proof.Machine

/-! ### Units, caches and messages -/

/-- First byte of the coherence unit that holds an address (R299). -/
def unitOf (grain pa : Nat) : Nat := pa / unitBytes grain * unitBytes grain

/-- Key of an agent's unit, and the agent and first byte that a key names: the grain stands in the low bits. -/
def cacheKey (agent unit grain : Nat) : Nat := 2 ^ 48 * agent + unit + grain
def keyAgent (k : Nat) : Nat := k / 2 ^ 48
def keyUnit (k : Nat) : Nat := k % 2 ^ 48 / 64 * 64

/-- An agent's unit. -/
def State.cacheAt (s : State) (agent unit grain : Nat) : CUnit := s.caches.get {} (cacheKey agent unit grain)

/-- An agent's unit replaced; a unit in I is not listed. -/
def State.setCache (s : State) (agent unit grain : Nat) (c : CUnit) : State :=
  if c.st = .i then { s with caches := s.caches.del (cacheKey agent unit grain) }
  else { s with caches := s.caches.put (cacheKey agent unit grain) c }

/-- Whether a unit in a cache has some byte of `[lo, lo + n)`. -/
def cacheMeets (e : Nat × CUnit) (lo n : Nat) : Bool :=
  keyUnit e.1 < lo + n && lo < keyUnit e.1 + unitBytes e.2.grain

/-- The unit of an agent's cache that holds an address, and its grain: that of the tag where there is one, else that of the
translation (R314). -/
def State.cacheTag (s : State) (agent pa grain : Nat) : Nat × Nat :=
  match s.caches.find? fun e => keyAgent e.1 == agent && cacheMeets e pa 1 with
  | some e => (keyUnit e.1, e.2.grain)
  | none => (unitOf grain pa, grain)

/-- Class of a message (R301): 0 request, 1 home-out, 2 response. -/
def Msg.cls (m : Msg) : Nat :=
  match m.kind with
  | .getS => 0 | .getM => 0 | .upg => 0 | .putS => 0 | .putM => 0 | .putO => 0 | .atomFar => 0 | .homeRead => 0
  | .homeWrite => 0
  | .inv => 1 | .fwdGetS => 1 | .fwdGetM => 1 | .grant => 1 | .putAck => 1 | .nackMoved => 1 | .atomResp => 1
  | .data => if m.src == 31 then 1 else 2
  | .invAck => 2 | .probeMiss => 2 | .recalled => 2 | .fill => 2

/-- Whether an access works on external memory and not on a slice line (R313, R401). -/
def Msg.direct (m : Msg) : Bool := m.mtype != 0 || m.through

/-- A message sent. -/
def State.send (s : State) (m : Msg) : State := s.launch (.msg m)

/-- The sectors that a byte range touches: first byte and bytes of each part. -/
def sectorParts : Nat → Nat → Nat → List (Nat × Nat)
  | 0, _, _ => []
  | fuel + 1, pa, n =>
    if n == 0 then []
    else
      let k := minN n (64 - pa % 64)
      (pa, k) :: sectorParts fuel (pa + k) (n - k)

/-- The data of a message's unit sent sector by sector (R299). -/
def State.sendUnit (s : State) (m : Msg) : State :=
  (sectorParts 16 m.unit (unitBytes m.grain)).foldl (fun s p => s.send { m with addr := p.1, len := p.2 }) s

/-- A message sent, its data sector by sector. -/
def State.sendOut (s : State) (m : Msg) : State :=
  if m.kind == .data || m.kind == .recalled then s.sendUnit m else s.send m

/-- A sector added to those of a unit's data that have arrived, and whether all have (R299). -/
def gotSector (got : Nat) (m : Msg) : Nat := Nat.lor got (2 ^ ((m.addr - m.unit) / 64))
def gotAll (got grain : Nat) : Bool := got == 2 ^ (unitBytes grain / 64) - 1

/-- Lines that an agent's cache holds (R297); a proxy's lines are those of the slices (R323). -/
def cacheLines (agent : Nat) : Nat := if agent < 24 then 512 else 16384

/-! ### The remote proxy (R298, R323) -/

/-- Whether an address belongs to another package. -/
def State.remote (s : State) (pa : Nat) : Bool := pa / 2 ^ 46 != s.pkg

/-- Agent number of this package's proxy at the home of another package's address (R298). -/
def State.proxyAgent (s : State) (pa : Nat) : Nat := 28 + (s.pkg + 7 - pa / 2 ^ 46 % 4) % 4

/-- Package of the peer that an agent number of 28 to 30 names at a home of this package (R298). -/
def State.peerPackage (s : State) (agent : Nat) : Nat := (s.pkg + agent - 27) % 4

/-- Whether a message comes to this package's proxy from a remote home or from agents there. -/
def State.toProxy (s : State) (m : Msg) : Bool := s.remote m.unit && m.dst == s.proxyAgent m.unit

/-- Whether a message leaves this package over a Kolte port: what its proxy sends, what goes to a peer's proxy, and a home
access of a remote unit that no slice may hold (R323, R401). -/
def State.crosses (s : State) (m : Msg) : Bool :=
  if s.remote m.unit then m.src == s.proxyAgent m.unit || (m.cls == 0 && m.direct)
  else 28 ≤ m.dst && m.dst < 31

/-- Whether the proxy's state of a unit lets the proxy serve a local request (R323). -/
def State.proxyHolds (s : State) (m : Msg) : Bool :=
  let st := (s.cacheAt (s.proxyAgent m.unit) m.unit m.grain).st
  st == .m || ((m.kind == .getS || m.kind == .homeRead) && (st == .s || st == .o))

/-! ### Watches (R336, R348) -/

/-- Whether a held translation serves an address of a partition. -/
def TlbEnt.serves (e : TlbEnt) (part va : Nat) : Bool := e.part == part && e.vpage == va % 2 ^ 57 / 2 ^ e.lg

/-- The translation that a structure holds for an address. -/
def State.tlbFind (s : State) (id part va : Nat) : Option TlbEnt :=
  (s.tlbs.get [] id).find? fun e => e.serves part va

/-- Slots of a region that hold a byte of a written span become stale (R336). -/
def Region.touch (r : Region) (pa span : Nat) : Region :=
  { r with slots := r.slots.map fun x => if pa / span == x.line * 256 / span then { x with stale := true } else x }

/-- Slots become stale in the open regions of the control states that `who` names. -/
def State.staleWhere (s : State) (who : Nat → Bool) (pa grain : Nat) : State :=
  { s with ctl := s.ctl.map fun e =>
      if !who e.1 then e
      else match e.2.region with
        | none => e
        | some r => (e.1, { e.2 with region := some (r.touch pa (if grain == 2 then 1024 else 256)) }) }

/-- A write to a line makes the slots that hold it stale, but for the writer's own (R336). -/
def State.markStale (s : State) (writer : Option Nat) (pa grain : Nat) : State :=
  s.staleWhere (fun k => writer != some k) pa grain

/-- A grant of M marks the slots of control engines, which watch at the home (R336). -/
def State.grantStale (s : State) (pa grain : Nat) : State := s.staleWhere (fun k => k < 32 * 2048) pa grain

/-- An Inv, FwdGetM or recall at a vision core marks the slots of its threads (R336). -/
def State.probeStale (s : State) (agent pa grain : Nat) : State :=
  if 24 ≤ agent then s else s.staleWhere (fun k => 32 * 2048 ≤ k && (k / 32 - 2048) / 48 == agent) pa grain

/-- Physical address that a waitl watches, by a translation still held (R348). -/
def State.watched (s : State) (c : Ctl) : Option Nat :=
  match c.waiting with
  | some (.waitl va _ _ _) =>
    (s.tlbs.findSome? fun t => t.2.find? fun e => e.serves (cardPart (s.slotAt c.job).card) va).map fun e =>
      e.ppage * 2 ^ e.lg + va % 2 ^ e.lg
  | _ => none

/-- Threads of a vision core that watch a location of an evicted unit lose their watch (R348). -/
def State.loseWatch (s : State) (agent lo n : Nat) : State :=
  if 24 ≤ agent then s
  else
    { s with ctl := s.ctl.map fun e =>
        if 32 * 2048 ≤ e.1 && (e.1 / 32 - 2048) / 48 == agent then
          match s.watched e.2 with
          | some pa => if lo ≤ pa && pa < lo + n then (e.1, { e.2 with waitLost := true }) else e
          | none => e
        else e }

/-! ### Eviction from an agent's cache (R299, R302) -/

/-- Whether a unit is leaving its cache: it waits for nothing but its PutAck (R302). -/
def CState.leaving : CState → Bool
  | .miA => true | .oiA => true | .siA => true | .iiA => true
  | _ => false

/-- The 2-bit field of a tag that shows a unit's state, 0 I, 1 S, 2 O, 3 M; of a unit between two, what its holder may still
do (R299, R300, log 43). -/
def CState.field : CState → Nat
  | .m => 3 | .miA => 3
  | .o => 2 | .omA => 2 | .oiA => 2
  | .s => 1 | .smAD => 1 | .smA => 1 | .siA => 1
  | _ => 0

/-- The four state fields of a line's tag in an agent's cache, the first in the low bits: field i for sector i under grain 64,
field 0 for the line under grain 256, and under grain 1024 field 0 of the tag of the group's lowest line (R299). -/
def State.tagFields (s : State) (agent line : Nat) : Nat :=
  s.caches.foldl (fun n e =>
    if keyAgent e.1 == agent && keyUnit e.1 / 256 == line then
      n + e.2.st.field * 4 ^ (if e.2.grain == 0 then keyUnit e.1 / 64 % 4 else 0)
    else n) 0

/-- Lines that an agent's units occupy; a line all of whose units are leaving has been given up (R299, log 8). -/
def State.linesHeld (s : State) (agent : Nat) : List Nat :=
  s.caches.foldl (fun acc e =>
    if keyAgent e.1 == agent && !e.2.st.leaving then
      (upTo (maxN 1 (unitBytes e.2.grain / 256))).foldl (fun acc i =>
        let l := keyUnit e.1 / 256 + i
        if acc.contains l then acc else acc ++ [l]) acc
    else acc) []

/-- The request that evicts a stable unit, and the state that waits for its PutAck (R302). -/
def evictOf : CState → Option (MsgKind × CState)
  | .s => some (.putS, .siA)
  | .m => some (.putM, .miA)
  | .o => some (.putO, .oiA)
  | _ => none

/-- One unit of an agent evicted. -/
def State.evictUnit (s : State) (agent : Nat) (e : Nat × CUnit) : State :=
  match evictOf e.2.st with
  | none => s
  | some (k, st) =>
    let unit := keyUnit e.1
    (((s.setCache agent unit e.2.grain { e.2 with st := st }).loseWatch agent unit (unitBytes e.2.grain))).send
      { kind := k, unit := unit, grain := e.2.grain, part := e.2.part, slot := e.2.slot, src := agent, dst := 31 }

/-- The units that leave an agent's cache with a unit: those of its line, or of its group of four lines (R299). -/
def State.lineMates (s : State) (agent : Nat) (e : Nat × CUnit) : Tab CUnit :=
  let n := maxN 256 (unitBytes e.2.grain)
  let lo := keyUnit e.1 / n * n
  s.caches.filter fun x => keyAgent x.1 == agent && cacheMeets x lo n

/-- One line of an agent evicted: of those all of whose units are in stable states, the one with the unit held longest
(log 8). -/
def State.evictOne (s : State) (agent : Nat) : State :=
  let held := s.caches.filter fun e => keyAgent e.1 == agent && (evictOf e.2.st).isSome &&
    (s.lineMates agent e).all fun x => (evictOf x.2.st).isSome
  match held with
  | [] => s
  | e :: es =>
    let v := es.foldl (fun a b => if b.2.age < a.2.age then b else a) e
    (s.lineMates agent v).foldl (fun s x => s.evictUnit agent x) s

/-- Whether an agent's cache has room for the lines of a unit (R297). -/
def State.hasRoom (s : State) (agent unit grain : Nat) : Bool :=
  28 ≤ agent || 4 * s.caches.length + 4 ≤ cacheLines agent ||
  let held := s.linesHeld agent
  let new := (upTo (maxN 1 (unitBytes grain / 256))).filter fun i => !held.contains (unit / 256 + i)
  held.length + new.length ≤ cacheLines agent

/-- Lines evicted from an agent's cache until a unit has room, or none is left that may go. -/
def State.makeRoom (s : State) (agent unit grain : Nat) : Nat → State
  | 0 => s
  | k + 1 => if s.hasRoom agent unit grain then s else (s.evictOne agent).makeRoom agent unit grain k

/-! ### Contention predictor (R331) -/

/-- Key of the predictor counter of a location. -/
def predictorKey (agent pa : Nat) : Nat := 256 * agent + Nat.xor (bitsN pa 8 8) (bitsN pa 16 8)

/-- Whether the predictor sends an atomic far. -/
def State.predictFar (s : State) (agent pa : Nat) : Bool := 2 ≤ s.predictor.get 0 (predictorKey agent pa)

/-- The predictor's update when an atomic completes. -/
def State.predictUpdate (s : State) (agent pa : Nat) (contended : Bool) : State :=
  let k := predictorKey agent pa
  let v := s.predictor.get 0 k
  { s with predictor := s.predictor.set 0 k (if contended then minN 3 (v + 1) else v - 1) }

/-! ### Accesses -/

/-- An access that has met a transient state is added to those that wait; one that asks for nothing new is not. -/
def CUnit.stall (c : CUnit) (x : CStall) : CUnit :=
  if x.atomic.isNone && c.stalled.contains x then c else { c with stalled := c.stalled ++ [x] }

/-- An access of a caching agent to a unit of a normal cached page (R300, R302): from I it asks for the unit, once the cache has
room for it (R297), and a store to S or O asks for ownership; in a transient state that gives no hit the access waits in the
cache. A near atomic that finds M completes (R331). -/
def State.cacheAccess (s : State) (agent pa grain part : Nat) (slot : Option Nat) (store : Bool) (atomic : Option Nat) :
    State :=
  let (unit, g) := s.cacheTag agent pa grain
  let c := s.cacheAt agent unit g
  let ask (s : State) (k : MsgKind) (st : CState) : State :=
    (s.setCache agent unit g { c with st := st, grain := g, part := part, slot := slot, need := 0, got := 0,
                                      contended := false, atomic := atomic, age := s.clock }).send
      { kind := k, unit := unit, grain := g, part := part, slot := slot, src := agent, dst := 31 }
  let access : CStall := { store := store, atomic := atomic, part := part, slot := slot }
  let wait : State := s.setCache agent unit g (c.stall access)
  match c.st with
  | .i =>
    let s1 := s.makeRoom agent unit g 4
    if !s1.hasRoom agent unit g then
      let w : RoomWait := { agent := agent, pa := pa, grain := grain, access := access }
      { s1 with roomWait := if atomic.isNone && s1.roomWait.contains w then s1.roomWait else s1.roomWait ++ [w] }
    else if store then ask s1 .getM .imAD else ask s1 .getS .isD
  | .s => if store then ask s .upg .smAD else s
  | .o => if store then ask s .upg .omA else s
  | .m => match atomic with
    | some a => s.predictUpdate agent a false
    | none => s
  | .smAD => if store then wait else s
  | .smA => if store then wait else s
  | .omA => if store then wait else s
  | _ => wait

/-- The accesses that waited are performed when their unit has left the transient state (R302). -/
def State.replay (s : State) (agent unit grain : Nat) (l : List CStall) : State :=
  l.foldl (fun s x => s.cacheAccess agent (x.atomic.getD unit) grain x.part x.slot x.store x.atomic) s

/-- The accesses of an agent that wait for room are made anew (R297). -/
def State.wakeRoom (s : State) (agent : Nat) : State :=
  if s.roomWait == [] then s
  else
    (s.roomWait.filter (·.agent == agent)).foldl (fun s w =>
      s.cacheAccess agent w.pa w.grain w.access.part w.access.slot w.access.store w.access.atomic)
      { s with roomWait := s.roomWait.filter (·.agent != agent) }

/-- An access by an agent that caches nothing, and an access to an uncached or device page: a home operation (R305,
R401). -/
def State.homeAccess (s : State) (ep pa n mtype grain part : Nat) (slot : Option Nat) (write : Bool)
    (undo : List (Nat × Byte × Byte) := []) : State :=
  s.send { kind := if write then .homeWrite else .homeRead, unit := unitOf grain pa, grain := grain, mtype := mtype,
           part := part, slot := slot, src := 31, dst := 31, addr := pa, len := n, ep := ep, undo := undo }

/-- What an access does to the caches and the homes. `agent` is 31 where the accessor caches nothing, and `ep` its
endpoint. -/
def State.noteAccess (s : State) (agent ep pa n mtype grain part : Nat) (slot : Option Nat) (write : Bool)
    (undo : List (Nat × Byte × Byte) := []) : State :=
  if mtype == 0 && agent < 31 then s.cacheAccess agent pa grain part slot write none
  else s.homeAccess ep pa n mtype grain part slot write undo

/-- An atomic of a caching agent on a normal cached page placed near: the unit is taken in M (R330). -/
def State.nearAtomic (s : State) (agent pa grain part : Nat) (slot : Option Nat) : State :=
  s.cacheAccess agent pa grain part slot true (some pa)

/-- An atomic placed far: AtomFar goes to the home (R330). -/
def State.farAtomic (s : State) (agent ep pa n mtype grain part : Nat) (slot : Option Nat)
    (undo : List (Nat × Byte × Byte) := []) : State :=
  s.send { kind := .atomFar, unit := unitOf grain pa, grain := grain, mtype := mtype, part := part, slot := slot,
           src := agent, dst := 31, addr := pa, len := n, ep := ep, undo := undo }

/-! ### The agent's side (R302) -/

/-- What a cache does with a home-out message of the columns FwdGetS, FwdGetM and Inv. -/
inductive Answer where
  | error
  | defer
  /-- Next state, and the answer sent to the requester. -/
  | to (st : CState) (reply : MsgKind)
deriving DecidableEq, Repr

/-- The cells of R302 under FwdGetS, FwdGetM and Inv; `rc` holds where the requester is the home. -/
def answerOf (kind : MsgKind) (rc : Bool) (st : CState) : Answer :=
  let out : MsgKind := if rc then .recalled else .data
  match kind with
  | .fwdGetS =>
    match st with
    | .i => .to .i .probeMiss
    | .iiA => .to .iiA .probeMiss
    | .isD => .defer
    | .imAD => .defer
    | .imA => .defer
    | .smAD => .defer
    | .smA => .defer
    | .m => .to .o out
    | .o => .to .o out
    | .omA => .to .omA out
    | .miA => .to .oiA out
    | .oiA => .to .oiA out
    | .s => .error
    | .siA => .error
  | .fwdGetM =>
    match st with
    | .i => .to .i .probeMiss
    | .iiA => .to .iiA .probeMiss
    | .isD => .defer
    | .imAD => .defer
    | .imA => .defer
    | .smAD => .defer
    | .smA => .defer
    | .m => .to .i out
    | .o => .to .i out
    | .omA => .to .imAD out
    | .miA => .to .iiA out
    | .oiA => .to .iiA out
    | .s => .error
    | .siA => .error
  | .inv =>
    match st with
    | .i => .to .i .probeMiss
    | .iiA => .to .iiA .probeMiss
    | .isD => .defer
    | .imAD => if rc then .defer else .to .imAD .probeMiss
    | .imA => if rc then .defer else .to .imA .probeMiss
    | .smA => if rc then .defer else .to .smA .probeMiss
    | .s => .to .i .invAck
    | .smAD => .to .imAD .invAck
    | .siA => .to .iiA .invAck
    | .m => if rc then .to .i .recalled else .error
    | .o => if rc then .to .i .recalled else .error
    | .omA => if rc then .to .imAD .recalled else .error
    | .miA => if rc then .to .iiA .recalled else .error
    | .oiA => if rc then .to .iiA .recalled else .error
  | _ => .error

/-- A message that the protocol cannot bring is discarded and counted (R302). -/
def State.protocolError (s : State) (agent : Nat) : State :=
  { s with protocolErrors := s.protocolErrors.set 0 agent (s.protocolErrors.get 0 agent + 1) }

/-- Messages that an agent's deferral queue holds (R302). -/
def State.deferredCount (s : State) (agent : Nat) : Nat :=
  s.caches.foldl (fun n e => if keyAgent e.1 == agent then n + e.2.deferred.length else n) 0

/-- A home-out message applied to a cache: the state after it, or none where it stays in its channel. -/
def State.applyHomeOut (s0 : State) (id : Nat) (m : Msg) : Option State :=
  let s := if m.kind == .fwdGetS then s0 else s0.probeStale m.dst m.unit m.grain
  let c := s.cacheAt m.dst m.unit m.grain
  match answerOf m.kind (m.req == 31) c.st with
  | .error => some ((s.land id).protocolError m.dst)
  | .defer =>
    if 64 ≤ s.deferredCount m.dst then none
    else some (s.setCache m.dst m.unit m.grain { c with deferred := c.deferred ++ [id] })
  | .to st reply =>
    some (((s.land id).setCache m.dst m.unit m.grain { c with st := st }).sendOut
      { kind := reply, unit := m.unit, grain := m.grain, mtype := m.mtype, part := m.part, slot := m.slot, src := m.dst,
        dst := m.req, req := m.req, n := m.n, op := m.op })

/-- Deferred messages applied in arrival order by the row of the state reached (R302); those of a proxy arrive again, as they
first recall the local copies (R323). -/
def State.applyDeferred (s : State) (agent unit grain : Nat) : State :=
  let c := s.cacheAt agent unit grain
  let s1 := s.setCache agent unit grain { c with deferred := [] }
  if 28 ≤ agent then s1
  else
    c.deferred.foldl (fun s id =>
      match s.flights.find id with
      | some (.msg m) => (s.applyHomeOut id m).getD s
      | _ => s) s1

/-- The cache reaches M: a near atomic that waited for it completes, and the stores that waited are performed; then the
deferred messages (R302, R331). -/
def State.reachM (s : State) (agent unit grain : Nat) (c : CUnit) : State :=
  let s1 := s.setCache agent unit grain { c with st := .m, need := 0, atomic := none, contended := false, stalled := [] }
  let s2 := match c.atomic with
    | some pa => s1.predictUpdate agent pa c.contended
    | none => s1
  (s2.replay agent unit grain c.stalled).applyDeferred agent unit grain

/-- The cache reaches S from IS_D: the deferred messages, then the accesses that waited (R302). -/
def State.reachS (s : State) (agent unit grain : Nat) (c : CUnit) : State :=
  ((s.setCache agent unit grain { c with st := .s, need := 0, stalled := [] }).applyDeferred agent unit grain).replay
    agent unit grain c.stalled

/-- Data or a Grant arrives at its requester (R302). -/
def State.takeData (s : State) (m : Msg) : State :=
  let a := m.dst
  let c := s.cacheAt a m.unit m.grain
  let need := c.need + (m.n : Int)
  let met := c.contended || 0 < m.n || m.src != 31
  let c1 := { c with need := need, contended := met }
  let collect (wait : CState) : State :=
    if need == 0 then s.reachM a m.unit m.grain c1 else s.setCache a m.unit m.grain { c1 with st := wait }
  match c.st, m.kind with
  | .isD, .data => s.reachS a m.unit m.grain c
  | .imAD, .data => collect .imA
  | .smAD, .data => collect .smA
  | .smAD, .grant => collect .smA
  | .omA, .grant => collect .smA
  | _, _ => s.protocolError a

/-- A sector of a unit's data arrives at its requester, or its Grant: the data is there with its last sector (R299, R302). -/
def State.takeSector (s : State) (m : Msg) : State :=
  let c := s.cacheAt m.dst m.unit m.grain
  if m.kind != .data || !(c.st == .isD || c.st == .imAD || c.st == .smAD) then s.takeData m
  else
    let got := gotSector c.got m
    let all := gotAll got m.grain
    let s1 := s.setCache m.dst m.unit m.grain { c with got := if all then 0 else got }
    if all then s1.takeData m else s1

/-- An invalidation answer arrives at a requester (R302). -/
def State.takeAnswer (s : State) (m : Msg) : State :=
  let a := m.dst
  let c := s.cacheAt a m.unit m.grain
  let c1 := { c with need := c.need - 1, contended := true }
  let wait : State := s.setCache a m.unit m.grain c1
  match c.st with
  | .imAD => wait
  | .smAD => wait
  | .omA => wait
  | .imA => if c1.need == 0 then s.reachM a m.unit m.grain c1 else wait
  | .smA => if c1.need == 0 then s.reachM a m.unit m.grain c1 else wait
  | _ => s.protocolError a

/-- A PutAck arrives: the unit is in I, and the accesses that waited ask anew (R302). -/
def State.takePutAck (s : State) (m : Msg) : State :=
  let c := s.cacheAt m.dst m.unit m.grain
  let gone : State := (s.setCache m.dst m.unit m.grain {}).replay m.dst m.unit m.grain c.stalled
  match c.st with
  | .miA => gone
  | .oiA => gone
  | .siA => gone
  | .iiA => gone
  | _ => s.protocolError m.dst

/-- A NackMoved arrives: the request is sent again to the new address, and the unit of a cache's request moves there
(R316). What was deferred for the old address arrives again there. An owner's Upg is sent as GetM: its copy stays at the old
address in O, from which the migration recalls its data, and the new address is asked from IM_AD (log 5). Where the cache
holds the new address already, its accesses are made there. -/
def State.takeNack (s : State) (m : Msg) : State :=
  let c := s.cacheAt m.dst m.unit m.grain
  let to_ (a : Nat) : Nat := m.moved + (a - m.unit)
  let again (k : MsgKind) (st : CState) (left : CUnit) : State :=
    let c1 := { c with st := st, atomic := c.atomic.map to_, got := 0, deferred := [],
                       stalled := c.stalled.map fun x => { x with atomic := x.atomic.map to_ } }
    let s1 := s.setCache m.dst m.unit m.grain left
    if (s1.cacheAt m.dst m.moved m.grain).st != .i then
      s1.replay m.dst m.moved m.grain
        ({ store := k != .getS, atomic := c1.atomic, part := c.part, slot := c.slot } :: c1.stalled)
    else
      (s1.setCache m.dst m.moved m.grain c1).send
        { kind := k, unit := m.moved, grain := m.grain, part := m.part, slot := m.slot, src := m.dst, dst := 31 }
  if m.asked == .atomFar then
    s.farAtomic m.dst m.ep (to_ m.addr) m.len m.mtype m.grain m.part m.slot
  else
    match c.st with
    | .isD => again .getS .isD {}
    | .imAD => again .getM .imAD {}
    | .smAD => again .upg .smAD {}
    | .omA => again .getM .imAD { c with st := .o, atomic := none, stalled := [], contended := false }
    | _ => s.protocolError m.dst

/-! ### The directory (R306, R307) -/

/-- The slice of this package that acts as home for an address: its home, or the home's proxy (R298, R323). -/
def homeOf (pa : Nat) : Nat := homeSlice pa

/-- Directory set and slice set of an address (R306, R309). -/
def dirSet (pa : Nat) : Nat := (pa % 2 ^ 46 / 1024 / 80 * 16 + pa / 64 % 16) % 4096
def lineSet (pa : Nat) : Nat := pa % 2 ^ 46 / 1024 / 80 % 128 * 4 + pa / 256 % 4

/-- Keys of the directory ways and of the slice ways of an address. -/
def dirWays (pa : Nat) : List Nat := (upTo 16).map fun w => 65536 * homeOf pa + 16 * dirSet pa + w
def lineWays (pa : Nat) : List Nat := (upTo 16).map fun w => 8192 * homeOf pa + 16 * lineSet pa + w

/-- Directory entry of a unit with its key. -/
def State.dirFind (s : State) (unit grain : Nat) : Option (Nat × DirEnt) :=
  (dirWays unit).findSome? fun k =>
    match s.dir.find k with
    | some e => if e.unit == unit && e.grain == grain then some (k, e) else none
    | none => none

/-- An entry of another grain that covers some byte of a unit (R314). -/
def State.dirMismatch (s : State) (unit grain : Nat) : Option (Nat × DirEnt) :=
  s.dir.findSome? fun e =>
    if e.1 / 65536 == homeOf unit && e.2.grain != grain && e.2.unit < unit + unitBytes grain &&
       unit < e.2.unit + unitBytes e.2.grain then some e else none

/-- An entry replaced; one with no holder is freed (R306). -/
def State.setDir (s : State) (k : Nat) (e : DirEnt) : State :=
  if e.state == 0 then { s with dir := s.dir.del k } else { s with dir := s.dir.put k e }

/-- Agents that an Inv goes to: every sharer but one agent and the owner (R303, R307). -/
def DirEnt.others (e : DirEnt) (but : Nat) : List Nat :=
  (if e.coarse then (upTo 31).filter fun a => bitN e.groups (a / 4) else e.sharers).filter fun a =>
    a != but && some a != e.owner

/-- Whether an agent is recorded as a sharer. -/
def DirEnt.shares (e : DirEnt) (a : Nat) : Bool := if e.coarse then bitN e.groups (a / 4) else e.sharers.contains a

/-- Groups of a list of agents as a vector (R307). -/
def groupBits (l : List Nat) : Nat := l.foldl (fun g a => Nat.lor g (2 ^ (a / 4))) 0

/-- A sharer added: precise while the holders fit four pointers, coarse beyond (R307). -/
def DirEnt.add (e : DirEnt) (a : Nat) : DirEnt :=
  if e.coarse then { e with groups := Nat.lor e.groups (groupBits [a]) }
  else
    let l := if e.sharers.contains a then e.sharers else e.sharers ++ [a]
    if l.length + b2n e.owner.isSome ≤ 4 then { e with sharers := l }
    else { e with coarse := true, groups := groupBits l, sharers := [] }

/-- A sharer removed: in coarse mode nothing is (R307). -/
def DirEnt.remove (e : DirEnt) (a : Nat) : DirEnt := if e.coarse then e else { e with sharers := e.sharers.erase a }

/-- Whether any sharer is recorded. -/
def DirEnt.shared (e : DirEnt) : Bool := if e.coarse then e.groups != 0 else e.sharers != []

/-- The entry of a unit with one owner (R303). -/
def DirEnt.owned (e : DirEnt) (a : Nat) : DirEnt :=
  { e with state := 3, owner := some a, sharers := [], coarse := false, groups := 0 }

/-- Home operations of a slice that hold a unit (R304, R305). -/
def State.unitHeld (s : State) (unit grain : Nat) : Bool :=
  s.flights.any fun e => match e.2 with
    | .home h => h.unit < unit + unitBytes grain && unit < h.unit + unitBytes h.grain
    | _ => false

/-- Back-invalidations pending at a home (R306). -/
def State.backInvs (s : State) (home : Nat) : Nat :=
  (s.flights.filter fun e => match e.2 with
    | .home h => h.kind == .backInv && homeOf h.unit == home
    | _ => false).length

/-! ### Slice lines (R309 to R312) -/

/-- Slice line of an address with its key. -/
def State.lineFind (s : State) (pa : Nat) : Option (Nat × Line) :=
  (lineWays pa).findSome? fun k =>
    match s.lines.find k with
    | some l => if l.line == pa / 256 then some (k, l) else none
    | none => none

/-- A sector request sent to its controller (R364); only one made for a job's own request may be held. -/
def State.charge (s : State) (part : Nat) (slot : Option Nat) (pa : Nat) (holds : Bool) : State :=
  s.launch (.sector { part := part, slot := slot, pa := pa, holds := holds && slot.isSome })

/-- The sector request of a home operation that works on external memory itself; a discarded one takes back what its write did
there (R400). -/
def State.chargeHome (s : State) (part : Nat) (slot : Option Nat) (pa : Nat) (undo : List (Nat × Byte × Byte)) : State :=
  s.launch (.sector { part := part, slot := slot, pa := pa, holds := slot.isSome, undo := undo.filter fun u => u.1 / 64 == pa / 64 })

/-- Whether bytes of a sector are newer than external memory: it is dirty, or was written while it was invalid (R310). -/
def Sector.newer (x : Sector) : Bool := x.d || x.wmask != 0 || x.fillRec != 0

/-- The newer sectors of a line written back, charged to the line's partition (R310); those of a proxy's line go to the peer with
its Put, and into the slice there (R323, log 5). -/
def State.flushLine (s : State) (l : Line) : State :=
  (l.sectors.zipIdx).foldl (fun s x =>
    let pa := 256 * l.line + 64 * x.2
    if !x.1.newer then s
    else if s.remote pa then s.writeBack pa 64
    else (s.writeBack pa 64).charge l.part none pa false) s

/-- The proxy's units of a slice line are evicted with it; local copies are recalled before the Put leaves (R323). -/
def State.evictProxy (s : State) (pa : Nat) : State :=
  if !s.remote pa then s
  else
    let a := s.proxyAgent pa
    (s.caches.filter fun e => keyAgent e.1 == a && cacheMeets e pa 256).foldl (fun s e => s.evictUnit a e) s

/-- One tag of a slice evicted. -/
def State.evictTag (s : State) (k : Nat) (l : Line) : State :=
  let s1 := s.flushLine l
  ({ s1 with lines := s1.lines.del k }.dropKept (256 * l.line) 256).evictProxy (256 * l.line)

/-- A slice line evicted, and with the lowest line of a group of grain 1024 the lines that follow it (R299, R310). -/
def State.evictLine (s : State) (k : Nat) (l : Line) : State :=
  let mates := if l.grain == 2 && !l.follow then s.lines.filter fun e => e.2.follow && e.2.line / 4 == l.line / 4 else []
  mates.foldl (fun s e => s.evictTag e.1 e.2) (s.evictTag k l)

/-- The way of a new line: the lowest free way of the partition's mask, or the one least recently used (R312). -/
def State.lineWay (s : State) (part pa : Nat) : Option Nat :=
  let mask := bits (s.creg_ (slcBase (homeSlice pa) + 8 * part)) 0 16
  let ways := ((lineWays pa).zipIdx.filter fun x => bitN mask x.2).map (·.1)
  match ways.find? fun k => (s.lines.find k).isNone with
  | some k => some k
  | none =>
    match ways with
    | [] => none
    | w :: ws =>
      let age (k : Nat) : Nat := ((s.lines.find k).map (·.age)).getD 0
      some (ws.foldl (fun a b => if age b < age a then b else a) w)

/-- A line of an address brought into its slice, where the partition may allocate (R312). -/
def State.bringTag (s : State) (part pa grain : Nat) (follow : Bool) : State × Option (Nat × Line) :=
  match s.lineWay part pa with
  | none => (s, none)
  | some k =>
    let s1 := match s.lines.find k with
      | some old => s.evictLine k old
      | none => s
    (s1, some (k, { line := pa / 256, part := part, grain := grain, follow := follow, age := s.clock }))

/-- The line of an address found in its slice or brought in; under grain 1024 an upper line of a group follows the tag of
the lowest, which comes first (R299, R312). -/
def State.bringLine (s : State) (part pa grain : Nat) : State × Option (Nat × Line) :=
  match s.lineFind pa with
  | some (k, l) => (s, some (k, { l with age := s.clock }))
  | none =>
    let low := pa / 1024 * 1024
    let follow := grain == 2 && pa / 256 != low / 256
    if follow && (s.lineFind low).isNone then
      match s.bringTag part low 2 false with
      | (s1, none) => (s1, none)
      | (s1, some (k, l)) => { s1 with lines := s1.lines.put k l }.bringTag part pa grain true
    else s.bringTag part pa grain follow

/-- A sector of a line changed. -/
def Line.modSector (l : Line) (i : Nat) (f : Sector → Sector) : Line :=
  { l with sectors := (l.sectors.zipIdx).map fun x => if x.2 == i then f x.1 else x.1 }

/-- A fill of a sector started unless one is pending (R310): its request charges one sector to the requesting partition,
and the fill comes once the request is admitted. -/
def State.startFill (s : State) (part : Nat) (slot : Option Nat) (pa : Nat) (filling : Bool) : State :=
  if filling then s
  else
    s.launch (.sector { part := part, slot := slot, pa := pa / 64 * 64, holds := slot.isSome, fill := true })

/-- The fill of an admitted request comes from external memory (R310). -/
def State.sendFill (s : State) (q : SectorReq) : State :=
  if q.fill then
    s.send { kind := .fill, unit := q.pa, grain := 0, part := q.part, slot := q.slot, src := 31, dst := 31, addr := q.pa,
             len := 64 }
  else s

/-- A home read of one sector: a hit, a fill, or a pass through the slice (R310, R312). -/
def State.sectorRead (s : State) (part : Nat) (slot : Option Nat) (pa grain : Nat) (free : Bool) : State :=
  match s.bringLine part pa grain with
  | (s1, none) => if free then s1 else s1.charge part slot pa true
  | (s1, some (k, l)) =>
    let i := pa / 64 % 4
    let x := l.sectors.getD i {}
    if x.v then { s1 with lines := s1.lines.put k l }
    else
      ({ s1 with lines := s1.lines.put k (l.modSector i fun x => { x with filling := true }) }).startFill part slot pa x.filling

/-- Bytes of a sector written: those of words now wholly written in WMASK, the others in the fill record (R310). -/
def Sector.write (x : Sector) (lo n : Nat) : Sector :=
  if x.v then { x with d := true }
  else
    let written (b : Nat) : Bool := (lo ≤ b && b < lo + n) || bitN x.fillRec b || bitN x.wmask (b / 4)
    let whole (w : Nat) : Bool := (upTo 4).all fun i => written (4 * w + i)
    let wm := (upTo 16).foldl (fun m w => if whole w then Nat.lor m (2 ^ w) else m) 0
    let fr := (upTo 64).foldl (fun m b => if written b && !whole (b / 4) then Nat.lor m (2 ^ b) else m) 0
    if wm == 0xFFFF then { x with v := true, d := true, wmask := 0, fillRec := 0 }
    else { x with wmask := wm, fillRec := fr, filling := true }

/-- A home write of bytes of one sector (R310); without a line it passes through to external memory (R312). -/
def State.sectorWrite (s : State) (part : Nat) (slot : Option Nat) (pa n grain : Nat) (free : Bool)
    (undo : List (Nat × Byte × Byte)) : State :=
  match s.bringLine part pa grain with
  | (s1, none) => let s2 := s1.writeBack pa n; if free then s2 else s2.chargeHome part slot pa undo
  | (s1, some (k, l)) =>
    let i := pa / 64 % 4
    let x := l.sectors.getD i {}
    let y := x.write (pa % 64) n
    let s2 := { s1 with lines := s1.lines.put k (l.modSector i fun _ => y) }
    if y.v then s2 else s2.startFill part slot pa x.filling

/-- A sector of data put into the slice by a Put or a recall: it is dirty (R303, R305). -/
def State.sectorIntoSlice (s : State) (part pa grain : Nat) : State :=
  match s.bringLine part pa grain with
  | (s1, none) => (s1.writeBack pa 64).charge part none pa false
  | (s1, some (k, l)) =>
    { s1 with lines := s1.lines.put k (l.modSector (pa / 64 % 4) fun x =>
        { x with v := true, d := true, wmask := 0, fillRec := 0 }) }

/-- Data of a whole unit put into the slice. -/
def State.unitIntoSlice (s : State) (part unit grain : Nat) : State :=
  (sectorParts 16 unit (unitBytes grain)).foldl (fun s p => s.sectorIntoSlice part p.1 grain) s

/-- Data of a unit taken from the slice or from memory (R303, R310). -/
def State.unitFromSlice (s : State) (part : Nat) (slot : Option Nat) (unit grain : Nat) : State :=
  (sectorParts 16 unit (unitBytes grain)).foldl (fun s p => s.sectorRead part slot p.1 grain false) s

/-- Whether a slice line has a byte of a range. -/
def Line.meets (l : Line) (lo n : Nat) : Bool := lo < 256 * l.line + 256 && 256 * l.line < lo + n

/-- The slice sectors of a range become invalid, and a line with no sector left goes (R318, R401). -/
def State.dropLines (s : State) (lo n : Nat) : State :=
  let kept := s.lines.filterMap fun (e : Nat × Line) =>
    if !e.2.meets lo n then some e
    else
      let l : Line := { e.2 with sectors := (e.2.sectors.zipIdx).map fun x =>
        let a := 256 * e.2.line + 64 * x.2
        if lo < a + 64 && a < lo + n then {} else x.1 }
      if l.sectors.all (· == {}) then none else some (e.1, l)
  { s with lines := kept }.dropKept lo n

/-- The newer sectors of the slice lines of a range charged to their lines' partitions as they are written back (R310,
R401). -/
def State.chargeLines (s : State) (lo n : Nat) : State :=
  s.lines.foldl (fun s e =>
    if !e.2.meets lo n then s
    else (e.2.sectors.zipIdx).foldl (fun s x =>
      let a := 256 * e.2.line + 64 * x.2
      if x.1.newer && lo < a + 64 && a < lo + n then s.charge e.2.part none a false else s) s) s

/-- Dirty marks of the slice lines of a range cleared (R318 cclean). -/
def State.cleanLines (s : State) (lo n : Nat) : State :=
  { s with lines := s.lines.map fun e => (e.1, { e.2 with sectors := (e.2.sectors.zipIdx).map fun x =>
      let a := 256 * e.2.line + 64 * x.2
      if lo < a + 64 && a < lo + n then { x.1 with d := false, wmask := 0, fillRec := 0 } else x.1 }) }

/-- Whether a sector waits for its fill (R311). -/
def State.sectorFilling (s : State) (pa : Nat) : Bool :=
  match s.lineFind pa with
  | some (_, l) => (l.sectors.getD (pa / 64 % 4) {}).filling && !(l.sectors.getD (pa / 64 % 4) {}).v
  | none => false

/-! ### The home's side (R303 to R306) -/

/-- A read-only count of a slice's control block increased: 0x200 grain mismatches, 0x208 ProbeMiss answers, 0x210
back-invalidations (R312). -/
def State.sliceCount (s : State) (home off : Nat) : State :=
  let a := slcBase (home % 80) + off
  s.setCreg a (s.creg_ a + 1)

/-- Whether a home operation on a normal cached page asks the owner alone for its data: reads and cclean (R305, R318). -/
def HomeOp.asks (h : HomeOp) : Bool := h.mtype == 0 && (h.kind == .read || h.kind == .clean)

/-- Whether a home operation works on external memory and not on the slice line: uncached and device pages (R401), and
stash writes that are not to allocate (R313). -/
def HomeOp.direct (h : HomeOp) : Bool := h.mtype != 0 || h.through

/-- Recalls of a home operation sent: a read asks the owner alone, the others invalidate every holder (R305). Answers the
state and how many answers will come. -/
def State.recall (s : State) (id : Nat) (h : HomeOp) (e : DirEnt) : State × Nat :=
  let msg (k : MsgKind) (n a : Nat) : Msg :=
    { kind := k, unit := e.unit, grain := e.grain, mtype := h.mtype, part := h.part, slot := h.slot, src := 31, dst := a,
      req := 31, op := id, n := n }
  if h.asks then
    match e.owner with
    | some a => (s.send (msg .fwdGetS 0 a), 1)
    | none => (s, 0)
  else
    let owner := match e.owner with | some a => [a] | none => []
    let all := owner ++ e.others 31
    (all.foldl (fun s a => s.send (msg .inv all.length a)) s, all.length)

/-- The sectors of a range that are newer than external memory: those that the slice lines say so of, and those of which some
byte is (R310, log 5). -/
def State.newerSectors (s : State) (lo n : Nat) : List Nat :=
  let ofLine (l : Line) : List Nat := l.sectors.zipIdx.filterMap fun x =>
    let a := 4 * l.line + x.2
    if x.1.newer && lo ≤ 64 * a && 64 * a < lo + n then some a else none
  s.dirty.foldl (fun acc e =>
    if lo ≤ e.1 && e.1 < lo + n && !acc.contains (e.1 / 64) then acc ++ [e.1 / 64] else acc)
    (s.lines.flatMap fun e => ofLine e.2)

/-- The newer sectors of a range that reach external memory are charged to a partition and never held (R318, R364). -/
def State.chargeDirty (s : State) (part lo n : Nat) : State :=
  (s.newerSectors lo n).foldl (fun s x => s.charge part none (64 * x) false) s

/-- A cleaned unit's owner keeps it as a sharer (R318). -/
def State.ownersShare (s : State) (lo n : Nat) : State :=
  { s with caches := s.caches.map fun e =>
      if cacheMeets e lo n && (e.2.st == .o || e.2.st == .m) then (e.1, { e.2 with st := .s }) else e }

/-- What a home operation does on the slice once every answer is in (R305, R310, R313, R318, R401). -/
def State.homeAct (s : State) (h : HomeOp) : State :=
  let n := unitBytes h.grain
  let parts := sectorParts 64 h.addr h.len
  let charged (s : State) : State :=
    if h.uncharged then s else parts.foldl (fun s p => s.chargeHome h.part h.slot p.1 h.undo) s
  if h.mtype != 0 then charged (((s.chargeLines h.unit n).writeBack h.unit n).dropLines h.unit n)
  else
    match h.kind with
    | .read => parts.foldl (fun s p => s.sectorRead h.part h.slot p.1 h.grain h.uncharged) s
    | .write =>
      if h.through then charged s
      else parts.foldl (fun s p => s.sectorWrite h.part h.slot p.1 p.2 h.grain h.uncharged h.undo) s
    | .atomic => parts.foldl (fun s p =>
        (s.sectorRead h.part h.slot p.1 h.grain h.uncharged).sectorWrite h.part h.slot p.1 p.2 h.grain
        h.uncharged h.undo) s
    | .backInv => s
    | .clean => (((s.chargeDirty h.part h.unit n).writeBack h.unit n).cleanLines h.unit n).ownersShare h.unit n
    | .flush => ((s.chargeDirty h.part h.unit n).writeBack h.unit n).dropLines h.unit n
    | .inv => (s.dropDirty h.unit n).dropLines h.unit n

/-- Whether a request for a unit waits at its home, other than one (R331). -/
def State.requestWaits (s : State) (unit grain but : Nat) : Bool :=
  (s.homeQueue.get [] (homeOf unit)).any fun i => i != but &&
    match s.flights.find i with
    | some (.msg m) => m.unit < unit + unitBytes grain && unit < m.unit + unitBytes m.grain
    | _ => false

/-- The entry of a unit that a home operation has recalled (R305, R318). -/
def DirEnt.recalled (e : DirEnt) (h : HomeOp) : DirEnt :=
  if !h.asks then { e with state := 0 }
  else if h.kind == .read then (if e.state == 3 then { e with state := 2 } else e)
  else
    match e.owner with
    | some a => { e with owner := none, state := 1 }.add a
    | none => e

/-- A forward or Inv from a remote home answered by the proxy, once the local copies are recalled; a unit that the proxy gives
up leaves its slice lines (R323). -/
def State.answerProbe (s : State) (id : Nat) : State :=
  match s.flights.find id with
  | some (.msg m) =>
    let s1 := (s.applyHomeOut id m).getD s
    if (s1.cacheAt m.dst m.unit m.grain).st == .i then s1.dropLines m.unit (unitBytes m.grain) else s1
  | _ => s

/-- The home's answer to what asked for an operation: the result of a far atomic to an agent, and to an endpoint that holds no
cache the data it read, sector by sector (R299, R305, R330). -/
def State.homeReply (s : State) (h : HomeOp) (contended : Bool) : State :=
  let m : Msg := { kind := .data, unit := h.unit, grain := h.grain, mtype := h.mtype, part := h.part, slot := h.slot, src := 31, dst := h.agent,
                   addr := h.addr, len := h.len, ep := h.ep, contended := contended }
  if h.agent == 31 && h.ep == 200 then s
  else if h.kind == .atomic then s.send { m with kind := .atomResp }
  else if h.kind == .read then (sectorParts 64 h.addr h.len).foldl (fun s p => s.send { m with addr := p.1, len := p.2 }) s
  else s

/-- A home operation ends: it acts on the slice, the entry takes its next form, what asked for it is answered, and the unit is
released (R305, R323, R331). -/
def State.homeFinish (s : State) (id : Nat) (h : HomeOp) : State :=
  let s1 := (s.land id).homeAct h
  let s2 := match s1.dirFind h.unit h.grain with
    | some (k, e) => s1.setDir k (e.recalled h)
    | none => s1
  let s3 := match h.probe with
    | some i => s2.answerProbe i
    | none => s2
  s3.homeReply h (h.contended || s.requestWaits h.unit h.grain h.req)

/-- A home operation begins on a unit that nothing holds: its recalls go out, and where no answer is awaited it acts at once
(R305). -/
def State.homeBegin (s : State) (h : HomeOp) : State :=
  let id := s.nextId
  match s.dirFind h.unit h.grain with
  | none => (s.launch (.home h)).homeFinish id h
  | some (_, e) =>
    let s1 := s.launch (.home h)
    let (s2, n) := s1.recall id h e
    let held := (match e.owner with | some a => [a] | none => []) ++ e.others 31
    let h1 := { h with waiting := n, contended := h.contended || held.any (· != h.agent) }
    if n == 0 then s2.homeFinish id h1 else s2.setFlight id (.home h1)

/-- An answer to a home operation's recall arrives (R305): recalled data goes sector by sector into the slice line, or to
external memory where the operation works on that (R401) and is charged there; the owner has answered with its last sector. -/
def State.homeAnswer (s : State) (m : Msg) : State :=
  match s.flights.find m.op with
  | some (.home h) =>
    let data := m.kind == .recalled
    let s1 :=
      if !data || h.kind == .inv then s
      else if h.direct then (s.writeBack m.addr m.len).charge h.part none m.addr false
      else s.sectorIntoSlice h.part m.addr m.grain
    let s2 := if m.kind == .probeMiss then s1.sliceCount (homeOf m.unit) 0x208 else s1
    let got := if data then gotSector h.got m else h.got
    let h1 := { h with got := got, waiting := if !data || gotAll got m.grain then h.waiting - 1 else h.waiting }
    if h1.waiting == 0 then s2.homeFinish m.op h1 else s2.setFlight m.op (.home h1)
  | _ => s

/-- The back-invalidation of an entry: a write operation without the write (R306). -/
def State.backInvalidate (s : State) (part : Nat) (e : DirEnt) : State :=
  (s.sliceCount (homeOf e.unit) 0x210).homeBegin
    { kind := .backInv, unit := e.unit, grain := e.grain, mtype := 0, part := part, slot := none, agent := 31, addr := e.unit,
      len := 0, waiting := 0 }

/-- A directory way for a new entry: a free one, or the back-invalidation of the way allocated least recently that no home
operation holds (R306). -/
def State.dirAlloc (s : State) (unit part : Nat) : State × Option Nat :=
  let ways := dirWays unit
  match ways.find? fun k => (s.dir.find k).isNone with
  | some k => (s, some k)
  | none =>
    let free := ways.filter fun k =>
      match s.dir.find k with | some e => !s.unitHeld e.unit e.grain | none => false
    match free with
    | [] => (s, none)
    | w :: ws =>
      if 32 ≤ s.backInvs (homeOf unit) then (s, none)
      else
        let age (k : Nat) : Nat := ((s.dir.find k).map (·.age)).getD 0
        let v := ws.foldl (fun a b => if age b < age a then b else a) w
        match s.dir.find v with
        | none => (s, none)
        | some e => (s.backInvalidate part e, none)

/-- A reply or forward of a home to a request (R303). -/
def Msg.homeOut (m : Msg) (k : MsgKind) (dst n : Nat) : Msg :=
  { kind := k, unit := m.unit, grain := m.grain, part := m.part, slot := m.slot, src := 31, dst := dst, req := m.src, n := n }

/-- Invs sent to every other sharer of an entry on behalf of a requester. -/
def State.invSharers (s : State) (m : Msg) (e : DirEnt) : State × Nat :=
  let l := e.others m.src
  (l.foldl (fun s a => s.send (m.homeOut .inv a l.length)) s, l.length)

/-- GetS, GetM and Upg served by the table of R303, and a grant of M marks what R336 says; not done where an entry is wanting and none is free yet. -/
def State.serveRequest (s0 : State) (m : Msg) : State × Bool :=
  let r := m.src
  let s := if m.kind == .getS then s0 else s0.grantStale m.unit m.grain
  match s.dirFind m.unit m.grain with
  | none =>
    match s.dirAlloc m.unit m.part with
    | (s1, none) => (s1, false)
    | (s1, some k) =>
      let fresh : DirEnt := { unit := m.unit, grain := m.grain, state := 1, age := s1.clock }
      let e := if m.kind == .getS then fresh.add r else fresh.owned r
      (((s1.setDir k e).unitFromSlice m.part m.slot m.unit m.grain).sendUnit (m.homeOut .data r 0), true)
  | some (k, e) =>
    let own := e.owner == some r
    if m.kind == .getS then
      match e.state, e.owner with
      | 1, _ => (((s.setDir k (e.add r)).unitFromSlice m.part m.slot m.unit m.grain).sendUnit (m.homeOut .data r 0), true)
      | _, some x => ((s.setDir k { e.add r with state := 2 }).send (m.homeOut .fwdGetS x 0), true)
      | _, none => (s, true)
    else if e.state == 1 then
      let (s1, n) := s.invSharers m e
      if m.kind == .upg && e.shares r then ((s1.setDir k (e.owned r)).send (m.homeOut .grant r n), true)
      else (((s1.setDir k (e.owned r)).unitFromSlice m.part m.slot m.unit m.grain).sendUnit (m.homeOut .data r n), true)
    else if m.kind == .upg && own then
      let (s1, n) := s.invSharers m e
      ((s1.setDir k (e.owned r)).send (m.homeOut .grant r n), true)
    else
      match e.owner with
      | none => (s, true)
      | some x =>
        let (s1, n) := s.invSharers m e
        ((s1.setDir k (e.owned r)).send (m.homeOut .fwdGetM x n), true)

/-- A local request for a unit of another package that the proxy may not serve yet: the proxy asks the remote home, and the
request waits (R323). -/
def State.proxyAsk (s : State) (m : Msg) : State :=
  s.cacheAccess (s.proxyAgent m.unit) m.unit m.grain m.part m.slot (m.kind != .getS && m.kind != .homeRead) none

/-- GetS, GetM and Upg at the home, or at the proxy for a unit of another package (R303, R323). -/
def State.serveAt (s : State) (m : Msg) : State × Bool :=
  if s.remote m.unit && !s.proxyHolds m then (s.proxyAsk m, false) else s.serveRequest m

/-- A sector of data for the proxy stands in its slice line, valid and clean (R323). -/
def State.proxySector (s : State) (m : Msg) (pa : Nat) : State :=
  match s.bringLine m.part pa m.grain with
  | (s1, none) => s1
  | (s1, some (k, l)) =>
    { s1 with lines := s1.lines.put k (l.modSector (pa / 64 % 4) fun x => { x with v := true }) }

/-- The data of a whole unit for the proxy. -/
def State.proxyData (s : State) (m : Msg) : State :=
  (sectorParts 16 m.unit (unitBytes m.grain)).foldl (fun s p => s.proxySector m p.1) s

/-- PutS, PutM and PutO served by the table of R303. -/
def State.servePut (s : State) (m : Msg) : State :=
  let r := m.src
  let s0 := s.send (m.homeOut .putAck r 0)
  match s0.dirFind m.unit m.grain with
  | none => s0
  | some (k, e) =>
    if m.kind == .putS then
      if e.state == 3 then s0
      else
        let e1 := e.remove r
        s0.setDir k (if e.state == 1 && !e1.shared then { e1 with state := 0 } else e1)
    else if e.owner == some r && 2 ≤ e.state then
      let s1 := s0.unitIntoSlice m.part m.unit m.grain
      if e.state == 3 then s1.setDir k { e with state := 0 }
      else s1.setDir k { e with state := if e.shared then 1 else 0, owner := none }
    else s0

/-! ### Migration (R315, R316) -/

/-- A migration entry that has cut a unit of OLD: its new address. -/
def State.movedTo (s : State) (unit : Nat) : Option Nat :=
  s.migrated.findSome? fun e =>
    let reg := migBase + 32 * e.1
    let old := (s.creg_ reg).toNat
    if old ≤ unit && unit < old + (s.creg_ (reg + 16)).toNat then some ((s.creg_ (reg + 8)).toNat + (unit - old)) else none

/-- Whether a unit of NEW is incoming: its copy has not been made (R315). -/
def State.isIncoming (s : State) (unit : Nat) : Bool :=
  s.migrated.any fun e =>
    let reg := migBase + 32 * e.1
    let new := (s.creg_ (reg + 8)).toNat
    new + e.2 ≤ unit && unit < new + (s.creg_ (reg + 16)).toNat

/-! ### Requests at the home (R304) -/

/-- Whether an earlier request for the unit waits in the home's queue. -/
def State.queuedBefore (s : State) (id unit grain : Nat) : Bool :=
  (((s.homeQueue.get [] (homeOf unit)).takeWhile (· != id))).any fun i =>
    match s.flights.find i with
    | some (.msg m) => m.unit < unit + unitBytes grain && unit < m.unit + unitBytes m.grain
    | _ => false

/-- A request put into the home's queue; a full queue leaves it in its channel (R304). -/
def State.enqueue (s : State) (id unit : Nat) : State :=
  let q := s.homeQueue.get [] (homeOf unit)
  if q.contains id || 64 ≤ q.length then s else { s with homeQueue := s.homeQueue.put (homeOf unit) (q ++ [id]) }

/-- A request taken out of the home's queue. -/
def State.dequeue (s : State) (id unit : Nat) : State :=
  { s with homeQueue := s.homeQueue.set [] (homeOf unit) ((s.homeQueue.get [] (homeOf unit)).filter (· != id)) }

/-- An entry of another grain back-invalidated and counted, where its home has room for one more (R306, R314). -/
def State.dropMismatch (s : State) (part : Nat) (e : DirEnt) : State :=
  if 32 ≤ s.backInvs (homeOf e.unit) || s.unitHeld e.unit e.grain then s
  else (s.sliceCount (homeOf e.unit) 0x200).backInvalidate part e

/-- A request is served at the home now, or waits: `f` serves it and answers whether it is done (R304, R314 to R316). -/
def State.atHome (s : State) (id : Nat) (m : Msg) (f : State → State × Bool) : State :=
  match (if m.early then none else s.movedTo m.unit) with
  | some new =>
    let s1 := (s.land id).dequeue id m.unit
    if m.src == 31 then s1.launch (.msg { m with unit := new, addr := new + (m.addr - m.unit) })
    else s1.send { m.homeOut .nackMoved m.src 0 with moved := new, asked := m.kind, addr := m.addr, len := m.len, ep := m.ep }
  | none =>
    if s.unitHeld m.unit m.grain || s.isIncoming m.unit || s.queuedBefore id m.unit m.grain then s.enqueue id m.unit
    else
      match s.dirMismatch m.unit m.grain with
      | some (_, e) => (s.dropMismatch m.part e).enqueue id m.unit
      | none =>
        match f s with
        | (s1, true) => (s1.land id).dequeue id m.unit
        | (s1, false) => s1.enqueue id m.unit

/-- Whether an earlier home-out message of the same slice to the same agent is still on its way (R301). -/
def State.sentBefore (s : State) (id : Nat) (m : Msg) : Bool :=
  m.cls == 1 && m.dst < 31 && s.flights.any fun e => e.1 < id && match e.2 with
    | .msg x => x.cls == 1 && x.dst == m.dst && homeOf x.unit == homeOf m.unit &&
        !(s.cacheAt x.dst x.unit x.grain).deferred.contains e.1
    | _ => false

end Sys2Proof.Machine
end

