-- ==== Sys2Proof/Machine/Network.lean ====
section
/-! DEFINITION. The on-package network: routers, their tables, and the packets that they discard (R320 to R322). -/

namespace Sys2Proof.Machine

/-- Number of router (s, x, y) (R320). -/
def routerNo (s x y : Nat) : Nat := 25 * s + 5 * x + y

/-- The router at the other end of a link port 0 to 6 (R320). -/
def neighbour (r port : Nat) : Nat :=
  let x := r % 25 / 5
  let y := r % 5
  if r < 25 then
    if port == 0 then routerNo 0 x ((y + 1) % 5)
    else if port == 1 then routerNo 0 x ((y + 4) % 5)
    else let k := port - 2; routerNo 1 k ((y + 25 - k * x) % 5)
  else if port == 0 then routerNo 1 x ((y + 2) % 5)
  else if port == 1 then routerNo 1 x ((y + 3) % 5)
  else let k := port - 2; routerNo 0 k ((x * k + y) % 5)

/-- The link port of a router that leads to another, if they are neighbours. -/
def portTo (r d : Nat) : Option Nat := (upTo 7).find? fun p => neighbour r p == d

/-- An entry of the bring-up tables: the direct link, or the way through the lowest-numbered common neighbour (R321). -/
def bringupRoute (r d : Nat) : Nat :=
  if r == d then 0
  else
    match portTo r d with
    | some p => 128 + p
    | none =>
      match (upTo 50).find? fun m => (portTo r m).isSome && (portTo m d).isSome with
      | some m => 128 + (portTo r m).getD 0
      | none => 0

/-- An entry of a router's table (R321). -/
def State.routeEntry (s : State) (r d : Nat) : Nat := (s.routing.find (50 * r + d)).getD (bringupRoute r d)

/-- The router that discards a packet from one router to another, if one does (R322). -/
def State.packetLost (s : State) (d : Nat) : Nat → Nat → Option Nat
  | 0, r => if r == d then none else some r
  | hops + 1, r =>
    if r == d then none
    else
      let e := s.routeEntry r d
      if !bitN e 7 || 6 < e % 8 then some r else s.packetLost d hops (neighbour r (e % 8))

/-! ### Endpoints (R320) -/

/-- Numbers of the endpoints: tile and vision cores have their %coreid; then the application clusters, the slices, the memory
controllers, and the units of the hub die. -/
def epCluster (k : Nat) : Nat := 88 + k
def epSlice (h : Nat) : Nat := 92 + h
def epController (c : Nat) : Nat := 172 + c
def epIsland : Nat := 188
def epDispatcher : Nat := 189
def epIngest : Nat := 190
def epPcie : Nat := 191
def epEthernet : Nat := 192
def epKolte (k : Nat) : Nat := 193 + k
def epMipi : Nat := 195

/-- Router and endpoint port at which an endpoint attaches (R320). -/
def endpointAt (e : Nat) : Option (Nat × Nat) :=
  if e < 64 then some (routerNo 0 (e / 16) (e % 16 / 4), e % 4)
  else if e < 88 then some (routerNo 0 4 ((e - 64) / 8), (e - 64) % 8 / 2)
  else if e < 92 then some (routerNo 0 4 3, e - 88)
  else if e < 156 then some (routerNo 1 ((e - 92) / 16) ((e - 92) % 16 / 4), (e - 92) % 4)
  else if e < 172 then some (routerNo 1 4 ((e - 156) / 4), (e - 156) % 4)
  else if e < 188 then some (routerNo 0 ((e - 172) / 4) 4, (e - 172) % 4)
  else if e < 192 then some (routerNo 0 4 4, e - 188)
  else if e < 196 then some (routerNo 1 4 4, e - 192)
  else none

/-- Endpoint of a caching agent: a vision core, a cluster, or the Kolte port that leads to a peer (R297, R320, log 4). -/
def State.agentEndpoint (s : State) (a : Nat) : Nat :=
  if a < 24 then 64 + a else if a < 28 then epCluster (a - 24)
  else if s.peerPackage a == (s.pkg + 1) % 4 then epKolte 0 else epKolte 1

/-- Endpoint through which a packet for a peer package leaves (R320, log 4). -/
def State.portToPeer (s : State) (p : Nat) : Nat := if p == (s.pkg + 1) % 4 then epKolte 0 else epKolte 1

/-- Controller that serves a physical address (R399). -/
def controllerOf (pa : Nat) : Nat := pa / 1024 % 16

/-- The endpoints that a message travels between: for a message of a proxy to or from a remote home or owner, the proxy's slice
and a Kolte port; for a home access of a remote unit that no slice may hold, the accessor and that port; for a fill, a
controller and a slice; for an access by an agent that caches nothing and its answer, the endpoint it names. -/
def State.msgEnds (s : State) (m : Msg) : Nat × Nat :=
  let home := epSlice (homeSlice m.unit)
  let far := s.portToPeer (m.unit / 2 ^ 46)
  let local_ (a : Nat) : Nat := if s.remote m.unit && a == s.proxyAgent m.unit then home else s.agentEndpoint a
  let server := if s.remote m.unit && m.direct then far else home
  if m.kind == .fill then (epController (controllerOf m.addr), home)
  else if s.remote m.unit && m.src == s.proxyAgent m.unit then (home, far)
  else if s.toProxy m then (far, home)
  else if (m.kind == .data && m.src == 31) || m.kind == .atomResp then (server, if m.dst < 31 then local_ m.dst else m.ep)
  else if m.cls == 0 then (if m.src < 31 then local_ m.src else m.ep, server)
  else (if m.src < 31 then local_ m.src else home, if m.dst < 31 then local_ m.dst else home)

/-- The reset domain of a core, a cluster, a controller or the PCIe port at an endpoint (R392). -/
def endpointDomain (e : Nat) : Option (Nat × Nat) :=
  if e < 64 then some (0, e) else if e < 88 then some (1, e) else if e < 92 then some (2, e - 88)
  else if 172 ≤ e && e < 188 then some (3, e - 172) else if e == 191 then some (4, 12) else none

/-- Whether the routers of a domain in reset do not accept a packet between two endpoints: it waits until the domain rejoins
(R392 step 1). -/
def State.unaccepted (s : State) (a b : Nat) : Bool :=
  [a, b].any fun e => match endpointDomain e with
    | some d => s.island.isolated.contains d
    | none => false

/-- The router that discards a packet between two endpoints, if one does. An access whose endpoint the network does not
name stays on its die. -/
def State.lostBetween (s : State) (a b : Nat) : Option Nat :=
  match endpointAt a, endpointAt b with
  | some x, some y => s.packetLost y.1 2 x.1
  | _, _ => none

/-- The router that discards a message, if one does. -/
def State.msgLost (s : State) (m : Msg) : Option Nat := s.lostBetween (s.msgEnds m).1 (s.msgEnds m).2

/-- A packet discarded: the router counts it and the island is interrupted (R322). -/
def State.routingError (s : State) (r : Nat) : State :=
  { s with routingErrors := s.routingErrors.set 0 r (s.routingErrors.get 0 r + 1),
           islandInterrupts := s.islandInterrupts + 1 }

end Sys2Proof.Machine
end

