-- ==== Sys2Proof/Machine/Ops.lean ====
section
/-! DEFINITION. The named operations over registers, memory, translation and control state, and the taking of an
interruption (R375 to R380). Every meaning goes through these. -/

namespace Sys2Proof.Machine

/-! ### Who executes -/

/-- Whether a key names a wave. -/
def isWave (key : Nat) : Bool := 2048 ≤ key

/-- Engine of a stream key: 0 CE to 4 SE. -/
def keyEng (key : Nat) : Nat := key % 5

/-- Context of a stream key. -/
def keyCtx (key : Nat) : Nat := key / 5 % 4

/-- Core of a key: 0 to 63 for tile cores, 64 to 87 for vision cores (R56 %coreid). -/
def keyCore (key : Nat) : Nat := if isWave key then 64 + (key - 2048) / 48 else key / 20

/-- Wave slot of a wave key. -/
def keySlot (key : Nat) : Nat := (key - 2048) % 48

/-- %corekind of a key (R56). -/
def coreKind (key : Nat) : Nat := if isWave key then 8 else keyEng key + 1

/-- Lanes of a key: 64 on the VE, 32 on vision, none elsewhere (R56 %vl). -/
def laneCount (key : Nat) : Nat := if isWave key then 32 else if keyEng key == 3 then 64 else 0

/-- Key of a context from a stream key. -/
def keyCtxKey (key : Nat) : Nat := ctxKey (keyCore key) (keyCtx key)

/-- Key of the control state of a stream (lane 0) or of a thread. -/
def ctlKey (key lane : Nat) : Nat := 32 * key + lane

/-- Control state of a stream or thread. -/
def State.ctlAt (s : State) (key lane : Nat) : Ctl := s.ctl.get {} (ctlKey key lane)

/-- Control state replaced. -/
def State.setCtl (s : State) (key lane : Nat) (c : Ctl) : State := { s with ctl := s.ctl.put (ctlKey key lane) c }

/-- Control state changed. -/
def State.modCtl (s : State) (key lane : Nat) (f : Ctl → Ctl) : State := s.setCtl key lane (f (s.ctlAt key lane))

/-- Key and lane of an agent named by an event. -/
def agentKey : Agent → Nat × Nat
  | .stream core ctx eng => (streamKey core ctx eng, 0)
  | .thread core slot lane => (waveKey core slot, lane)

/-! ### The card of a job -/

/-- Card of the job that a stream or thread runs. -/
def State.cardOf (s : State) (key lane : Nat) : List Byte := (s.slotAt (s.ctlAt key lane).job).card

/-- First offset of a job's scratchpad save image (R121). -/
def saveImage (c : List Byte) : Nat := (cardBase c + cardSize c) * 4096 - 98304

/-! ### Registers -/

/-- Scalar register `n` of a stream or wave. -/
def State.sget (s : State) (key n : Nat) : DWord := s.sreg.get 0 (64 * key + n)

/-- Scalar register `n` written; its poison is cleared (R371). -/
def State.sset (s : State) (key n : Nat) (v : DWord) : State :=
  { s with sreg := s.sreg.set 0 (64 * key + n) v, poisonScalar := s.poisonScalar.del (64 * key + n) }

/-- Key of a lane register element (R47 specifiers 0x00 to 0x39). -/
def laneKey (key spec lane : Nat) : Nat := 64 * (64 * key + spec) + lane

/-- Element of a lane register. -/
def State.lget (s : State) (key spec lane : Nat) : Word := s.lreg.get 0 (laneKey key spec lane)

/-- Element of a lane register written; its poison is cleared (R371). -/
def State.lset (s : State) (key spec lane : Nat) (v : Word) : State :=
  { s with lreg := s.lreg.set 0 (laneKey key spec lane) v, poisonLane := s.poisonLane.del (laneKey key spec lane) }

/-- Element of a lane register written together with its poison (R371). -/
def State.lsetPoison (s : State) (key spec lane : Nat) (v : Word) (bad : Bool) : State :=
  let t := s.lset key spec lane v
  { t with poisonLane := if bad then t.poisonLane.put (laneKey key spec lane) true else t.poisonLane }

/-- Bit of a predicate; p0 reads as all ones (R170). -/
def State.pget (s : State) (key p lane : Nat) : Bool := p == 0 || bit (s.preg.get 0 (8 * key + p)) lane

/-- Bit of a predicate written; writes to p0 are discarded (R169, R170). -/
def State.pset (s : State) (key p lane : Nat) (b : Bool) : State :=
  if p == 0 then s
  else { s with preg := s.preg.set 0 (8 * key + p) (setBits (s.preg.get 0 (8 * key + p)) lane 1 (b2n b)) }

/-! ### Tokens and queues -/

/-- Index in R402's order of the FIFO that an engine pops from prev (R79). -/
def fifoFromPrev (eng : Nat) : Nat := (eng + 2) % 4

/-- FIFO popped from next. -/
def fifoFromNext (eng : Nat) : Nat := eng + 3

/-- FIFO pushed towards prev. -/
def fifoToPrev (eng : Nat) : Nat := 4 + (eng + 2) % 4

/-- FIFO pushed towards next. -/
def fifoToNext (eng : Nat) : Nat := eng - 1

/-- Count of a token FIFO of a context. -/
def State.tok (s : State) (ck f : Nat) : Nat := s.tokens.get 0 (8 * ck + f)

/-- Count of a token FIFO replaced. -/
def State.setTok (s : State) (ck f n : Nat) : State := { s with tokens := s.tokens.set 0 (8 * ck + f) n }

/-- Entries of a queue of a context, oldest first. -/
def State.queue (s : State) (ck q : Nat) : List DWord := s.queues.get [] (16 * ck + q)

/-- Entries of a queue replaced. -/
def State.setQueue (s : State) (ck q : Nat) (l : List DWord) : State :=
  { s with queues := s.queues.set [] (16 * ck + q) l }

/-- Queue entries put back before those that stand in the queues, which may then hold more than 16 (log 16). -/
def State.putBack (s : State) (ck : Nat) (es : List (Nat × DWord)) : State :=
  es.foldr (fun e s => s.setQueue ck e.1 (e.2 :: s.queue ck e.1)) s

/-- What the instruction in progress popped goes back, as it has not executed (R57, R86, R212, R276, log 16). -/
def State.unpop (s : State) (key : Nat) : State :=
  let c := s.ctlAt key 0
  let ck := keyCtxKey key
  let s1 := c.poppedT.foldl (fun s f => s.setTok ck f (s.tok ck f + 1)) s
  (s1.putBack ck c.poppedQ).modCtl key 0 fun c => { c with poppedT := [], poppedQ := [] }

/-- Consumer engine of a queue as %corekind; 0 is unbound (R83, R85). -/
def State.queueConsumer (s : State) (ck q : Nat) : Nat :=
  if q < 4 then q + 2 else if q < 8 then 1 else bitsN (s.qbinds.get 0 (16 * ck + q)) 4 4

/-- Producer engine of a queue as %corekind; 0 is unbound. -/
def State.queueProducer (s : State) (ck q : Nat) : Nat :=
  if q < 4 then 1 else if q < 8 then q - 2 else bitsN (s.qbinds.get 0 (16 * ck + q)) 0 4

/-! ### Faults -/

/-- A precise fault as an instruction raises it (R374). -/
structure Flt where
  cause : Nat
  info : DWord
  detail : DWord := 0
deriving DecidableEq, Repr

/-- A fault whose information is a number. -/
def fltOf (cause info : Nat) : Flt := { cause := cause, info := BitVec.ofNat 64 info }

/-! ### Translation -/

/-- log2 of the page size of a SIZE code (R354). -/
def pageLg (size : Nat) : Nat :=
  if size == 0 then 12 else if size == 1 then 14 else if size == 2 then 16 else if size == 3 then 18
  else if size == 4 then 21 else if size == 5 then 24 else if size == 6 then 28 else 30

/-- Whether a leaf of a SIZE code may stand at a level (R353). -/
def sizeAtLevel (size level : Nat) : Bool :=
  if level == 2 then size == 7 else if level == 1 then 4 ≤ size && size ≤ 6 else level == 0 && size ≤ 3

/-- Whether an address is canonical (R351). -/
def canonicalVa (va : Nat) : Bool := let top := va / 2 ^ 56; top == 0 || top == 0xFF

/-- Whether an address lies in the local aperture (R180). -/
def inAperture (va : Nat) : Bool := 0xFFFFFFFFFF000000 ≤ va

/-- Whether a page table entry reads as poisoned data (R324, R355). -/
def State.ptePoisoned (s : State) (pte : Nat) : Bool := s.sectorPoisoned (pte / 64) || s.failedLinks.contains (pte / 2 ^ 46)

/-- Whether an entry that is a table pointer breaks a rule for one at its level (R353, R354). -/
def tableBad (l e : Nat) : Bool := l == 0 || bitsN e 52 12 != 0 || bitsN e 1 14 != 0

/-- The walk from a table at one of the remaining levels: the leaf, or the reason and level of the defect (R353, R355). -/
def State.walkFrom (s : State) (part va : Nat) : List Nat → Nat → Except (Nat × Nat) TlbEnt
  | [], _ => .error (3, 0)
  | l :: ls, table =>
    let pte := table + 8 * (va / 2 ^ (12 + 9 * l) % 512)
    if !s.backed pte then .error (4, l)
    else if s.ptePoisoned pte then .error (6, l)
    else
      let e := s.physRead pte 8
      if !bitN e 0 then .error (2, l)
      else if bitN e 15 then
        if tableBad l e then .error (3, l)
        else s.walkFrom part va ls (bitsN e 16 36 * 4096)
      else
        let lg := pageLg (bitsN e 5 3)
        let base := bitsN e 16 36 * 4096
        if bitsN e 52 12 != 0 || !sizeAtLevel (bitsN e 5 3) l || base % 2 ^ lg != 0 then .error (3, l)
        else if !(s.backed (base + va % 2 ^ lg) || ctlBlockAt ((base + va % 2 ^ lg) % 2 ^ 46)) then .error (4, l)
        else if bitsN e 8 2 == 3 || bitsN e 10 2 == 3 then .error (5, l)
        else .ok { part := part, vpage := va % 2 ^ 57 / 2 ^ lg, ppage := base / 2 ^ lg, lg := lg, bits := e % 65536, pte := pte,
                   level := l }

/-- A walk of a partition's tables for a canonical address; level 8 marks a walk that never began (R355, R359). -/
def State.walk (s : State) (part va : Nat) : Except (Nat × Nat) TlbEnt :=
  let root := s.creg_ (xltBase + 8 * part)
  if !bit root 0 then .error (7, 8) else s.walkFrom part va [4, 3, 2, 1, 0] (bits root 12 36 * 4096)

/-- A translation installed, the oldest entry leaving a full structure (log 8). -/
def State.tlbInstall (s : State) (id : Nat) (e : TlbEnt) : State :=
  let l := (s.tlbs.get [] id).filter fun x => !(x.part == e.part && x.vpage == e.vpage && x.lg == e.lg)
  let cap := Config.tlbEntries (id / 65536)
  { s with tlbs := s.tlbs.put id ((if cap ≤ l.length then l.drop 1 else l) ++ [e]) }

/-- The slice of a die's translation cache that an address belongs to; the spec names no hash (log 8). -/
def tlbHash (va : Nat) : Nat := va / 4096 % 16

/-- The structures that an access looks in, nearest first (R357). Fetch uses the LE TLB and the vision core TLB; a die's
translation cache stands in its 16 slices. -/
def tlbPath (key : Nat) (fetch : Bool) (va : Nat) : List Nat :=
  let die (d : Nat) : Nat := 4 * 65536 + 16 * d + tlbHash va
  if isWave key then
    let core := (key - 2048) / 48
    if fetch then [65536 + core, die 4] else [4 * core + keySlot key / 12, 65536 + core, die 4]
  else
    let core := keyCore key
    if fetch || keyEng key == 0 || keyEng key == 1 then [2 * 65536 + core, die (core / 16)]
    else [3 * 65536 + core, die (core / 16)]

/-- Looks an address up in the structures in order; a hit further out is installed nearer in. -/
def State.tlbLookup (s : State) (part va : Nat) : List Nat → Option (State × TlbEnt)
  | [] => none
  | id :: ids =>
    match s.tlbFind id part va with
    | some e => some (s, e)
    | none =>
      match s.tlbLookup part va ids with
      | some (s1, e) => some (s1.tlbInstall id e, e)
      | none => none

/-- Endpoint of the walks for an address: the slice that holds its part of the die's translation cache, on the H-die where no
core's structures are looked in (R320, R357; log 8). -/
def walkEnd (path : List Nat) (va : Nat) : Nat :=
  match path.getLast? with
  | some id => epSlice (id - 4 * 65536)
  | none => epSlice (64 + tlbHash va)

/-- Bits ORed into a page table entry at its home, a far atomic of a walker (R336, R356). -/
def State.pteOr (s : State) (ep part pte mask : Nat) : State :=
  let e := s.physRead pte 8
  ((s.markStale none pte 0).physWrite pte (leBytes 8 (Nat.lor e mask))).farAtomic 31 ep pte 8 0 0 part none

/-- Addresses of the entries that a walk reads, as far as it goes (R353, R355). -/
def State.walkReads (s : State) (va : Nat) : List Nat → Nat → List Nat
  | [], _ => []
  | l :: ls, table =>
    let pte := table + 8 * (va / 2 ^ (12 + 9 * l) % 512)
    let e := s.physRead pte 8
    pte :: (if s.backed pte && !s.ptePoisoned pte && bitN e 0 && bitN e 15 && !tableBad l e then
      s.walkReads va ls (bitsN e 16 36 * 4096) else [])

/-- The reads of a walk reach the homes of the tables, charged to the partition and never held (R358, R364). -/
def State.noteWalk (s : State) (part va ep : Nat) : State :=
  let root := s.creg_ (xltBase + 8 * part)
  if !bit root 0 then s
  else (s.walkReads va [4, 3, 2, 1, 0] (bits root 12 36 * 4096)).foldl
    (fun s a => if s.backed a then s.homeAccess ep a 8 0 0 part none false else s) s

/-- A walk that sets A and installs its leaf in every structure of a path (R356 to R358). -/
def State.walkInstall (s : State) (part va : Nat) (path : List Nat) : Except (Nat × Nat) (State × TlbEnt) :=
  match s.walk part va with
  | .error r => .error r
  | .ok e =>
    let ep := walkEnd path va
    let s0 := s.noteWalk part va ep
    let s1 := if bitN e.bits 13 then s0 else s0.pteOr ep part e.pte 0x2000
    let e1 := { e with bits := Nat.lor e.bits 0x2000 }
    .ok (path.foldl (fun s id => s.tlbInstall id e1) s1, e1)

/-- Access kinds as R361 codes them. -/
inductive Acc where
  | read | write | exec | rmw
deriving DecidableEq, Repr

/-- Code of an access kind (R361). -/
def Acc.code : Acc → Nat
  | .read => 0 | .write => 1 | .exec => 2 | .rmw => 3

/-- Whether an entry permits an access: of a job (`user`), which needs U, or of the dispatcher, the save path or the ingest
engine, which act as supervisor (R355). -/
def TlbEnt.permits (e : TlbEnt) (user : Bool) (a : Acc) : Bool :=
  (!user || bitN e.bits 4) && match a with
    | .read => bitN e.bits 1
    | .write => bitN e.bits 2
    | .exec => bitN e.bits 3
    | .rmw => bitN e.bits 1 && bitN e.bits 2

/-- Whether an access kind writes. -/
def Acc.writes : Acc → Bool
  | .write => true | .rmw => true | _ => false

/-- Detail word of R361. The level of a walk that never began is a free value (log 2). -/
def State.xltDetail (s : State) (reason level : Nat) (user : Bool) (a : Acc) : DWord :=
  let lv := if level == 8 then bits (Config.freeValue s.free) 0 3 else level
  BitVec.ofNat 64 (reason + lv * 256 + a.code * 4096 + b2n user * 16384)

/-- Translation fault (R361). -/
def State.xltFault (s : State) (va reason level : Nat) (user : Bool) (a : Acc) : Flt :=
  { cause := 0x09, info := BitVec.ofNat 64 va, detail := s.xltDetail reason level user a }

/-- Permission fault (R361). -/
def State.permFault (s : State) (va level : Nat) (user : Bool) (a : Acc) : Flt :=
  { cause := 0x0A, info := BitVec.ofNat 64 va, detail := s.xltDetail 0 level user a }

/-- The checks of an access against the leaf that a lookup or a walk gave (R352, R355, R382). -/
def State.grantAccess (s : State) (user : Bool) (a : Acc) (va : Nat) :
    Except (Nat × Nat) (State × TlbEnt) → Except Flt (State × TlbEnt)
  | .error (r, l) => .error (s.xltFault va r l user a)
  | .ok (s1, e) =>
    let pa := e.ppage * 2 ^ e.lg + va % 2 ^ e.lg
    if ctlBlockAt (pa % 2 ^ 46) then .error (s.permFault va e.level user a)
    else if !s.backed pa then .error (s.xltFault va 4 e.level user a)
    else if !e.permits user a then .error (s.permFault va e.level user a)
    else .ok (s1, e)

/-- Translation of an address for an access, before D is considered (R351 to R355). -/
def State.reach (s : State) (part : Nat) (path : List Nat) (user : Bool) (a : Acc) (va : Nat) :
    Except Flt (State × TlbEnt) :=
  if !canonicalVa va then .error (s.xltFault va 1 8 user a)
  else
    match s.tlbLookup part va path with
    | some r => s.grantAccess user a va (.ok r)
    | none => s.grantAccess user a va (s.walkInstall part va path)

/-- D set in the leaf of a translation, which every structure of the path then holds so (R356). -/
def State.setD (s : State) (part : Nat) (path : List Nat) (va : Nat) (e : TlbEnt) : State × TlbEnt :=
  let e1 := { e with bits := Nat.lor e.bits 0x4000 }
  (path.foldl (fun s id => s.tlbInstall id e1) (s.pteOr (walkEnd path va) part e.pte 0x4000), e1)

/-- Translation of an address for an access: the entry used, D set before a write; where the entry that would set it has
become invalid, the access walks again (R355, R356). -/
def State.translate (s : State) (part : Nat) (path : List Nat) (user : Bool) (a : Acc) (va : Nat) :
    Except Flt (State × TlbEnt) :=
  match s.reach part path user a va with
  | .error f => .error f
  | .ok (s1, e) =>
    if !a.writes || bitN e.bits 14 then .ok (s1, e)
    else if bitN (s1.physRead e.pte 1) 0 then .ok (s1.setD part path va e)
    else
      match s1.grantAccess user a va (s1.walkInstall part va path) with
      | .error f => .error f
      | .ok (s2, e2) => .ok (if bitN e2.bits 14 then (s2, e2) else s2.setD part path va e2)

/-- What a walk leaves behind although the access then faults: its reads, and A with the leaf installed (R356, R358,
R364). -/
def State.walkKept (s : State) (part : Nat) (path : List Nat) (va : Nat) : State :=
  if !canonicalVa va || (s.tlbLookup part va path).isSome then s
  else
    match s.walkInstall part va path with
    | .ok (s1, _) => s1
    | .error _ => s.noteWalk part va (walkEnd path va)

/-- Where an access lands: a scratchpad or local store, or physical memory with its page's memory type and grain. -/
inductive Place where
  | loc (k : Nat)
  | phys (pa mtype grain part : Nat)
deriving DecidableEq, Repr

/-- Bounds of the bytes of the aperture that a job may touch (R137, R180), and the key of aperture offset 0. -/
def State.apertureOf (s : State) (key lane : Nat) : Nat × Nat × Nat :=
  if isWave key then
    let w := s.waves.find key
    let g : Option Workgroup := match w with
      | some w => s.groups.find (64 * (keyCore key - 64) + w.wg)
      | none => none
    match g with
    | some g => (0, g.units * 4096, locKey (keyCore key) (g.base * 4096))
    | none => (0, 0, locKey (keyCore key) 0)
  else
    let c := s.cardOf key lane
    (cardBase c * 4096, (cardBase c + cardSize c) * 4096, locKey (keyCore key) 0)

/-- Offset of an address in the aperture (R180). -/
def apertureOff (va : Nat) : Nat := (va + 2 ^ 64 - 0xFFFFFFFFFF000000) % 2 ^ 64

/-- The aperture check of `n` bytes at an address (R180): the key of the first byte, or the fault with the offset of the
lowest byte outside. -/
def State.aperture (s : State) (key lane va n : Nat) : Except Flt Nat :=
  let off := apertureOff va
  let (lo, hi, k0) := s.apertureOf key lane
  if off < lo then .error (fltOf 0x07 off)
  else if hi < off + n then .error (fltOf 0x07 (if off < hi then hi else off))
  else .ok (k0 + off)

/-- Partition of the job of a stream or thread (R9). -/
def State.partOf (s : State) (key lane : Nat) : Nat := cardPart (s.cardOf key lane)

/-- Resolves an access of `n` bytes that crosses no page (R180, R351 to R356). -/
def State.locate (s : State) (key lane : Nat) (a : Acc) (va n : Nat) : Except Flt (State × Place) :=
  if inAperture va then
    match s.aperture key lane va n with
    | .error f => .error f
    | .ok k => .ok (s, .loc k)
  else
    let part := s.partOf key lane
    match s.translate part (tlbPath key (a == .exec) va) true a va with
    | .error f => .error f
    | .ok (s1, e) =>
      .ok (s1, .phys (e.ppage * 2 ^ e.lg + va % 2 ^ e.lg) (bitsN e.bits 10 2) (bitsN e.bits 8 2) part)

/-- Copies of the unit of an uncached or device access written back (R401). -/
def State.recallFor (s : State) (pa mtype grain : Nat) : State :=
  if mtype == 0 then s else s.writeBack (pa / unitBytes grain * unitBytes grain) (unitBytes grain)

/-- Whether any of the `n` bytes of a place is poisoned (R371); a package whose link has failed answers with poison (R324). -/
def State.placePoisoned (s : State) (p : Place) (n : Nat) : Bool :=
  match p with
  | .loc k => s.poisonLoc.any fun e => k / 8 ≤ e.1 && e.1 ≤ (k + n - 1) / 8
  | .phys pa _ _ _ =>
    s.failedLinks.contains (pa / 2 ^ 46) ||
    (upTo ((pa + n - 1) / 64 + 1 - pa / 64)).any fun i => s.sectorPoisoned (pa / 64 + i)

/-- A place some bytes further on. -/
def Place.plus (p : Place) (i : Nat) : Place :=
  match p with
  | .loc k => .loc (k + i)
  | .phys pa mtype grain part => .phys (pa + i) mtype grain part

/-- The poison fault of an access of `n` bytes at a place: the address of its first poisoned byte (R372). -/
def State.poisonFault (s : State) (p : Place) (va n : Nat) : Flt :=
  fltOf 0x0B (va + ((upTo n).find? fun i => s.placePoisoned (p.plus i) 1).getD 0)

/-- Value at a place, little-endian; an uncached access recalls the unit first (R401). -/
def State.placeRead (s : State) (p : Place) (n : Nat) : Nat :=
  match p with
  | .loc k => s.locRead k n
  | .phys pa _ _ _ => s.physRead pa n

/-- The caching agent that a control state's accesses go through; 31 is none (R297). -/
def agentOfKey (key : Nat) : Nat := if isWave key then keyCore key - 64 else 31

/-- Whether a store reaches external memory itself: to a page that is not normal cached, or past a slice in which its partition
may not allocate; the own cache of a vision core keeps what it stores (R312, R401). -/
def State.storesThrough (s : State) (agent mtype part pa : Nat) : Bool := mtype != 0 || !(agent < 31 || s.mayAllocate part pa)

/-- The sector of a place is written whole by an agent: poison of what it writes to is gone (R371). -/
def State.cleanSector (s : State) (agent : Nat) : Place → State
  | .loc _ => s
  | .phys pa mtype _ part => if s.storesThrough agent mtype part pa then s.cleanMem (pa / 64) else s.markNew (pa / 64) false

/-- Bytes written at a place by an agent (R281, R310, R401). `writer` is the control state that stores, none for a copy or
an event. A sector written whole loses its poison (R371). -/
def State.placeStore (s : State) (writer : Option Nat) (p : Place) (bs : List Byte) : State :=
  match p with
  | .loc k => s.locWrite k bs
  | .phys pa mtype grain part =>
    let agent := match writer with | some w => agentOfKey (w / 32) | none => 31
    let s1 := (s.recallFor pa mtype grain).markStale writer pa grain
    let s2 := if bs.length == 64 && pa % 64 == 0 then s1.cleanSector agent p else s1
    if s.storesThrough agent mtype part pa then s2.extWrite pa bs else s2.physWrite pa bs

/-- What a store to external memory itself overwrites: physical address, old and new byte (R400). -/
def State.storeUndo (s : State) (agent : Nat) (p : Place) (bs : List Byte) : List (Nat × Byte × Byte) :=
  match p with
  | .loc _ => []
  | .phys pa mtype _ part =>
    if s.storesThrough agent mtype part pa then bs.zipIdx.map fun x => (pa + x.2, s.byteAt (pa + x.2), x.1) else []

/-- si_errinj of a package (R397); a peer's is held under its whole physical address and the number of packages. -/
def State.errReg (s : State) (p : Nat) : Nat := (if p == s.pkg then 0 else 2 ^ 46 * (p + 4)) + dspBase + 0x8040

/-- An armed error injection acts on a write that comes to a package over a Kolte port (R397): the bytes as they are
performed, and the register after it. -/
def State.errInject (s : State) (addr : Nat) (bs : List Byte) : State × List Byte :=
  let a := s.errReg (addr / 2 ^ 46)
  let r := s.creg_ a
  let pa := bits r 0 48
  if bit r 63 && addr ≤ pa && pa < addr + bs.length then
    (s.setCreg a (setBits r 63 1 0),
     bs.zipIdx.map fun x => if addr + x.2 == pa then x.1 ^^^ BitVec.ofNat 8 (2 ^ bits r 48 3) else x.1)
  else (s, bs)

/-- Bytes stored by an agent: those to a peer package's memory that its own cache does not hold go over a Kolte port
(R323, R397). -/
def State.sendStore (s : State) (writer : Option Nat) (p : Place) (bs : List Byte) : State :=
  match p with
  | .loc _ => s.placeStore writer p bs
  | .phys pa mtype _ _ =>
    let agent := match writer with | some w => agentOfKey (w / 32) | none => 31
    if pa / 2 ^ 46 != s.pkg && (agent == 31 || mtype != 0) then
      let r := s.errInject pa bs
      r.1.placeStore writer p r.2
    else s.placeStore writer p bs

/-- A store: its bytes and what it does to the caches and the homes (R300, R305). `ep` is the endpoint where no stream or
thread stores. -/
def State.placeWrite (s : State) (writer slot : Option Nat) (ep : Nat) (p : Place) (bs : List Byte) : State :=
  let s1 := s.sendStore writer p bs
  match p with
  | .loc _ => s1
  | .phys pa mtype grain part =>
    let agent := match writer with | some w => agentOfKey (w / 32) | none => 31
    let at_ := match writer with | some w => keyCore (w / 32) | none => ep
    s1.noteAccess agent at_ pa bs.length mtype grain part slot true (s.storeUndo agent p bs)

/-- Card slot of the job of a stream or thread. -/
def State.jobOf (s : State) (key lane : Nat) : Nat := (s.ctlAt key lane).job

/-! ### Aliases (R294) -/

/-- Whether an own store wrote a byte of a physical range, one byte, and whether it went through the same virtual address as
an access at `va` and `pa`. -/
def OwnStore.meets (x : OwnStore) (pa n : Nat) : Bool := x.pa < pa + n && pa < x.pa + x.before.length
def OwnStore.covers (a : Nat) (x : OwnStore) : Bool := x.meets a 1
def OwnStore.sameWay (x : OwnStore) (va pa : Nat) : Bool := x.va + pa == va + x.pa

/-- Places of an agent's stores to bytes of an access that went through another virtual address and that the access need not
come after: those behind its last store there through the access's own, and for a device access behind its last device store
(R289, R294). -/
def openStores (l : List OwnStore) (va pa n : Nat) (device : Bool) : List Nat :=
  l.zipIdx.foldl (fun acc x =>
    if !x.1.meets pa n then acc
    else if x.1.sameWay va pa || (device && x.1.device) then []
    else acc ++ [x.2]) []

/-- One of the places behind which an access may come, or none where it comes last: the model's free choice (log 2). -/
def chooseStore (free : Nat) (l : List Nat) : Option Nat := l[(Config.freeValue free).toNat % (l.length + 1)]?

/-- A byte as it stood before the stores of a list, `now` where none of them covers it. -/
def byteBefore (l : List OwnStore) (a : Nat) (now : Byte) : Byte :=
  match l.find? (OwnStore.covers a) with
  | some x => x.before.getD (a - x.pa) 0
  | none => now

/-- The byte that stood before the first store of a list that covers it replaced. -/
def setBefore (a : Nat) (b : Byte) : List OwnStore → List OwnStore
  | [] => []
  | x :: xs => if x.covers a then { x with before := x.before.set (a - x.pa) b } :: xs else x :: setBefore a b xs

/-- The byte at a place, some bytes further on. -/
def State.byteOf (s : State) (p : Place) (i : Nat) : Byte := BitVec.ofNat 8 (s.placeRead (p.plus i) 1)

/-- The value of a load: where its agent stored through another address, what stood before one of those stores, or what
stands now (R294). -/
def State.loadValue (s : State) (who va : Nat) (p : Place) (n : Nat) : State × Nat :=
  match p with
  | .loc _ => (s, s.placeRead p n)
  | .phys pa mtype _ _ =>
    let l := s.aliases.get [] who
    match openStores l va pa n (mtype == 2) with
    | [] => (s, s.placeRead p n)
    | o =>
      ({ s with free := s.free + 1 }, match chooseStore s.free o with
        | none => s.placeRead p n
        | some g => leNat ((upTo n).map fun i => byteBefore (l.drop g) (pa + i) (s.byteOf p i)))

/-- A store of an agent that is performed now added to its own: one that repeats an earlier store behind which no other wrote
there adds nothing. -/
def addStore (l : List OwnStore) (x : OwnStore) : List OwnStore :=
  match (l.filter fun y => y.meets x.pa x.before.length).getLast? with
  | some y => if y.va == x.va && y.pa == x.pa && y.before.length == x.before.length then l else l ++ [x]
  | none => l ++ [x]

/-- The bytes as a store leaves them: it and an earlier store of its agent through another address are performed in either
order (R294). The agent's own stores hold it. -/
def State.storeBytes (s : State) (who va : Nat) (p : Place) (bs : List Byte) : State × List Byte :=
  match p with
  | .loc _ => (s, bs)
  | .phys pa mtype _ _ =>
    let l := s.aliases.get [] who
    let x (before : List Byte) : OwnStore := { va := va, pa := pa, device := mtype == 2, before := before }
    let last : State := { s with aliases := s.aliases.put who (addStore l (x ((upTo bs.length).map fun i => s.byteOf p i))) }
    match openStores l va pa bs.length (mtype == 2) with
    | [] => (last, bs)
    | o =>
      match chooseStore s.free o with
      | none => ({ last with free := s.free + 1 }, bs)
      | some g =>
        let behind := l.drop g
        let old := x ((upTo bs.length).map fun i => byteBefore behind (pa + i) (s.byteOf p i))
        let moved := bs.zipIdx.foldl (fun l b => setBefore (pa + b.2) b.1 l) behind
        ({ s with aliases := s.aliases.put who (l.take g ++ old :: moved), free := s.free + 1 },
         bs.zipIdx.map fun b => if behind.any (OwnStore.covers (pa + b.2)) then s.byteOf p b.2 else b.1)

/-- A write of an agent that is performed behind all of its own (R294). -/
def State.ownWrite (s : State) (who va : Nat) (p : Place) (n : Nat) : State :=
  match p with
  | .loc _ => s
  | .phys pa mtype _ _ =>
    let x : OwnStore := { va := va, pa := pa, device := mtype == 2, before := (upTo n).map fun i => s.byteOf p i }
    { s with aliases := s.aliases.put who (addStore (s.aliases.get [] who) x) }

/-- afence: what an agent stored before is ordered before all that it accesses after, through any alias (R294). -/
def State.dropAliases (s : State) (who : Nat) : State := { s with aliases := s.aliases.del who }

/-- A read by a stream or thread reaches the caches and the homes, where it is of memory. -/
def State.readAccess (s : State) (key lane : Nat) (p : Place) (n : Nat) : State :=
  match p with
  | .loc _ => s
  | .phys pa mtype grain part =>
    (s.recallFor pa mtype grain).noteAccess (agentOfKey key) (keyCore key) pa n mtype grain part (some (s.jobOf key lane)) false

/-- The place of an aligned read by a stream or thread, or its fault; poisoned data raises the poison fault (R15, R372). -/
def State.readPlace (s : State) (key lane va n : Nat) : Except Flt (State × Place) :=
  match s.locate key lane .read va n with
  | .error f => .error f
  | .ok (s1, p) => if s1.placePoisoned p n then .error (s1.poisonFault p va n) else .ok (s1, p)

/-- `mem_read` of an aligned access by a stream or thread: value, or the fault (R15, R285). -/
def State.memRead (s : State) (key lane va n : Nat) : Except Flt (State × Nat) :=
  match s.readPlace key lane va n with
  | .error f => .error f
  | .ok (s1, p) => .ok ((s1.readAccess key lane p n).loadValue (ctlKey key lane) va p n)

/-- `mem_write` of an aligned access by a stream or thread. -/
def State.memWrite (s : State) (key lane va n v : Nat) : Except Flt State :=
  match s.locate key lane .write va n with
  | .error f => .error f
  | .ok (s1, p) =>
    let r := s1.storeBytes (ctlKey key lane) va p (leBytes n v)
    .ok (r.1.placeWrite (some (ctlKey key lane)) (some (s1.jobOf key lane)) 200 p r.2)

/-! ### Accesses of the part's own units (R297): home operations from the endpoint `ep` for a partition -/

/-- Reads at physical addresses reach their homes; one outside installed memory reaches nothing. -/
def State.partRead (s : State) (ep part pa n : Nat) : State :=
  (sectorParts (n / 64 + 2) pa n).foldl (fun s p =>
    if s.backed p.1 then s.homeAccess ep p.1 p.2 0 0 part none false else s) s

/-- Bytes written at physical addresses, sector by sector; those outside installed memory are lost. -/
def State.partWrite (s : State) (ep part pa : Nat) (bs : List Byte) : State :=
  (sectorParts (bs.length / 64 + 2) pa bs.length).foldl (fun s p =>
    if s.backed p.1 then s.placeWrite none none ep (.phys p.1 0 0 part) ((bs.drop (p.1 - pa)).take p.2) else s) s

/-- The place of a supervisor's access to a virtual address of a partition (R355). -/
def State.virtPlace (s : State) (part : Nat) (a : Acc) (va : Nat) : Except Flt (State × Place) :=
  if inAperture va then .error (s.xltFault va 1 8 false a)
  else
    match s.translate part [] false a va with
    | .error f => .error f
    | .ok (s1, e) => .ok (s1, .phys (e.ppage * 2 ^ e.lg + va % 2 ^ e.lg) (bitsN e.bits 10 2) (bitsN e.bits 8 2) part)

/-- The parts of a virtual read, in order. -/
def State.virtParts (s : State) (ep part : Nat) : List (Nat × Nat) → Except (Nat × Flt) (State × List Byte)
  | [] => .ok (s, [])
  | (va, n) :: rest =>
    match s.virtPlace part .read va with
    | .error f => .error (va, f)
    | .ok (s1, p) =>
      let s2 := match p with
        | .phys pa mtype grain part => (s1.recallFor pa mtype grain).homeAccess ep pa n mtype grain part none false
        | .loc _ => s1
      let bs : List Byte := (upTo n).map fun i => BitVec.ofNat 8 (s2.placeRead (p.plus i) 1)
      match State.virtParts s2 ep part rest with
      | .error e => .error e
      | .ok (s3, more) => .ok (s3, bs ++ more)

/-- `n` bytes at virtual addresses of a partition as a supervisor reads them; the failing address and its fault. -/
def State.virtBytes (s : State) (ep part va n : Nat) : Except (Nat × Flt) (State × List Byte) :=
  s.virtParts ep part (sectorParts (n / 64 + 2) va n)

/-- The parts of a virtual write, in order; those before a failing one stand written. -/
def State.virtStores (s : State) (ep part va : Nat) (bs : List Byte) :
    List (Nat × Nat) → State × Option (Nat × Flt)
  | [] => (s, none)
  | (a, n) :: rest =>
    match s.virtPlace part .write a with
    | .error f => (s, some (a, f))
    | .ok (s1, p) => State.virtStores (s1.placeWrite none none ep p ((bs.drop (a - va)).take n)) ep part va bs rest

/-- Bytes written at virtual addresses of a partition by a supervisor, and the failing address and its fault. -/
def State.virtWrite (s : State) (ep part va : Nat) (bs : List Byte) : State × Option (Nat × Flt) :=
  s.virtStores ep part va bs (sectorParts (bs.length / 64 + 2) va bs.length)

/-! ### Records written by the part -/

/-- A message-signalled interrupt for the supervisor (R108): the data word is also written at its address. -/
def State.sendMsi (s : State) : State :=
  let a := (s.creg_ (dspBase + 0x70)).toNat
  let d := bits (s.creg_ (dspBase + 0x78)) 0 32
  let s1 := s.partWrite epDispatcher 0 a (leBytes 4 d)
  { s1 with msi := s1.msi ++ [(a, d)] }

/-- A record appended to a ring of the part whose base, control, head and tail registers stand at `reg` and the three
words after it, for a partition; a full or disabled ring drops the record and counts it (R128, R131, R367, R380). -/
def State.ringRecord (s : State) (reg size part : Nat) (rec : Nat → List Byte) : State :=
  let lg := bits (s.creg_ (reg + 8)) 0 5
  let head := bits (s.creg_ (reg + 16)) 0 32
  let tail := s.creg_ (reg + 24)
  let prod := bits tail 0 32
  let base := (s.creg_ reg).toNat
  if lg == 0 || 2 ^ lg ≤ (prod + 2 ^ 32 - head) % 2 ^ 32 then
    s.setCreg (reg + 24) (setBits tail 32 32 (bits tail 32 32 + 1))
  else
    (s.partWrite epDispatcher part (base + prod % 2 ^ lg * size) (rec prod)).setCreg (reg + 24) (setBits tail 0 32 (prod + 1))

/-- Bytes at an aperture address whose range has been checked, as a list. -/
def State.apertureBytes (s : State) (key lane va n : Nat) : Except Flt (List Byte) :=
  match s.aperture key lane va n with
  | .error f => .error f
  | .ok k => if s.placePoisoned (.loc k) n then .error (s.poisonFault (.loc k) va n) else .ok (s.locBytes k n)

/-! ### Abort of an atomic region (R338) -/

/-- One undo entry restored. -/
def State.undo1 (s : State) (key lane : Nat) (u : RUndo) : State :=
  if u.file == 0 then
    let t := s.sset key u.reg (BitVec.ofNat 64 u.old)
    if u.poison then { t with poisonScalar := t.poisonScalar.put (64 * key + u.reg) true } else t
  else if u.file == 1 then s.lsetPoison key u.reg lane (BitVec.ofNat 32 u.old) u.poison
  else s.pset key u.reg lane (u.old % 2 == 1)

/-- Waves that still have a thread with an open region keep their buffer; the others yield it (R332). -/
def State.yieldBuffer (s : State) (key : Nat) : State :=
  if isWave key && !(upTo 32).any (fun l => (s.ctlAt key l).region.isSome) then
    let p := 4 * (keyCore key - 64) + keySlot key / 12
    { s with regionBufs := s.regionBufs.put p ((s.regionBufs.get [] p).filter (· != key)) }
  else s

/-- Discards an open region: its stores and queue pushes are dropped, logged registers and queue entries restored, %arcause
written and the program counter put at the fallback header (R338). -/
def State.regionAbort (s : State) (key lane cause detail : Nat) : State :=
  match (s.ctlAt key lane).region with
  | none => s
  | some r =>
    let s1 := r.undo.foldr (fun u s => s.undo1 key lane u) s
    let s2 := if isWave key then (s1.lsetPoison key 0x38 lane r.t0 r.poison0).lsetPoison key 0x39 lane r.t1 r.poison1 else s1
    let s3 := (s2.putBack (keyCtxKey key) r.taken).modCtl key lane fun c =>
      { c with region := none, retire := none, arcause := BitVec.ofNat 64 (cause + 256 * detail), pc := r.fallback, hdr := r.fallback,
               passes := 0, atHeader := true, loopBuf := [], stall := [] }
    s3.yieldBuffer key

/-! ### Interruptions (R370, R375 to R380) -/

/-- Sixty-four bytes of a trap record (R376). -/
def TrapRec.bytes (t : TrapRec) : List Byte :=
  [t.hdr, t.ret, t.passes, t.iaddr, t.cause, t.info, t.detail, t.time].flatMap fun w => leBytes 8 w.toNat

/-- Key of a tile stream's trap record in its save image (R376). -/
def State.recordKey (s : State) (key : Nat) : Nat :=
  locKey (keyCore key) (saveImage (s.cardOf key 0) + 0x2C00 + 64 * keyEng key)

/-- A trap record as it now stands. -/
def State.trapRec (s : State) (key lane : Nat) : TrapRec :=
  if isWave key then (s.ctlAt key lane).tr
  else
    let k := s.recordKey key
    let w (i : Nat) : DWord := BitVec.ofNat 64 (s.locRead (k + 8 * i) 8)
    { hdr := w 0, ret := w 1, passes := w 2, iaddr := w 3, cause := w 4, info := w 5, detail := w 6, time := w 7 }

/-- The virtual address of the first poisoned byte of a tile stream's trap record (R372). -/
def State.recordPoison (s : State) (key : Nat) : Option DWord :=
  if isWave key then none
  else
    let k := s.recordKey key
    ((upTo 64).find? fun i => s.poisonLoc.has ((k + i) / 8)).map fun i =>
      BitVec.ofNat 64 (0xFFFFFFFFFF000000 + k % 2 ^ 24 + i)

/-- A trap record written. -/
def State.setTrapRec (s : State) (key lane : Nat) (t : TrapRec) : State :=
  if isWave key then s.modCtl key lane fun c => { c with tr := t } else s.locWrite (s.recordKey key) t.bytes

/-- %tid of a thread (R136); 0 on a tile core. -/
def State.tidOf (s : State) (key lane : Nat) : Nat :=
  if isWave key then 32 * ((s.waves.find key).map (·.num)).getD 0 + lane else 0

/-- Address of the header of the block that holds a return address: itself where it is a header (R376). -/
def Ctl.blockOf (c : Ctl) : DWord := if c.atHeader then c.pc else c.hdr

/-- Workgroup of a wave. -/
def State.groupOf (s : State) (key : Nat) : Option Workgroup :=
  match s.waves.find key with
  | some w => s.groups.find (64 * (keyCore key - 64) + w.wg)
  | none => none

/-- Sillage KIND and OBJECT of a blocking wait (R132); `none` for the waits that are no blocking waits of R43. -/
def State.waitObject (s : State) (key : Nat) : Wait → Option (Nat × Nat)
  | .cls k v => some (1, k * 2 ^ 56 + v.toNat % 2 ^ 56)
  | .barWait a _ => some (2, a)
  | .wbar _ => some (3, ((s.groupOf key).map (·.x)).getD 0)
  | .gbar _ => some (4, 0)
  | .fwait f _ => some (5, f)
  | .rwaitf r _ => some (6, r)
  | .rwaite r => some (7, r)
  | .rasm e _ => some (8, e)
  | .waitl a _ _ _ => some (9, a)
  | .xacq => some (10, 0)
  | .futGet a _ => some (11, a)
  | .rdv => none

/-- One sillage record of a traced job (R131, R132); the writer is as `view` holds it, which for an evicted job is what
its slot keeps. -/
def State.sillageAs (s view : State) (key lane kind object start : Nat) (abandoned : Bool) : State :=
  let c := view.cardOf key lane
  if !cardTraced c then s
  else
    s.ringRecord (dspBase + 0x1000 + 32 * cardPart c) 32 (cardPart c) fun prod =>
      leBytes 8 start ++ leBytes 8 s.ns ++ leBytes 8 object ++
      [BitVec.ofNat 8 (view.ctlAt key lane).job, BitVec.ofNat 8 kind, BitVec.ofNat 8 (keyCore key),
       BitVec.ofNat 8 (coreKind key * 16 + (if isWave key then 0 else keyCtx key * 4) + b2n abandoned * 2)] ++
      leBytes 2 (view.tidOf key lane) ++ leBytes 2 prod

/-- One sillage record of a stream or thread of a traced job. -/
def State.sillage (s : State) (key lane kind object start : Nat) (abandoned : Bool) : State :=
  s.sillageAs s key lane kind object start abandoned

/-- A thread whose barrier wait is interrupted withdraws its arrival, since it executes the wait again (log 20). -/
def State.unarrive (s : State) (key : Nat) (slot : Nat) : Wait → State
  | .wbar p =>
    match s.waves.find key with
    | none => s
    | some w =>
      let k := 64 * (keyCore key - 64) + w.wg
      match s.groups.find k with
      | some g => if g.phase == p then { s with groups := s.groups.put k { g with arrived := g.arrived - 1 } } else s
      | none => s
  | .gbar p => let x := s.slotAt slot; if x.gbarPhase == p then s.setSlot slot { x with gbarCount := x.gbarCount - 1 } else s
  | _ => s

/-- The wait of a stream or thread ends: its sillage record is written (R131). -/
def State.endWait (s : State) (key lane : Nat) (abandoned : Bool) : State :=
  let c := s.ctlAt key lane
  let s1 := match c.waiting with
    | none => s
    | some w => match s.waitObject key w with
      | none => s
      | some (k, o) =>
        let s0 := if abandoned then s.unarrive key c.job w else s
        s0.sillage key lane k o c.waitStart.toNat abandoned
  s1.modCtl key lane fun c => { c with waiting := none, waitLost := false }

/-- The escalation of an interruption (R380): the stream or thread stops, and a record and an interrupt are sent. -/
def State.escalate (s : State) (key lane cause : Nat) (info iaddr detail : DWord) (first : DWord) : State :=
  let c := s.cardOf key lane
  let slot := (s.ctlAt key lane).job
  let rec_ : List Byte :=
    leBytes 8 cause ++ leBytes 8 info.toNat ++ leBytes 8 iaddr.toNat ++ leBytes 8 detail.toNat ++ leBytes 8 s.ns ++
    [BitVec.ofNat 8 slot, BitVec.ofNat 8 (cardKind c), BitVec.ofNat 8 (cardPart c), BitVec.ofNat 8 (keyCore key),
     BitVec.ofNat 8 (coreKind key), BitVec.ofNat 8 (if isWave key then 0 else keyCtx key)] ++
    leBytes 2 (s.tidOf key lane) ++ leBytes 8 first.toNat ++ leBytes 8 0
  let s1 := s.modCtl key lane fun x => { x with life := .escalated, waiting := none, stall := [] }
  (s1.ringRecord escBase 64 (cardPart c) fun _ => rec_).sendMsi

/-- Takes an interruption (R375, R377) with its class and the address of the instruction. A stream that stands at a wait has
not executed it: what it popped goes back (R130, R212). An open region aborts first, and its fallback is then the return
address (R339). -/
def State.interrupt (s0 : State) (key lane cause cls : Nat) (info detail iaddr : DWord) : State :=
  let hadRegion := (s0.ctlAt key lane).region.isSome
  let sw := if (s0.ctlAt key lane).waiting.isSome && !isWave key then s0.unpop key else s0
  let s1 := (sw.endWait key lane true).regionAbort key lane 8 0
  let s := { (s1.modCtl key lane fun c => { c with holdEnd := none, waiting := none, stall := [], amod := none, late := none })
             with free := s1.free + 1 }
  let c := s.ctlAt key lane
  let code := cause + 256 * cls
  if c.handling then s.escalate key lane code info iaddr detail c.trapcause
  else
    let t : TrapRec :=
      { hdr := c.blockOf, ret := c.pc, passes := BitVec.ofNat 64 (if c.atHeader then 0 else c.passes),
        iaddr := if cls == 2 then c.pc else iaddr, cause := BitVec.ofNat 64 code, info := info, detail := detail,
        time := BitVec.ofNat 64 s.ns }
    let t1 := if hadRegion then { t with hdr := c.pc, passes := 0 } else t
    let s2 := s.setTrapRec key lane t1
    let s3 := s2.modCtl key lane fun x => { x with trapcause := BitVec.ofNat 64 code, trapinfo := info }
    let handler := cardHandler (s.cardOf key lane)
    if handler == 0 then s3.escalate key lane code info t1.iaddr detail 0
    else s3.modCtl key lane fun x =>
      { x with handling := true, pc := BitVec.ofNat 64 handler, hdr := BitVec.ofNat 64 handler, atHeader := true,
               loopBuf := [] }

/-- What an access that met a fault leaves behind: the walk of a translation or permission fault, and of an access that met
poisoned data in memory its walk and its read (R356, R358, R364, R372). -/
def State.faultWalk (s : State) (key lane : Nat) (f : Flt) : State :=
  let va := f.info.toNat
  if f.cause == 0x09 || f.cause == 0x0A then
    s.walkKept (s.partOf key lane) (tlbPath key (bits f.detail 12 2 == 2) va) va
  else if f.cause == 0x0B && va != 0 && !inAperture va then
    let pc := (s.ctlAt key lane).pc.toNat
    let fetch := pc ≤ va && va < pc + 4
    match s.locate key lane (if fetch then .exec else .read) va 1 with
    | .ok (s1, .phys pa mtype grain part) =>
      s1.noteAccess (if fetch then 31 else agentOfKey key) (keyCore key) pa 1 mtype grain part (some (s1.jobOf key lane)) false
    | _ => s
  else s

/-- Takes a precise fault of the instruction at the program counter (R370 class 0). -/
def State.takeFault (s : State) (key lane : Nat) (f : Flt) : State :=
  (s.faultWalk key lane f).interrupt key lane f.cause 0 f.info f.detail (s.ctlAt key lane).pc

/-- Whether a cache maintenance instruction stalls the stream or thread at its retirement (R318). -/
def Ctl.maintaining (c : Ctl) : Bool :=
  match c.late with
  | some (.maint _ _ _ _) => true
  | _ => false

/-! ### Moving through blocks (R42, R75) -/

/-- The control state after an instruction of `half` halfwords that does not branch: the next instruction, the next
pass, or the header after the body (R75). -/
def Ctl.advance (c : Ctl) (half : Nat) : Ctl :=
  let pc := c.pc + BitVec.ofNat 64 (2 * half)
  if c.pc.toNat + 2 * half < c.hdr.toNat + 4 + 2 * c.len then { c with pc := pc }
  else if c.passes == 0 then { c with pc := pc, atHeader := true, sw := if c.yBit || c.sw == 2 then 2 else 1 }
  else { c with pc := c.hdr + 4, passes := c.passes - 1 }

/-- The control state at a taken branch's target, which must be a header (R43, R87). -/
def Ctl.jump (c : Ctl) (target : DWord) : Ctl :=
  { c with pc := target, hdr := target, atHeader := true, passes := 0, len := 0, loopBuf := [],
           sw := if c.yBit then 2 else 1 }

/-- Whether an instruction of `half` halfwords stands last in its body. -/
def Ctl.lastInBody (c : Ctl) (half : Nat) : Bool := c.hdr.toNat + 4 + 2 * c.len ≤ c.pc.toNat + 2 * half

/-- The defect of a header word: its block-framing reason (R43), lowest first. -/
def headerDefect (w : Nat) : Option Nat :=
  if bitsN w 28 4 != 0xA || bitsN w 0 2 != 3 then some 1
  else if bitsN w 2 2 != 0 then some 2
  else if bitsN w 18 10 == 0 then some 3
  else if bitsN w 6 12 != 0 && 256 < bitsN w 18 10 then some 4
  else none

/-- The control state inside the block of a good header at the program counter (R42). -/
def Ctl.enter (c : Ctl) (w : Nat) : Ctl :=
  { c with hdr := c.pc, len := bitsN w 18 10, rpt := bitsN w 6 12, passes := bitsN w 6 12, pc := c.pc + 4,
           atHeader := false, loopBuf := [], yBit := bitN w 4 }

/-- Block-framing fault information (R43). -/
def framingInfo (word reason : Nat) : Nat := word + reason * 2 ^ 32

end Sys2Proof.Machine
end

