-- ==== Sys2Proof/Machine/Flags.lean ====
section
/-! DEFINITION. The flag computations: rounding mode read (R26), sticky flags merged (R27), accesses to %fmode and
%fflags (R56). -/

namespace Sys2Proof.Machine

/-- Rounding mode of a stream or thread (R26). -/
def State.rmOf_ (s : State) (key lane : Nat) : Rm := rmOf (bits (s.ctlAt key lane).fmode 0 2)

/-- Flags ORed into %fflags of a stream or thread (R27). -/
def State.orFlags (s : State) (key lane : Nat) (fl : Fl) : State :=
  if fl == 0 then s else s.modCtl key lane fun c => { c with fflags := c.fflags ||| fl.setWidth 64 }

/-- Flags of several lanes ORed: into the one stream of a tile engine, or into each lane's own thread (R27, R144). -/
def State.orLaneFlags (s : State) (key : Nat) (fls : List (Nat × Fl)) : State :=
  if isWave key then fls.foldl (fun s f => s.orFlags key f.1 f.2) s
  else s.orFlags key 0 (fls.foldl (fun acc f => acc ||| f.2) 0)

/-- %fmode as swr leaves it: reserved bits are discarded (R26). -/
def fmodeMask (v : DWord) : DWord := v &&& 0x3

/-- %fflags as swr leaves it: reserved bits are discarded (R27). -/
def fflagsMask (v : DWord) : DWord := v &&& 0x7F

end Sys2Proof.Machine
end

