-- ==== Sys2Proof/Machine/Operands.lean ====
section
/-! DEFINITION. The operand forms (R47, R48, R83 to R86, R157 to R160, R193, R194): sources read and popped, lane results
retired, pushes made. -/

namespace Sys2Proof.Machine

/-! ### Queue and ring-stream operands -/

/-- Whether a scalar specifier names a queue register on a key's engine (R48). -/
def isQueue (key spec : Nat) : Bool := !isWave key && 32 ≤ spec && spec < 48

/-- Whether a scalar specifier is an operand at all (R48, R57). -/
def scalarOk (key spec : Nat) : Bool := isWave key || spec < 48

/-- Whether a lane specifier is a source (R47, R157). -/
def laneSrcOk (key spec : Nat) : Bool := spec ≤ 0x39 || spec == 0x3C || (!isWave key && spec ≤ 0x3B)

/-- Whether a lane specifier is a destination (R47, R157). -/
def laneDstOk (key spec : Nat) : Bool := laneSrcOk key spec

/-- Whether a lane specifier may name a 64-bit pair (R33): an even register of v or o, or zero and discard. -/
def pairOk (spec : Nat) : Bool := spec == 0x3C || (spec < 0x38 && spec % 2 == 0)

/-- Second register of a pair. -/
def pairHi (spec : Nat) : Nat := if spec == 0x3C then 0x3C else spec + 1

/-- Queue-binding fault (R86). -/
def queueFault (key q reason : Nat) : Flt := fltOf 0x05 (q + reason * 16 + coreKind key * 256)

/-- The binding check of a queue read or written by an engine (R86 reasons 1 and 2). -/
def State.queueCheck (s : State) (key spec : Nat) (write : Bool) : Option Flt :=
  if !isQueue key spec then none
  else
    let q := spec - 32
    let ck := keyCtxKey key
    let who := if write then s.queueProducer ck q else s.queueConsumer ck q
    if who == 0 then some (queueFault key q 1)
    else if who != coreKind key then some (queueFault key q 2)
    else none

/-- Ring fault information (R188). -/
def ringFault (key ring reason : Nat) : Flt := fltOf 0x10 (ring % 256 + reason * 256 + coreKind key * 65536)

/-- A ring of a core. -/
def State.ringAt (s : State) (core n : Nat) : Ring := s.rings.get {} (32 * core + n)

/-- A ring replaced. -/
def State.setRing (s : State) (core n : Nat) (r : Ring) : State := { s with rings := s.rings.put (32 * core + n) r }

/-- Slots in use of a ring (R186). -/
def Ring.used (r : Ring) : Nat := (r.tail + 2 ^ 32 - r.head) % 2 ^ 32

/-- Binding word of a ring-stream register: 0 in0, 1 in1, 2 ex0, 3 ex1 (R193). -/
def State.ringBinding (s : State) (key k : Nat) : DWord := (s.ctlAt key 0).ringIn.get 0 k

/-- The check of a ring-stream register named without a binding (R188 reason 8); the ring number is a free value
(log 2), no ring being bound. -/
def State.ringCheck (s : State) (key k : Nat) : Option Flt :=
  if bit (s.ringBinding key k) 6 then none
  else some (ringFault key (bits (Config.freeValue s.free) 0 5) 8)

/-- Lanes of the element at the head of an element ring, and the ring after the pop (R194). -/
def State.ringPop (s : State) (key k : Nat) : State × List Word :=
  let n := bits (s.ringBinding key k) 0 5
  let core := keyCore key
  let r := s.ringAt core n
  let at_ := locKey core (r.base + r.head % r.count * r.slotSize)
  let ws := (upTo 64).map fun l => if 4 * l < r.slotSize then BitVec.ofNat 32 (s.locRead (at_ + 4 * l) 4) else (0 : Word)
  (s.setRing core n { r with head := (r.head + 1) % 2 ^ 32 }, ws)

/-- Where the elements stand that the lane sources of an instruction pop, in pop order, and their size. -/
def State.elementPlaces (s : State) (key : Nat) : List Nat → List (Nat × Nat)
  | [] => []
  | spec :: rest =>
    if spec == 0x3A || spec == 0x3B then
      let r := s.ringAt (keyCore key) (bits (s.ringBinding key (spec - 0x3A)) 0 5)
      (r.base + r.head % r.count * r.slotSize, r.slotSize) :: (s.ringPop key (spec - 0x3A)).1.elementPlaces key rest
    else s.elementPlaces key rest

/-- The virtual address of the first poisoned byte of the elements that an instruction pops (R180, R372). -/
def State.elementPoison (s : State) (key : Nat) (lsrc : List Nat) : Option DWord :=
  ((s.elementPlaces key lsrc).findSome? fun e =>
    ((upTo e.2).map (e.1 + ·)).find? fun o => s.poisonLoc.has (locKey (keyCore key) o / 8)).map fun o =>
      BitVec.ofNat 64 (0xFFFFFFFFFF000000 + o)

/-! ### Needs (R80, R84, R194) -/

/-- How many times a value stands in a list. -/
def timesIn (n : Nat) (l : List Nat) : Nat := (l.filter (· == n)).length

/-- What an instruction's sources need before anything is popped (R80, R84, R194). -/
def State.popNeeds (s : State) (key g : Nat) (ssrc lsrc : List Nat) : List Need :=
  let eng := keyEng key
  let toks := (if bitN g 3 then [Need.tokens (fifoFromPrev eng) 1] else []) ++
    (if bitN g 2 then [Need.tokens (fifoFromNext eng) 1] else [])
  let qs := (ssrc.filter (isQueue key)).map fun q => Need.entries (q - 32) (timesIn q ssrc)
  let rings := (lsrc.filter fun x => x == 0x3A || x == 0x3B).map fun x => bits (s.ringBinding key (x - 0x3A)) 0 5
  toks ++ qs ++ rings.map fun n => Need.elements n (timesIn n rings)

/-- Scalar sources in pop order: their values, queues popped (R48, R84). -/
def State.popScalars (s : State) (key : Nat) : List Nat → State × List DWord
  | [] => (s, [])
  | spec :: rest =>
    if isQueue key spec then
      let ck := keyCtxKey key
      let l := s.queue ck (spec - 32)
      let (s1, vs) := (s.setQueue ck (spec - 32) (l.drop 1)).popScalars key rest
      (s1, l.headD 0 :: vs)
    else
      let (s1, vs) := s.popScalars key rest
      (s1, s.sget key spec :: vs)

/-- Lane sources in pop order: every lane's value, ring elements popped (R47, R159, R194). -/
def State.popLanes (s : State) (key : Nat) : List Nat → State × List (List Word)
  | [] => (s, [])
  | spec :: rest =>
    if spec == 0x3C then
      let (s1, vs) := s.popLanes key rest
      (s1, (upTo (laneCount key)).map (fun _ => 0) :: vs)
    else if spec == 0x3A || spec == 0x3B then
      let (s0, ws) := s.ringPop key (spec - 0x3A)
      let (s1, vs) := s0.popLanes key rest
      (s1, ws :: vs)
    else
      let (s1, vs) := s.popLanes key rest
      (s1, (upTo (laneCount key)).map (fun l => s.lget key spec l) :: vs)

/-- Tokens popped at issue (R80). -/
def State.popTokens (s : State) (key g : Nat) : State :=
  let ck := keyCtxKey key
  let eng := keyEng key
  let pop (s : State) (f : Nat) : State := s.setTok ck f (s.tok ck f - 1)
  let s1 := if bitN g 3 then pop s (fifoFromPrev eng) else s
  if bitN g 2 then pop s1 (fifoFromNext eng) else s1

/-- FIFOs that a G field pops at issue (R80). -/
def popFifos (key g : Nat) : List Nat :=
  (if bitN g 3 then [fifoFromPrev (keyEng key)] else []) ++ (if bitN g 2 then [fifoFromNext (keyEng key)] else [])

/-- Queue entries among the values popped for a list of scalar sources. -/
def popEntries (key : Nat) (src : List Nat) (vs : List DWord) : List (Nat × DWord) :=
  ((src.zip vs).filter fun x => isQueue key x.1).map fun x => (x.1 - 32, x.2)

/-- Entries of a queue that an open region of the context's control engine keeps room for: those it has popped and those it
will push (R338). -/
def State.regionEntries (s : State) (ck q : Nat) : Nat :=
  match (s.ctlAt (5 * ck) 0).region with
  | some r => timesIn q (r.taken.map (·.1)) + timesIn q (r.pushes.map (·.1))
  | none => 0

/-- FIFOs that a G field pushes at retirement (R80). -/
def pushFifos (key g : Nat) : List Nat :=
  (if bitN g 1 then [fifoToPrev (keyEng key)] else []) ++ (if bitN g 0 then [fifoToNext (keyEng key)] else [])

/-! ### Lane results (R160) -/

/-- A lane result retired in one lane (R160), t0's poison moving on with it (R371); a result for ex0 or ex1 enters t0 and t1 here and is pushed apart. -/
def State.retireLane (s : State) (key d lane : Nat) (r : Word) : State :=
  let s1 := (s.lsetPoison key 0x39 lane (s.lget key 0x38 lane) (s.poisonLane.has (laneKey key 0x38 lane))).lset key 0x38 lane r
  if d ≤ 0x37 then s1.lset key d lane r
  else if d == 0x39 then s1.lset key 0x39 lane r
  else s1

/-- Lane results retired in rising lane order. -/
def State.retireLanes (s : State) (key d : Nat) (rs : List (Nat × Word)) : State :=
  rs.foldl (fun s r => s.retireLane key d r.1 r.2) s

/-! ### Deliveries into rings (R194, R196) -/

/-- Whether a ring of a core accepts `len` bytes from a sender: the checks of R196. -/
def State.ringAccepts (s : State) (core n gen sender part len : Nat) : Bool :=
  let r := s.ringAt core n
  match r.holder with
  | none => false
  | some h =>
    (gen == 0 || r.gen == gen) && (bitN r.flags 0 || core == sender) &&
    (bitN r.flags 1 || cardPart (s.slotAt h).card == part) && len ≤ r.slotSize

/-- Mark of an element ring in `fresh`. -/
def freshRing (core n : Nat) : Nat := 2 ^ 20 + 32 * core + n

/-- An element written at the tail of a ring of a core: in an element ring zeros follow it, and it is poppable from the next
tile cycle; in a tile ring its slot becomes FULL (R194, R196). -/
def State.ringAppend (s : State) (core n : Nat) (bs : List Byte) : State :=
  let r := s.ringAt core n
  let i := r.tail % r.count
  let out := if r.cls == 1 then bs ++ List.replicate (r.slotSize - bs.length) 0 else bs
  let s1 := { s with fresh := if r.cls == 1 then freshRing core n :: s.fresh else s.fresh }.locWrite (locKey core (r.base + i * r.slotSize)) out
  s1.setRing core n { r with tail := (r.tail + 1) % 2 ^ 32, tags := if r.cls == 0 then r.tags.put i 2 else r.tags }

/-- Bytes of an element of lanes (R194). -/
def laneBytes (ws : List Word) (size : Nat) : List Byte := (ws.flatMap fun w => leBytes 4 w.toNat).take size

/-- Whether a ring-stream register pushes to a ring of its own core. -/
def State.pushesHere (s : State) (key k : Nat) : Bool :=
  let core := bits (s.ringBinding key k) 8 8
  core == 0xFF || core == keyCore key

/-- Whether an element pushed through ex0 or ex1 is accepted by the ring of a core that it is bound to; one whose binding is
gone is not (R194, R196). -/
def State.pushAccepted (s : State) (key k core : Nat) : Bool :=
  let b := s.ringBinding key k
  bit b 6 && s.ringAccepts core (bits b 0 5) (bits b 16 8) (keyCore key) (cardPart (s.cardOf key 0)) 0

/-! ### Pushes at retirement (R80, R84, R194) -/

/-- What the pushes of an instruction need: room in every FIFO, queue and local ring; an element for another core waits
for its delivery. -/
def State.pushNeeds (s : State) (key : Nat) (r : Retire) : List Need :=
  r.fifos.map Need.tokenRoom ++ r.queues.map (fun q => Need.queueRoom q.1) ++
  (r.elems.filterMap fun e =>
    if s.pushesHere key e.1 then
      if s.pushAccepted key e.1 (keyCore key) then some (Need.elementRoom (bits (s.ringBinding key e.1) 0 5)) else none
    else some (Need.remote e.1))

/-- One token pushed; into an empty FIFO it is poppable from the next tile cycle (R80). -/
def State.pushToken (s : State) (ck f : Nat) : State :=
  { s.setTok ck f (s.tok ck f + 1) with fresh := if s.tok ck f == 0 then (24 * ck + f) :: s.fresh else s.fresh }

/-- One queue entry pushed; into an empty queue it is poppable from the next tile cycle (R84). -/
def State.pushQueue (s : State) (ck q : Nat) (v : DWord) : State :=
  { s.setQueue ck q (s.queue ck q ++ [v]) with
    fresh := if s.queue ck q == [] then (24 * ck + 8 + q) :: s.fresh else s.fresh }

/-- One element pushed to a ring of its own core; an element that is not accepted leaves the trap of reason 13 (R194). -/
def State.pushElement (s : State) (key : Nat) (e : Nat × List Word) : State × Option Nat :=
  let n := bits (s.ringBinding key e.1) 0 5
  let core := keyCore key
  if s.pushAccepted key e.1 core then (s.ringAppend core n (laneBytes e.2 (s.ringAt core n).slotSize), none)
  else (s, some n)

end Sys2Proof.Machine
end

