-- ==== Sys2Proof/Machine/Complete.lean ====
section
/-! DEFINITION. The outstanding operations of a stream, and what happens at a completion point: token pushes, flags
(R27, R81, R92, R120, R402). -/

namespace Sys2Proof.Machine

/-- Numbers of the values that a list of natural numbers holds, without repeats, in order of first standing. -/
def dedup (l : List Nat) : List Nat := l.foldl (fun acc x => if acc.contains x then acc else acc ++ [x]) []

/-- A tile job's context number. -/
def State.jobCtx (s : State) (slot : Nat) : Nat := cardCtx (s.slotAt slot).card

/-- The stream keys of a tile job, core by core. -/
def State.jobStreams (s : State) (slot : Nat) : List Nat :=
  (s.slotAt slot).cores.flatMap fun c => (upTo 5).map fun e => streamKey c (s.jobCtx slot) e

/-- The waves of a vision job. -/
def State.jobWaves (s : State) (slot : Nat) : List Nat := (s.waves.filter fun e => e.2.job == slot).map (·.1)

/-- Key of an engine's area in the save image of a job (R121). -/
def State.savedArea (s : State) (slot core eng : Nat) : Nat :=
  locKey core (saveImage (s.slotAt slot).card + 1024 * eng)

/-- Commands of a stream that count for wait classes 2 and 7: copies, rpush and rret (R92, R197, R199, R268). -/
def State.copiesOut (s : State) (key : Nat) : Nat :=
  let job := (s.ctlAt key 0).job
  (s.flights.filter fun e => match e.2 with
    | .copy c => c.key == key && c.job == job
    | .push p => p.key == key && p.job == job
    | .ret r => r.key == key && r.job == job
    | _ => false).length

/-- Routes of a stream that have not completed (R277). -/
def State.routesOut (s : State) (key : Nat) : Nat :=
  (s.rtes.filter fun e => e.2.state == 1 && e.2.key == key && e.2.job == (s.ctlAt key 0).job).length

/-- Commands of a stream that have not completed: at most 32 (R199, R277). -/
def State.commandsOut (s : State) (key : Nat) : Nat := s.copiesOut key + s.routesOut key

/-- Readouts of a stream that have not completed. -/
def State.readoutsOut (s : State) (key : Nat) : Nat :=
  (s.flights.filter fun e => match e.2 with
    | .readout r => r.key == key && r.job == (s.ctlAt key 0).job
    | _ => false).length

/-- Whether every operation of a stream has completed and its pending-push record is empty (R92 class 7). -/
def State.allComplete (s : State) (key : Nat) : Bool :=
  s.copiesOut key == 0 && s.routesOut key == 0 && s.readoutsOut key == 0 && (s.ctlAt key 0).pp == []

/-- Whether a FIFO index is the one a stream pushes towards next. -/
def towardsNext (key f : Nat) : Bool := f == fifoToNext (keyEng key)

/-- Completion pushes into the pending-push record of an evicted job's save image (R120, R402); what finds it full waits
behind it, in what the slot keeps (log 38). -/
def State.pushSaved (s : State) (slot key : Nat) (fifos : List Nat) : State :=
  let a := s.savedArea slot (keyCore key) (keyEng key)
  let k := 5 * keyCore key + keyEng key
  fifos.foldl (fun s f =>
    let n := s.locRead (a + 0x160) 8 % 128
    if n < 64 then
      (s.locWriteRaw (a + 0x168 + n) [BitVec.ofNat 8 (b2n (towardsNext key f))]).locWriteRaw (a + 0x160) (leBytes 8 (n + 1))
    else s.modSlot slot fun x =>
      let c := x.saved.get {} k
      { x with saved := x.saved.put k { c with pp := c.pp ++ [towardsNext key f] } }) s

/-- Tokens pushed at a completion point: a full FIFO, or one with an earlier push waiting, sends the push to the
pending-push record, whose 64 entries are the first of `pp` (R81, log 38). -/
def State.pushCompletion (s : State) (slot key g : Nat) : State :=
  if (s.slotAt slot).state == 4 then s.pushSaved slot key (pushFifos key g)
  else
    let ck := keyCtxKey key
    (pushFifos key g).foldl (fun s f =>
      let c := s.ctlAt key 0
      if s.tok ck f < 32 && !c.pp.contains (towardsNext key f) then s.pushToken ck f
      else s.setCtl key 0 { c with pp := c.pp ++ [towardsNext key f] }) s

/-! ### Readouts of the matrix engine (R237, R240, R257) -/

/-- Scattered bytes written to a scratchpad; granules written whole lose their poison (R371). -/
def State.locScatter (s : State) (bs : List (Nat × Byte)) : State :=
  let s1 := bs.foldl (fun s b => s.locWriteRaw b.1 [b.2]) s
  let keys := bs.map (·.1)
  { s1 with poisonLoc := s1.poisonLoc.filter fun e => !((upTo 8).all fun i => keys.contains (8 * e.1 + i)) }

/-- A readout's bytes performed and its tokens pushed (R81, R237). -/
def State.finishReadout (s : State) (id : Nat) (r : Readout) : State :=
  ((s.land id).locScatter r.bytes).pushCompletion r.job r.key r.g

/-- Every readout of a stream performed before an instruction of that stream that may read what it writes, or that orders
its accesses before a consumer's (R238, R283, R292). -/
def State.finishReadouts (s : State) (key : Nat) : State :=
  s.flights.foldl (fun s e => match e.2 with
    | .readout r => if r.key == key && r.job == s.jobOf key 0 then s.finishReadout e.1 r else s
    | _ => s) s

/-- Pending pushes made while there is room, oldest first for each FIFO (R81). -/
def State.drainPending (s : State) (key : Nat) : State :=
  let ck := keyCtxKey key
  let c := s.ctlAt key 0
  let step (acc : State × List Bool) (b : Bool) : State × List Bool :=
    let f := if b then fifoToNext (keyEng key) else fifoToPrev (keyEng key)
    if acc.1.tok ck f < 32 && !acc.2.contains b then (acc.1.pushToken ck f, acc.2) else (acc.1, acc.2 ++ [b])
  let (s1, left) := c.pp.foldl step (s, [])
  s1.modCtl key 0 fun c => { c with pp := left }

/-- %fflags of a job's stream: in the stream, or in the save image of an evicted job (R402). -/
def State.putFlags (s : State) (slot key : Nat) (f : Fl) : State :=
  if f == 0 then s
  else if (s.slotAt slot).state == 4 then
    let k := s.savedArea slot (keyCore key) (keyEng key) + 0x128
    s.locWrite k (leBytes 8 (Nat.lor (s.locRead k 8) f.toNat))
  else s.orFlags key 0 f

end Sys2Proof.Machine
end

