-- ==== Sys2Proof/Machine/Windows.lean ====
section
/-! DEFINITION. The regulators of external memory (R220, R362 to R368, R399, R400): windows and budgets of the partitions,
shares, admission, and the overrun of a held request. -/

namespace Sys2Proof.Machine

/-! ### The pair of a partition (R363) -/

/-- Cards of a partition that hold slots. -/
def State.partCards (s : State) (p : Nat) : List (List Byte) :=
  (s.slots.filter fun e => e.2.state != 0 && cardPart e.2.card == p).map (·.2.card)

/-- W and B of a partition; W = 0 is unregulated (R363). -/
def State.pairFor (s : State) (p : Nat) : Nat × Nat :=
  match (s.partCards p).map fun c => cardF c 0x24 2 with
  | [] => (0, 0)
  | w :: ws =>
    let m := ws.foldl minN w
    (m, minN (((s.partCards p).map fun c => cardF c 0x20 4 * m / maxN (cardF c 0x24 2) 1).foldl (· + ·) 0) (2 ^ 32 - 1))

/-- The regulator of a partition. -/
def State.regulator (s : State) (p : Nat) : Regulator := s.regulators.get {} p

/-- A regulator replaced. -/
def State.setRegulator (s : State) (p : Nat) (r : Regulator) : State := { s with regulators := s.regulators.put p r }

/-- The first multiple of a window length after an instant, and the first at or after it. -/
def windowAfter (w t : Nat) : Nat := (t / (w * 1000) + 1) * (w * 1000)
def windowFrom (w t : Nat) : Nat := (t + w * 1000 - 1) / (w * 1000) * (w * 1000)

/-- A request admitted: its sector is counted, and a fill comes from external memory (R310, R366). -/
def State.letGo (s : State) (q : SectorReq) : State := (s.countSectors q.part 1).sendFill q

/-- The partition's pair as its registers show it: the pair in effect (R368). -/
def State.showPair (s : State) (p : Nat) (r : Regulator) : State :=
  (s.setCreg (regBase + 0x1000 + 32 * p) (BitVec.ofNat 64 r.window)).setCreg (regBase + 0x1008 + 32 * p)
    (BitVec.ofNat 64 r.budget)

/-- A regulator in place of another when a card enters or leaves a slot: a new pair is pending, or the partition becomes
unregulated at once and its held requests are admitted (R363). -/
def Regulator.change (r : Regulator) (pair : Nat × Nat) (now : Nat) : Regulator :=
  let (w, b) := pair
  let newest := match r.pending with | some (pw, pb, _) => (pw, pb) | none => (r.window, r.budget)
  if pair == newest then r
  else if w == 0 then {}
  else if r.window == 0 then { r with pending := some (w, b, windowAfter w now) }
  else
    let stop := windowAfter r.window (maxN r.start now)
    if w == r.window then
      { r with stop := stop, pending := if b == r.budget then none else some (w, b, stop) }
    else { r with stop := windowFrom w stop, pending := some (w, b, windowFrom w stop) }

/-- The regulator of a partition brought in line with the cards in slots (R363). -/
def State.regChanged (s : State) (p : Nat) : State :=
  let r := s.regulator p
  let r1 := r.change (s.pairFor p) s.ns
  let released := if r1.window == 0 then r.held.flatMap (·.2) else []
  released.foldl State.letGo ((s.setRegulator p r1).showPair p r1)

/-! ### Shares and admission (R365, R366) -/

/-- Weight of a controller. -/
def weightOf (weights : DWord) (c : Nat) : Nat := bits weights (4 * c) 4

/-- Share of controller `c` in a window (R365). -/
def shareOf (b : Nat) (weights : DWord) (c : Nat) : Nat :=
  if weights == 0 then b / 16 + (if c < b % 16 then 1 else 0)
  else
    let total := ((upTo 16).map (weightOf weights)).foldl (· + ·) 0
    let base (k : Nat) : Nat := b * weightOf weights k / total
    let rem := b - ((upTo 16).map base).foldl (· + ·) 0
    if weightOf weights c == 0 then 0
    else base c + (if ((upTo c).filter fun k => weightOf weights k != 0).length < rem then 1 else 0)

/-- The share of a controller in the current window of a partition. -/
def Regulator.share (r : Regulator) (c : Nat) : Nat := shareOf r.budget r.weights c

/-- What a stream or thread of a job is owed changed, on its cores and in what is kept of an evicted job, where it has
executed neither halt nor rdv and has not exited (R130, R367). -/
def State.oweEach (s : State) (slot : Nat) (f : Owed → Owed) : State :=
  let upd (c : Ctl) : Ctl := if c.life == .live || c.life == .escalated then { c with owed := f c.owed } else c
  let s1 := s.modSlot slot fun x => { x with saved := x.saved.map fun e => (e.1, upd e.2) }
  { s1 with ctl := s1.ctl.map fun e => if e.2.job == slot then (e.1, upd e.2) else e }

/-- A budget overrun of the job in a slot under its policy (R367). -/
def State.raiseOverrun (s : State) (slot p c : Nat) (r : Regulator) : State :=
  let x := s.slotAt slot
  if x.state == 0 || x.overrunAt == some r.start then s
  else
    let policy := bitsN (cardPolicy x.card) 0 2
    let s1 := s.modSlot slot fun x => { x with overrunAt := some r.start }
    let s2 := if policy % 2 == 1 then
        s1.oweEach slot fun o => { o with overrun := o.overrun.or (some (BitVec.ofNat 64 r.start)) }
      else s1
    if policy < 2 then s2
    else
      (s2.ringRecord regBase 64 p fun _ =>
        leBytes 8 r.start ++ leBytes 8 s.ns ++ leBytes 4 r.budget ++ leBytes 4 (r.share c) ++ leBytes 2 r.window ++
        [BitVec.ofNat 8 c, BitVec.ofNat 8 p, BitVec.ofNat 8 slot, BitVec.ofNat 8 policy] ++ leBytes 2 0 ++
        leBytes 4 (r.held.get [] c).length ++ List.replicate 28 0).sendMsi

/-- The overrun of a request, where it names a job. -/
def State.overrunOf (s : State) (q : SectorReq) (c : Nat) : State :=
  match q.slot with
  | some k => s.raiseOverrun k q.part c (s.regulator q.part)
  | none => s

/-- A request arrives at its controller (R364, R366). A request that is not held is counted alone. A sector of a peer's memory
moves at the peer's controllers: the peer's reg_sectors, held under its whole physical address, counts it. -/
def State.sectorArrives (s : State) (q : SectorReq) : State :=
  if s.remote q.pa then (s.countPeer q.part q.pa).sendFill q else
  let r := s.regulator q.part
  let c := controllerOf q.pa
  let n := r.counts.get 0 c
  let held := r.held.get [] c
  if r.window == 0 then s.letGo q
  else if !q.holds then (s.setRegulator q.part { r with counts := r.counts.put c (n + 1) }).letGo q
  else if held == [] && (n < r.share c || !(r.admitted.contains c)) then
    (s.setRegulator q.part { r with counts := r.counts.put c (n + 1), admitted := r.admitted ++ [c] }).letGo q
  else (s.setRegulator q.part { r with held := r.held.put c (held ++ [q]) }).overrunOf q c

/-- Held requests admitted at a window's start at one controller: how many (R366). -/
def admitCount (share held : Nat) : Nat := minN held (maxN share 1)

/-- The window's start at one controller (R366). -/
def State.openAt (s : State) (p c : Nat) : State :=
  let r := s.regulator p
  let held := r.held.get [] c
  let k := admitCount (r.share c) held.length
  let r1 := { r with counts := r.counts.put c k, held := r.held.set [] c (held.drop k),
                     admitted := if k == 0 then r.admitted else r.admitted ++ [c] }
  let s1 := (held.take k).foldl State.letGo (s.setRegulator p r1)
  match held.drop k with
  | [] => s1
  | q :: _ => s1.overrunOf q c

/-- A window of a partition starts with a pair at an instant (R363, R366, R368). -/
def State.openWindow (s : State) (p : Nat) (pair : Nat × Nat) (start stop : Nat) : State :=
  let r : Regulator :=
    { s.regulator p with window := pair.1, budget := pair.2, start := start, stop := stop, counts := [], admitted := [],
                         weights := s.creg_ (regBase + 0x1010 + 32 * p) }
  (upTo 16).foldl (fun s c => s.openAt p c) ((s.setRegulator p r).showPair p r)

/-- The start of the next window of a partition, where it has come: the pending pair takes effect if it is its time
(R363). -/
def State.windowStart (s : State) (p : Nat) : State :=
  let r := s.regulator p
  match r.pending with
  | some (w, b, t) =>
    if t ≤ s.ns then
      ({ s with regulators := s.regulators.put p { r with pending := none } }).openWindow p (w, b) t (windowAfter w t)
    else if r.window != 0 && r.stop ≤ s.ns then s.openWindow p (r.window, r.budget) r.stop (windowAfter r.window r.stop)
    else s
  | none =>
    if r.window != 0 && r.stop ≤ s.ns then s.openWindow p (r.window, r.budget) r.stop (windowAfter r.window r.stop) else s

/-- The window of a partition that an instant falls in has begun (R363): with nothing held, the windows in between have no
effect. -/
def State.windowNow (s : State) (p : Nat) : State :=
  let s1 := s.windowStart p
  let r := s1.regulator p
  if r.window != 0 && r.stop ≤ s1.ns && r.pending.isNone && r.held.all (fun h => h.2 == []) then
    s1.openWindow p (r.window, r.budget) (s1.ns / (1000 * r.window) * (1000 * r.window)) (windowAfter r.window s1.ns)
  else s1

/-- Every window ends at a forward step of package time and a new one starts there (R109). -/
def State.windowsAtStep (s : State) (t : Nat) : State :=
  s.regulators.foldl (fun s e =>
    let p := e.1
    let r := s.regulator p
    match r.pending with
    | some (w, b, _) =>
      if w == r.window || t % (w * 1000) == 0 then
        ({ s with regulators := s.regulators.put p { r with pending := none } }).openWindow p (w, b) t (windowAfter w t)
      else if r.window == 0 then s.setRegulator p { r with pending := some (w, b, windowAfter w t) }
      else
        let stop := windowFrom w (windowAfter r.window t)
        ({ s with regulators := s.regulators.put p { r with pending := some (w, b, stop) } }).openWindow p
          (r.window, r.budget) t stop
    | none => if r.window == 0 then s else s.openWindow p (r.window, r.budget) t (windowAfter r.window t)) s

/-- A request that is discarded transfers no sector (R400): what its write did in external memory is taken back, where it stands
there still. -/
def State.takeBack (s : State) (q : SectorReq) : State :=
  q.undo.foldl (fun s u =>
    let a := s.settled u.1
    if s.mem.get 0 a == u.2.2 && (s.dirty.find a).isNone then { s with mem := s.mem.set 0 a u.2.1 } else s) s

/-- A request that is discarded starts no fill: a later access to its sector asks anew (R310, R400). -/
def State.discardFill (s0 : State) (q : SectorReq) : State :=
  let s := s0.takeBack q
  if !q.fill then s
  else
    match s.lineFind q.pa with
    | some (k, l) => { s with lines := s.lines.put k (l.modSector (q.pa / 64 % 4) fun x => { x with filling := false }) }
    | none => s

/-- Requests of a withdrawn job leave the hold queues and are discarded (R400). -/
def State.dropHeld (s : State) (slot : Nat) : State :=
  let gone := s.regulators.flatMap fun e => e.2.held.flatMap fun h => h.2.filter fun q => q.slot == some slot
  gone.foldl State.discardFill { s with
    regulators := s.regulators.map fun e => (e.1, { e.2 with
      held := e.2.held.map fun (h : Nat × List SectorReq) => (h.1, h.2.filter fun q => q.slot != some slot) }) }

/-- No slot: what requests name whose job has left its slot. -/
def endedSlot : Nat := 256

/-- Requests of a job that leaves its slot no longer name it, whether held or on their way (R362, R366). -/
def State.unnameRequests (s : State) (slot : Nat) : State :=
  let anon (q : SectorReq) : SectorReq := if q.slot == some slot then { q with slot := some endedSlot } else q
  { s with
    regulators := s.regulators.map fun e => (e.1, { e.2 with
      held := e.2.held.map fun (h : Nat × List SectorReq) => (h.1, h.2.map anon) })
    flights := s.flights.map fun e => match e.2 with
      | .sector q => (e.1, .sector (anon q))
      | .msg m => if m.slot == some slot then (e.1, .msg { m with slot := some endedSlot }) else e
      | .home h => if h.slot == some slot then (e.1, .home { h with slot := some endedSlot }) else e
      | _ => e }

end Sys2Proof.Machine
end

