-- ==== Sys2Proof/Machine/Reassembly.lean ====
section
/-! DEFINITION. Route descriptors (R264) and the reassembly table: rows combined, entries completed, row-choices dropped,
the deadline (R269 to R272). -/

namespace Sys2Proof.Machine

/-- A route descriptor (R264). -/
structure RouteDesc where
  src : Nat
  spitch : Nat
  rvec : Nat
  out : Nat
  opitch : Nat
  rbuf : Nat
  dmap : Nat
  timeout : Nat
  inlen : Nat
  outlen : Nat
  rows : Nat
  k : Nat
  rte : Nat
  flags : Nat
deriving DecidableEq, Repr

/-- The fields of 64 descriptor bytes. -/
def routeDesc (b : List Byte) : RouteDesc :=
  let f (o n : Nat) : Nat := leNat ((b.drop o).take n)
  { src := f 0 4, spitch := f 4 4, rvec := f 8 4, out := f 0x0C 4, opitch := f 0x10 4, rbuf := f 0x14 4, dmap := f 0x18 4,
    timeout := f 0x1C 4, inlen := f 0x20 2, outlen := f 0x22 2, rows := f 0x24 2, k := f 0x26 1, rte := f 0x27 1,
    flags := f 0x28 1 }

/-- Bytes of an element of a combine variant: FP32, BF16, bytes (R264). -/
def routeElem (variant : Nat) : Nat := if variant == 0 then 4 else if variant == 1 then 2 else 1

/-- Whether a descriptor keeps the rules of R264 for a variant. -/
def routeDescOk (variant : Nat) (b : List Byte) : Bool :=
  let d := routeDesc b
  let e := routeElem variant
  d.rvec % 8 == 0 && d.out % e == 0 && d.opitch % e == 0 && d.rbuf % 64 == 0 && d.dmap % 8 == 0 && d.timeout != 0 &&
  1 ≤ d.inlen && d.inlen ≤ 4096 && 1 ≤ d.outlen && d.outlen ≤ 4096 && d.outlen % e == 0 && 1 ≤ d.rows && d.rows ≤ 256 &&
  1 ≤ d.k && d.k ≤ 4 && d.rte < 64 && d.flags < 2 && (b.drop 0x29).all (· == 0) && (variant != 2 || d.k == 1)

/-- RS: the pitch of the return buffer (R264). -/
def RouteDesc.slotPitch (d : RouteDesc) : Nat := (d.outlen + 63) / 64 * 64

/-- Offset of the return of a row-choice (R264). -/
def RouteDesc.slotOff (d : RouteDesc) (row choice : Nat) : Nat := d.rbuf + (row * d.k + choice) * d.slotPitch

/-! ### Combining (R270) -/

/-- One term of an FP32 sum: the first is the rounded product, a later one is fused (R270). -/
def routeTerm (rm : Rm) (acc : Option Nat × Fl) (w x : Nat) : Option Nat × Fl :=
  let r := match acc.1 with
    | none => fop2 .fmul .fp32 rm w x
    | some a => ffmaF .fp32 rm w x a
  (some r.1, acc.2 ||| r.2)

/-- Output element `n` of a row from the weights and returns of its returned choices, in rising choice. -/
def routeElement (variant : Nat) (rm : Rm) (terms : List (Nat × List Byte)) (n : Nat) : List Byte × Fl :=
  let e := routeElem variant
  let elem (bs : List Byte) : Nat :=
    let v := leNat ((bs.drop (e * n)).take e)
    if variant == 0 then v else v * 2 ^ 16
  let (acc, fl) := terms.foldl (fun acc t => routeTerm rm acc t.1 (elem t.2)) (none, 0)
  let a := acc.getD 0
  if variant == 0 then (leBytes 4 a, fl)
  else
    let (o, fl2) := roundConv .bf16 rm (unpackF .fp32 a)
    (leBytes 2 o, fl ||| fl2)

/-- The output row of a row of an entry, and its flags (R270). -/
def Rte.combine (r : Rte) (row : Nat) : List Byte × Fl :=
  let d := routeDesc r.desc
  let returned := (upTo d.k).filter fun c => r.fate.getD (row * d.k + c) 0 == 2
  let ret (c : Nat) : List Byte := r.rets.get [] (row * d.k + c)
  if r.variant == 2 then (if returned == [] then List.replicate d.outlen 0 else ret 0, 0)
  else
    let terms := returned.map fun c => (bitsN (r.vec.getD (row * d.k + c) 0) 32 32, ret c)
    (upTo (d.outlen / routeElem r.variant)).foldl (fun acc n =>
      let (bs, fl) := routeElement r.variant (rmOf r.rm) terms n
      (acc.1 ++ bs, acc.2 ||| fl)) ([], 0)

/-! ### Progress of an entry (R270, R271) -/

/-- An entry of a core. -/
def State.rteAt (s : State) (core n : Nat) : Rte := s.rtes.get {} (64 * core + n)

/-- An entry replaced. -/
def State.setRte (s : State) (core n : Nat) (r : Rte) : State := { s with rtes := s.rtes.put (64 * core + n) r }

/-- The drop map of an entry: bit `4 * row + choice` (R271). -/
def Rte.dropMap (r : Rte) : List Byte :=
  let d := routeDesc r.desc
  (upTo ((d.rows + 1) / 2)).map fun i =>
    BitVec.ofNat 8 ((upTo 8).foldl (fun a b =>
      let row := (8 * i + b) / 4
      let c := (8 * i + b) % 4
      a + b2n (row < d.rows && c < d.k && r.fate.getD (row * d.k + c) 0 == 3) * 2 ^ b) 0)

/-- Whether every row-choice of a row is returned or dropped, and the row is not yet written. -/
def Rte.rowDue (r : Rte) (row : Nat) : Bool :=
  let k := (routeDesc r.desc).k
  !(r.rowsDone.getD row false) && (upTo k).all fun c => 2 ≤ r.fate.getD (row * k + c) 0

/-- One row combined and written. -/
def State.writeRow (s : State) (core n row : Nat) : State :=
  let r := s.rteAt core n
  let d := routeDesc r.desc
  let (bs, fl) := r.combine row
  let rowsDone := r.rowsDone.zipIdx.map fun x => x.2 == row || x.1
  (s.locWrite (locKey core (d.out + row * d.opitch)) bs).setRte core n
    { r with rowsDone := rowsDone, fl := Nat.lor r.fl fl.toNat }

/-- An entry all of whose rows are written completes (R271). -/
def State.completeRte (s : State) (core n : Nat) : State :=
  let r := s.rteAt core n
  let s1 := (s.locWrite (locKey core (routeDesc r.desc).dmap) r.dropMap).setRte core n { r with state := 2 }
  (s1.putFlags r.job r.key (BitVec.ofNat 7 r.fl)).pushCompletion r.job r.key r.g

/-- Rows that have become complete are written in ascending order, and the entry completes with its last row. -/
def State.progressRte (s : State) (core n : Nat) : State :=
  let r := s.rteAt core n
  if r.state != 1 then s
  else
    let s1 := (upTo (routeDesc r.desc).rows).foldl (fun s row =>
      if (s.rteAt core n).rowDue row then s.writeRow core n row else s) s
    if (s1.rteAt core n).rowsDone.all id then s1.completeRte core n else s1

/-- A row-choice's fate set. -/
def setFate (fate : List Nat) (i v : Nat) : List Nat := fate.zipIdx.map fun x => if x.2 == i then v else x.1

/-- A row-choice that was sent is dropped by delivery (R267). -/
def State.dropChoice (s : State) (core n seq row choice : Nat) : State :=
  let r := s.rteAt core n
  let i := row * (routeDesc r.desc).k + choice
  if r.state == 1 && r.seq == seq && r.fate.getD i 0 == 1 then
    (s.setRte core n { r with fate := setFate r.fate i 3 }).progressRte core n
  else s

/-- A route-timeout notification owed to the issuing stream (R272, R402). -/
def State.oweRoute (s : State) (slot key n : Nat) : State :=
  let add (c : Ctl) : Ctl := { c with owed := { c.owed with routeTo := c.owed.routeTo ++ [n] } }
  if (s.slotAt slot).state == 4 then
    let k := 5 * keyCore key + keyEng key
    s.modSlot slot fun x => { x with saved := x.saved.put k (add (x.saved.get {} k)) }
  else s.modCtl key 0 add

/-- Deliveries of an entry that have not been accepted are withdrawn (R272). -/
def State.withdrawDeliveries (s : State) (core n seq : Nat) : State :=
  { s with flights := s.flights.filter fun e => match e.2 with
      | .delivery d =>
        (match d.source with
         | .route c m q _ _ => !(c == core && m == n && q == seq)
         | _ => true)
      | _ => true }

/-- The deadline of an entry takes effect (R272). -/
def State.routeDeadline (s : State) (core n : Nat) : State :=
  let r := s.rteAt core n
  let fate := r.fate.map fun f => if f == 1 then 3 else f
  let s1 := ((s.withdrawDeliveries core n r.seq).setRte core n { r with timedOut := true, fate := fate }).progressRte core n
  if bitN (routeDesc r.desc).flags 0 then s1.oweRoute r.job r.key n else s1

/-- An ACTIVE entry whose deadline has come reaches it before anything else happens to it (R272, R274). -/
def State.routeDue (s : State) (core n : Nat) : State :=
  let r := s.rteAt core n
  if r.state == 1 && r.deadline ≤ s.ns then s.routeDeadline core n else s

/-- A return bound for an entry is accepted, late, or an orphan (R269); one at or after the deadline is late (R274). -/
def State.acceptReturn (s0 : State) (core n seq row choice : Nat) (bytes : List Byte) : State :=
  let s := s0.routeDue core n
  let r := s.rteAt core n
  let d := routeDesc r.desc
  let i := row * d.k + choice
  if r.state == 1 && r.seq == seq && row < d.rows && choice < d.k && r.fate.getD i 0 == 1 then
    let bs := bytes.take d.outlen ++ List.replicate (d.outlen - bytes.length) 0
    ((s.locWrite (locKey core (d.slotOff row choice)) bs).setRte core n
      { r with fate := setFate r.fate i 2, rets := r.rets.put i bs }).progressRte core n
  else if r.state == 2 && r.seq == seq then s.setRte core n { r with late := r.late + 1 }
  else { s with orphans := s.orphans.put core (s.orphans.get 0 core + 1) }

end Sys2Proof.Machine
end

