-- ==== Sys2Proof/Machine/Jobs.lean ====
section
/-! DEFINITION. Jobs as the dispatcher holds them: the start of streams, the end of jobs, instances, waves and workgroups,
and what is reclaimed then (R5, R72, R94, R113, R114, R137, R139, R147, R156, R183, R248, R398). -/

namespace Sys2Proof.Machine

/-! ### Start of streams (R72, R73, R113) -/

/-- Entries of a table whose keys lie in a range removed. -/
def Tab.dropRange {β : Type} (t : Tab β) (lo n : Nat) : Tab β := t.filter fun e => !(lo ≤ e.1 && e.1 < lo + n)

/-- Registers of a stream or wave at their start values. -/
def State.clearRegs (s : State) (key : Nat) (args : DWord) : State :=
  let s1 := { s with
    sreg := s.sreg.dropRange (64 * key) 64
    poisonScalar := s.poisonScalar.dropRange (64 * key) 64
    lreg := s.lreg.dropRange (4096 * key) 4096
    poisonLane := s.poisonLane.dropRange (4096 * key) 4096
    preg := s.preg.dropRange (8 * key) 8
    aliases := s.aliases.dropRange (32 * key) 32 }
  s1.sset key 0 args

/-- What a context holds beside its streams, at start values: FIFOs, queues, bindings, shapes and accord tables. -/
def State.clearContext (s : State) (ck : Nat) : State :=
  { s with
    tokens := s.tokens.dropRange (8 * ck) 8
    queues := s.queues.dropRange (16 * ck) 16
    qbinds := s.qbinds.dropRange (16 * ck) 16
    shapes := s.shapes.dropRange (16 * ck) 16
    accords := s.accords.dropRange (4 * ck) 4 }

/-- The stream of an engine at its start; an entry of 0 has already executed rdv (R73). -/
def startCtl (slot : Nat) (card : List Byte) (eng : Nat) : Ctl :=
  let e := cardEntry card eng
  { life := if e == 0 then .arrived else .live, job := slot, pc := BitVec.ofNat 64 e, hdr := BitVec.ofNat 64 e }

/-- One stream started. -/
def State.startStream (s : State) (slot key : Nat) : State :=
  let card := (s.slotAt slot).card
  (s.clearRegs key (BitVec.ofNat 64 (cardArgs card))).setCtl key 0 (startCtl slot card (keyEng key))

/-- Every stream of an instance started on the job's cores; the flag file is cleared (R113). -/
def State.startStreams (s : State) (slot : Nat) : State :=
  let x := s.slotAt slot
  let ctx := cardCtx x.card
  let s1 := x.cores.foldl (fun s c => s.clearContext (ctxKey c ctx)) s
  let s2 := (s1.jobStreams slot).foldl (fun s k => s.startStream slot k) s1
  let empty := ((upTo 5).filter fun e => cardEntry x.card e == 0).length
  s2.modSlot slot fun x => { x with flags := [], started := true, arrivals := empty * x.cores.length }

/-! ### Reclaiming (R94, R114, R183, R184, R248, R249, R275) -/

/-- A target's state in the list of a push (R197). -/
def dropStatus (status : List Nat) (j : Nat) : List Nat :=
  status.zipIdx.map fun x => if x.2 == j then 2 else x.1

/-- The deadline of the entry that a delivery belongs to takes effect first, where it has come (R272). -/
def State.sourceDue (s : State) : Source → State
  | .route core n _ _ _ => s.routeDue core n
  | .push _ _ => s

/-- One delivery dropped: its sender learns of it (R197, R267), after a deadline that has come (R272). -/
def State.dropDelivery (s : State) (id : Nat) (d : Delivery) : State :=
  let s1 := (s.sourceDue d.source).land id
  match d.source with
  | .push p j =>
    match s1.flights.find p with
    | some (.push x) => s1.setFlight p (.push { x with status := dropStatus x.status j })
    | _ => s1
  | .route core entry seq row choice => s1.dropChoice core entry seq row choice

/-- Elements of a retiring instruction that are bound for a ring, dropped: it owes the trap of reason 13 (R194). -/
def Retire.loseElements (r : Retire) (key ring : Nat) (lost : Nat × List Word → Bool) : Retire :=
  if r.elems.any lost then
    { r with elems := r.elems.filter (fun e => !lost e)
             trap := r.trap.or (some (0x10, (ringFault key ring 13).info, r.iaddr)) }
  else r

/-- Elements of a stream that stand at a full ring of another core are dropped with that ring (R194, R196). -/
def State.dropElements (s : State) (key core ring : Nat) : State :=
  let r := s.ringAt core ring
  let at_ (e : Nat × List Word) : Bool :=
    let b := s.ringBinding key e.1
    !s.pushesHere key e.1 && bits b 8 8 == core && bits b 0 5 == ring && s.pushAccepted key e.1 core && r.count ≤ r.used
  s.modCtl key 0 fun c => { c with retire := c.retire.map fun x => x.loseElements key ring at_ }

/-- Deliveries and elements that stand at a ring of a core and have not been accepted are dropped (R192, R196). -/
def State.dropWaiting (s : State) (core ring : Nat) : State :=
  let s1 := s.flights.foldl (fun s e => match e.2 with
    | .delivery d => if d.arrived && d.core == core && d.ring == ring then s.dropDelivery e.1 d else s
    | _ => s) s
  (s.ctl.filter fun (e : Nat × Ctl) => e.1 < 32 * 2048 && e.2.retire.isSome).foldl (fun s e => s.dropElements (e.1 / 32) core ring) s1

/-- A ring freed; its generation stands (R184, R186). -/
def State.freeRing (s : State) (core n : Nat) : State :=
  let r := s.ringAt core n
  (s.dropWaiting core n).setRing core n { r with holder := none }

/-- The accumulator tiles of a mask cleared on a core (R231). -/
def State.clearTiles (s : State) (core mask : Nat) : State :=
  (upTo 8).foldl (fun s t =>
    if bitN mask t then
      { s with acc := s.acc.dropRange (1024 * (8 * core + t)) 1024,
               poisonAcc := s.poisonAcc.dropRange (1024 * (8 * core + t)) 1024 }
    else s) s

/-- Operations of a job under way removed: they stop and signal nothing (R114, R197, R275). A return on its way still
arrives, as an orphan, and is no longer the job's (R268, R275). -/
def State.dropFlights (s : State) (slot : Nat) : State :=
  { s with flights := s.flights.filterMap fun e =>
      let keep (b : Bool) : Option (Nat × Flight) := if b then some e else none
      match e.2 with
      | .copy c => keep (c.job != slot)
      | .push p => keep (p.job != slot)
      | .delivery d => keep (d.job != slot)
      | .flag u => keep (u.job != slot)
      | .readout r => keep (r.job != slot)
      | .mailbox m => keep (m.job != slot)
      | .ret r => some (if r.job == slot then (e.1, .ret { r with job := endedSlot }) else e)
      | _ => keep true }

/-- Reassembly entries of a job freed (R275). -/
def State.freeRtes (s : State) (slot : Nat) : State :=
  { s with rtes := s.rtes.map fun e => if e.2.state != 0 && e.2.job == slot then (e.1, { e.2 with state := 0 }) else e }

/-- A context of a core yielded: engines that issue from it idle (R77). -/
def State.yieldContext (s : State) (core ctx : Nat) : State :=
  let s1 := (upTo 5).foldl (fun s e =>
    let k := streamKey core ctx e
    let s1 := s.setCtl k 0 {}
    if s1.engCtx.get 4 (5 * core + e) == ctx then { s1 with engCtx := s1.engCtx.put (5 * core + e) 4 } else s1) s
  { s1 with ctxJob := s1.ctxJob.del (ctxKey core ctx) }

/-- Everything a tile job holds on one core is reclaimed; its region and pages are cleared later (R183, R248). -/
def State.reclaimCore (s : State) (slot core : Nat) : State :=
  let card := (s.slotAt slot).card
  let ctx := cardCtx card
  let loaded := s.ctxJob.find (ctxKey core ctx) == some slot
  let s1 := (upTo 32).foldl (fun s n => if (s.ringAt core n).holder == some slot then s.freeRing core n else s) s
  let s2 := if loaded then ((s1.clearTiles core (cardAcc card)).clearContext (ctxKey core ctx)).yieldContext core ctx else s1
  let s3 := if s2.caOwner.find core == some (4 * slot + ctx) then { s2 with caOwner := s2.caOwner.del core } else s2
  let s4 := s3.launch (.clearRegion core (cardBase card) (cardSize card))
  (upTo 8).foldl (fun s p => if bitN (cardPages card) p then s.launch (.clearPage core p) else s) s4

/-- The wait of every stopped stream or thread of a job ends, abandoned (R131, R132); the keys of contexts that another job
holds by now are passed over. -/
def State.abandonWaits (s : State) (slot : Nat) (keys : List (Nat × Nat)) : State :=
  keys.foldl (fun s k => if (s.ctlAt k.1 k.2).job == slot then s.endWait k.1 k.2 true else s) s

/-- The streams or threads of an evicted job as its slot keeps them, in the place of those on the cores. -/
def State.savedView (s : State) (slot : Nat) : State :=
  let x := s.slotAt slot
  if cardVision x.card then { s with ctl := x.saved, waves := x.savedWaves, groups := x.savedGroups }
  else
    let key (n : Nat) : Nat := ctlKey (streamKey (n / 5) (cardCtx x.card) (n % 5)) 0
    { s with ctl := x.saved.map fun (e : Nat × Ctl) => (key e.1, e.2) }

/-- The waits of an evicted job's streams or threads end with it (R131, R132). -/
def State.abandonSaved (s : State) (slot : Nat) : State :=
  let view := s.savedView slot
  let s1 := view.ctl.foldl (fun s e =>
    match e.2.waiting.bind (view.waitObject (e.1 / 32)) with
    | none => s
    | some (kind, object) => s.sillageAs view (e.1 / 32) (e.1 % 32) kind object e.2.waitStart.toNat true) s
  s1.modSlot slot fun x => { x with saved := x.saved.map fun (e : Nat × Ctl) => (e.1, { e.2 with waiting := none }) }

/-- A slot made free; requests of its job that are under way no longer name it, and decrements that find it free are
counted on (R346). -/
def State.freeSlot (s : State) (slot : Nat) : State :=
  let x := s.slotAt slot
  let kept := { s.unnameRequests slot with
    slots := s.slots.set {} slot { strayDecrements := x.strayDecrements }, evaluations := s.evaluations + 1 }
  kept.regChanged (cardPart x.card)

/-- Everything that a tile job holds reclaimed on every core of its gang (R114). -/
def State.leaveTile (s : State) (slot : Nat) : State :=
  let s1 := (((s.abandonWaits slot ((s.jobStreams slot).map (·, 0))).abandonSaved slot).dropFlights slot).freeRtes slot
  (s1.slotAt slot).cores.foldl (fun s c => s.reclaimCore slot c) s1

/-- A tile job ends and everything it holds is reclaimed (R94, R114). -/
def State.reclaimTile (s : State) (slot : Nat) : State := (s.leaveTile slot).freeSlot slot

/-! ### Waves and workgroups (R137, R139, R147) -/

/-- The head of a partition's queue takes a free block, and its waiting threads go on (R147). -/
def State.blocksHeld (s : State) (core part : Nat) : List Nat :=
  s.waves.filterMap fun e =>
    if keyCore e.1 == 64 + core && keySlot e.1 / 12 == part then e.2.block else none

/-- A free extended block of a partition, the lowest-numbered. -/
def State.freeBlock (s : State) (core part : Nat) : Option Nat :=
  (upTo 8).find? fun b => !(s.blocksHeld core part).contains b

/-- A wave takes a block: its registers v24 to v47 read 0 (R147). -/
def State.takeBlock (s : State) (key b : Nat) : State :=
  let s1 := { s with
    lreg := (upTo 24).foldl (fun t r => t.dropRange (laneKey key (24 + r) 0) 64) s.lreg
    poisonLane := (upTo 24).foldl (fun t r => t.dropRange (laneKey key (24 + r) 0) 64) s.poisonLane }
  match s1.waves.find key with
  | some w => { s1 with waves := s1.waves.put key { w with block := some b } }
  | none => s1

/-- Free blocks granted to the oldest requests of a partition; their threads are released when their turn comes (R147). -/
def State.grantBlocks (s : State) (core part : Nat) : State :=
  match s.xqueue.get [] (4 * core + part), s.freeBlock core part with
  | key :: rest, some b =>
    { s.takeBlock key b with xqueue := s.xqueue.put (4 * core + part) rest }
  | _, _ => s

/-- A wave's block returned to the pool (R147). -/
def State.yieldBlock (s : State) (key : Nat) : State :=
  match s.waves.find key with
  | none => s
  | some w =>
    let s1 := { s with waves := s.waves.put key { w with block := none } }
    if w.block.isSome then s1.grantBlocks (keyCore key - 64) (keySlot key / 12) else s1

/-- Whether a thread is live: present and not exited (R140). -/
def State.threadLive (s : State) (key lane : Nat) : Bool :=
  let l := (s.ctlAt key lane).life
  l == .live || l == .escalated

/-- Live threads of some waves. -/
def State.liveThreads (s : State) (keys : List Nat) : Nat :=
  (keys.map fun k => ((upTo 32).filter fun l => s.threadLive k l).length).foldl (· + ·) 0

/-- The waves of a workgroup. -/
def State.groupWaves (s : State) (core wg : Nat) : List Nat :=
  (s.waves.filter fun e => keyCore e.1 == 64 + core && e.2.wg == wg).map (·.1)

/-- A barrier phase of a workgroup completes when every live thread has arrived (R150). -/
def State.checkWbar (s : State) (core wg : Nat) : State :=
  match s.groups.find (64 * core + wg) with
  | none => s
  | some g =>
    if 0 < g.arrived && s.liveThreads (s.groupWaves core wg) ≤ g.arrived then
      { s with groups := s.groups.put (64 * core + wg) { g with phase := g.phase + 1, arrived := 0 } }
    else s

/-- Likewise a phase of a grid's barrier (R151). -/
def State.checkGbar (s : State) (slot : Nat) : State :=
  let x := s.slotAt slot
  if 0 < x.gbarCount && s.liveThreads (s.jobWaves slot) ≤ x.gbarCount then
    s.setSlot slot { x with gbarPhase := x.gbarPhase + 1, gbarCount := 0 }
  else s

/-- Extents of a vision job's grid and its threads in a workgroup (R105). -/
def Slot.gridX (x : Slot) : Nat := (x.levels.map (·.trips)).getD 0 0
def Slot.gridY (x : Slot) : Nat := (x.levels.map (·.trips)).getD 1 0
def Slot.gridZ (x : Slot) : Nat := (x.levels.map (·.trips)).getD 2 0
def Slot.gridT (x : Slot) : Nat := (x.levels.map (·.trips)).getD 3 0
def Slot.gridSize (x : Slot) : Nat := x.gridX * x.gridY * x.gridZ

/-- FIRST_RELEASE, PERIOD and REL_DEADLINE of a card (R103). -/
def cardPeriod (c : List Byte) : Nat := cardF c 0x08 8
def cardRel (c : List Byte) : Nat := cardF c 0x10 4
def cardFirst (c : List Byte) : Nat := cardF c 0x18 8

/-- Absolute deadline of an instance released at an instant (R112). -/
def deadlineOf (c : List Byte) (t : Nat) : Nat := if cardRel c == 0 then 2 ^ 64 - 1 else t + cardRel c

/-- An instance of the card in a slot released: the slot is READY (R110, R112). -/
def State.releaseNow (s : State) (slot n t : Nat) : State :=
  let s1 := s.modSlot slot fun x =>
    { x with state := 2, relNo := n, release := t, deadline := deadlineOf x.card t, missed := false, execNs := 0,
             nextRel := if cardPeriod x.card == 0 then none else some (n + 1, cardFirst x.card + (n + 1) * cardPeriod x.card) }
  { s1 with evaluations := s1.evaluations + 1 }

/-- A continuation's join count reaches zero: it is released at once, or at FIRST_RELEASE (R112). -/
def State.releaseOrWait (s : State) (slot t : Nat) : State :=
  let f := cardFirst (s.slotAt slot).card
  if f ≤ t then s.releaseNow slot 0 t else s.modSlot slot fun x => { x with nextRel := some (0, f) }

/-- A decrement of the join count of a slot (R346); one that finds no waiting continuation is discarded and counted. -/
def State.decrementJoin (s : State) (slot : Nat) : State :=
  let x := s.slotAt slot
  if x.state == 1 && (cardKind x.card == 3 || cardKind x.card == 4) && x.join != 0 then
    let s1 := s.modSlot slot fun x => { x with join := x.join - 1 }
    if x.join == 1 then s1.releaseOrWait slot s.ns else s1
  else s.modSlot slot fun x => { x with strayDecrements := x.strayDecrements + 1 }

/-- What becomes of a slot whose job or instance has ended: a periodic card waits for its next release, and a held
release is due at once; any other slot is free (R110, R113, R398). A kernel of R138 is one instance (log 44). -/
def State.endInstance (s : State) (slot : Nat) : State :=
  let x := s.slotAt slot
  let base := { x with state := 1, started := false, missed := false, arrivals := 0, hingeMode := false, stopping := false,
                       restoring := false, nextWg := 0, endedWg := 0, gbarPhase := 0, gbarCount := 0,
                       cls := 0, laneOps := 0, sectors := 0, firstIssue := none,
                       fallbacks := x.fallbacks }
  let s1 := { s with evaluations := s.evaluations + 1 }
  match x.heldRel with
  | [] => s1.setSlot slot base
  | n :: rest =>
    let t := cardFirst x.card + n * cardPeriod x.card
    s1.setSlot slot { base with state := 2, heldRel := rest, relNo := n, release := t,
                                deadline := t + cardRel x.card, execNs := 0 }

/-- A tile job's instance ends (R94, R113, R398). -/
def State.endTile (s : State) (slot : Nat) : State :=
  if cardF (s.slotAt slot).card 0x08 8 == 0 then s.reclaimTile slot else s.endInstance slot

/-- A vision job's grid ends (R139). -/
def State.endVision (s : State) (slot : Nat) : State :=
  let s1 := s.dropFlights slot
  if cardF (s1.slotAt slot).card 0x08 8 == 0 then s1.freeSlot slot else s1.endInstance slot

/-- Rendezvous of a stream (R94): the last arrival of the gang ends the job. -/
def State.arrive (s : State) (key : Nat) : State :=
  let slot := (s.ctlAt key 0).job
  let s1 := s.modCtl key 0 fun c =>
    { c with life := .arrived, holdEnd := none, armed := none, waiting := none, stall := [] }
  let s2 := s1.modSlot slot fun x => { x with arrivals := x.arrivals + 1 }
  if (s2.slotAt slot).arrivals == 5 * (s2.slotAt slot).cores.length then s2.endTile slot else s2

/-- Mark of the workgroup key of a mailbox whose workgroup is evicted, and of one whose workgroup has ended. -/
def boxEvicted : Nat := 2 ^ 20
def boxEnded : Nat := 2 ^ 21

/-- The mailboxes of a workgroup changed (R149). -/
def State.mapBoxes (s : State) (group : Nat) (f : Mailbox → Mailbox) : State :=
  { s with flights := s.flights.map fun e => match e.2 with
      | .mailbox m => if m.group == group then (e.1, .mailbox (f m)) else e
      | _ => e }

/-- A workgroup ends: its waves leave their slots, its local store is yielded, and the last workgroup ends the grid
(R139). -/
def State.endGroup (s : State) (core wg : Nat) : State :=
  match s.groups.find (64 * core + wg) with
  | none => s
  | some g =>
    let keys := s.groupWaves core wg
    let s0 := s.mapBoxes (64 * core + wg) fun m => { m with group := boxEnded }
    let s1 := { s0 with
      waves := keys.foldl (fun t k => t.del k) s.waves
      groups := s.groups.del (64 * core + wg)
      ctl := keys.foldl (fun t k => Tab.dropRange t (32 * k) 32) s.ctl }
    let s2 := s1.modSlot g.job fun x => { x with endedWg := x.endedWg + 1 }
    let x := s2.slotAt g.job
    if x.endedWg == x.gridSize then s2.endVision g.job else s2

/-- A wave all of whose threads have exited ends, and with the last wave its workgroup (R139). -/
def State.endWave (s : State) (key : Nat) : State :=
  if (upTo 32).any fun l => s.threadLive key l then s
  else
    let core := keyCore key - 64
    let queue := 4 * core + keySlot key / 12
    let s1 := ({ s with xqueue := s.xqueue.put queue ((s.xqueue.get [] queue).filter (· != key)) }).yieldBlock key
    match s1.waves.find key with
    | none => s1
    | some w =>
      if (s1.groupWaves core w.wg).all fun k => !((upTo 32).any fun l => s1.threadLive k l) then s1.endGroup core w.wg
      else s1

/-- A thread exits: an open region is abandoned, and barriers that wait for it may complete (R150, R151, R156). -/
def State.exitThread (s : State) (key lane : Nat) : State :=
  let s1 := match (s.ctlAt key lane).region with
    | none => s
    | some _ => s.regionAbort key lane 10 0
  let s2 := s1.modCtl key lane fun c => { c with life := .exited, waiting := none, handling := false }
  let slot := (s2.ctlAt key lane).job
  let s3 := match s2.waves.find key with
    | none => s2
    | some w => s2.checkWbar (keyCore key - 64) w.wg
  s3.checkGbar slot

/-- Every wave of a vision job leaves its core, nothing is saved, and its operations stop (R114). -/
def State.leaveVision (s : State) (slot : Nat) : State :=
  let keys := s.jobWaves slot
  let s1 := (s.abandonWaits slot (keys.flatMap fun k => (upTo 32).map fun l => (k, l))).abandonSaved slot
  let s2 := { s1 with
    xqueue := s1.xqueue.map fun (e : Nat × List Nat) => (e.1, e.2.filter fun k => !keys.contains k)
    regionBufs := s1.regionBufs.map fun (e : Nat × List Nat) => (e.1, e.2.filter fun k => !keys.contains k) }
  let s3 := keys.foldl (fun s k => s.yieldBlock k) s2
  let s4 := { s3 with
    waves := keys.foldl (fun t k => t.del k) s3.waves
    groups := s3.groups.filter fun e => e.2.job != slot
    ctl := keys.foldl (fun t k => Tab.dropRange t (32 * k) 32) s3.ctl }
  s4.dropFlights slot

/-- A vision job withdrawn (R114). -/
def State.reclaimVision (s : State) (slot : Nat) : State := (s.leaveVision slot).freeSlot slot

/-- The job in a slot ends at once (R114). -/
def State.withdraw (s : State) (slot : Nat) : State :=
  let x := s.slotAt slot
  if x.state == 0 then s
  else
    let s1 := s.dropHeld slot
    if cardVision x.card then s1.reclaimVision slot else s1.reclaimTile slot

end Sys2Proof.Machine
end

