-- ==== Sys2Proof/Machine/Cards.lean ====
section
/-! DEFINITION. Job cards: their checks, submission, the memory card queue and their releases (R103 to R107, R111, R112). -/

namespace Sys2Proof.Machine

/-! ### The checks (R103 to R107) -/

/-- CORES, REL_DEADLINE, HINGE_BOUND, WINDOW, MAX_PREEMPT, STATUS, LOOP_TABLE and JOIN of a card. -/
def cardCores (c : List Byte) : Nat := cardF c 0x06 2
def cardHinge (c : List Byte) : Nat := cardF c 0x14 4
def cardBudget (c : List Byte) : Nat := cardF c 0x20 4
def cardWindow (c : List Byte) : Nat := cardF c 0x24 2
def cardPreempt (c : List Byte) : Nat := cardF c 0x32 2
def cardStatus (c : List Byte) : Nat := cardF c 0x34 4
def cardLoop (c : List Byte) : Nat := cardF c 0x38 8
def cardJoin (c : List Byte) : Nat := cardF c 0x04 2

/-- Most vision cores that a grid may occupy (R103). -/
def cardVisionCores (c : List Byte) : Nat := if cardCores c == 0 then 24 else cardCores c

/-- The levels of a loop table: up to the first with trip count 0; none where a level cannot be read, or bytes 5 to 15 are
not 0 (R105). Of the level that ends the table only the trip count counts (log 44). The dispatcher reads as supervisor (R355). -/
def State.readLevels (s : State) (part va : Nat) : Nat → Option (State × List Level)
  | 0 => some (s, [])
  | n + 1 =>
    match s.virtBytes epDispatcher part va 16 with
    | .error _ => none
    | .ok (s1, bs) =>
      let trips := leNat (bs.take 4)
      if trips == 0 then some (s1, [])
      else if (bs.drop 5).any (· != 0) then none
      else
        match State.readLevels s1 part (va + 16) n with
        | none => none
        | some (s2, ls) => some (s2, { trips := trips, kind := leNat ((bs.drop 4).take 1) } :: ls)

/-- Whether the levels of a tile card keep R105 and agree with its CORES. -/
def tileLevelsOk (ls : List Level) (cores : Nat) : Bool :=
  let trips (k : Nat) : List Nat := (ls.filter fun l => l.kind == k).map (·.trips)
  let prod (l : List Nat) : Nat := l.foldl (· * ·) 1
  let afterCore := ls.dropWhile fun l => l.kind != 1
  ls.all (fun l => l.kind < 3) && (trips 2).length ≤ 1 && (trips 2).all (· ≤ 4) && afterCore.all (fun l => l.kind != 2) &&
  prod (trips 1) ≤ 16 && cores == prod (trips 1) * prod (trips 2)

/-- Whether the levels of a vision card keep R105. -/
def visionLevelsOk (ls : List Level) : Bool :=
  let t := ls.map (·.trips)
  ls.length == 4 && ls.all (fun l => l.kind == 0) && t.getD 0 0 * t.getD 1 0 * t.getD 2 0 ≤ 2 ^ 32 && t.getD 3 0 ≤ 1024

/-- Waves of a workgroup in a partition of a core (R136). -/
def wavesIn (threads part : Nat) : Nat := ((threads + 31) / 32 + 3 - part) / 4

/-- Workgroups that an empty vision core can hold (R136). -/
def coreCapacity (threads units : Nat) : Nat :=
  let byWave := (upTo 4).foldl (fun m p => if wavesIn threads p == 0 then m else minN m (12 / wavesIn threads p)) 12
  if units == 0 then byWave else minN byWave (64 / units)

/-- The loop table of a card: its levels, or launch error 6 or 12 (R105, R107). -/
def State.checkLevels (s : State) (c : List Byte) : Except Nat (State × List Level) :=
  let vision := cardVision c
  let t := cardLoop c
  if vision && 24 < cardCores c || !vision && (cardCores c == 0 || 64 < cardCores c) then .error 6
  else if t % 16 != 0 then .error 12
  else if t == 0 then if !vision && cardCores c == 1 then .ok (s, []) else .error 6
  else
    match s.readLevels (cardPart c) t 4 with
    | none => .error 6
    | some (s1, ls) => if (if vision then visionLevelsOk ls else tileLevelsOk ls (cardCores c)) then .ok (s1, ls) else .error 6

/-- Whether an address of a card is misaligned or wanting (R103, code 12). -/
def cardAddressBad (c : List Byte) : Bool :=
  let entries := if cardVision c then [cardEntry c 0] else (upTo 5).map (cardEntry c)
  entries.any (fun e => e % 2 != 0) || cardHandler c % 2 != 0 ||
  (cardVision c && (cardEntry c 0 == 0 || cardSave c == 0 || cardSave c % 4096 != 0))

/-- Where a card goes when it has passed its checks. -/
inductive Admission where
  | slot (k : Nat)
  | queue
deriving DecidableEq, Repr

/-- The lowest-numbered free slot (log 10). -/
def State.slotFree (s : State) : Option Nat := (upTo 256).find? fun k => (s.slotAt k).state == 0

/-- Entries of the memory card queue, and how many it holds (R108, R111). -/
def State.queueSize (s : State) : Nat :=
  let lg := bits (s.creg_ (dspBase + 0x38)) 0 5
  if lg == 0 then 0 else 2 ^ lg
def State.queueHeld (s : State) : Nat :=
  ((s.creg_ (dspBase + 0x48)).toNat + 2 ^ 32 - (s.creg_ (dspBase + 0x40)).toNat) % 2 ^ 32

/-- Where a checked card would go, or code 13 (R111). -/
def State.admission (s : State) (c : List Byte) : Except Nat Admission :=
  match (if s.queueHeld == 0 then s.slotFree else none) with
  | some k => .ok (.slot k)
  | none => if cardPeriod c != 0 || s.queueSize ≤ s.queueHeld then .error 13 else .ok .queue

/-- The checks of R107 in ascending order of code; `again` is the second reading of a queued card, which has a slot. -/
def State.checkCard (s : State) (c : List Byte) (again : Option Nat) : Except Nat (State × List Level × Admission) :=
  let k := cardKind c
  let fl := cardFlags c
  let vision := cardVision c
  let p := cardPeriod c
  if k == 0 || 4 < k then .error 1
  else if 16 ≤ fl || (!vision && bitsN fl 1 2 != 0) || (vision && bitN fl 1 && !bitN fl 2) then .error 2
  else if 63 < cardPart c then .error 3
  else if !vision && 3 < cardCtx c then .error 4
  else if (if vision then 64 < cardSize c else 384 < cardBase c + cardSize c || cardSize c < 24) then .error 5
  else
    match s.checkLevels c with
    | .error e => .error e
    | .ok (s1, ls) =>
      if p != 0 && (p < 1000 || 2 < k || cardRel c == 0 || p < cardRel c) then .error 7
      else if cardWindow c == 0 || 1000 < cardWindow c then .error 8
      else if bitsN (cardPolicy c) 6 10 != 0 || bitsN (cardPolicy c) 4 2 == 3 then .error 9
      else if cardPreempt c != 0 && cardPreempt c < (if vision then 1400 else 2000) then .error 10
      else if again.isNone && cardStatus c != 0 then .error 11
      else if cardAddressBad c then .error 12
      else
        let place : Except Nat Admission := match again with
          | some n => .ok (.slot n)
          | none => s1.admission c
        match place with
        | .error e => .error e
        | .ok a =>
          let t := ls.map Level.trips
          if vision && bitN fl 2 &&
              cardVisionCores c * coreCapacity (t.getD 3 0) (cardSize c) < t.getD 0 0 * t.getD 1 0 * t.getD 2 0 then .error 14
          else .ok (s1, ls, a)

/-! ### Entering a slot (R106, R112) -/

/-- The 128 bytes of a card at a physical address. -/
def State.cardAt (s : State) (addr : Nat) : List Byte := (upTo 128).map fun i => s.byteAt (addr + i)

/-- The dispatcher's home read of a card (R297), charged to the partition that the card names (log 37). -/
def State.readCard (s : State) (addr : Nat) : State := s.partRead epDispatcher (cardPart (s.cardAt addr) % 64) addr 128

/-- STATUS of the card at a physical address written, a home write of the dispatcher for the card's partition (R106,
R297). -/
def State.writeStatus (s : State) (addr v : Nat) : State :=
  if s.backed (addr + 0x34) then s.partWrite epDispatcher (cardPart (s.cardAt addr) % 64) (addr + 0x34) (leBytes 4 v) else s

/-- The first release of a periodic card not before an instant (R112). -/
def firstRelease (c : List Byte) (t : Nat) : Nat :=
  let f := cardFirst c
  let p := maxN (cardPeriod c) 1
  if t ≤ f then 0 else (t - f + p - 1) / p

/-- A card in its slot: a release at once, one to come, or a join count to wait for (R112). -/
def State.enterSlot (s : State) (k : Nat) (c : List Byte) (ls : List Level) : State :=
  let s1 := (s.setSlot k { state := 1, card := c, levels := ls, join := cardJoin c, entered := s.ns,
                           strayDecrements := (s.slotAt k).strayDecrements }).regChanged (cardPart c)
  if cardPeriod c != 0 then
    let n := firstRelease c s.ns
    s1.modSlot k fun x => { x with nextRel := some (n, cardFirst c + n * cardPeriod c) }
  else if (cardKind c == 3 || cardKind c == 4) && cardJoin c != 0 then s1
  else s1.releaseOrWait k s.ns

/-- A card address written to a submit port (R106, R108, R111, R391). -/
def State.submit (s : State) (addr : Nat) : State :=
  let st := dspBase + 0x80
  if s.island.phase != 2 then s
  else if addr % 128 != 0 then s.setCreg st (setBits (s.creg_ st) 1 1 1)
  else
    let s0 := (s.setCreg st (setBits (s.creg_ st) 1 1 0)).readCard addr
    let c := s0.cardAt addr
    match s0.checkCard c none with
    | .error e => s0.writeStatus addr (0x80 + e)
    | .ok (s1, ls, .slot k) => (s1.enterSlot k c ls).writeStatus addr (0x01 + 256 * k)
    | .ok (s1, _, .queue) =>
      let tail := (s1.creg_ (dspBase + 0x48)).toNat
      let at_ := (s1.creg_ (dspBase + 0x30)).toNat + 8 * (tail % s1.queueSize)
      ((s1.partWrite epDispatcher 0 at_ (leBytes 8 addr)).setCreg (dspBase + 0x48) (BitVec.ofNat 64 ((tail + 1) % 2 ^ 32))).writeStatus addr
        (0x02 + tail % 2 ^ 16 * 2 ^ 16)

/-- Cards moved from the head of the memory card queue into free slots, at most `n` of them (R106, R111). -/
def State.scanQueue (s : State) : Nat → State
  | 0 => s
  | n + 1 =>
    match s.slotFree with
    | none => s
    | some k =>
      if s.queueHeld == 0 || s.queueSize == 0 then s
      else
        let head := (s.creg_ (dspBase + 0x40)).toNat
        let entry := (s.creg_ (dspBase + 0x30)).toNat + 8 * (head % s.queueSize)
        let addr := s.physRead entry 8
        let s1 := ((s.partRead epDispatcher 0 entry 8).setCreg (dspBase + 0x40)
          (BitVec.ofNat 64 ((head + 1) % 2 ^ 32))).readCard addr
        let c := s1.cardAt addr
        match s1.checkCard c (some k) with
        | .error e => State.scanQueue (s1.writeStatus addr (0x80 + e)) n
        | .ok (s2, ls, _) => State.scanQueue ((s2.enterSlot k c ls).writeStatus addr (0x01 + 256 * k)) n

/-- A release whose time has come (R112, R113, R129). -/
def State.releaseDue (s : State) (k : Nat) : State :=
  let x := s.slotAt k
  match x.nextRel with
  | none => s
  | some (n, t) =>
    if x.state == 0 || s.ns < t then s
    else if cardPeriod x.card == 0 then s.releaseNow k 0 t
    else
      let next := { x with nextRel := some (n + 1, cardFirst x.card + (n + 1) * cardPeriod x.card) }
      if x.skipNext then s.setSlot k { next with skipNext := false, dropped := x.dropped + 1 }
      else if x.state == 1 then s.releaseNow k n t
      else if x.heldRel.length < 255 then s.setSlot k { next with heldRel := x.heldRel ++ [n] }
      else s.setSlot k { next with dropped := x.dropped + 1 }

end Sys2Proof.Machine
end

