-- ==== Sys2Proof/Machine/CopyCmd.lean ====
section
/-! DEFINITION. Copy commands as data: their words, tensor records and boxes (R202 to R206), their byte counts and
positions (R204, R211), their fault records (R211), and the delivery of deferred faults (R212, R377). -/

namespace Sys2Proof.Machine

/-! ### Words and records -/

/-- The completion word names a kind and an address (R203). -/
def complKind (w : DWord) : Nat := bits w 61 3
def complAddr (w : DWord) : Nat := (wrapN 64 (signedN 57 (bits w 0 57)))

/-- Whether a completion word keeps the fixed rules of R203. -/
def complOk (w : DWord) : Bool :=
  let k := complKind w
  k < 4 && bits w 57 4 == 0 &&
  (if k == 0 then bits w 0 57 == 0 else if k == 3 then true else complAddr w % 16 == 0)

/-- LEN, DCORE, OP, FMT and CKIND of a control word (R202). -/
def ctlLen (w : DWord) : Nat := bits w 0 40
def ctlDcore (w : DWord) : Nat := bits w 40 8
def ctlOp (w : DWord) : Nat := bits w 48 3
def ctlFmt (w : DWord) : Nat := bits w 51 2
def ctlCkind (w : DWord) : Nat := bits w 56 1

/-- Fields of a tensor record (R205). -/
def tenBase (r : List Byte) : Nat := leNat (r.take 8)
def tenStride (r : List Byte) (i : Nat) : Int := signedN 32 (leNat ((r.drop (8 + 4 * i)).take 4))
def tenSize (r : List Byte) (i : Nat) : Nat := leNat ((r.drop (0x24 + 3 * i)).take 3)
def tenEsizeCode (r : List Byte) : Nat := leNat ((r.drop 0x39).take 1)
def tenFill (r : List Byte) : Nat := leNat ((r.drop 0x3C).take 4)
def tenE (r : List Byte) : Nat := 2 ^ tenEsizeCode r

/-- Whether a tensor record is valid (R205). -/
def tensorOk (r : List Byte) : Bool :=
  tenEsizeCode r ≤ 3 && leNat ((r.drop 0x3A).take 2) == 0 && tenBase r % tenE r == 0 &&
  (upTo 7).all fun i => tenStride r i % (tenE r : Int) == 0

/-- Fields of a box (R206). -/
def boxOrg (b : List Byte) (i : Nat) : Int := signedN 32 (leNat ((b.drop (4 * i)).take 4))
def boxExt (b : List Byte) (i : Nat) : Nat := leNat ((b.drop (0x1C + 4 * i)).take 4)

/-- Elements of a box. -/
def boxCount (b : List Byte) : Nat := (upTo 7).foldl (fun n i => n * boxExt b i) 1

/-- Whether a box is valid for a tensor record (R206). -/
def boxOk (r b : List Byte) : Bool := leNat ((b.drop 0x38).take 8) == 0 && tenE r * boxCount b < 2 ^ 40

/-- Coordinates of the `n`-th box element in canonical order (R207). -/
def boxCoords (b : List Byte) (n : Nat) : List Nat :=
  ((upTo 7).foldl (fun (acc : List Nat × Nat) i =>
    let e := maxN (boxExt b i) 1
    (acc.1 ++ [acc.2 % e], acc.2 / e)) ([], n)).1

/-- Whether a box element lies in bounds, and its tensor address (R206). -/
def tensorAt (r b : List Byte) (coords : List Nat) : Option Nat :=
  let t (i : Nat) : Int := boxOrg b i + (coords.getD i 0 : Nat)
  if (upTo 7).all fun i => 0 ≤ t i && t i < (tenSize r i : Int) then
    some (wrapN 64 ((tenBase r : Int) + (upTo 7).foldl (fun a i => a + t i * tenStride r i) 0))
  else none

/-- The fill pattern of an element (R205). -/
def fillValue (r : List Byte) : Nat :=
  if tenE r == 8 then tenFill r + 2 ^ 32 * tenFill r else tenFill r % 2 ^ (8 * tenE r)

/-! ### Positions -/

/-- Kinds of command by MAJ and f. -/
def Cmd.isBox (c : Cmd) : Bool := c.maj == 0x34 && c.f < 2
def Cmd.isCk (c : Cmd) : Bool := c.maj == 0x35 && c.f < 2
def Cmd.isRed (c : Cmd) : Bool := c.maj == 0x35 && c.f == 2
def Cmd.isMc (c : Cmd) : Bool := c.maj == 0x35 && c.f == 3

/-- The control word, or the box address, and the completion word. -/
def Cmd.z0 (c : Cmd) : DWord := c.z.getD 0 0
def Cmd.compl (c : Cmd) : DWord := c.z.getD 1 0

/-- Tensor record and box of a command. -/
def Cmd.tensor (c : Cmd) : List Byte := c.recs.take 64
def Cmd.box (c : Cmd) : List Byte := c.recs.drop 64

/-- Bytes of an element of a source format of R218. -/
def bfxElem (fmt : Nat) : Nat := if fmt == 0 then 4 else if fmt == 1 then 8 else 2

/-- Source bytes of one position of a command. -/
def Cmd.unit (c : Cmd) : Nat :=
  if c.isBox then tenE c.tensor
  else if c.isRed then
    let op := ctlOp c.z0
    if op < 4 then 4 else if op == 6 then 520 else 32 * bfxElem (ctlFmt c.z0)
  else 1

/-- The nominal byte count B (R204); a multicast to no core has B = 0 (R219). -/
def Cmd.nominal (c : Cmd) : Nat :=
  if c.isBox then tenE c.tensor * boxCount c.box
  else if c.isMc && c.z.getD 2 0 == 0 then 0
  else ctlLen c.z0

/-- Number of positions of a command. -/
def Cmd.count (c : Cmd) : Nat := (c.nominal + c.unit - 1) / c.unit

/-- Bytes counted as done before a position (R211). -/
def Cmd.bytesDone (c : Cmd) : Nat := minN (c.pos * c.unit) c.nominal

/-- The position that follows some bytes done: a partial last block is one position (R214, R218). -/
def Cmd.posAfter (c : Cmd) (bytes : Nat) : Nat := (bytes + c.unit - 1) / maxN c.unit 1

/-- The fault record of a stopped command (R211). -/
def Cmd.record (c : Cmd) : List Byte :=
  let (reason, faddr) := c.stop.getD (0, 0)
  let coords := if c.isBox then boxCoords c.box c.pos else List.replicate 7 0
  leBytes 8 c.iaddr.toNat ++ leBytes 8 c.x.toNat ++ leBytes 8 c.y.toNat ++
  (upTo 4).flatMap (fun i => leBytes 8 (c.z.getD i 0).toNat) ++ leBytes 8 c.bytesDone ++ leBytes 8 faddr ++
  (upTo 7).flatMap (fun i => leBytes 4 (coords.getD i 0)) ++ leBytes 4 (if c.isCk then c.run else 0) ++
  [BitVec.ofNat 8 c.maj, BitVec.ofNat 8 c.f, BitVec.ofNat 8 c.g, BitVec.ofNat 8 reason, BitVec.ofNat 8 c.zreg,
   BitVec.ofNat 8 (b2n c.chained), BitVec.ofNat 8 (keyEng c.key + 1), BitVec.ofNat 8 (keyCtx c.key)] ++
  List.replicate 16 0

/-- Offset of the fault record in a job's region: LE or SE (R211). -/
def copyRecordOff (card : List Byte) (key : Nat) : Nat := saveImage card + (if keyEng key == 1 then 0x2A00 else 0x2A80)

/-- The first stopped command of a job's stream, in issue order. -/
def State.firstStopped (s : State) (slot key : Nat) : Option (Nat × Cmd) :=
  s.flights.findSome? fun e => match e.2 with
    | .copy c => if c.key == key && c.job == slot && c.stop.isSome then some (e.1, c) else none
    | _ => none

/-- The fault record of the first stopped command of a stream written, once (R211). -/
def State.writeCopyRecord (s : State) (slot key : Nat) : State :=
  match s.firstStopped slot key with
  | none => s
  | some (id, c) =>
    if c.told then s
    else
      let card := (s.slotAt slot).card
      let s1 := s.locWrite (locKey (keyCore key) (copyRecordOff card key)) c.record
      { s1 with flights := s1.flights.map fun (e : Nat × Flight) => match e.2 with
          | .copy x => if x.key == key && x.job == slot then (e.1, .copy { x with told := e.1 == id }) else e
          | _ => e }

/-- Deferred faults in issue order of what caused them (R377). -/
def insertDeferred (d : Deferred) : List Deferred → List Deferred
  | [] => [d]
  | x :: xs => if x.ord ≤ d.ord then x :: insertDeferred d xs else d :: x :: xs

/-- A deferred fault or held trap recorded for a stream; for an evicted job, in what is kept of the stream (R212). -/
def State.owe (s : State) (slot key : Nat) (d : Deferred) : State :=
  if (s.slotAt slot).state == 4 then
    let k := 5 * keyCore key + keyEng key
    s.modSlot slot fun x =>
      let c := x.saved.get {} k
      { x with saved := x.saved.put k { c with owed := { c.owed with deferred := insertDeferred d c.owed.deferred } } }
  else
    s.modCtl key 0 fun c => { c with owed := { c.owed with deferred := insertDeferred d c.owed.deferred } }

/-- Whether a checksum register of a job's stream still waits for a command (R216). -/
def State.checksumPending (s : State) (slot key r : Nat) : Bool :=
  s.flights.any fun e => match e.2 with
    | .copy x => x.key == key && x.job == slot && x.isCk && x.zreg + 2 == r
    | _ => false

/-- Taking the trap of a copy fault ends the command: it no longer counts, a checksum register receives RUN, and the
record of the next fault is written (R199, R211, R216). -/
def State.copyFaultTaken (s : State) (key id : Nat) : State :=
  match s.flights.find id with
  | some (.copy c) =>
    let s1 := s.land id
    let s2 :=
      if c.isCk then
        let r := c.zreg + 2
        let s2 := s1.sset key r (BitVec.ofNat 64 c.run)
        if s1.checksumPending c.job key r then s2
        else s2.modCtl key 0 fun x => { x with pendRegs := x.pendRegs.filter (· != r) }
      else s1
    s2.writeCopyRecord c.job key
  | _ => s

/-- Whether a deferred fault or held trap may be taken: not in a handler, but for the trap of an rpush that the handler
issued; and a fault marked for a delivery point only at one (R212, R377). -/
def Deferred.due (d : Deferred) (handling delivery : Bool) : Bool :=
  (delivery || !d.atDelivery) && (!handling || d.byHandler)

/-- The first deferred fault or held trap that may be taken now (R212, R377). -/
def State.takeDeferred (s : State) (key lane : Nat) (delivery : Bool) : Option State :=
  let c := s.ctlAt key lane
  match c.owed.deferred.find? fun d => d.due c.handling delivery with
  | none => none
  | some d =>
    let rest := c.owed.deferred.erase d
    let s1 := s.modCtl key lane fun c => { c with owed := { c.owed with deferred := rest } }
    let s2 := if d.cause == 0x12 then s1.copyFaultTaken key d.ord else s1
    some (s2.interrupt key lane d.cause d.cls d.info 0 (d.iaddr.getD c.pc))

/-- Whether a deferred fault stands to be delivered. -/
def State.hasDeferred (s : State) (key lane : Nat) (delivery : Bool) : Bool :=
  let c := s.ctlAt key lane
  c.owed.deferred.any fun d => d.due c.handling delivery

/-- A deferred fault of a job's stream that already stands at a blocking wait or in rdv is delivered there at once (R212). -/
def State.wakeDeferred (s : State) (slot key : Nat) : State :=
  let c := s.ctlAt key 0
  if (s.slotAt slot).state != 4 && c.job == slot && c.waiting.isSome then (s.takeDeferred key 0 true).getD s else s

end Sys2Proof.Machine
end

