-- ==== Sys2Proof/Machine/Region.lean ====
section
/-! DEFINITION. What an open atomic region does at each instruction (R333 to R335): which instructions it permits, the
undo entries, the tags, the pins and the constraints. Loads, stores and the commit are in Machine/Atomic.lean. -/

namespace Sys2Proof.Machine

/-- How an instruction permitted in a region treats tags (R334). -/
inductive TagRule where
  /-- Pins every slot it reads; its results are untagged. -/
  | pin
  | add
  | addI (k : Nat)
  | sub
  | move
  /-- A comparison: operation as R335 codes it. -/
  | cmp (op : Nat)
  /-- bz and bnz on the CE. -/
  | test
  /-- A load or store, whose tags its own meaning sets. -/
  | memory
  /-- are, arx and arb, which deal with the region themselves. -/
  | own
deriving DecidableEq, Repr

/-- Sources and destinations of an instruction as a region sees them: scalars on the CE, lanes and predicates on vision. -/
structure RegUse where
  src : List (Nat × Nat)
  sdst : List Nat
  ldst : List Nat
  pdst : List Nat
deriving DecidableEq, Repr

/-- Tag key of a scalar register. -/
def scalarTag (n : Nat) : Nat := n

/-- Tag key of a lane register specifier. -/
def laneTag (spec : Nat) : Nat := 64 + spec

/-- Bits of a register that carries tags: 64 on the CE, 32 in a lane (R334). -/
def tagWidth (key : Nat) : Nat := if isWave key then 32 else 64

/-- A slot marked pinned. -/
def Region.pin (r : Region) (slot : Nat) : Region :=
  { r with slots := (r.slots.zipIdx).map fun x => if x.2 == slot then { x.1 with pinned := true } else x.1 }

/-- Every slot that a list of tag keys names is pinned. -/
def Region.pinTags (r : Region) (keys : List Nat) : Region :=
  keys.foldl (fun r k => match r.tags.find k with | some t => r.pin t.slot | none => r) r

/-- The tag of a register set or removed. -/
def Region.setTag (r : Region) (k : Nat) : Option RTag → Region
  | some t => { r with tags := r.tags.put k t }
  | none => { r with tags := r.tags.del k }

/-- The tags of a lane result (R160, R334): t1 takes t0's tag, t0 and d the result's. -/
def Region.setLaneTag (r : Region) (d : Nat) (t : Option RTag) : Region :=
  let r1 := (r.setTag (laneTag 0x39) (r.tags.find (laneTag 0x38))).setTag (laneTag 0x38) t
  if d ≤ 0x37 || d == 0x39 then r1.setTag (laneTag d) t else r1

/-- Whether the register already has an undo entry. -/
def Region.logged (r : Region) (file reg : Nat) : Bool := r.undo.any fun u => u.file == file && u.reg == reg

/-- Registers that need an undo entry (R335). -/
def RegUse.logs (key : Nat) (u : RegUse) : List (Nat × Nat) :=
  if isWave key then
    (u.ldst.filter (· ≤ 0x37)).map (fun d => (1, d)) ++ (u.pdst.filter (· != 0)).map (fun p => (2, p))
  else (u.sdst.filter (· < 32)).map fun d => (0, d)

/-- Old value of a register as an undo entry holds it. -/
def State.undoValue (s : State) (key lane : Nat) (x : Nat × Nat) : Nat :=
  if x.1 == 0 then (s.sget key x.2).toNat
  else if x.1 == 1 then (s.lget key x.2 lane).toNat
  else b2n (s.pget key x.2 lane)

/-- Whether the register is poisoned (R371). -/
def State.undoPoison (s : State) (key lane : Nat) (x : Nat × Nat) : Bool :=
  if x.1 == 0 then s.poisonScalar.has (64 * key + x.2) else x.1 == 1 && s.poisonLane.has (laneKey key x.2 lane)

/-- Undo entries added for registers not yet logged; `none` at a seventeenth (R335). -/
def Region.log (r : Region) : List RUndo → Option Region
  | [] => some r
  | u :: us =>
    if r.logged u.file u.reg then r.log us
    else if 16 ≤ r.undo.length then none
    else Region.log { r with undo := r.undo ++ [u] } us

/-- Whether a condition of a constraint holds for two values at a width (R335). -/
def consHolds (op width x y : Nat) : Bool :=
  if op == 0 then x == y
  else if op == 1 then x != y
  else if op == 2 then signedN width x < signedN width y
  else x < y

/-- A side of a constraint: the tag of a register, or its value. -/
def Region.side (r : Region) (x : Nat × Nat) : RSide :=
  match r.tags.find x.1 with
  | some t => { tag := some t, k := 0 }
  | none => { tag := none, k := x.2 }

/-- A constraint recorded; `none` at a seventeenth (R335). -/
def Region.constrain (r : Region) (c : RCons) : Option Region :=
  if 16 ≤ r.cons.length then none else some { r with cons := r.cons ++ [c] }

/-- A tag with a constant added, modulo the register width (R334). -/
def RTag.plus (t : RTag) (width k : Nat) : RTag := { t with c := (t.c + k) % 2 ^ width }

/-- The result's tag and the region after a rule is applied to sources in the order b, a; `none` where a constraint
entry is wanting. -/
def Region.rule (r : Region) (width : Nat) (src : List (Nat × Nat)) : TagRule → Option (Region × Option RTag)
  | .pin => some (r.pinTags (src.map (·.1)), none)
  | .own => some (r, none)
  | .memory => some (r, none)
  | .move =>
    match src with
    | [x] => some (r, r.tags.find x.1)
    | _ => some (r.pinTags (src.map (·.1)), none)
  | .addI k =>
    match src with
    | [x] => some (r, (r.tags.find x.1).map fun t => t.plus width k)
    | _ => some (r.pinTags (src.map (·.1)), none)
  | .add =>
    match src with
    | [y, x] =>
      match r.tags.find x.1, r.tags.find y.1 with
      | some t, none => some (r, some (t.plus width y.2))
      | none, some t => some (r, some (t.plus width x.2))
      | _, _ => some (r.pinTags [x.1, y.1], none)
    | _ => some (r.pinTags (src.map (·.1)), none)
  | .sub =>
    match src with
    | [y, x] =>
      match r.tags.find x.1, r.tags.find y.1 with
      | some t, none => some (r, some (t.plus width (2 ^ width - y.2 % 2 ^ width)))
      | _, _ => some (r.pinTags [x.1, y.1], none)
    | _ => some (r.pinTags (src.map (·.1)), none)
  | .cmp op =>
    match src with
    | [y, x] =>
      if (r.tags.find x.1).isSome || (r.tags.find y.1).isSome then
        (r.constrain { op := op, lhs := r.side x, rhs := r.side y, outcome := consHolds op width x.2 y.2 }).map (·, none)
      else some (r, none)
    | _ => some (r.pinTags (src.map (·.1)), none)
  | .test =>
    match src with
    | [x] =>
      if (r.tags.find x.1).isSome then
        (r.constrain { op := if x.2 == 0 then 0 else 1, lhs := r.side x, rhs := { tag := none, k := 0 },
                       outcome := true }).map (·, none)
      else some (r, none)
    | _ => some (r.pinTags (src.map (·.1)), none)

/-- Destination tags written after a rule; a tag that would go to a queue pins its slot instead (R334). -/
def Region.results (r : Region) (key : Nat) (u : RegUse) (t : Option RTag) : Region :=
  if isWave key then u.ldst.foldl (fun r d => r.setLaneTag d t) r
  else u.sdst.foldl (fun r d =>
    if d < 32 then r.setTag (scalarTag d) t
    else match t with | some x => r.pin x.slot | none => r) r

/-- An instruction permitted in an open region: undo entries, pins, constraints and tags, or the abort cause
(R333 to R335). -/
def State.regionNote (s : State) (key lane : Nat) (r : Region) (u : RegUse) (rule : TagRule) : Except Nat Region :=
  match r.log ((u.logs key).map fun x => { file := x.1, reg := x.2, old := s.undoValue key lane x, poison := s.undoPoison key lane x }) with
  | none => .error 6
  | some r1 =>
    match r1.rule (tagWidth key) u.src rule with
    | none => .error 4
    | some (r2, t) =>
      .ok (match rule with | .memory => r2 | .own => r2 | _ => r2.results key u t)

end Sys2Proof.Machine
end

