-- ==== Sys2Proof/Machine/Issue.lean ====
section
/-! DEFINITION. The issue of an instruction word: who executes it (R45), the order of its faults (R58), its stalls
(R80, R84), what it pops, its own effect, and its retirement with the pushes it owes (R80, R81). Every meaning of a word
is an `Op`, which says what issue must know, and a body, which is the instruction's own effect. -/

namespace Sys2Proof.Machine

/-- What issue knows of an instruction word. -/
structure Op where
  /-- The word, a short word zero-extended, and its halfwords. -/
  word : Nat
  half : Nat := 2
  /-- Where it is legal (R49): bits 0 to 4 the engines CE to SE, bit 5 vision. -/
  legal : Nat
  /-- A blocking wait (R43); an instruction that may follow an amod (R55). -/
  wait : Bool := false
  atomic : Bool := false
  /-- A delivery point of R212 other than a blocking wait or a stall. -/
  deliver : Bool := false
  /-- Scalar and lane sources in the order they pop, predicates and destinations. -/
  ssrc : List Nat := []
  sdst : List Nat := []
  lsrc : List Nat := []
  /-- Lane sources read across lanes, whose poison the body judges. -/
  lcross : List Nat := []
  ldst : List Nat := []
  pdst : List Nat := []
  /-- Scalar destinations that the instruction also reads, which may not be queues. -/
  sread : List Nat := []
  /-- The checksum register that this command may continue while it is pending (R216). -/
  chain : Option Nat := none
  /-- Lane specifiers that must name pairs (R33). -/
  pairs : List Nat := []
  /-- An illegal instruction by its fields, and on which kinds of core it is one (bits as `legal`). -/
  ill : Bool := false
  illOn : Nat := 0
  /-- A further operand that is illegal. -/
  bad : Bool := false
  /-- Permitted in an atomic region, and how it treats tags (R333, R334). -/
  region : Option TagRule := none
  /-- Permitted in a region on the CE alone (R333). -/
  ceRegion : Bool := false
  /-- May not stand last in its body (R43 reason 7). -/
  notLast : Bool := false
  /-- Names a completion point, where its pushes are made (R81). -/
  completes : Bool := false
  /-- The stamp word, and halt and rdv, which a stamp does not hold back (R101). -/
  unstamped : Bool := false
  /-- A fence, which may not follow an amod that names a place (R55). -/
  noPlace : Bool := false
  /-- Units of the matrix path that a stamped instruction must find free (R101, R239, R255). -/
  units : List Nat := []
  /-- eret, which is an illegal instruction outside a handler (R379). -/
  inHandler : Bool := false
deriving DecidableEq, Repr

/-- Who executes: key, executing threads (0 for a stream) and the lanes they act on. -/
structure Iss where
  key : Nat
  threads : List Nat
  lanes : List Nat
deriving DecidableEq, Repr

/-- What an instruction's own effect is. -/
structure Eff where
  st : State
  /-- Threads that take a fault; on a tile engine one fault undoes the whole instruction. -/
  faults : List (Nat × Flt) := []
  /-- Threads that branch, and their targets. -/
  jumps : List (Nat × DWord) := []
  /-- Threads whose control state the effect has set itself. -/
  held : List Nat := []
  /-- Threads that take a trap after the instruction: cause and information. -/
  traps : List (Nat × Nat × DWord) := []
  /-- What the instruction waits for at issue. -/
  needs : List Need := []
  /-- The stream's instruction has begun and retires later: it neither moves on nor pushes yet. -/
  pending : Bool := false
  /-- The effect has retired the instruction itself. -/
  final : Bool := false
  /-- What the effect did in memory before its fault stands (R318). -/
  keep : Bool := false
deriving DecidableEq, Repr

/-- An effect that does nothing further. -/
def done (s : State) : Eff := { st := s }

/-- Major of the long word that a family-00 or family-10 word stands for (R52, R54), by its bits [15:11] and [3:0]; the
words without a long form have none. -/
def shortMaj (w : Nat) : Option Nat :=
  if bitsN w 0 2 == 2 then (if bitsN w 2 2 < 2 then some 0x07 else none)
  else if bitsN w 0 2 == 0 then
    [0x12, 0x12, 0x12, 0x12, 0x13, 0x13, 0x13, 0x13, 0x14, 0x15, 0x15, 0x15, 0x15, 0x19, 0x1A, 0x1B,
     0x1C, 0x1D, 0x1E, 0x19, 0x1B, 0x1C, 0x19, 0x1B, 0x1C, 0x24, 0x17, 0x17, 0x17, 0x20, 0x20][bitsN w 11 5]?
  else none

/-- The major that %arcause holds for a word a region does not permit (R333): of a short word its long form's; a word with
no long form has no major, and the value is free (log 2). -/
def State.abortMaj (s : State) (op : Op) : Nat :=
  if op.half == 2 then bitsN op.word 2 6
  else (shortMaj op.word).getD (bits (Config.freeValue s.free) 0 6)

/-- The G field: of a long word, or of the short nop (R45, R54). -/
def Op.g (op : Op) : Nat :=
  if op.half == 2 then bitsN op.word 8 4 else if bitsN op.word 0 4 == 2 then bitsN op.word 4 4 else 0

/-- The amod word that a unit began with (R55). -/
def Amod.word (a : Amod) : Nat := b2n a.sc * 1024 + a.place * 256 + a.scope * 64 + a.ord * 16 + 14

/-- The G field as tokens: none on the CE or vision. -/
def Op.tokens (op : Op) (key : Nat) : Nat := if isWave key || keyEng key == 0 then 0 else op.g

/-- Whether a thread executes a word (R45). -/
def State.guardOn (s : State) (op : Op) (key lane : Nat) : Bool :=
  if isWave key && op.half == 2 then bitN op.g 3 != s.pget key (op.g % 8) lane else true

/-- Whether a word is legal where it runs (R49). -/
def Op.legalOn (op : Op) (key : Nat) : Bool := bitN op.legal (if isWave key then 5 else keyEng key)

/-- Whether a word has an illegal operand (R33, R47, R48, R57). -/
def Op.illegalOperand (op : Op) (key : Nat) : Bool :=
  op.bad || (op.ssrc ++ op.sdst ++ op.sread).any (fun x => !scalarOk key x) || op.sread.any (isQueue key) ||
  (op.lsrc ++ op.ldst).any (fun x => !laneSrcOk key x) || op.pairs.any (fun x => !pairOk x)

/-- The encoding fault of a word for a thread, in the order of R58. -/
def State.encodingFault (s : State) (op : Op) (key lane : Nat) : Option Flt :=
  let c := s.ctlAt key lane
  if op.wait && !c.lastInBody op.half then some (fltOf 0x04 (framingInfo op.word 6))
  else if op.notLast && c.lastInBody op.half then some (fltOf 0x04 (framingInfo op.word 7))
  else if op.noPlace && (c.amod.any fun a => a.place != 0) then some (fltOf 0x01 ((c.amod.map (·.word)).getD 0))
  else if !isWave key && keyEng key == 0 && op.g != 0 then some (fltOf 0x01 op.word)
  else if isWave key && op.half == 1 && op.g != 0 then some (fltOf 0x01 op.word)
  else if op.ill || bitN op.illOn (if isWave key then 5 else keyEng key) || (op.inHandler && !c.handling) then
    some (fltOf 0x01 op.word)
  else if c.amod.isSome && !op.atomic then some (fltOf 0x01 op.word)
  else if !op.legalOn key then some (fltOf 0x02 (op.word + coreKind key * 2 ^ 32))
  else if op.illegalOperand key then some (fltOf 0x03 op.word)
  else none

/-- Whether a wave word names an extended register of a wave that holds no block (R147). -/
def State.extendedFault (s : State) (op : Op) (key : Nat) : Bool :=
  isWave key && ((op.lsrc ++ op.ldst).any fun x => 24 ≤ x && x < 48) &&
  (match s.waves.find key with | some w => w.block.isNone | none => true)

/-- The queue-binding and ring-stream faults of a word's operands (R86, R188), the lowest reason first. -/
def State.bindingFault (s : State) (op : Op) (key : Nat) : Option Flt :=
  let q := op.ssrc.filterMap (fun x => s.queueCheck key x false) ++ op.sdst.filterMap (fun x => s.queueCheck key x true)
  let reason (f : Flt) : Nat := bits f.info 4 4
  match q.find? (fun f => reason f == 1) with
  | some f => some f
  | none =>
    match q with
    | f :: _ => some f
    | [] =>
      if isWave key then none
      else
        let use := (op.lsrc.filter fun x => x == 0x3A || x == 0x3B).map (· - 0x3A) ++
          (op.ldst.filter fun x => x == 0x3A || x == 0x3B).map (· - 0x38)
        (use.filterMap fun k => s.ringCheck key k).head?

/-- Whether a thread's sources are poisoned (R371, R372). -/
def State.sourcesPoisoned (s : State) (op : Op) (key lane : Nat) : Bool :=
  (op.ssrc.any fun x => !isQueue key x && s.poisonScalar.has (64 * key + x)) ||
  (op.lsrc.any fun x => x < 0x3A && !(isWave key && op.lcross.contains x) &&
    (if isWave key then s.poisonLane.has (laneKey key x lane)
     else (upTo (laneCount key)).any fun l => s.poisonLane.has (laneKey key x l)))

/-- The poison fault of a stream's word: 0 for a register, the address of an element (R180, R372). -/
def State.sourceFault (s : State) (op : Op) (key : Nat) : Option Flt :=
  if s.sourcesPoisoned op key 0 then some (fltOf 0x0B 0)
  else (s.elementPoison key op.lsrc).map fun a => fltOf 0x0B a.toNat

/-- Whether a need is met (R80, R84, R194, R199). `remote` is the push of an element to another core's ring, which
RING_ELEMENT_DELIVERY makes. -/
def State.needMet (s : State) (key : Nat) : Need → Bool
  | .tokens f n => n ≤ s.tok (keyCtxKey key) f && !s.fresh.contains (24 * keyCtxKey key + f)
  | .tokenRoom f => s.tok (keyCtxKey key) f < 32
  | .entries q n => n ≤ (s.queue (keyCtxKey key) q).length && !s.fresh.contains (24 * keyCtxKey key + 8 + q)
  | .queueRoom q => (s.queue (keyCtxKey key) q).length + s.regionEntries (keyCtxKey key) q < 16
  | .elements r n => n + timesIn (freshRing (keyCore key) r) s.fresh ≤ (s.ringAt (keyCore key) r).used
  | .elementRoom r => let x := s.ringAt (keyCore key) r; x.used < x.count
  | .register r => !(s.ctlAt key 0).pendRegs.contains r
  | .recordRoom => (s.ctlAt key 0).pp.length < 64
  | .stamp t => t ≤ s.cyc
  | .copySlot => s.commandsOut key < 32
  | .remote _ => false

/-! ### Results -/

/-- A scalar result: a register is written, a queue is pushed at retirement (R48, R84). -/
def State.sput (s : State) (key spec : Nat) (v : DWord) : State :=
  if isQueue key spec then
    s.modCtl key 0 fun c =>
      let r := c.retire.getD {}
      { c with retire := some { r with queues := r.queues ++ [(spec - 32, v)] } }
  else s.sset key spec v

/-- Lane results of an instruction: written lane by lane (R160), and for ex0 and ex1 pushed at retirement (R194). -/
def State.lput (s : State) (is : Iss) (d : Nat) (rs : List (Nat × Word)) : State :=
  let s1 := s.retireLanes is.key d rs
  if (d == 0x3A || d == 0x3B) && !isWave is.key then
    s1.modCtl is.key 0 fun c =>
      let r := c.retire.getD {}
      { c with retire := some { r with elems := r.elems ++ [(d - 0x38, rs.map (·.2))] } }
  else s1

/-- Predicate results. -/
def State.pput (s : State) (is : Iss) (p : Nat) (rs : List (Nat × Bool)) : State :=
  rs.foldl (fun s r => s.pset is.key p r.1 r.2) s

/-! ### Faults of threads -/

/-- A fault taken by a thread; one that follows an amod names the amod (R55), also where the word after it is not known (log 15). -/
def State.faultThread (s : State) (key lane : Nat) (f : Flt) : State :=
  match (s.ctlAt key lane).amod with
  | some a => (s.modCtl key lane fun c => { c with pc := a.addr, amod := none }).takeFault key lane f
  | none => s.takeFault key lane f

/-- A fault of a word that is not the amod's own: the amod counts as executed (R55). -/
def State.faultAfterAmod (s : State) (key lane : Nat) (f : Flt) : State :=
  (s.modCtl key lane fun c => { c with amod := none }).takeFault key lane f

/-- An encoding fault: of an atomic or a fence it is one of the unit that an amod began (R55). -/
def State.faultWord (s : State) (op : Op) (key lane : Nat) (f : Flt) : State :=
  if op.atomic then s.faultThread key lane f else s.faultAfterAmod key lane f

/-- Several threads' faults, in lane order. -/
def State.faultThreads (s : State) (key : Nat) (fs : List (Nat × Flt)) : State :=
  fs.foldl (fun s f => s.faultThread key f.1 f.2) s

/-! ### Retirement (R80, R84, R194) -/

/-- hold N on a stream (R95): opens a region, or brings its end nearer. -/
def Ctl.holdFor (c : Ctl) (cyc n : Nat) : Ctl :=
  let e : DWord := BitVec.ofNat 64 (cyc + n)
  match c.holdEnd with
  | none => { c with holdEnd := some e }
  | some e0 => { c with holdEnd := some (if e.ult e0 then e else e0) }

/-- The control state after a retirement that opens a hold region, where it does. -/
def Ctl.heldFor (c : Ctl) (cyc : Nat) : Option Nat → Ctl
  | none => c
  | some n => c.holdFor cyc n

/-- What pushes still wait for. -/
def State.retireNeeds (s : State) (key : Nat) (r : Retire) : List Need :=
  (s.pushNeeds key r).filter fun n => !s.needMet key n

/-- Pushes made: the state after them, and the ring of the first element that was not delivered. -/
def State.makePushes (s : State) (key : Nat) (r : Retire) : State × Option Nat :=
  let ck := keyCtxKey key
  let s1 := r.queues.foldl (fun s q => s.pushQueue ck q.1 q.2) s
  let p := r.elems.foldl (fun acc e =>
    let (s2, lost) := acc.1.pushElement key e
    (s2, acc.2.or lost)) (s1, none)
  (r.fifos.foldl (fun s f => s.pushToken ck f) p.1, p.2)

/-- The pushes of an instruction in an open region: its queue entries wait for the commit (R338). -/
def State.regionPushes (s : State) (key : Nat) (r : Retire) : State × Retire :=
  match (s.ctlAt key 0).region with
  | none => (s, r)
  | some g =>
    (s.modCtl key 0 fun c => { c with region := some { g with pushes := g.pushes ++ r.queues } }, { r with queues := [] })

/-- Retires an instruction whose pushes can all be made, and takes its trap; otherwise the stream stays stalled at
retirement (R80). A hold opens its region as it retires (R95). -/
def State.settle (s : State) (key : Nat) : State :=
  match (s.ctlAt key 0).retire with
  | none => s
  | some r =>
    if s.retireNeeds key r != [] then s
    else
      let p := s.regionPushes key r
      let (s0, lost) := p.1.makePushes key p.2
      let s1 := s0.modCtl key 0 fun c => ({ c with retire := none }).heldFor s.cyc r.hold
      match r.trap, lost with
      | some (cause, info, iaddr), _ => s1.interrupt key 0 cause 1 info 0 iaddr
      | none, some n => s1.interrupt key 0 0x10 1 (ringFault key n 13).info 0 r.iaddr
      | none, none => s1

/-- A thread moves on past a word, or to its branch target; a pending amod is used up. -/
def State.moveOn (s : State) (op : Op) (key : Nat) (jumps : List (Nat × DWord)) (lane : Nat) : State :=
  s.modCtl key lane fun c =>
    let c1 := { c with amod := none }
    match jumps.find? (·.1 == lane) with
    | some j => c1.jump j.2
    | none => c1.advance op.half

/-- A stream that has come to retire and cannot push yet is stalled, and its engine is to choose again (R77, R80). -/
def State.cedes (s : State) (key : Nat) : State :=
  if (s.ctlAt key 0).retire.isSome then s.modCtl key 0 fun c => { c with ceded := true } else s

/-- Retirement of a stream's instruction. -/
def State.retireStream (s : State) (op : Op) (key : Nat) (e : Eff) (iaddr : DWord) : State :=
  let s1 := if e.held.contains 0 then s else s.moveOn op key e.jumps 0
  let trap := (e.traps.head?).map fun t => (t.2.1, t.2.2, iaddr)
  let fifos := if op.completes then [] else pushFifos key (op.tokens key)
  let s2 := s1.modCtl key 0 fun c =>
    let r := c.retire.getD {}
    let r1 := { r with fifos := fifos, trap := trap, iaddr := iaddr, since := s.cyc }
    { c with retire := some r1, stall := [] }
  (s2.settle key).cedes key

/-- The instruction at the program counter of a stream or thread ends after a delay: it moves on, and a stream makes the
pushes of its G field (R80, R92). -/
def State.completeLate (s : State) (key lane : Nat) : State :=
  let c := s.ctlAt key lane
  let s1 := s.modCtl key lane fun c => c.advance 2
  if isWave key then s1
  else
    (s1.modCtl key 0 fun x =>
      let r := x.retire.getD {}
      { x with retire := some { r with fifos := pushFifos key c.waitG, iaddr := c.pc, since := s.cyc }, waitG := 0 }
      ).settle key |>.cedes key

/-- Whether a word is a branch of R143: br, bz, bnz, bp, bnp, loop, jr or ret. -/
def Op.turnsBack (op : Op) : Bool :=
  let maj := bitsN op.word 2 6
  op.half == 2 && (maj ≤ 5 || (maj == 7 && (bitsN op.word 12 8 == 5 || bitsN op.word 12 8 == 0x12)))

/-- A backward branch of the main set changes the wave's next main set (R143). -/
def State.noteBackward (s : State) (op : Op) (key : Nat) (jumps : List (Nat × DWord)) (iaddr : DWord) : State :=
  if op.turnsBack && jumps.any fun j => j.2.toNat < iaddr.toNat && !(s.ctlAt key j.1).handling then
    s.modCtl key 0 fun c => { c with yieldAbove := some iaddr }
  else s

/-- Retirement of a wave's instruction for the threads that completed it. -/
def State.retireWave (s : State) (op : Op) (key : Nat) (e : Eff) (run : List Nat) (iaddr : DWord) : State :=
  let gone := e.held ++ e.faults.map (·.1)
  let s0 := s.noteBackward op key e.jumps iaddr
  let s1 := (run.filter fun l => !gone.contains l).foldl (fun s l => s.moveOn op key e.jumps l) s0
  let s2 := e.traps.foldl (fun s t => s.interrupt key t.1 t.2.1 1 t.2.2 0 iaddr) s1
  s2.faultThreads key e.faults

/-! ### Issue -/

/-- Register use of a word for one thread, sources with the values read. -/
def Op.regUse (op : Op) (key lane : Nat) (sv : List DWord) (lv : List (List Word)) : RegUse :=
  if isWave key then
    { src := (op.lsrc.zipIdx.filter fun x => !op.lcross.contains x.1).map fun x =>
        (laneTag x.1, ((lv.getD x.2 []).getD lane 0).toNat),
      sdst := [], ldst := op.ldst, pdst := op.pdst }
  else
    { src := op.ssrc.zipIdx.map fun x => (scalarTag x.1, (sv.getD x.2 0).toNat), sdst := op.sdst, ldst := [], pdst := [] }

/-- The tag rule of a word where a region permits it (R333). -/
def Op.rule (op : Op) (key : Nat) : Option TagRule := if isWave key && op.ceRegion then none else op.region

/-- Whether a thread may run a word: it has no region open, or the region permits it (R333). -/
def State.regionPermits (s : State) (op : Op) (key lane : Nat) : Bool :=
  (s.ctlAt key lane).region.isNone || (op.rule key).isSome

/-- The encoding fault that a word raises: of an instruction that a region bars, the operands are not judged (R333,
log 26). -/
def State.wordFault (s : State) (op : Op) (key lane : Nat) : Option Flt :=
  (s.encodingFault op key lane).filter fun f => f.cause != 0x03 || s.regionPermits op key lane

/-- What an open region makes of a word for a thread: nothing, an abort with cause and detail, or its next form
(R333 to R335). -/
def State.regionCheck (s : State) (op : Op) (key lane : Nat) (sv : List DWord) (lv : List (List Word)) :
    Except (Nat × Nat) (Option Region) :=
  match (s.ctlAt key lane).region with
  | none => .ok none
  | some r =>
    match op.rule key with
    | none => .error (7, s.abortMaj op)
    | some rule =>
      match s.regionNote key lane r (op.regUse key lane sv lv) rule with
      | .error c => .error (c, 0)
      | .ok r1 => .ok (some r1)

/-- A stream or thread whose amod is still without its instruction stands before the amod again: the two are one unit, of
which nothing has executed yet (R55). -/
def Ctl.wholeUnit (c : Ctl) : Ctl :=
  match c.amod with
  | some a => { c with pc := a.addr, amod := none }
  | none => c

/-- A stream stalls at issue, before the whole of a unit of R55; the next deferred fault is delivered there (R77, R212; log 15). -/
def State.stallStream (s : State) (key : Nat) (ns : List Need) : State :=
  let s1 := s.modCtl key 0 fun c => { c.wholeUnit with stall := ns, ceded := true }
  match s1.takeDeferred key 0 true with
  | some s2 => s2
  | none => s1

/-- Schedule-miss information (R101). -/
def scheduleMiss (cyc : Nat) (target : DWord) (reason : Nat) : Flt :=
  { cause := 0x06, info := BitVec.ofNat 64 (reason + (cyc + 2 ^ 64 - target.toNat) % 2 ^ 63 * 2) }

/-- Units of a core's matrix path occupied for some tile cycles (R223, R245, R260; log 42). -/
def State.occupy (s : State) (core : Nat) (us : List Nat) (n : Nat) : State :=
  { s with busy := us.foldl (fun (t : Tab Nat) u => t.put (32 * core + u) (maxN (t.get 0 (32 * core + u)) (s.cyc + n))) s.busy }

/-- Whether a unit of a core's matrix path is occupied (R101). -/
def State.unitBusy (s : State) (core u : Nat) : Bool := s.cyc < s.busy.get 0 (32 * core + u)

/-- Whether a word of the matrix engine makes pushes at its retirement. -/
def State.pushing (_s : State) (op : Op) (key : Nat) : Bool :=
  keyEng key == 2 && !isWave key && ((!op.completes && pushFifos key (op.tokens key) != []) || op.sdst.any (isQueue key))

/-- The issue of a word on a stream after its encoding has been found good and any stamp has been met. `stamped` holds
for the instruction of a stamp: what would stall it is a schedule-miss (R101). -/
def State.issueReady (s : State) (op : Op) (key : Nat) (stamped : Option DWord)
    (body : Iss → State → List DWord → List (List Word) → Eff) : State :=
  let iaddr := (s.ctlAt key 0).pc
  match s.bindingFault op key with
  | some f => s.faultThread key 0 f
  | none =>
    -- Earlier accesses of the stream are performed before the consumer of a push sees it (R292).
    let s := if s.pushing op key then s.finishReadouts key else s
    let needs := (s.popNeeds key (op.tokens key) op.ssrc op.lsrc ++
      (if op.completes then [Need.recordRoom] else []) ++
      (((op.ssrc ++ op.sdst).filter fun x => x < 32 && op.chain != some x).map Need.register)).filter fun n => !s.needMet key n
    if needs != [] || (stamped.isSome && op.units.any (s.unitBusy (keyCore key))) then
      match stamped with
      | some t => s.faultThread key 0 (scheduleMiss s.cyc t 1)
      | none => s.stallStream key needs
    else
      match s.sourceFault op key with
      | some f => s.faultThread key 0 f
      | none =>
        let s1 := s.popTokens key (op.tokens key)
        let (s2, sv) := s1.popScalars key op.ssrc
        let (s3, lv) := s2.popLanes key op.lsrc
        match s.regionCheck op key 0 sv lv with
        | .error (c, d) => s.regionAbort key 0 c d
        | .ok r =>
          let popped := popEntries key op.ssrc sv
          let s4 := match r with
            | none => s3
            | some r1 => s3.modCtl key 0 fun c => { c with region := some { r1 with taken := r1.taken ++ popped } }
          let e := body { key := key, threads := [0], lanes := upTo (laneCount key) } s4 sv lv
          match e.faults with
          | f :: _ =>
            let s5 := if e.keep then
                { e.st with tokens := s.tokens, queues := s.queues, rings := s.rings }.setCtl key 0 (s.ctlAt key 0)
              else s
            s5.faultThread key 0 f.2
          | [] =>
            -- A delivery point of R212, unless the instruction faults itself (R377).
            if (op.deliver || op.wait) && s.hasDeferred key 0 true then (s.takeDeferred key 0 true).getD s
            else if e.needs != [] then
              match stamped with
              | some t => s.faultThread key 0 (scheduleMiss s.cyc t 1)
              | none => s.stallStream key e.needs
            else if e.final then e.st
            else if e.pending then
              if (e.st.ctlAt key 0).maintaining && s.hasDeferred key 0 true then
                ((s.modCtl key 0 Ctl.wholeUnit).takeDeferred key 0 true).getD s
              else e.st.modCtl key 0 fun c =>
                { c with waitG := op.tokens key, stall := [], poppedT := popFifos key (op.tokens key), poppedQ := popped }
            else
              let s5 := e.st.retireStream op key e iaddr
              -- An instruction that would stall at retirement is a delivery point (R212).
              if (s5.ctlAt key 0).retire.isSome && s.hasDeferred key 0 true then
                ((s.modCtl key 0 Ctl.wholeUnit).takeDeferred key 0 true).getD s5
              else s5

/-- The issue of a word on a stream. -/
def State.issueStream (s : State) (op : Op) (key : Nat)
    (body : Iss → State → List DWord → List (List Word) → Eff) : State :=
  match s.wordFault op key 0 with
  | some f =>
    -- It has reached issue, which disarms a stamp (R101, log 42).
    let s1 := if op.unstamped then s else s.modCtl key 0 fun c => { c with armed := none }
    s1.faultWord op key 0 f
  | none =>
    let c := s.ctlAt key 0
    if (c.region.isSome && op.region.isNone) then s.regionAbort key 0 7 (s.abortMaj op)
    else
      match c.armed with
      | none => s.issueReady op key none body
      | some t =>
        if op.unstamped then s.issueReady op key none body
        else
          if s.cyc < t.toNat then s.modCtl key 0 fun c => { c with stall := [.stamp t.toNat] }
          else
            let s1 := s.modCtl key 0 fun c => { c with armed := none, stall := [] }
            if t.toNat < s.cyc then s1.faultThread key 0 (scheduleMiss s.cyc t 0)
            else s1.issueReady op key (some t) body

/-- Whether a word is one of majors 0x12 to 0x25 and 0x3A or sample (R138, R141). -/
def laneWord (half word : Nat) : Bool :=
  let maj := if half == 2 then bitsN word 2 6 else (shortMaj word).getD 0
  (0x12 ≤ maj && maj ≤ 0x25) || maj == 0x3A || (maj == 0x3E && bitsN word 12 2 == 1)

/-- Whether R138 counts a word's threads as lane operations. -/
def Op.laneOperation (op : Op) : Bool := laneWord op.half op.word

/-- An issue of a wave counted for its kernel: its first issue, and the threads' lane operations (R138). -/
def State.countIssue (s : State) (key threads : Nat) (lane : Bool) : State :=
  match s.waves.find key with
  | none => s
  | some w => s.modSlot w.job fun x =>
      { x with firstIssue := x.firstIssue.or (some s.ns), laneOps := x.laneOps + (if lane then threads else 0) }

/-- The issue of a word on the issue set of a wave (R142, R146). -/
def State.issueWave (s : State) (op : Op) (key : Nat) (set : List Nat)
    (body : Iss → State → List DWord → List (List Word) → Eff) : State :=
  let on := set.filter fun l => s.guardOn op key l
  let off := set.filter fun l => !s.guardOn op key l
  let s0 := off.foldl (fun s l => s.moveOn op key [] l) s
  let enc := on.filterMap fun l => (s.wordFault op key l).map (l, ·)
  let good := on.filter fun l => (s.wordFault op key l).isNone
  let s1 := enc.foldl (fun s f => s.faultWord op key f.1 f.2) s0
  -- A word that no region permits aborts before anything of it is judged (R333).
  let barred := good.filter fun l => !s.regionPermits op key l
  let allowed := good.filter fun l => s.regionPermits op key l
  let sb := barred.foldl (fun s l => s.regionAbort key l 7 (s.abortMaj op)) s1
  if s.extendedFault op key then
    (sb.faultThreads key (allowed.map (·, fltOf 0x1E op.word))).countIssue key 0 false
  else
    let poisoned := allowed.filter fun l => s.sourcesPoisoned op key l
    let clean := allowed.filter fun l => !s.sourcesPoisoned op key l
    let (_, sv) := s.popScalars key op.ssrc
    let (_, lv) := s.popLanes key op.lsrc
    let checked := clean.map fun l => (l, s.regionCheck op key l sv lv)
    let s2 := sb.faultThreads key (poisoned.map (·, fltOf 0x0B 0))
    let s3 := checked.foldl (fun s x =>
      match x.2 with
      | .error (c, d) => s.regionAbort key x.1 c d
      | .ok none => s
      | .ok (some r) => s.modCtl key x.1 fun c => { c with region := some r }) s2
    let run := checked.filterMap fun x => match x.2 with | .ok _ => some x.1 | .error _ => none
    if run.isEmpty then s3.countIssue key 0 false
    else
      let e := body { key := key, threads := run, lanes := run } (s3.countIssue key run.length op.laneOperation) sv lv
      e.st.retireWave op key e run (s.ctlAt key (run.headD 0)).pc

/-- Performs an instruction word for whoever is issuing. -/
def State.issue (s : State) (op : Op) (body : Iss → State → List DWord → List (List Word) → Eff) :
    Host.Outcome State Fault Refusal :=
  match s.cur with
  | none => .fault .noIssuer
  | some c => .next (if c.wave then s.issueWave op c.key c.set body else s.issueStream op c.key body)

/-- A body for each scalar operand's value. -/
def sval (sv : List DWord) (k : Nat) : DWord := sv.getD k 0

/-- A lane source's value in a lane. -/
def lval (lv : List (List Word)) (k lane : Nat) : Word := (lv.getD k []).getD lane 0

end Sys2Proof.Machine
end

