-- ==== Sys2Proof/Machine/Objects.lean ====
section
/-! DEFINITION. Barrier objects (R342, R343), futures (R344 to R347) and ring slots as completion objects (R190): the
operations that instructions and completions share. -/

namespace Sys2Proof.Machine

/-- The place of a 16-byte object for an access of a stream or thread: alignment, then translation or the aperture, then
poison (R343, R346, R349). -/
def State.objectAt (s : State) (key lane : Nat) (a : Acc) (addr : Nat) : Except Flt (State × Place) :=
  if addr % 16 != 0 then .error (fltOf 0x08 addr)
  else
    match s.locate key lane a addr 16 with
    | .error f => .error f
    | .ok (s1, p) =>
      if s1.placePoisoned p 16 then .error (s1.poisonFault p addr 16)
      else
        let s2 := match p with
          | .phys pa mtype grain _ => s1.recallFor pa mtype grain
          | .loc _ => s1
        .ok (s2, p)

/-- A fault of the barrier and future instructions: reason and address bits [63:8] (R349). -/
def objectFault (cause reason addr : Nat) : Flt := fltOf cause (reason + addr / 256 * 256)

/-- An object's 16 bytes read by its home operation from an endpoint for a card slot, where nothing is written (R343, R346). -/
def State.objectRead (s : State) (ep slot : Nat) (p : Place) : State :=
  match p with
  | .loc _ => s
  | .phys pa mtype grain part => s.homeAccess ep pa 16 mtype grain part (some slot) false

/-- Bytes of an object written by its home operation, which reads them too unless it only writes (R305, R343, R346), or by one
operation of the core. -/
def State.objectStore (s : State) (ep slot : Nat) (a : Acc) (p : Place) (bs : List Byte) : State :=
  let s1 := s.sendStore none p bs
  match p with
  | .loc _ => s1
  | .phys pa mtype grain part =>
    let undo := s.storeUndo 31 p bs
    if a == .write then s1.homeAccess ep pa bs.length mtype grain part (some slot) true undo
    else s1.farAtomic 31 ep pa bs.length mtype grain part (some slot) undo

/-- An object's bytes written by an instruction: its agent's latest there (R294, R343, R346). -/
def State.objectWrite (s : State) (key lane : Nat) (a : Acc) (addr : Nat) (p : Place) (bs : List Byte) : State :=
  (s.ownWrite (ctlKey key lane) addr p bs.length).objectStore (keyCore key) (s.jobOf key lane) a p bs

/-! ### Barriers -/

/-- Fields of a barrier object (R342). -/
def barExpected (v : Nat) : Nat := bitsN v 0 32
def barArrived (v : Nat) : Nat := bitsN v 32 31
def barPhase (v : Nat) : Bool := bitN v 63
def barPending (v : Nat) : Nat := bitsN v 64 64

/-- A barrier object from its fields. -/
def barrierOf (expected arrived : Nat) (phase : Bool) (pending : Nat) : Nat :=
  expected % 2 ^ 32 + arrived % 2 ^ 31 * 2 ^ 32 + b2n phase * 2 ^ 63 + pending % 2 ^ 64 * 2 ^ 64

/-- complete() of R343: the phase flips when every arrival and every byte is in. -/
def barComplete (v : Nat) : Nat :=
  if barArrived v == barExpected v && barPending v == 0 then barrierOf (barExpected v) 0 (!barPhase v) 0 else v

/-- PENDING changed by an amount modulo 2^64, then complete(). -/
def barPend (v delta : Nat) : Nat :=
  barComplete (barrierOf (barExpected v) (barArrived v) (barPhase v) ((barPending v + delta) % 2 ^ 64))

/-! ### Futures -/

/-- STATE, CARD and VALUE of a future (R344). -/
def futState (v : Nat) : Nat := bitsN v 0 2
def futCard (v : Nat) : Nat := bitsN v 16 16
def futValue (v : Nat) : Nat := bitsN v 32 32

/-- The first 8 bytes of a future; its upper 8 bytes are never written (R344). -/
def futureBytes (state card value : Nat) : List Byte :=
  leBytes 8 (state % 4 + card % 2 ^ 16 * 2 ^ 16 + value % 2 ^ 32 * 2 ^ 32)

/-- A resolution or failure of a future (R346): the state after it, or the state and the future fault or double-resolve. -/
def State.futureResolve (s : State) (key lane addr value state : Nat) : Except (State × Flt) State :=
  match s.objectAt key lane .rmw addr with
  | .error f => .error (s, f)
  | .ok (s1, p) =>
    let v := s1.placeRead p 8
    let failed := s1.objectRead (keyCore key) (s1.jobOf key lane) p
    if futState v == 3 then .error (failed, objectFault 0x23 2 addr)
    else if futState v != 0 then .error (failed, fltOf 0x24 addr)
    else
      let s2 := s1.objectWrite key lane .rmw addr p (futureBytes state (futCard v) value)
      .ok (if futCard v == 0xFFFF then s2 else s2.decrementJoin (futCard v))

/-! ### Ring slots (R190) -/

/-- The index of the slot that an aperture address names exactly; none otherwise. -/
def Ring.slotAt (r : Ring) (addr : Nat) : Option Nat :=
  let a := 0xFFFFFFFFFF000000 + r.base
  if addr < a then none
  else if (addr - a) % r.slotSize != 0 || r.count ≤ (addr - a) / r.slotSize then none
  else some ((addr - a) / r.slotSize)

/-- Bytes signalled into a slot by a completion: the ring after it, or reason 12 (R190). -/
def Ring.signal (r : Ring) (i b : Nat) : Option Ring :=
  let n := r.bytes.get 0 i + b
  if r.tags.get 0 i != 1 || r.slotSize < n then none
  else
    let r1 := { r with bytes := r.bytes.put i n }
    some (if n == r.slotSize then { r1 with tags := r1.tags.put i 2 } else r1)

end Sys2Proof.Machine
end

