-- ==== Sys2Proof/Machine/Waits.lean ====
section
/-! DEFINITION. Blocking waits (R43, R92): when each ends and what it does then. -/

namespace Sys2Proof.Machine

/-- What a wait comes to now. -/
inductive WaitStep where
  /-- The condition does not hold: the state that the look leaves. -/
  | stay (s : State)
  /-- The condition holds: the state with what the waiting instruction writes. -/
  | go (s : State)
  /-- A fault of the waiting instruction, and the state it is taken in. -/
  | fault (s : State) (f : Flt)
deriving DecidableEq, Repr

/-! ### Flags (R341) -/

/-- One update performed at the flag home. -/
def State.performFlag (s : State) (id : Nat) (u : FlagUpd) : State :=
  (s.land id).modSlot u.job fun x =>
    { x with flags := x.flags.set 0 u.flag (if u.add then x.flags.get 0 u.flag + u.value else u.value) }

/-- A stream's own updates performed in issue order, before it reads a flag (R341). -/
def State.finishFlags (s : State) (key : Nat) : State :=
  s.flights.foldl (fun s e => match e.2 with
    | .flag u => if u.key == key && u.job == s.jobOf key 0 then s.performFlag e.1 u else s
    | _ => s) s

/-- A flag as a stream reads it. -/
def State.flagRead (s : State) (key f : Nat) : DWord := (s.slotAt (s.jobOf key 0)).flags.get 0 f

/-! ### Taking a slot, an entry, a future -/

/-- rwaitf takes the next slot (R191). -/
def Ring.take1 (r : Ring) : Option (Ring × Nat) :=
  let i := r.take % r.count
  if r.take != r.tail && r.tags.get 0 i == 2 then
    some ({ r with tags := r.tags.put i 3, take := (r.take + 1) % 2 ^ 32 }, 0xFFFFFFFFFF000000 + r.base + i * r.slotSize)
  else none

/-- The route fault: reason, entry or port, row, choice and %corekind (R276). -/
def routeFault (key reason entry row choice : Nat) : Flt :=
  fltOf 0x1C (reason + entry % 256 * 2 ^ 8 + row % 256 * 2 ^ 16 + choice % 4 * 2 ^ 24 + coreKind key * 2 ^ 32)

/-- Status word of a reassembly entry (R273). -/
def Rte.status (r : Rte) : Nat :=
  (r.fate.filter (· == 2)).length % 2 ^ 11 + (r.fate.filter (· == 3)).length % 2 ^ 11 * 2 ^ 11 +
  r.spilled % 2 ^ 11 * 2 ^ 22 + minN r.late 2047 * 2 ^ 33 + b2n r.timedOut * 2 ^ 44

/-- Whether a waiting access is of a normal cached page by a vision thread, which watches by its own copy of the unit (R348). -/
def watchesCopy (key : Nat) : Place → Bool
  | .phys _ mtype _ _ => isWave key && mtype == 0
  | .loc _ => false

/-- The value that waitl reads, or its fault (R348). Its first look reads; later a watch at the home tells of the value, while a
vision thread reads its copy again, which brings a lost one back. -/
def State.waitlRead (s : State) (key lane addr size : Nat) (first : Bool) : Except Flt (State × Nat) :=
  if addr % 2 ^ size != 0 then .error (fltOf 0x08 addr)
  else
    match s.readPlace key lane addr (2 ^ size) with
    | .error f => .error f
    | .ok (s1, p) =>
      .ok ((if first || watchesCopy key p then s1.readAccess key lane p (2 ^ size) else s1).loadValue (ctlKey key lane) addr p (2 ^ size))

/-- The object that bar.wait or fut.get waits on, read by its home operation at the first look (R343, R346). -/
def State.objectLook (s : State) (key lane addr : Nat) (first : Bool) : Except Flt (State × Place) :=
  match s.objectAt key lane .read addr with
  | .error f => .error f
  | .ok (s1, p) => .ok (if first then s1.objectRead (keyCore key) (s1.jobOf key lane) p else s1, p)

/-- Ends of rdv (R94): everything has completed and the pushes of its G field can be made. -/
def State.rdvReady (s : State) (key : Nat) : Bool :=
  s.allComplete key && ((pushFifos key (s.ctlAt key 0).waitG).all fun f => s.tok (keyCtxKey key) f < 32)

/-- rdv makes its pushes and arrives (R80, R94). -/
def State.rdvArrive (s : State) (key : Nat) : State :=
  ((pushFifos key (s.ctlAt key 0).waitG).foldl (fun s f => s.pushToken (keyCtxKey key) f) s).arrive key

/-! ### Hold regions -/

/-- A hold region whose end has come closes, and owes its overrun (R95); on a frozen core it stands as it is (R384). -/
def State.expireHold (s : State) (key : Nat) : State :=
  let c := s.ctlAt key 0
  match c.holdEnd with
  | some e =>
    if e.toNat ≤ s.cyc && c.frozenAt.isNone then s.modCtl key 0 fun c => { c with holdEnd := none, holdOver := some e } else s
  | none => s

/-! ### The conditions -/

/-- Whether the condition of a wait class holds (R92). -/
def State.classHolds (s : State) (key k : Nat) (v : DWord) : Bool :=
  let ck := keyCtxKey key
  if k == 0 then v.toNat ≤ s.cyc
  else if k == 1 then v.toNat ≤ s.ns
  else if k == 2 then s.copiesOut key ≤ v.toNat
  else if k == 3 then minN v.toNat 32 ≤ s.tok ck (fifoFromPrev (keyEng key))
  else if k == 4 then minN v.toNat 32 ≤ s.tok ck (fifoFromNext (keyEng key))
  else if k == 5 then s.queue ck (bits v 0 4) != []
  else if k == 6 then (s.queue ck (bits v 0 4)).length < 16
  else s.allComplete key

/-- The engines of a stream's context that wait in rasm for an entry. -/
def State.rasmWaiters (s : State) (key n : Nat) : List Nat :=
  (upTo 5).filter fun e => match (s.ctlAt (streamKey (keyCore key) (keyCtx key) e) 0).waiting with
    | some (.rasm m _) => m == n
    | _ => false

/-- Whether an engine of lower %corekind that issues from the context sees the same entry DONE (R273). -/
def State.rasmBefore (s : State) (key n : Nat) : Bool :=
  (s.rasmWaiters key n).any fun e =>
    let c := s.ctlAt (streamKey (keyCore key) (keyCtx key) e) 0
    e < keyEng key && s.engCtx.get 4 (5 * keyCore key + e) == keyCtx key && c.stopAt.isNone && c.frozenAt.isNone

/-- The word of a DONE entry taken: the entry is FREE, and the others that wait for it lose it (R273). -/
def State.takeEntry (s : State) (key n : Nat) : State :=
  let k := 64 * keyCore key + n
  (s.rasmWaiters key n).foldl (fun s e =>
    if e == keyEng key then s
    else s.modCtl (streamKey (keyCore key) (keyCtx key) e) 0 fun c => { c with waitLost := true })
    { s with rtes := s.rtes.put k { s.rtes.get {} k with state := 0 } }

/-- A wait's condition judged now for a stream or thread; `first` at the issue of the waiting instruction. -/
def State.waitState (s : State) (key lane : Nat) (w : Wait) (first : Bool) : WaitStep :=
  let c := s.ctlAt key lane
  match w with
  | .cls k v => if s.classHolds key k v then .go s else .stay s
  | .barWait addr phase =>
    match s.objectLook key lane addr first with
    | .error f => .fault s f
    | .ok (s1, p) => if barPhase (s1.placeRead p 16) != phase then .go s1 else .stay s1
  | .fwait f v => let s1 := s.finishFlags key; if v.toNat ≤ (s1.flagRead key f).toNat then .go s1 else .stay s
  | .rwaitf n d =>
    match (s.ringAt (keyCore key) n).take1 with
    | some (r, a) => .go ((s.setRing (keyCore key) n r).sput key d (BitVec.ofNat 64 a))
    | none => .stay s
  | .rwaite n =>
    let r := s.ringAt (keyCore key) n
    if r.used < r.count then .go s else .stay s
  | .rasm n d =>
    let r := s.rtes.get {} (64 * keyCore key + n)
    if c.waitLost || r.state == 0 || r.job != c.job then .fault s (routeFault key 5 n 0 0)
    else if r.state == 2 && !s.rasmBefore key n then .go ((s.takeEntry key n).sput key d (BitVec.ofNat 64 r.status))
    else .stay s
  | .waitl addr size v start =>
    if c.waitLost || start + 1500000 ≤ s.cyc then .go s
    else
      match s.waitlRead key lane addr size first with
      | .error f => .fault s f
      | .ok (s1, x) => if x != v then .go s1 else .stay s1
  | .futGet addr d =>
    match s.objectLook key lane addr first with
    | .error f => .fault s f
    | .ok (s1, p) =>
      let v := s1.placeRead p 8
      if futState v == 3 then .fault s1 (objectFault 0x23 2 addr)
      else if futState v != 0 then .go (s1.sput key d (BitVec.ofNat 64 v))
      else .stay s1
  | .xacq =>
    match s.waves.find key with
    | some w => if w.block.isSome then .go s else .stay s
    | none => .stay s
  | .wbar phase =>
    match s.groupOf key with
    | some g => if g.phase != phase then .go s else .stay s
    | none => .stay s
  | .gbar phase => if (s.slotAt c.job).gbarPhase != phase then .go s else .stay s
  | .rdv => if s.rdvReady key then .go s else .stay s

/-- A stopped stream or thread looks at its wait again: it goes on, takes a fault at the waiting instruction, or stays
(R92, R94). Where it stopped was the switch point; the end of its block is none again (R77). -/
def State.resumeWait (s : State) (key lane : Nat) : State :=
  match (s.ctlAt key lane).waiting with
  | none => s
  | some w =>
    match s.waitState key lane w false with
    | .stay s1 => s1
    | .fault s1 f => s1.takeFault key lane f
    | .go s1 =>
      if w = .rdv then s1.rdvArrive key
      else ((s1.endWait key lane false).completeLate key lane).modCtl key lane fun c => { c with sw := 0 }

/-- A thread or stream stops at a wait, which closes a hold region (R95). -/
def State.stopAt (s : State) (key lane : Nat) (w : Wait) : State :=
  s.modCtl key lane fun c =>
    { c with waiting := some w, waitStart := BitVec.ofNat 64 s.ns, waitLost := false, holdEnd := none, ceded := true }

/-- The effect of a blocking wait: each thread goes on at once, takes a fault, or stops (R43, R92). -/
def State.block (s : State) (is : Iss) (w : Nat → Wait) : Eff :=
  let r := is.threads.foldl (fun (acc : State × List Nat × List (Nat × Flt)) l =>
    match acc.1.waitState is.key l (w l) true with
    | .go s1 => (s1, acc.2.1, acc.2.2)
    | .fault s1 f => (s1, acc.2.1, acc.2.2 ++ [(l, f)])
    | .stay s1 => (s1.stopAt is.key l (w l), acc.2.1 ++ [l], acc.2.2)) (s, [], [])
  if isWave is.key then { st := r.1, held := r.2.1, faults := r.2.2 }
  else { st := r.1, faults := r.2.2, pending := r.2.1 != [], keep := true }

/-- A blocking wait as a word. -/
def waitOp (word legal : Nat) : Op := { word := word, legal := legal, wait := true }

end Sys2Proof.Machine
end

