-- ==== Sys2Proof/Machine/Evict.lean ====
section
/-! DEFINITION. Eviction: stop orders, the save image of a tile job and its restore (R102, R120 to R123, R398, R402), and the
save area of a vision job (R125, R148). -/

namespace Sys2Proof.Machine

/-! ### Stopping (R120, R122, R123) -/

/-- A stream stopped for an eviction, one that a freeze had stopped from then on (R102). A wait on a location loses its
watch (R348). -/
def State.stopStream (s : State) (key : Nat) (hinge : Bool) : State :=
  (s.modCtl key 0 fun c => { c with stopAt := some (c.frozenAt.getD s.cyc), frozenAt := none, hinge := hinge, preempt := false,
                                    waitLost := c.waitLost ||
    (match c.waiting with | some (.waitl _ _ _ _) => true | _ => false) }).regionAbort key 0 9 0

/-- Whether nothing of a retirement is left but tokens. -/
def Retire.tokensOnly (r : Retire) : Bool := r.queues == [] && r.elems == [] && r.trap.isNone && r.hold.isNone

/-- An instruction stalled at retirement enters its tokens in the pending-push record (R81). Its queue entries and elements,
the trap to take and the region to open once all is pushed stay owed (log 38). -/
def State.pushesToRecord (s : State) (key : Nat) : State :=
  s.modCtl key 0 fun c =>
    match c.retire with
    | some r =>
      { c with retire := if r.tokensOnly then none else some { r with fifos := [] }, pp := c.pp ++ r.fifos.map (towardsNext key) }
    | none => c

/-- Whether a stream has ended or stopped for good: it never issues again unless the supervisor acts. -/
def Ctl.ended (c : Ctl) : Bool := c.life == .halted || c.life == .arrived || c.life == .off

/-- Whether a stop order finds a stream at a boundary already: ended, escalated, stalled or waiting, and in no hold region
(R120, R123). -/
def Ctl.stopsAtOnce (c : Ctl) : Bool :=
  c.ended || c.life == .escalated ||
  (c.late.isNone && c.holdEnd.isNone && (c.waiting.isSome || c.stall != [] || c.retire.isSome))

/-- A stop order reaches a stream (R120, R122). -/
def State.orderStream (s0 : State) (key : Nat) (hinge : Bool) : State :=
  let s := s0.expireHold key
  let c := s.ctlAt key 0
  if c.stopAt.isSome || !c.stopsAtOnce then s
  else
    let data := keyEng key == 2 || keyEng key == 3
    (s.pushesToRecord key).stopStream key (hinge && data && c.ended)

/-- A stop order for a job (R120): its streams at a boundary stop now, the others at their next one. -/
def State.orderStop (s : State) (slot : Nat) (hinge : Bool) : State :=
  let s1 := s.modSlot slot fun x => { x with stopping := true, hingeMode := hinge, decided := s.ns }
  -- A job that is still to be restored has no stream to stop.
  if (s1.slotAt slot).restoring then s1 else (s1.jobStreams slot).foldl (fun s k => s.orderStream k hinge) s1

/-- Whether a stream of a stopping job must stop at the boundary where it stands; `array` holds where an ME array or macro
instruction would issue there, `hingeHere` where a header with H = 1 stands there (R122, R123). -/
def State.mustStop (s : State) (key : Nat) (array hingeHere : Bool) : Bool :=
  let c := s.ctlAt key 0
  let x := s.slotAt c.job
  let byHinge := x.hingeMode && (keyEng key == 2 || keyEng key == 3) && !c.fellBack
  x.stopping && (array || (c.holdEnd.isNone && (!byHinge || hingeHere)))

/-! ### The save image of a tile job (R121, R402) -/

/-- The operand of a blocking wait as read at its issue: the first where there are two (R402 WAITVAL). -/
def waitVal : Wait → Nat
  | .cls _ v => v.toNat
  | .barWait a _ => a
  | .fwait _ v => v.toNat
  | .waitl a _ _ _ => a
  | .futGet a _ => a
  | _ => 0

/-- OWED of R402. -/
def Owed.word (o : Owed) : Nat :=
  let ring := (o.deferred.find? fun d => d.cause == 0x10 && d.cls == 3).map (·.info)
  b2n o.miss.isSome + 2 * b2n o.overrun.isSome + 4 * b2n (o.routeTo != []) +
  8 * b2n (o.deferred.any fun d => d.cause == 0x12) + 16 * b2n ring.isSome +
  32 * b2n (o.deferred.any fun d => d.cause == 0x10 && d.cls == 1) + 2 ^ 8 * (o.routeTo.headD 0 % 256) +
  2 ^ 16 * bits (ring.getD 0) 0 16

/-- Whether a wait counts as WAITING: rdv is no blocking wait (R94, R402). -/
def Ctl.atWait (c : Ctl) : Bool := match c.waiting with | some .rdv => false | some _ => true | none => false

/-- The per-engine area of a stream (R402). -/
def State.engineArea (s : State) (key : Nat) : List Byte :=
  let c := s.ctlAt key 0
  let d (n : Nat) : List Byte := leBytes 8 n
  let bstate := c.passes + 2 ^ 12 * b2n c.atHeader + 2 ^ 13 * b2n (c.life == .halted) +
    2 ^ 14 * b2n (c.life == .arrived) + 2 ^ 15 * b2n c.atWait
  let pending := c.pendRegs.foldl (fun a r => Nat.lor a (2 ^ r)) 0
  let body := d c.pc.toNat ++ d c.hdr.toNat ++ d bstate ++ d (if c.atWait then (c.waiting.map waitVal).getD 0 else 0) ++
    (upTo 32).flatMap (fun n => d (s.sget key n).toNat) ++ d c.fmode.toNat ++ d c.fflags.toNat ++ d c.sbase.toNat ++
    d (b2n c.armed.isSome) ++ d (c.armed.getD 0).toNat ++ d c.trapcause.toNat ++ d c.trapinfo.toNat ++ d c.arcause.toNat ++
    d (minN c.pp.length 64) ++ (upTo 64).map (fun i => BitVec.ofNat 8 (b2n (c.pp.getD i false))) ++ d c.owed.word ++
    (if keyEng key == 3 then (upTo 4).flatMap (fun k => d (c.ringIn.get 0 k).toNat) else List.replicate 32 0) ++
    d pending ++ d (s.copiesOut key % 64)
  body ++ List.replicate (0x3F8 - body.length) 0 ++ d (b2n c.handling)

/-- The context-wide area (R402). -/
def State.contextArea (s : State) (ck : Nat) : List Byte :=
  let body := (upTo 8).map (fun f => BitVec.ofNat 8 (s.tok ck f)) ++
    (upTo 8).map (fun q => BitVec.ofNat 8 (s.qbinds.get 0 (16 * ck + 8 + q))) ++
    (upTo 16).map (fun q => BitVec.ofNat 8 (minN (s.queue ck q).length 16)) ++ List.replicate 32 0 ++
    (upTo 16).flatMap fun q => (upTo 16).flatMap fun i => leBytes 8 ((s.queue ck q).getD i 0).toNat
  body ++ List.replicate (3072 - body.length) 0

/-- Granules of a scratchpad that receive poisoned data (R371). -/
def State.poisonGranules (s : State) (ks : List Nat) : State :=
  { s with poisonLoc := ks.foldl (fun t k => t.put (k / 8) true) s.poisonLoc }

/-- The accumulator tiles of a mask in the save image at a key, with their poison (R121, R371). -/
def State.saveTiles (s : State) (core mask a : Nat) : State :=
  (upTo 8).foldl (fun s t =>
    if !bitN mask t then s
    else
      let k := 1024 * (8 * core + t)
      let b := a + 0x8000 + 0x2000 * t
      let s1 := s.locWrite b ((upTo 1024).flatMap fun i => leBytes 8 (s.acc.get 0 (k + i)).toNat)
      s1.poisonGranules (((upTo 1024).filter fun i => s1.poisonAcc.has (k + i)).map fun i => b + 8 * i)) s

/-- The image of one engine stream: its area, and on the ME and VE what stands beside it (R120 to R122). -/
def State.saveStream (s : State) (slot core eng : Nat) : State :=
  let card := (s.slotAt slot).card
  let key := streamKey core (cardCtx card) eng
  let c := s.ctlAt key 0
  let a := locKey core (saveImage card)
  let ck := keyCtxKey key
  let s1 := s.locWrite (a + 1024 * eng) (s.engineArea key)
  let s2 := s1.poisonGranules
    (((upTo 32).filter fun n => s1.poisonScalar.has (64 * key + n)).map fun n => a + 1024 * eng + 0x20 + 8 * n)
  if eng == 2 then
    let s3 := s2.locWrite (a + 0x2000) ((upTo 16).flatMap fun n =>
      let b := s2.shapes.get [] (16 * ck + n)
      b ++ List.replicate (64 - b.length) 0)
    let s4 := s3.locWrite (a + 0x2400) ((upTo 4).flatMap fun n => s3.accords.get realAccord (4 * ck + n))
    if c.hinge then s4 else s4.saveTiles core (cardAcc card) a
  else if eng == 3 && !c.hinge then
    let s3 := s2.locWrite (a + 0x4000) ((upTo 58).flatMap fun r => (upTo 64).flatMap fun l => leBytes 4 (s2.lget key r l).toNat)
    let s4 := s3.locWrite (a + 0x7A00) ((upTo 8).flatMap fun p =>
      leBytes 8 (if p == 0 then 2 ^ 64 - 1 else (s3.preg.get 0 (8 * key + p)).toNat))
    s4.poisonGranules ((upTo 58).flatMap fun r =>
      ((upTo 64).filter fun l => s4.poisonLane.has (laneKey key r l)).map fun l => a + 0x4000 + 256 * r + 4 * l)
  else s2

/-- Eviction of the owner of the column accumulators of a core loses them (R249). -/
def State.loseColumns (s : State) (slot core : Nat) : State :=
  let ctx := cardCtx (s.slotAt slot).card
  if s.caOwner.find core == some (4 * slot + ctx) then
    { s with caOwner := s.caOwner.del core,
             caCtx := s.caCtx.put (ctxKey core ctx) { s.caCtx.get {} (ctxKey core ctx) with claimed := false, lost := true } }
  else s

/-- What a slot keeps of a stream beside its save image: of the pending pushes, those for which the record had no room. -/
def keptCtl (c : Ctl) : Ctl := { c with pp := c.pp.drop 64 }

/-- A tile job leaves its cores: its context and accumulator tiles are yielded (R116). -/
def State.unload (s : State) (slot : Nat) : State :=
  let x := s.slotAt slot
  x.cores.foldl (fun s core =>
    ((s.clearTiles core (cardAcc x.card)).clearContext (ctxKey core (cardCtx x.card))).yieldContext core (cardCtx x.card)) s

/-- A victim's state saved on one of its cores; the context and the accumulator tiles are yielded (R120). -/
def State.saveCore (s : State) (slot core : Nat) : State :=
  let x := s.slotAt slot
  let ck := ctxKey core (cardCtx x.card)
  let a := locKey core (saveImage x.card)
  let s1 := (upTo 5).foldl (fun s e => s.saveStream slot core e) s
  let s2 := s1.locWrite (a + 0x1400) (s1.contextArea ck)
  let s3 := if core == x.cores.headD 0 then
      s2.locWrite (a + 0x2800) ((upTo 64).flatMap fun f => leBytes 8 ((s2.slotAt slot).flags.get 0 f).toNat)
    else s2
  let keep := (upTo 5).foldl (fun t e => Tab.put t (5 * core + e) (keptCtl (s3.ctlAt (streamKey core (cardCtx x.card) e) 0)))
    (s3.slotAt slot).saved
  let extra := (upTo 16).foldl (fun t q => Tab.set [] t (16 * ck + q) ((s3.queue ck q).drop 16)) (s3.slotAt slot).savedEntries
  let s4 := s3.modSlot slot fun x => { x with saved := keep, savedEntries := extra }
  (((s4.loseColumns slot core).clearTiles core (cardAcc x.card)).clearContext ck).yieldContext core (cardCtx x.card)

/-- Flag updates of a job performed, as before its flag file is saved (R120). -/
def State.flushFlags (s : State) (slot : Nat) : State :=
  s.flights.foldl (fun s e => match e.2 with
    | .flag u => if u.job == slot then s.performFlag e.1 u else s
    | _ => s) s

/-- A loaded periodic job whose instance has not started loses its context and accumulator tiles; only the tiles are saved, and
in hinge mode, which a released one can be evicted in, not even they (R122, R398). -/
def State.saveIdle (s : State) (slot : Nat) : State :=
  let x := s.slotAt slot
  let me (core : Nat) : Ctl := s.ctlAt (streamKey core (cardCtx x.card) 2) 0
  let s1 := x.cores.foldl (fun s core =>
    (if (me core).hinge then s else s.saveTiles core (cardAcc x.card) (locKey core (saveImage x.card))).loseColumns slot core) s
  (s1.modSlot slot fun y =>
    { y with saved := (x.cores.filter fun c => (me c).hinge).map fun c => (5 * c + 2, me c) }).unload slot

/-- Whether every stream of a victim has stopped. -/
def State.allStopped (s : State) (slot : Nat) : Bool :=
  (s.jobStreams slot).all fun k => (s.ctlAt k 0).stopAt.isSome

/-- The eviction of a tile job ends: its slot is EVICTED; one between instances stays WAITING (R120, R398). One
that was still to be restored leaves its cores with its image as it stands. -/
def State.finishEviction (s : State) (slot : Nat) : State :=
  let x := s.slotAt slot
  let s1 := if x.restoring then s.unload slot
    else if x.started then x.cores.foldl (fun s c => s.saveCore slot c) (s.flushFlags slot)
    else s.saveIdle slot
  let s2 := s1.modSlot slot fun y =>
    { y with state := if y.state == 1 then 1 else 4, stopping := false, hingeMode := false, restoring := false }
  { s2 with evaluations := s2.evaluations + 1 }

/-! ### Restore (R102, R120, R398, R402) -/

/-- A 64-bit word of a scratchpad. -/
def State.locWord (s : State) (k : Nat) : DWord := BitVec.ofNat 64 (s.locRead k 8)

/-- Accumulator tiles of a job read back from its image. -/
def State.restoreTiles (s : State) (slot core : Nat) : State :=
  let card := (s.slotAt slot).card
  let a := locKey core (saveImage card) + 0x8000
  (upTo 8).foldl (fun s t =>
    if !bitN (cardAcc card) t then s
    else
      (upTo 1024).foldl (fun s i =>
        let k := 1024 * (8 * core + t) + i
        let b := a + 0x2000 * t + 8 * i
        { s with acc := s.acc.set 0 k (s.locWord b),
                 poisonAcc := if s.poisonLoc.has (b / 8) then s.poisonAcc.put k true else s.poisonAcc }) s) s

/-- The lane files and predicates of a VE stream read back from its image. -/
def State.restoreLanes (s : State) (key a : Nat) : State :=
  let s1 := (upTo 58).foldl (fun s r => (upTo 64).foldl (fun s l =>
    let b := a + 0x4000 + 256 * r + 4 * l
    let s2 := s.lset key r l (BitVec.ofNat 32 (s.locRead b 4))
    if s2.poisonLoc.has (b / 8) then { s2 with poisonLane := s2.poisonLane.put (laneKey key r l) true } else s2) s) s
  (upTo 7).foldl (fun s p => { s with preg := s.preg.set 0 (8 * key + p + 1) (s.locWord (a + 0x7A08 + 8 * p)) }) s1

/-- One stream read back; what a hinge left unsaved reads 0 (R122). %sbase and an armed target move by D (R102). -/
def State.restoreStream (s : State) (slot core eng : Nat) : State :=
  let card := (s.slotAt slot).card
  let key := streamKey core (cardCtx card) eng
  let a := locKey core (saveImage card)
  let e := a + 1024 * eng
  let old := (s.slotAt slot).saved.get {} (5 * core + eng)
  let delay := BitVec.ofNat 64 (s.cyc - old.stopAt.getD s.cyc)
  let bstate := s.locWord (e + 0x10)
  let pp := (upTo (minN (bits (s.locWord (e + 0x160)) 0 7) 64)).map fun i => bit (s.locWord (e + 0x168 + i)) 0
  let pushes := pp ++ old.pp
  let s1 := s.clearRegs key 0
  let s2 := (upTo 32).foldl (fun s n =>
    let b := e + 0x20 + 8 * n
    let s3 := s.sset key n (s.locWord b)
    if s3.poisonLoc.has (b / 8) then { s3 with poisonScalar := s3.poisonScalar.put (64 * key + n) true } else s3) s1
  let c : Ctl := { old with
    pc := s.locWord e, hdr := s.locWord (e + 8), passes := bits bstate 0 12, atHeader := bit bstate 12, loopBuf := [],
    fmode := fmodeMask (s.locWord (e + 0x120)), fflags := fflagsMask (s.locWord (e + 0x128)), sbase := s.locWord (e + 0x130) + delay,
    armed := if bit (s.locWord (e + 0x138)) 0 then some (s.locWord (e + 0x140) + delay) else none,
    trapcause := s.locWord (e + 0x148), trapinfo := s.locWord (e + 0x150), arcause := s.locWord (e + 0x158), pp := pushes,
    ringIn := if eng == 3 then (upTo 4).foldl (fun t k => Tab.set 0 t k (s.locWord (e + 0x1B0 + 8 * k))) [] else [],
    pendRegs := (upTo 32).filter fun r => bit (s.locWord (e + 0x1D0)) r, handling := bit (s.locWord (e + 0x3F8)) 0,
    stall := [], stopAt := none, ceded := false, sw := 0,
    frozenAt := if bit (s.creg_ (escBase + 0x28)) core then some s.cyc else none, hinge := false, fellBack := false, preempt := false, resumed := pushes != [] }
  let s4 := s2.setCtl key 0 c
  if eng == 3 && !old.hinge then s4.restoreLanes key a
  else if eng == 2 then
    let ck := keyCtxKey key
    let s5 := { s4 with
      shapes := (upTo 16).foldl (fun t n => Tab.put t (16 * ck + n) (s4.locBytes (a + 0x2000 + 64 * n) 64)) s4.shapes
      accords := (upTo 4).foldl (fun t n => Tab.put t (4 * ck + n) (s4.locBytes (a + 0x2400 + 256 * n) 256)) s4.accords }
    if old.hinge then s5 else s5.restoreTiles slot core
  else s4

/-- FIFOs, queues and bindings of a context read back. -/
def State.restoreContext (s : State) (slot core : Nat) : State :=
  let card := (s.slotAt slot).card
  let ck := ctxKey core (cardCtx card)
  let a := locKey core (saveImage card) + 0x1400
  let s1 := (upTo 8).foldl (fun s f => s.setTok ck f (s.locRead (a + f) 1)) s
  let s2 := (upTo 8).foldl (fun s q => { s with qbinds := s.qbinds.set 0 (16 * ck + 8 + q) (s.locRead (a + 8 + q) 1) }) s1
  (upTo 16).foldl (fun s q =>
    s.setQueue ck q (((upTo (minN (s.locRead (a + 16 + q) 1) 16)).map fun i => s.locWord (a + 0x40 + 128 * q + 8 * i)) ++
      (s.slotAt slot).savedEntries.get [] (16 * ck + q))) s2

/-- A job's instance starts (R113, R130): a miss already raised under MISS 3 is owed; with no entry at all it ends at once
(R73, R94). -/
def State.startInstance (s : State) (slot : Nat) : State :=
  let s1 := (s.modSlot slot fun x => { x with state := 3, restoring := false }).startStreams slot
  let x := s1.slotAt slot
  let s2 := if x.missed && bitsN (cardPolicy x.card) 2 2 == 3 then
      (s1.jobStreams slot).foldl (fun s k => s.modCtl k 0 fun c =>
        if c.life == .live then { c with owed := { c.owed with miss := some (BitVec.ofNat 64 x.deadline) } } else c) s1
    else s1
  if (s2.slotAt slot).arrivals == 5 * x.cores.length then s2.endTile slot else s2

/-- An evicted job restored on its cores; or, between instances, its tiles restored before its streams start (R120, R398). -/
def State.restoreTile (s : State) (slot : Nat) : State :=
  let x := s.slotAt slot
  if x.started then
    let s1 := x.cores.foldl (fun s core =>
      (upTo 5).foldl (fun s e => s.restoreStream slot core e) (s.restoreContext slot core)) s
    let home := locKey (x.cores.headD 0) (saveImage x.card) + 0x2800
    s1.modSlot slot fun y =>
      { y with state := 3, restoring := false, saved := [], savedEntries := [],
               flags := (upTo 64).foldl (fun t f => Tab.set 0 t f (s1.locWord (home + 8 * f))) [] }
  else
    -- Tiles that a hinge left unsaved read 0 (R122).
    let s1 := x.cores.foldl (fun s core =>
      if (x.saved.get {} (5 * core + 2)).hinge then s else s.restoreTiles slot core) s
    (s1.modSlot slot fun y => { y with saved := [] }).startInstance slot

/-! ### Vision (R125, R148) -/

/-- Whether a thread of a vision job is stalled at the retirement of an instruction, so that it stands at no boundary (R318). -/
def State.visionRetires (s : State) (slot : Nat) : Bool :=
  s.ctl.any fun e => e.2.job == slot && 32 * 2048 ≤ e.1 && e.2.late.isSome

/-- Vision cores that a job occupies, ascending. -/
def State.visionCores (s : State) (slot : Nat) : List Nat :=
  (upTo 24).filter fun k => s.groups.any fun e => e.1 / 64 == k && e.2.job == slot

/-- A byte of the image of a vision core. What the spec gives no place or no layout is a free value: `free` (log 2). -/
def State.visionByte (s : State) (slot core : Nat) (free : Nat → Byte) (off : Nat) : Byte :=
  if off < 0x3C000 then free off
  else if off < 0x7C000 then
    let u := (off - 0x3C000) / 4096
    if s.groups.any fun e => e.1 / 64 == core && e.2.job == slot && e.2.base ≤ u && u < e.2.base + e.2.units then
      s.loc.get 0 (locKey (64 + core) (off - 0x3C000))
    else free off
  else
    let n := (off - 0x7C000) / 0x2000
    let o := (off - 0x7C000) % 0x2000
    let key := waveKey core n
    let byteOf (w i : Nat) : Byte := BitVec.ofNat 8 (w / 256 ^ i)
    match s.waves.find key with
    | none => free off
    | some w =>
      if w.job != slot then free off
      else if o < 0x200 then byteOf (s.sget key (o / 8)).toNat (o % 8)
      else if o < 0x220 then
        let p := (o - 0x200) / 4
        byteOf (if p == 0 then 2 ^ 32 - 1 else (s.preg.get 0 (8 * key + p)).toNat) (o % 4)
      else if 0x400 ≤ o && o < 0x900 then
        let r := (o - 0x400) / 128
        byteOf (s.lget key (0x30 + r) (o % 128 / 4)).toNat (o % 4)
      else if 0x1800 ≤ o then ((s.ctlAt key ((o - 0x1800) / 64)).tr.bytes).getD (o % 64) 0
      else free off

/-- The parts of the image of a vision core that are written: the register file and the local store, and in each slot what
R125's table does not leave out. -/
def imageParts : List (Nat × Nat) :=
  (0, 0x7C000) :: (upTo 48).flatMap fun n =>
    let slot := 0x7C000 + 0x2000 * n
    [(slot, 0x240), (slot + 0x400, 0x500), (slot + 0x1000, 0x1000)]

/-- Where a workgroup goes in the images of its job. DESIGN CHOICE: one that was restored while others of the job are still
saved (`again`) goes back to the place that it came from (log 39). -/
def Workgroup.place (g : Workgroup) (key : Nat) (again : Bool) : Home :=
  match again, g.home with
  | true, some h => h
  | _, _ => { key := key, base := g.base, slots := g.slots }

/-- Whether some of a job's workgroups are saved still. -/
def Slot.again (x : Slot) : Bool := x.savedGroups != []

/-- The workgroups of a job on the cores, by key, with their places in its images. -/
def State.places (s : State) (slot : Nat) : List (Nat × Workgroup × Home) :=
  (s.groups.filter fun e => e.2.job == slot).map fun e => (e.1, e.2, e.2.place e.1 (s.slotAt slot).again)

/-- The workgroup whose local store has a unit of an image, and the one whose wave has a slot of it. -/
def State.unitPlace (s : State) (slot core u : Nat) : Option (Nat × Workgroup × Home) :=
  (s.places slot).find? fun p => p.2.2.key / 64 == core && p.2.2.base ≤ u && u < p.2.2.base + p.2.1.units
def State.slotPlace (s : State) (slot core n : Nat) : Option (Nat × Workgroup × Home) :=
  (s.places slot).find? fun p => p.2.2.key / 64 == core && p.2.2.slots.contains n

/-- A byte of an image: what stands at its place on the cores. -/
def State.imageByte (s : State) (slot core : Nat) (free : Nat → Byte) (off : Nat) : Byte :=
  let live (p : Nat × Workgroup × Home) (o : Nat) : Byte := s.visionByte slot (p.1 / 64) (fun _ => free off) o
  if off < 0x3C000 then free off
  else if off < 0x7C000 then
    let u := (off - 0x3C000) / 4096
    match s.unitPlace slot core u with
    | some p => live p (0x3C000 + 4096 * (p.2.1.base + u - p.2.2.base) + off % 4096)
    | none => free off
  else
    let n := (off - 0x7C000) / 0x2000
    match s.slotPlace slot core n with
    | some p => live p (0x7C000 + 0x2000 * (p.2.1.slots.getD (p.2.2.slots.idxOf n) 0) + (off - 0x7C000) % 0x2000)
    | none => free off

/-- The parts of an image that are written: where workgroups of the job are saved in it still, only those of the others. -/
def State.partsOf (s : State) (slot core : Nat) : List (Nat × Nat) :=
  if !(s.slotAt slot).again then imageParts
  else if (s.places slot).all fun p => p.2.2.key / 64 != core then []
  else
    (0, 0x3C000) :: ((upTo 64).filter fun u => (s.unitPlace slot core u).isSome).map (fun u => (0x3C000 + 4096 * u, 4096)) ++
    (imageParts.drop 1).filter fun p => (s.slotPlace slot core ((p.1 - 0x7C000) / 0x2000)).isSome

/-- The images of the cores of a vision job written to its save area in rank order, by accesses from each core (R125,
R355); the state, and the address and fault of a failed one. -/
def State.saveImages (s : State) (slot : Nat) : List Nat → Nat → State × Option (Nat × Flt)
  | [], _ => (s, none)
  | core :: rest, rank =>
    let card := (s.slotAt slot).card
    let free (off : Nat) : Byte := (Config.freeValue (s.free + off)).setWidth 8
    let at_ := cardSave card + rank * 0xDC000
    let r := (s.partsOf slot core).foldl (fun (acc : State × Option (Nat × Flt)) p =>
      match acc.2 with
      | some _ => acc
      | none => acc.1.virtWrite (64 + core) (cardPart card) (at_ + p.1)
          ((upTo p.2).map fun i => s.imageByte slot core free (p.1 + i))) ({ s with free := s.free + 901120 }, none)
    match r.2 with
    | some _ => r
    | none => State.saveImages r.1 slot rest (rank + 1)

/-- A failed access to the save area ends the job and escalates (R125). DESIGN CHOICE: the spec does not say what its
escalation record holds of the thread; the model names the lowest core that the job occupies, kind 8, thread 0 and address 0
(log 39). -/
def State.saveAreaFails (s : State) (slot core va : Nat) (f : Flt) : State :=
  let c := (s.slotAt slot).card
  let rec_ : List Byte :=
    leBytes 8 f.cause ++ leBytes 8 va ++ leBytes 8 0 ++ leBytes 8 f.detail.toNat ++ leBytes 8 s.ns ++
    [BitVec.ofNat 8 slot, BitVec.ofNat 8 (cardKind c), BitVec.ofNat 8 (cardPart c), BitVec.ofNat 8 core, 8, 0] ++
    leBytes 2 0 ++ leBytes 8 0 ++ leBytes 8 0
  (((s.walkKept (cardPart c) [] va).ringRecord escBase 64 (cardPart c) fun _ => rec_).sendMsi).withdraw slot

/-- Keys of the wave slots that a job's waves have in its images, by their keys on the cores. -/
def State.waveHomes (s : State) (slot : Nat) : List (Nat × Nat) :=
  (s.places slot).flatMap fun p =>
    (p.2.1.slots.zip p.2.2.slots).map fun w => (waveKey (p.1 / 64) w.1, waveKey (p.2.2.key / 64) w.2)

/-- A thread as an eviction saves it: it stops before an amod that it has not used, and loses its watch (R55, R348). -/
def Ctl.evicted (c : Ctl) (cyc : Nat) : Ctl :=
  let lost := match c.waiting with
    | some (.waitl _ _ _ _) => true
    | _ => c.waitLost
  { c.wholeUnit with waitLost := lost, stopAt := some cyc }

/-- What a slot keeps of a vision job beside its images, by places there: added to what is saved still (R125, R148). -/
def State.keepVision (s : State) (slot : Nat) (cores keys : List Nat) : State :=
  let homes := s.waveHomes slot
  let at_ (k : Nat) : Nat := ((homes.find? fun h => h.1 == k).map (·.2)).getD k
  let group (p : Nat × Workgroup × Home) : Workgroup := { p.2.1 with base := p.2.2.base, slots := p.2.2.slots, home := none }
  let waves := s.waves.filter fun e => keys.contains e.1
  let wgHome (e : Nat × Wave) : Nat :=
    (((s.places slot).find? fun p => p.1 == 64 * (keyCore e.1 - 64) + e.2.wg).map fun p => p.2.2.key % 64).getD e.2.wg
  let queued := (upTo 96).flatMap fun p => (s.xqueue.get [] p).filter keys.contains
  s.modSlot slot fun x =>
    { x with state := 4, stopping := false, cores := if x.again then x.cores else cores,
             saved := (s.ctl.filter fun e => keys.contains (e.1 / 32)).foldl
               (fun t e => t.put (32 * at_ (e.1 / 32) + e.1 % 32) (e.2.evicted s.cyc)) x.saved,
             savedLanes := (s.lreg.filter fun e => keys.contains (e.1 / 4096) && e.1 / 64 % 64 < 48).foldl
               (fun t e => Tab.put t (4096 * at_ (e.1 / 4096) + e.1 % 4096) e.2) x.savedLanes,
             savedQueue := x.savedQueue ++ queued.map at_,
             savedPoison := (s.poisonLane.filter fun e => keys.contains (e.1 / 4096)).foldl
               (fun t e => Tab.put t (4096 * at_ (e.1 / 4096) + e.1 % 4096) e.2) x.savedPoison,
             savedPoisonS := (s.poisonScalar.filter fun e => keys.contains (e.1 / 64)).foldl
               (fun t e => Tab.put t (64 * at_ (e.1 / 64) + e.1 % 64) e.2) x.savedPoisonS,
             savedWaves := waves.foldl (fun t e => Tab.put t (at_ e.1) { e.2 with wg := wgHome e }) x.savedWaves,
             savedGroups := (s.places slot).foldl (fun t p => Tab.put t p.2.2.key (group p)) x.savedGroups }

/-- The mailboxes of a job's workgroups that leave the cores follow them to their places in the images (R149). -/
def State.boxesAway (s : State) (slot : Nat) : State :=
  (s.places slot).foldl (fun s p => s.mapBoxes p.1 fun m =>
    { m with group := boxEvicted + p.2.2.key, box := m.box - locKey (64 + p.1 / 64) (4096 * p.2.1.base) }) s

/-- A vision job evicted: waves stop, open regions abort with cause 9, the images are saved, and everything leaves the
cores (R125, R147, R148). -/
def State.evictVision (s : State) (slot : Nat) : State :=
  let keys := s.jobWaves slot
  let s1 := keys.foldl (fun s k => (upTo 32).foldl (fun s l => s.regionAbort k l 9 0) s) s
  let cores := s1.visionCores slot
  match s1.saveImages slot (if (s1.slotAt slot).again then (s1.slotAt slot).cores else cores) 0 with
  | (s2, some (va, f)) => s2.saveAreaFails slot (64 + cores.headD 0) va f
  | (s2, none) =>
    let s3 := (s2.boxesAway slot).keepVision slot cores keys
    let s4 := { s3 with
      xqueue := s3.xqueue.map fun (e : Nat × List Nat) => (e.1, e.2.filter fun k => !keys.contains k)
      regionBufs := s3.regionBufs.map fun (e : Nat × List Nat) => (e.1, e.2.filter fun k => !keys.contains k) }
    let s5 := keys.foldl (fun s k => s.yieldBlock k) s4
    { s5 with
      waves := keys.foldl (fun t k => t.del k) s5.waves
      groups := s5.groups.filter fun e => e.2.job != slot
      ctl := keys.foldl (fun t k => Tab.dropRange t (32 * k) 32) s5.ctl
      evaluations := s5.evaluations + 1 }

end Sys2Proof.Machine
end

