-- ==== Sys2Proof/Machine/Place.lean ====
section
/-! DEFINITION. The dispatcher's decisions: precedence, the placement of gangs, victims, pre-emption orders (R11, R76, R115 to
R119, R122, R398), and the placement and restore of workgroups (R125, R136 to R138, R148, R152). -/

namespace Sys2Proof.Machine

/-! ### Precedence (R76, R398) -/

/-- Whether the job in slot `a` precedes that in slot `b`: a WAITING slot has no precedence; then the safety class, the
earlier deadline, the lower slot. -/
def State.precedes (s : State) (a b : Nat) : Bool :=
  let x := s.slotAt a
  let y := s.slotAt b
  let idle (z : Slot) : Nat := b2n (z.state == 1)
  let safety (z : Slot) : Nat := b2n (!bitN (cardFlags z.card) 3)
  if idle x != idle y then idle x < idle y
  else if safety x != safety y then safety x < safety y
  else if x.deadline != y.deadline then x.deadline < y.deadline
  else a < b

/-- A slot put into a list ordered by precedence. -/
def State.rankInsert (s : State) (a : Nat) : List Nat → List Nat
  | [] => [a]
  | b :: bs => if s.precedes a b then a :: b :: bs else b :: State.rankInsert s a bs

/-- Slots in order of precedence. -/
def State.ranked (s : State) (l : List Nat) : List Nat := l.foldl (fun acc a => s.rankInsert a acc) []

/-! ### Loading a tile job (R11, R116, R117) -/

/-- Whether a tile job is loaded on a core. -/
def State.loadedOn (s : State) (slot core : Nat) : Bool :=
  s.ctxJob.find (ctxKey core (cardCtx (s.slotAt slot).card)) == some slot

/-- Jobs loaded on a core. -/
def State.loadedAt (s : State) (core : Nat) : List Nat := (upTo 4).filterMap fun c => s.ctxJob.find (ctxKey core c)

/-- Tile cores with a job loaded (R394). -/
def State.loadedCores (s : State) : Nat := ((upTo 64).filter fun c => s.loadedAt c != []).length

/-- Tile-core cap (R394). -/
def State.tileCap (s : State) : Nat :=
  minN 64 ((bits (s.creg_ (dspBase + 0x8018)) 0 9 - 102) * 10000 / 24375)

/-- Whether two ranges share a unit. -/
def overlaps (a n b m : Nat) : Bool := a < b + m && b < a + n && n != 0 && m != 0

/-- Whether a job collides with another by context or by accumulator mask: such a job is a victim (R118). -/
def collides (x y : List Byte) : Bool := cardCtx x == cardCtx y || Nat.land (cardAcc x) (cardAcc y) != 0

/-- Whether a region or page that a card needs on a core is held by another job, or is still being cleared (R116, R183,
R248). -/
def State.spaceTaken (s : State) (slot core : Nat) (card : List Byte) : Bool :=
  (s.slots.any fun e => e.1 != slot && !cardVision e.2.card && e.2.cores.contains core &&
    (overlaps (cardBase card) (cardSize card) (cardBase e.2.card) (cardSize e.2.card) ||
     Nat.land (cardPages card) (cardPages e.2.card) != 0)) ||
  (s.flights.any fun e => match e.2 with
    | .clearRegion c b n => c == core && overlaps (cardBase card) (cardSize card) b n
    | .clearPage c p => c == core && bitN (cardPages card) p
    | _ => false)

/-- Whether the freeze of a core is complete: nothing of it changes until it is cleared (R384). -/
def State.coreFrozen (s : State) (core : Nat) : Bool :=
  if core < 64 then bit (s.creg_ (escBase + 0x38)) core else bit (s.creg_ (escBase + 0x40)) (core - 64)

/-- Whether the dispatcher may place anything on a core (R384, R392). -/
def State.coreOpen (s : State) (core : Nat) : Bool :=
  !(s.island.isolated.contains (if core < 64 then (0, core) else (1, core))) && !s.coreFrozen core

/-- Whether a tile job can be loaded on a core if the jobs that `absent` names were not loaded there. -/
def State.canLoad (s : State) (slot core : Nat) (absent : Nat → Bool) : Bool :=
  let card := (s.slotAt slot).card
  s.coreOpen core && !s.spaceTaken slot core card &&
  (s.loadedAt core).all fun y => absent y || y == slot || !collides card (s.slotAt y).card

/-- Up to `n` cores of a list that qualify, with the loads on empty cores that the cap still allows (R117). -/
def State.pickCores (s : State) (slot : Nat) (absent : Nat → Bool) (n : Nat) (cores : List Nat) (room : Nat) :
    List Nat × Nat :=
  cores.foldl (fun acc c =>
    let empty := (s.loadedAt c).all fun y => absent y
    if acc.1.length == n || !s.canLoad slot c absent || (empty && acc.2 == 0) then acc
    else (acc.1 ++ [c], if empty then acc.2 - 1 else acc.2)) ([], room)

/-- The core set of R117 for a job that has not yet run; none where no such set exists. -/
def State.freshCores (s : State) (slot : Nat) (absent : Nat → Bool) : Option (List Nat) :=
  let x := s.slotAt slot
  let n := cardCores x.card
  let occupied := ((upTo 64).filter fun c => !((s.loadedAt c).all fun y => absent y)).length
  let room := s.tileCap - occupied
  match x.levels.find? fun l => l.kind == 2 with
  | none =>
    let (cs, _) := s.pickCores slot absent n (upTo 64) room
    if cs.length == n then some cs else none
  | some l =>
    let per := n / l.trips
    let (cs, dies, _) := (upTo 4).foldl (fun (acc : List Nat × Nat × Nat) d =>
      let (ds, room) := s.pickCores slot absent per ((upTo 16).map (16 * d + ·)) acc.2.2
      if acc.2.1 < l.trips && ds.length == per then (acc.1 ++ ds, acc.2.1 + 1, room) else acc) ([], 0, room)
    if dies == l.trips then some cs else none

/-- The core set that a job would be loaded on: its own, once it has some (R117, R118). -/
def State.coreSet (s : State) (slot : Nat) (absent : Nat → Bool) : Option (List Nat) :=
  let x := s.slotAt slot
  if x.cores == [] then s.freshCores slot absent
  else
    let occupied := ((upTo 64).filter fun c => !((s.loadedAt c).all fun y => absent y)).length
    let (cs, _) := s.pickCores slot absent x.cores.length x.cores (s.tileCap - occupied)
    if cs == x.cores then some cs else none

/-- The waits on locations of a job that is pre-empted end (R348). -/
def State.endWatches (s : State) (slot : Nat) : State :=
  (s.jobStreams slot).foldl (fun s k =>
    match (s.ctlAt k 0).waiting with
    | some (.waitl _ _ _ _) => s.modCtl k 0 fun c => { c with waitLost := true }
    | _ => s) s

/-- A released job sends a pre-emption order to each engine of its cores that issues a stream of lower precedence (R119). -/
def State.orderPreempt (s : State) (slot : Nat) : State :=
  (s.slotAt slot).cores.foldl (fun s core => (upTo 5).foldl (fun s e =>
    match s.ctxJob.find (ctxKey core (s.engCtx.get 4 (5 * core + e))) with
    | some y =>
      if y != slot && s.engCtx.get 4 (5 * core + e) < 4 && s.precedes slot y then
        (s.modCtl (streamKey core (s.engCtx.get 4 (5 * core + e)) e) 0 fun c => { c with preempt := true }).endWatches y
      else s
    | none => s) s) s

/-- A tile job takes its context on its cores. A job that has not run before starts at once; the others are restored first,
and send their pre-emption orders then (R117, R119, R120, R398). -/
def State.load (s : State) (slot : Nat) (cores : List Nat) : State :=
  let x := s.slotAt slot
  let fresh := x.cores == []
  let s1 := { s with ctxJob := cores.foldl (fun t c => Tab.put t (ctxKey c (cardCtx x.card)) slot) s.ctxJob,
                     icache := cores.foldl (fun (t : Tab (List Nat)) c => t.del c) s.icache }
  let s2 := s1.modSlot slot fun y => { y with cores := cores, restoring := !fresh }
  if fresh then
    let s3 := cores.foldl (fun s c =>
      { s.clearTiles c (cardAcc x.card) with caCtx := s.caCtx.del (ctxKey c (cardCtx x.card)) }) s2
    (s3.startInstance slot).orderPreempt slot
  else s2

/-! ### Victims (R118, R122) -/

/-- MAX_PREEMPT in effect (R103). -/
def maxPreempt (c : List Byte) : Nat := if cardPreempt c == 0 then 2000 else cardPreempt c

/-- Whether a victim is evicted in hinge mode (R122). -/
def hingeModeFor (victim incoming : List Byte) : Bool :=
  cardHinge victim != 0 && cardHinge victim + 2000 ≤ maxPreempt incoming

/-- The loaded jobs of lower precedence than a job that collide with it on some core, the lowest precedence first (R118). -/
def State.victims (s : State) (slot : Nat) : List Nat :=
  let card := (s.slotAt slot).card
  let all := dedup (((upTo 64).flatMap s.loadedAt).filter fun y =>
    y != slot && s.precedes slot y && collides card (s.slotAt y).card)
  (s.ranked all).reverse

/-- The victims of the first core set that exists, by ascending precedence of its highest victim (R118). -/
def State.chooseVictims (s : State) (slot : Nat) : Option (List Nat) :=
  let card := (s.slotAt slot).card
  (s.victims slot).findSome? fun y =>
    -- WAITING jobs have no precedence: every threshold leaves them all out (R398).
    let absent (z : Nat) : Bool :=
      (s.slotAt z).stopping || (z != slot && collides card (s.slotAt z).card &&
        ((s.slotAt z).state == 1 || z == y || s.precedes y z))
    match s.coreSet slot absent with
    | none => none
    | some cs => some (dedup ((cs.flatMap s.loadedAt).filter fun z =>
        absent z && z != slot && collides card (s.slotAt z).card && !(s.slotAt z).stopping))

/-- A tile job that is released and not running is loaded, waits for victims, chooses them, or waits READY. -/
def State.considerTile (s : State) (slot : Nat) : State :=
  let x := s.slotAt slot
  if x.stopping || x.restoring then s
  else if x.cores != [] && x.cores.all (s.loadedOn slot) then (s.startInstance slot).orderPreempt slot
  else
    match s.coreSet slot (fun _ => false) with
    | some cs => s.load slot cs
    | none =>
      match s.coreSet slot (fun z => (s.slotAt z).stopping) with
      | some _ => s
      | none =>
        match s.chooseVictims slot with
        | none => s
        | some vs => vs.foldl (fun s v =>
            let y := s.slotAt v
            if y.state == 1 then s.modSlot v fun y => { y with stopping := true, decided := s.ns }
            else s.orderStop v (hingeModeFor y.card x.card)) s

/-! ### Workgroups (R136 to R138, R152) -/

/-- Free wave slots of a partition of a vision core, lowest first. -/
def State.freeWaves (s : State) (core part : Nat) : List Nat :=
  ((upTo 12).map (12 * part + ·)).filter fun n => !s.waves.has (waveKey core n)

/-- The lowest run of free local-store units that fits (R137). -/
def State.freeRun (s : State) (core units : Nat) : Option Nat :=
  let held := s.groups.filter fun e => e.1 / 64 == core
  if units == 0 then some 0
  else (upTo (65 - units)).find? fun b => held.all fun e => !overlaps b units e.2.base e.2.units

/-- Whether a workgroup of a job fits on a vision core (R136, R138). -/
def State.groupFits (s : State) (slot core : Nat) : Bool :=
  let x := s.slotAt slot
  let mine := s.visionCores slot
  s.coreOpen (64 + core) && (mine.contains core || mine.length < cardVisionCores x.card) &&
  ((upTo 4).all fun p => wavesIn x.gridT p ≤ (s.freeWaves core p).length) && (s.freeRun core (cardSize x.card)).isSome

/-- Wave slots on a core that workgroups of the opposite class hold (R138). -/
def State.oppositeSlots (s : State) (cls core : Nat) : Nat :=
  (s.waves.filter fun e => keyCore e.1 == 64 + core && (s.slotAt e.2.job).cls + cls == 3).length

/-- The core that the distributor chooses for the next workgroup of a job (R138). -/
def State.groupCore (s : State) (slot : Nat) (ok : Nat → Bool) : Option Nat :=
  let cls := (s.slotAt slot).cls
  let l := (upTo 24).filter fun c => s.groupFits slot c && ok c
  match l with
  | [] => none
  | c :: cs => if cls == 0 then some c else
      some (cs.foldl (fun b k => if s.oppositeSlots cls b < s.oppositeSlots cls k then k else b) c)

/-- Wave slots taken for a workgroup, in rising wave number (R136). -/
def State.takeSlots (s : State) (core waves : Nat) : List Nat :=
  (upTo waves).foldl (fun acc w =>
    match (s.freeWaves core (w % 4)).find? fun n => !acc.contains n with
    | some n => acc ++ [n]
    | none => acc) []

/-- A free index for a workgroup on a core. -/
def State.groupIndex (s : State) (core : Nat) : Nat :=
  ((upTo 48).find? fun i => !s.groups.has (64 * core + i)).getD 0

/-- A thread at the start of its kernel (R135, R136). -/
def threadStart (slot : Nat) (x : Slot) (tid : Nat) : Ctl :=
  let e := BitVec.ofNat 64 (cardEntry x.card 0)
  let owed : Owed :=
    if x.missed && bitsN (cardPolicy x.card) 2 2 == 3 then { miss := some (BitVec.ofNat 64 x.deadline) } else {}
  { life := if tid < x.gridT then .live else .exited, job := slot, pc := e, hdr := e, owed := owed }

/-- The workgroup of a linear index placed on a core (R135 to R138). -/
def State.placeGroup (s : State) (slot core n : Nat) : State :=
  let x := s.slotAt slot
  let count := (x.gridT + 31) / 32
  let slots := s.takeSlots core count
  let idx := s.groupIndex core
  let base := (s.freeRun core (cardSize x.card)).getD 0
  let g : Workgroup :=
    { job := slot, x := n % x.gridX, y := n / x.gridX % x.gridY, z := n / (x.gridX * x.gridY), threads := x.gridT,
      base := base, units := cardSize x.card, slots := slots }
  let lo := locKey (64 + core) (4096 * base)
  let s1 := { s with groups := s.groups.put (64 * core + idx) g, icache := s.icache.del (64 + core), loc := s.loc.dropRange lo (4096 * g.units),
                     poisonLoc := s.poisonLoc.dropRange (lo / 8) (512 * g.units) }
  let s2 := slots.zipIdx.foldl (fun s w =>
    let key := waveKey core w.1
    let s3 := { s with waves := s.waves.put key { job := slot, wg := idx, num := w.2 } }
    let s4 := s3.clearRegs key (BitVec.ofNat 64 (cardArgs x.card))
    (upTo 32).foldl (fun s l => s.setCtl key l (threadStart slot x (32 * w.2 + l))) s4) s1
  s2.modSlot slot fun y => { y with state := 3, started := true }

/-- The next unplaced workgroup of a job placed; none where it fits nowhere. -/
def State.placeNext (s : State) (slot : Nat) : Option State :=
  let x := s.slotAt slot
  if x.gridSize ≤ x.nextWg then none
  else (s.groupCore slot fun _ => true).map fun c =>
    (s.placeGroup slot c x.nextWg).modSlot slot fun y => { y with nextWg := y.nextWg + 1 }

/-- Every unplaced workgroup of a cooperative job placed together (R152). -/
def State.placeAll (s : State) (slot : Nat) : Nat → Option State
  | 0 => some s
  | n + 1 => match s.placeNext slot with
    | none => none
    | some s1 => State.placeAll s1 slot n

/-! ### Restoring workgroups (R125, R148) -/

/-- Whether the blocks that a saved workgroup's waves held are free on a core (R148). -/
def State.blocksFree (s : State) (slot key core : Nat) : Bool :=
  (s.slotAt slot).savedWaves.all fun e =>
    !(keyCore e.1 - 64 == key / 64 && e.2.wg == key % 64) ||
    (match e.2.block with
     | none => true
     | some b => !(s.blocksHeld core (keySlot e.1 / 12)).contains b)

/-- One saved wave read back into a slot of a core: what has a place in the save area from there, the rest as it was. -/
def State.restoreWave (s : State) (slot old core newSlot idx : Nat) (w : Wave) : Except (Nat × Flt) State :=
  let x := s.slotAt slot
  let key := waveKey core newSlot
  let rank := (x.cores.idxOf? (keyCore old - 64)).getD 0
  let va := cardSave x.card + rank * 0xDC000 + 0x7C000 + 0x2000 * keySlot old
  match s.virtBytes (64 + core) (cardPart x.card) va 0x2000 with
  | .error e => .error e
  | .ok (s1, b) =>
    let word (o n : Nat) : Nat := leNat ((b.drop o).take n)
    let s2 := { s1 with waves := s1.waves.put key { w with wg := idx, lastIssue := s1.turns } }
    let s3 := s2.clearRegs key 0
    let s4 := (upTo 64).foldl (fun s n => s.sset key n (BitVec.ofNat 64 (word (8 * n) 8))) s3
    let s5 := { s4 with preg := (upTo 7).foldl (fun t p =>
      Tab.set 0 t (8 * key + p + 1) (BitVec.ofNat 64 (word (0x204 + 4 * p) 4))) s4.preg }
    let s6 := (upTo 10).foldl (fun s r => (upTo 32).foldl (fun s l =>
      s.lset key (0x30 + r) l (BitVec.ofNat 32 (word (0x400 + 128 * r + 4 * l) 4))) s) s5
    let s7 := { s6 with lreg := x.savedLanes.foldl (fun t (e : Nat × Word) =>
      if e.1 / 4096 == old then Tab.set 0 t (4096 * key + e.1 % 4096) e.2 else t) s6.lreg }
    let s8 := { s7 with
      poisonLane := x.savedPoison.foldl (fun t (e : Nat × Bool) => if e.1 / 4096 == old then t.put (4096 * key + e.1 % 4096) true else t)
        s7.poisonLane
      poisonScalar := x.savedPoisonS.foldl (fun t (e : Nat × Bool) => if e.1 / 64 == old then t.put (64 * key + e.1 % 64) true else t)
        s7.poisonScalar }
    .ok ((upTo 32).foldl (fun s l =>
      let t (i : Nat) : DWord := BitVec.ofNat 64 (word (0x1800 + 64 * l + 8 * i) 8)
      let tr : TrapRec :=
        { hdr := t 0, ret := t 1, passes := t 2, iaddr := t 3, cause := t 4, info := t 5, detail := t 6, time := t 7 }
      s.setCtl key l { x.saved.get {} (32 * old + l) with stopAt := none, frozenAt := none, tr := tr }) s8)

/-- Free blocks of a core granted to the requests that wait for them (R147). -/
def State.grantAll (s : State) (core : Nat) : State :=
  (upTo 32).foldl (fun s i => s.grantBlocks core (i / 8)) s

/-- A restored workgroup's saved state leaves its slot. -/
def Slot.forget (x : Slot) (old : Nat) (waves : List Nat) : Slot :=
  { x with state := 3, savedGroups := x.savedGroups.del old,
           savedWaves := x.savedWaves.filter fun e => !waves.contains e.1,
           saved := x.saved.filter fun e => !waves.contains (e.1 / 32),
           savedLanes := x.savedLanes.filter fun e => !waves.contains (e.1 / 4096),
           savedPoison := x.savedPoison.filter fun e => !waves.contains (e.1 / 4096),
           savedPoisonS := x.savedPoisonS.filter fun e => !waves.contains (e.1 / 64),
           savedQueue := x.savedQueue.filter fun k => !waves.contains k }

/-- A saved workgroup put back on a core, its local store read back (R125, R148). -/
def State.restoreGroup (s : State) (slot old core : Nat) (g : Workgroup) : Except (Nat × Flt) State :=
  let x := s.slotAt slot
  let idx := s.groupIndex core
  let base := (s.freeRun core g.units).getD 0
  let mine := x.savedWaves.filter fun e => keyCore e.1 - 64 == old / 64 && e.2.wg == old % 64
  let slots := s.takeSlots core mine.length
  let rank := (x.cores.idxOf? (old / 64)).getD 0
  let va := cardSave x.card + rank * 0xDC000 + 0x3C000 + 4096 * g.base
  match s.virtBytes (64 + core) (cardPart x.card) va (4096 * g.units) with
  | .error e => .error e
  | .ok (s1, b) =>
    let s2 := (s1.locWrite (locKey (64 + core) (4096 * base)) b)
    let s3 := { s2 with groups := s2.groups.put (64 * core + idx) { g with base := base, slots := slots, home := some { key := old, base := g.base, slots := g.slots } } }
    let byNum := (upTo mine.length).filterMap fun n => mine.find? fun e => e.2.num == n
    match (byNum.zip slots).foldl (fun (acc : Except (Nat × Flt) State) p =>
        match acc with
        | .error e => .error e
        | .ok s => s.restoreWave slot p.1.1 core p.2 idx p.1.2) (.ok s3) with
    | .error e => .error e
    | .ok s4 =>
      -- Withdrawn xacq requests are queued again in their order (R148).
      let again := (byNum.zip slots).filterMap fun p =>
        if x.savedQueue.contains p.1.1 then some (x.savedQueue.idxOf p.1.1, waveKey core p.2) else none
      let sorted := (upTo x.savedQueue.length).filterMap fun i => (again.find? fun a => a.1 == i).map (·.2)
      let s5 := sorted.foldl (fun s k =>
        let p := 4 * core + keySlot k / 12
        { s with xqueue := s.xqueue.put p (s.xqueue.get [] p ++ [k]) }) s4
      let s6 := s5.mapBoxes (boxEvicted + old) fun m =>
        { m with group := 64 * core + idx, box := m.box + locKey (64 + core) (4096 * base) }
      .ok (s6.modSlot slot fun y => y.forget old (mine.map (·.1)))

/-- The next saved workgroup of a job restored; none where it fits nowhere, and then the job's unplaced ones wait as well.
A failed read of the save area ends the job. DESIGN CHOICE: saved workgroups return in rising order of their old core and
index there (log 39). -/
def State.restoreNext (s : State) (slot : Nat) : Option State :=
  let x := s.slotAt slot
  match x.savedGroups with
  | [] => none
  | (old, g) :: _ =>
    (s.groupCore slot fun c => s.blocksFree slot old c).map fun c =>
      match s.restoreGroup slot old c g with
      | .ok s1 => s1
      | .error (va, f) => s.saveAreaFails slot (64 + c) va f

/-- The blocks that are free then go to the requests that wait for them on every core (R147). -/
def State.granted (s : State) : State := (upTo 24).foldl (fun s c => s.grantAll c) s

/-- Every saved workgroup of a cooperative job restored together, before a free block goes to any request (R152). -/
def State.restoreAll (s : State) (slot : Nat) : Nat → Option State
  | 0 => some s
  | n + 1 => match s.restoreNext slot with
    | none => none
    | some s1 => State.restoreAll s1 slot n

/-- What the distributor can do next for a vision job: its saved workgroups first, then the next unplaced one; a
cooperative job all at once. -/
def State.distribute (s : State) (slot : Nat) : Option State :=
  let x := s.slotAt slot
  let whole := bitN (cardFlags x.card) 2
  if !cardVision x.card || x.state < 2 || x.stopping then none
  else if x.savedGroups != [] then
    (if whole then s.restoreAll slot x.savedGroups.length else s.restoreNext slot).map State.granted
  else if whole then if x.nextWg < x.gridSize then s.placeAll slot (x.gridSize - x.nextWg) else none
  else s.placeNext slot

/-- Jobs that have a workgroup to place or to restore, in order of precedence. -/
def State.visionQueue (s : State) : List Nat :=
  s.ranked ((s.slots.filter fun e => cardVision e.2.card && 2 ≤ e.2.state && !e.2.stopping).map (·.1))

/-! ### Vision victims (log 11) -/

/-- A vision job that waits to run and fits nowhere evicts: by ascending precedence of its highest victim, the first core on
which it would fit without the jobs up to that one; each is evicted whole (R125). -/
def State.considerVision (s : State) (slot : Nat) : State :=
  let x := s.slotAt slot
  if x.stopping || (s.distribute slot).isSome then s
  else
    let lower := (s.ranked ((s.slots.filter fun e =>
      cardVision e.2.card && e.2.state == 3 && e.1 != slot && s.precedes slot e.1).map (·.1))).reverse
    let pending := lower.any fun y => (s.slotAt y).stopping
    let without (l : List Nat) : State :=
      { s with groups := s.groups.filter (fun e => !l.contains e.2.job), waves := s.waves.filter (fun e => !l.contains e.2.job) }
    let choice := (upTo lower.length).findSome? fun i =>
      let out := lower.take (i + 1)
      if ((without out).distribute slot).isSome then some out else none
    match pending, choice with
    | false, some out => out.foldl (fun s v => s.modSlot v fun y => { y with stopping := true, decided := s.ns }) s
    | _, _ => s

/-! ### Evaluation (R115) -/

/-- One evaluation: every job that is released and not running is considered in order of precedence. -/
def State.evaluate (s : State) : State :=
  let waiting := s.ranked ((s.slots.filter fun e => e.2.state == 2 || e.2.state == 4).map (·.1))
  waiting.foldl (fun s k =>
    let x := s.slotAt k
    if !(x.state == 2 || x.state == 4) then s
    else if cardVision x.card then s.considerVision k else s.considerTile k) s

end Sys2Proof.Machine
end

