-- ==== Sys2Proof/Machine/DispatchEvents.lean ====
section
/-! DEFINITION. The dispatcher's events: submissions, withdrawal, package time, releases, evaluations, evictions, restores,
deadline misses, clearings and workgroups (R97 to R152). An event whose time has not come leaves the state as it is
(log 1). -/

namespace Sys2Proof.Machine

/-! ### Submission and package time -/

/-- DSP_SUBMIT_SV (R106). -/
def execDspSubmitSv (addr : BitVec 64) (s : State) : Host.Outcome State Fault Refusal := .next (s.submit addr.toNat)

/-- DSP_SUBMIT_SI (R106, R108): the two ports differ only in naming the submitter. -/
def execDspSubmitSi (addr : BitVec 64) (s : State) : Host.Outcome State Fault Refusal := .next (s.submit addr.toNat)

/-- DSP_WITHDRAW (R108, R114, R400). -/
def execDspWithdraw (value : BitVec 64) (s : State) : Host.Outcome State Fault Refusal := .next (s.withdraw (bits value 0 8))

/-- Whether a write of dsp_time_set is refused (R109). -/
def State.timeSetRefused (s : State) (t : Nat) : Bool :=
  t < s.ns || s.slots.any fun e => e.2.state != 0 && cardPeriod e.2.card != 0

/-- Package time stepped forward by a write of dsp_time_set (R109). -/
def State.stepTime (s : State) (t : Nat) : State :=
  let st := dspBase + 0x80
  if s.timeSetRefused t then s.setCreg st (setBits (s.creg_ st) 0 1 1)
  else
    let next (p : Nat) : Nat := (t + p - 1) / p * p
    ({ s with ns := t, nextPair := next 1000, nextScan := next 50000 }.setCreg st (setBits (s.creg_ st) 0 1 0)).windowsAtStep t

/-- DSP_TIME_SET (R109). -/
def execDspTimeSet (value : BitVec 64) (s : State) : Host.Outcome State Fault Refusal := .next (s.stepTime value.toNat)

/-- DSP_TPAIR_NS_READ (R99). -/
def execDspTpairNsRead (agent : Nat) (s : State) : Host.Outcome State Fault Refusal :=
  .next { s with pairLatch := s.pairLatch.put agent s.pairCyc }

/-- TIME_PAIR_CAPTURE (R99): package time stands at a multiple of 1000 ns whose pair is not captured yet. As time passes a
pair is captured at each multiple (`State.tick`); this one is of a multiple that a time step reached. -/
def execTimePairCapture (s : State) : Host.Outcome State Fault Refusal :=
  .next (if s.nextPair == s.ns then { s with pairNs := s.ns, pairCyc := s.cyc, nextPair := s.ns + 1000 } else s)

/-- PTP_DISCIPLINE (R97): the rate in ppm above -200; at most 200 ppm either way. -/
def execPtpDiscipline (rate : Nat) (s : State) : Host.Outcome State Fault Refusal :=
  .next (if rate ≤ 400 then { s with rate := rate } else s)

/-- CARD_QUEUE_SCAN (R111): at every multiple of 50 µs reached. -/
def execCardQueueScan (s : State) : Host.Outcome State Fault Refusal :=
  .next (if s.nextScan ≤ s.ns then
    let s1 := { s with nextScan := (s.ns / 50000 + 1) * 50000 }
    if s.island.phase == 2 then s1.scanQueue s1.queueHeld else s1
  else s)

/-! ### Releases and evaluation -/

/-- JOB_RELEASE (R112). -/
def execJobRelease (slot : Nat) (s : State) : Host.Outcome State Fault Refusal := .next (s.releaseDue slot)

/-- DISPATCHER_EVALUATION (R115): events of one instant are evaluated together. -/
def execDispatcherEvaluation (s : State) : Host.Outcome State Fault Refusal :=
  .next (if s.evaluations == 0 then s else { s with evaluations := 0 }.evaluate)

/-! ### Eviction and restore -/

/-- EVICTION_SAVE_COMPLETE (R120, R125, R398): once every stream of the victim has stopped. -/
def execEvictionSaveComplete (slot : Nat) (s : State) : Host.Outcome State Fault Refusal :=
  let x := s.slotAt slot
  let cores := if cardVision x.card then (s.visionCores slot).map (64 + ·) else x.cores
  .next (if !x.stopping || cores.any s.coreFrozen then s
    else if cardVision x.card then (if s.visionRetires slot then s else s.evictVision slot)
    else if !x.started || x.restoring || s.allStopped slot then s.finishEviction slot
    else s)

/-- HINGE_FALLBACK (R122): a stream that has not reached a hinge in time stops as outside hinge mode. -/
def execHingeFallback (core ctx eng : Nat) (s : State) : Host.Outcome State Fault Refusal :=
  let key := streamKey core ctx eng
  let c := s.ctlAt key 0
  let x := s.slotAt c.job
  let data := eng == 2 || eng == 3
  if x.stopping && x.hingeMode && data && c.life == .live && c.stopAt.isNone && !c.fellBack && x.decided + cardHinge x.card ≤ s.ns then
    let s1 := s.modCtl key 0 fun c => { c with fellBack := true }
    .next ((s1.modSlot c.job fun x => { x with fallbacks := x.fallbacks + 1 }).orderStream key false)
  else .next s

/-- The job whose workgroup the distributor takes next: the first in order of precedence of which one fits (R138). -/
def State.nextDistributed (s : State) : Option Nat := s.visionQueue.find? fun k => (s.distribute k).isSome

/-- JOB_RESTORE (R120, R125, R148). -/
def execJobRestore (slot : Nat) (s : State) : Host.Outcome State Fault Refusal :=
  let x := s.slotAt slot
  .next (if cardVision x.card then
      if x.savedGroups != [] && s.nextDistributed == some slot then (s.distribute slot).getD s else s
    else if x.restoring && !x.stopping then (s.restoreTile slot).orderPreempt slot
    else s)

/-- WORKGROUP_PLACEMENT (R136 to R138). -/
def execWorkgroupPlacement (slot : Nat) (s : State) : Host.Outcome State Fault Refusal :=
  .next (if (s.slotAt slot).savedGroups == [] && s.nextDistributed == some slot then (s.distribute slot).getD s else s)

/-- KERNEL_CLASSIFICATION (R138): 64 µs after the kernel's first issue. -/
def execKernelClassification (slot : Nat) (s : State) : Host.Outcome State Fault Refusal :=
  let x := s.slotAt slot
  match x.firstIssue with
  | some t =>
    .next (if x.cls == 0 && t + 64000 ≤ s.ns then
      s.setSlot slot { x with cls := if 128 ≤ x.laneOps / maxN x.sectors 1 then 1 else 2 } else s)
  | none => .next s

/-- An answer written into a mailbox of a workgroup, which has one request fewer: coordinates and READY, or EMPTY alone
(R149). -/
def State.answerBox (s : State) (m : Mailbox) (at_ : Option (Nat × Nat × Nat)) : State :=
  let s1 := match at_ with
    | some (x, y, z) => s.locWrite m.box (leBytes 4 x ++ leBytes 4 y ++ leBytes 4 z ++ leBytes 4 1)
    | none => s.locWrite (m.box + 12) (leBytes 4 2)
  match s1.groups.find m.group with
  | some g => { s1 with groups := s1.groups.put m.group { g with requests := g.requests - 1 } }
  | none => s1

/-- A workgroup of a grid withdrawn; it counts as ended (R139, R149). -/
def State.withdrawGroup (s : State) (slot : Nat) : State :=
  let s1 := s.modSlot slot fun x => { x with nextWg := x.nextWg + 1, endedWg := x.endedWg + 1 }
  let x := s1.slotAt slot
  if x.endedWg == x.gridSize then s1.endVision slot else s1

/-- FETCHWG_ANSWER (R149): the oldest request of a job, where its workgroup is on a core or has ended. -/
def execFetchwgAnswer (id : Nat) (s : State) : Host.Outcome State Fault Refusal :=
  match s.flights.find id with
  | some (.mailbox m) =>
    let older := s.flights.any fun e => e.1 < id && (match e.2 with
      | .mailbox o => o.job == m.job
      | _ => false)
    if older || (boxEvicted ≤ m.group && m.group != boxEnded) then .next s
    else
      let x := s.slotAt m.job
      let n := x.nextWg
      let s1 := s.land id
      let answer (at_ : Option (Nat × Nat × Nat)) : State := if m.group == boxEnded then s1 else s1.answerBox m at_
      if n < x.gridSize then
        .next ((answer (some (n % x.gridX, n / x.gridX % x.gridY, n / (x.gridX * x.gridY)))).withdrawGroup m.job)
      else .next (answer none)
  | _ => .next s

/-! ### Deadline misses -/

/-- A miss record (R128). DESIGN CHOICE: byte 0x2C holds the card's MISS field, also where it acts as 0, and workgroups withdrawn
count as completed (log 40). -/
def State.missRecord (s : State) (slot : Nat) : List Byte :=
  let x := s.slotAt slot
  leBytes 8 x.deadline ++ leBytes 8 s.ns ++ leBytes 8 x.release ++ leBytes 8 x.relNo ++ leBytes 8 x.execNs ++
  [BitVec.ofNat 8 slot, BitVec.ofNat 8 (cardKind x.card), BitVec.ofNat 8 (cardPart x.card), BitVec.ofNat 8 x.state,
   BitVec.ofNat 8 (bitsN (cardPolicy x.card) 2 2), 0] ++
  leBytes 2 (if cardVision x.card then x.endedWg else x.arrivals) ++ List.replicate 16 0

/-- An instance of a periodic card ended by the miss policy: its reservations stay (R129). -/
def State.abortInstance (s : State) (slot : Nat) : State :=
  let x := s.slotAt slot
  if cardVision x.card then
    ((s.leaveVision slot).modSlot slot fun y =>
      { y with saved := [], savedWaves := [], savedGroups := [], savedLanes := [], savedQueue := [], savedPoison := [],
               savedPoisonS := [], cores := [] }).endInstance slot
  else
    let keys := s.jobStreams slot
    let s0 := if x.restoring then s.unload slot else s
    let s1 := ((s0.abandonWaits slot (keys.map (·, 0))).abandonSaved slot).dropFlights slot
    let s2 := { s1 with rtes := s1.rtes.map fun (e : Nat × Rte) =>
      if e.2.state == 1 && e.2.job == slot then (e.1, { e.2 with state := 0 }) else e }
    let stop (c : Ctl) : Ctl :=
      { c with life := .arrived, waiting := none, stall := [], retire := none, late := none, region := none, holdEnd := none,
               holdOver := none, armed := none, amod := none, pp := [], pendRegs := [], owed := {}, stopAt := none, frozenAt := none,
               handling := false, preempt := false }
    let s3 := { s2 with ctl := s2.ctl.map fun (e : Nat × Ctl) =>
      if x.state == 3 && e.2.job == slot && keys.contains (e.1 / 32) then (e.1, stop e.2) else e }
    s3.endInstance slot

/-- The MISS policy applied (R129, R130). -/
def State.applyMiss (s : State) (slot : Nat) : State :=
  let x := s.slotAt slot
  let periodic := cardPeriod x.card != 0
  match bitsN (cardPolicy x.card) 2 2 with
  | 1 => if periodic then s.abortInstance slot else s.withdraw slot
  | 2 => if periodic then s.modSlot slot fun y => { y with skipNext := true } else s
  | 3 => if x.state == 2 then s else s.oweEach slot fun o => { o with miss := some (BitVec.ofNat 64 x.deadline) }
  | _ => s

/-- DEADLINE_MISS (R128, R129): once for an instance that has not ended at its deadline. -/
def execDeadlineMiss (slot : Nat) (s : State) : Host.Outcome State Fault Refusal :=
  let x := s.slotAt slot
  if 2 ≤ x.state && x.deadline ≤ s.ns && !x.missed then
    let s1 := (s.ringRecord (dspBase + 0x50) 64 (cardPart x.card) fun _ => s.missRecord slot).sendMsi
    .next ((s1.modSlot slot fun y => { y with missed := true }).applyMiss slot)
  else .next s

/-! ### Clearings -/

/-- REGION_CLEAR_DONE (R183). -/
def execRegionClearDone (id : Nat) (s : State) : Host.Outcome State Fault Refusal :=
  match s.flights.find id with
  | some (.clearRegion core base units) =>
    let lo := locKey core (4096 * base)
    .next { s.land id with
      loc := s.loc.dropRange lo (4096 * units), poisonLoc := s.poisonLoc.dropRange (lo / 8) (512 * units)
      evaluations := s.evaluations + 1 }
  | _ => .next s

/-- PAGE_CLEAR_DONE (R248): T2 zero in every weight of the page in all macros, and tag 0. -/
def execPageClearDone (id : Nat) (s : State) : Host.Outcome State Fault Refusal :=
  match s.flights.find id with
  | some (.clearPage core page) =>
    let mine (k : Nat) : Bool := k / 256 == core && k % 8 == page
    .next { s.land id with
      pages := s.pages.filter fun e => !(mine (e.1 / 4096))
      pageTags := s.pageTags.filter fun e => !(mine e.1)
      poisonPage := s.poisonPage.filter fun e => !(mine e.1)
      evaluations := s.evaluations + 1 }
  | _ => .next s

end Sys2Proof.Machine
end

