-- ==== Sys2Proof/Machine/Boundary.lean ====
section
/-! DEFINITION. Instruction boundaries: which interruptions that a stream or thread is owed it may take there (R95, R130,
R212, R272, R367, R377). -/

namespace Sys2Proof.Machine

/-- Whether a stream or thread runs: its job is placed, it has not ended, and it is not stopped for an eviction or a freeze
(R76, R102). -/
def State.running (s : State) (key lane : Nat) : Bool :=
  let c := s.ctlAt key lane
  c.life == .live && (s.slotAt c.job).state == 3 && c.stopAt.isNone && c.frozenAt.isNone

/-- Whether a stream or thread stands at an instruction boundary: nothing of an earlier instruction is still to retire. -/
def State.atBoundary (s : State) (key lane : Nat) : Bool :=
  let c := s.ctlAt key lane
  s.running key lane && c.late.isNone && c.retire.isNone && c.amod.isNone

/-- Whether asynchronous exceptions are held back (R95, R377). -/
def Ctl.holdsAsync (c : Ctl) : Bool := c.handling || c.holdEnd.isSome

/-- The hold-overrun trap, where it is due (R95). One that is still due as a fault enters the handler is taken at the handler's first
boundary (log 30). -/
def State.takeOverrun (s : State) (key lane : Nat) : Option State :=
  let c := s.ctlAt key lane
  c.holdOver.map fun e => (s.modCtl key lane fun c => { c with holdOver := none }).interrupt key lane 0x30 1 e 0 c.pc

/-- The hold-overrun trap at a stall for retirement (R95): the instruction has executed, and its pushes stay owed; a maintenance
instruction that is not done runs again after the trap, and what it popped goes back (R318). -/
def State.stalledOverrun (s : State) (key : Nat) : Option State :=
  let c := s.ctlAt key 0
  if c.maintaining && c.holdOver.isSome && s.running key 0 then (s.unpop key).takeOverrun key 0 else
  match c.retire with
  | some r => if r.trap.isNone && c.holdOver.isSome && c.late.isNone && s.running key 0 then s.takeOverrun key 0 else none
  | none => none

/-- Whether the stream stands at a delivery point without issuing: in a blocking wait, in rdv, or stalled (R212). -/
def Ctl.stopped (c : Ctl) : Bool := c.waiting.isSome || c.stall != []

/-- Whether a trap or a deferred fault precedes the asynchronous exceptions at this boundary (R377). -/
def State.trapDue (s : State) (key lane : Nat) : Bool :=
  let c := s.ctlAt key lane
  c.holdOver.isSome || s.hasDeferred key lane c.stopped

/-- The deadline-miss exception taken (R130). -/
def State.takeMiss (s : State) (key lane : Nat) : Option State :=
  let c := s.ctlAt key lane
  if c.holdsAsync then none
  else c.owed.miss.map fun d =>
    (s.modCtl key lane fun c => { c with owed := { c.owed with miss := none } }).interrupt key lane 0x31 2 d 0 c.pc

/-- The budget-overrun exception taken (R367). -/
def State.takeBudget (s : State) (key lane : Nat) : Option State :=
  let c := s.ctlAt key lane
  if c.holdsAsync then none
  else c.owed.overrun.map fun w =>
    (s.modCtl key lane fun c => { c with owed := { c.owed with overrun := none } }).interrupt key lane 0x32 2 w 0 c.pc

/-- The route-timeout notification taken (R272). -/
def State.takeRouteNote (s : State) (key lane : Nat) : Option State :=
  let c := s.ctlAt key lane
  if c.holdsAsync then none
  else
    match c.owed.routeTo with
    | [] => none
    | n :: rest =>
      some ((s.modCtl key lane fun c => { c with owed := { c.owed with routeTo := rest } }).interrupt key lane 0x33 2
        (BitVec.ofNat 64 n) 0 c.pc)

/-- The first interruption that a stream or thread takes at its boundary, the fault of the instruction there apart (R377). -/
def State.takeOwed (s : State) (key lane : Nat) : Option State :=
  if !s.atBoundary key lane then none
  else
    (s.takeOverrun key lane).or ((s.takeDeferred key lane (s.ctlAt key lane).stopped).or
      ((s.takeMiss key lane).or ((s.takeBudget key lane).or (s.takeRouteNote key lane))))

end Sys2Proof.Machine
end

