-- ==== Sys2Proof/Machine/Fetch.lean ====
section
/-! DEFINITION. Fetch (R40, R42, R43, R74): halfwords, headers, and the loop buffer. -/

namespace Sys2Proof.Machine

/-- A sector that a core's instruction cache does not hold is read from its home for the job, and the cache keeps it: 64 KiB
at most, the oldest sector leaving (R9, R13, R74; log 36). -/
def State.noteFetch (s : State) (key lane : Nat) : Place → State
  | .loc _ => s
  | .phys pa mtype grain part =>
    let core := keyCore key
    let held := s.icache.get [] core
    if held.contains (pa / 64) then s
    else
      let s1 := s.homeAccess core (pa / 64 * 64) 64 mtype grain part (some (s.jobOf key lane)) false
      { s1 with icache := s1.icache.put core ((if 1024 ≤ held.length then held.drop 1 else held) ++ [pa / 64]) }

/-- A halfword fetched for a stream or thread (R74, R355, R372). -/
def State.fetchHalf (s : State) (key lane : Nat) (va : DWord) : Except Flt (State × Half) :=
  match s.locate key lane .exec va.toNat 2 with
  | .error f => .error f
  | .ok (s1, p) =>
    if s1.placePoisoned p 2 then .error (fltOf 0x0B va.toNat)
    else
      let s2 := s1.noteFetch key lane p
      .ok (s2, BitVec.ofNat 16 (s2.placeRead p 2))

/-- A header word fetched: two halfwords. -/
def State.fetchHeader (s : State) (key lane : Nat) (va : DWord) : Except Flt (State × Nat) :=
  match s.fetchHalf key lane va with
  | .error f => .error f
  | .ok (s1, h0) =>
    match s1.fetchHalf key lane (va + 2) with
    | .error f => .error f
    | .ok (s2, h1) => .ok (s2, h0.toNat + 65536 * h1.toNat)

/-- A stream or thread fetches the header at its program counter and stands in the block, or takes the fault (R42, R43). -/
def State.enterBlock (s : State) (key lane : Nat) : State :=
  match s.fetchHeader key lane (s.ctlAt key lane).pc with
  | .error f => s.takeFault key lane f
  | .ok (s1, w) =>
    match headerDefect w with
    | some r => s1.takeFault key lane (fltOf 0x04 (framingInfo w r))
    | none => s1.modCtl key lane fun c => c.enter w

/-- Whether the pass runs from the loop buffer: a pass after the first of a block with RPT above 0 (R42, R75). -/
def Ctl.fromBuffer (c : Ctl) (pc : DWord) : Option Half :=
  if c.rpt != 0 && c.passes != c.rpt then c.loopBuf.find ((pc - c.hdr).toNat / 2) else none

/-- A halfword of a body, from the loop buffer where it stands there (R74); the first pass fills the buffer. Vision
threads fetch it anew. -/
def State.bodyHalf (s : State) (key lane : Nat) (pc : DWord) : Except Flt (State × Half) :=
  let c := s.ctlAt key lane
  match (if isWave key then none else c.fromBuffer pc) with
  | some h => .ok (s, h)
  | none =>
    match s.fetchHalf key lane pc with
    | .error f => .error f
    | .ok (s1, h) =>
      if c.rpt != 0 && !isWave key then
        .ok (s1.modCtl key lane fun c => { c with loopBuf := c.loopBuf.put ((pc - c.hdr).toNat / 2) h }, h)
      else .ok (s1, h)

end Sys2Proof.Machine
end

