-- ==== Sys2Proof/Machine/Convert.lean ====
section
/-! DEFINITION. The conversion-pair table of cvt (R32, R33, R175) and the S20 scales of R22 and R23. -/

namespace Sys2Proof.Machine

/-- What an element of a conversion is read as or written to. -/
inductive CvtTy where
  | flt (f : Fmt)
  | sint (w : Nat)
  | uint8
  | t2
deriving DecidableEq, Repr

/-- Width in bits of one element. -/
def CvtTy.width : CvtTy → Nat
  | .flt f => f.width
  | .sint w => w
  | .uint8 => 8
  | .t2 => 2

/-- One row of R32: source and target types, number of elements, the bit at which the source elements start, and the
bit at which an "into" entry places its part (`none`: the whole lane is written). -/
structure CvtRow where
  src : CvtTy
  dst : CvtTy
  count : Nat
  srcAt : Nat
  into : Option Nat
deriving DecidableEq, Repr

/-- The conversion-pair table of R32; index 63 has no row. -/
def cvtRow (n : Nat) : CvtRow :=
  let half := 16 * (n % 2)
  let byte := 8 * (n % 4)
  if n < 2 then ⟨.flt .fp32, .flt .fp16, 1, 0, some half⟩
  else if n < 4 then ⟨.flt .fp32, .flt .bf16, 1, 0, some half⟩
  else if n < 8 then ⟨.flt .fp32, .flt .e4m3, 1, 0, some byte⟩
  else if n < 12 then ⟨.flt .fp32, .flt .e5m2, 1, 0, some byte⟩
  else if n < 14 then ⟨.flt .fp16, .flt .fp32, 1, half, none⟩
  else if n < 16 then ⟨.flt .bf16, .flt .fp32, 1, half, none⟩
  else if n < 20 then ⟨.flt .e4m3, .flt .fp32, 1, byte, none⟩
  else if n < 24 then ⟨.flt .e5m2, .flt .fp32, 1, byte, none⟩
  else if n == 24 then ⟨.flt .fp16, .flt .bf16, 2, 0, none⟩
  else if n == 25 then ⟨.flt .bf16, .flt .fp16, 2, 0, none⟩
  else if n < 28 then ⟨.flt .fp16, .flt .e4m3, 2, 0, some half⟩
  else if n < 30 then ⟨.flt .fp16, .flt .e5m2, 2, 0, some half⟩
  else if n < 32 then ⟨.flt .e4m3, .flt .fp16, 2, half, none⟩
  else if n < 34 then ⟨.flt .e5m2, .flt .fp16, 2, half, none⟩
  else if n == 34 then ⟨.flt .fp32, .flt .fp64, 1, 0, none⟩
  else if n == 35 then ⟨.flt .fp64, .flt .fp32, 1, 0, none⟩
  else if n == 36 then ⟨.flt .fp32, .sint 32, 1, 0, none⟩
  else if n == 37 then ⟨.sint 32, .flt .fp32, 1, 0, none⟩
  else if n == 38 then ⟨.flt .fp32, .sint 16, 1, 0, none⟩
  else if n == 39 then ⟨.flt .fp32, .sint 8, 1, 0, none⟩
  else if n == 40 then ⟨.flt .fp32, .uint8, 1, 0, none⟩
  else if n == 41 then ⟨.sint 16, .flt .fp32, 1, 0, none⟩
  else if n == 42 then ⟨.sint 8, .flt .fp32, 1, 0, none⟩
  else if n == 43 then ⟨.uint8, .flt .fp32, 1, 0, none⟩
  else if n == 44 then ⟨.flt .fp64, .sint 64, 1, 0, none⟩
  else if n == 45 then ⟨.sint 64, .flt .fp64, 1, 0, none⟩
  else if n == 46 then ⟨.flt .fp64, .sint 32, 1, 0, none⟩
  else if n == 47 then ⟨.sint 32, .flt .fp64, 1, 0, none⟩
  else if n == 48 then ⟨.flt .fp16, .sint 16, 2, 0, none⟩
  else if n == 49 then ⟨.sint 16, .flt .fp16, 2, 0, none⟩
  else if n == 50 then ⟨.flt .bf16, .sint 16, 2, 0, none⟩
  else if n == 51 then ⟨.sint 16, .flt .bf16, 2, 0, none⟩
  else if n == 52 then ⟨.sint 32, .sint 16, 1, 0, none⟩
  else if n == 53 then ⟨.sint 32, .sint 8, 1, 0, none⟩
  else if n == 54 then ⟨.sint 32, .uint8, 1, 0, none⟩
  else if n == 55 then ⟨.sint 16, .sint 8, 2, 0, some 0⟩
  else if n == 56 then ⟨.sint 16, .sint 8, 2, 0, some 16⟩
  else if n == 57 then ⟨.sint 4, .sint 8, 4, 0, none⟩
  else if n == 58 then ⟨.sint 4, .sint 8, 4, 16, none⟩
  else if n == 59 then ⟨.sint 8, .sint 4, 4, 0, some 0⟩
  else if n == 60 then ⟨.sint 8, .sint 4, 4, 0, some 16⟩
  else if n == 61 then ⟨.t2, .sint 8, 4, 0, none⟩
  else ⟨.sint 8, .t2, 4, 0, none⟩

/-- Whether the source of an entry is a register pair (R32). -/
def cvtSrcPair (n : Nat) : Bool := (cvtRow n).src.width == 64

/-- Whether the destination of an entry is a register pair (R32). -/
def cvtDstPair (n : Nat) : Bool := (cvtRow n).dst.width == 64

/-- Whether the entry reads its destination, being an "into" entry (R159). -/
def cvtInto (n : Nat) : Bool := (cvtRow n).into.isSome

/-- Value of a T2 code (R21). -/
def t2Val (c : Nat) : Int := if c % 4 == 1 then 1 else if c % 4 == 3 then -1 else 0

/-- TINV of a T2 code (R21). -/
def t2Flag (c : Nat) : Fl := flIf (c % 4 == 2) flTINV

/-- Value range of an integer format (R20). -/
def sintMin (w : Nat) : Int := -(2 : Int) ^ (w - 1)
def sintMax (w : Nat) : Int := (2 : Int) ^ (w - 1) - 1

/-- One element converted: pattern (in two's complement where signed) and flags (R29, R30, R175). -/
def cvtElem (src dst : CvtTy) (rm : Rm) (w : Nat) : Int × Fl :=
  let v : FVal := match src with
    | .flt f => unpackF f w
    | .sint k => intVal (signedN k w)
    | .uint8 => intVal (w % 256 : Nat)
    | .t2 => intVal (t2Val w)
  let fl := match src with
    | .t2 => t2Flag w
    | _ => 0
  match dst with
  | .flt f => let (r, g) := roundConv f rm v; ((r : Int), fl ||| g)
  | .sint k => let (r, g) := floatToInt rm (sintMin k) (sintMax k) v; (r, fl ||| g)
  | .uint8 => let (r, g) := floatToInt rm 0 255 v; (r, fl ||| g)
  | .t2 =>
    let x := signedN 8 w
    (if x < 0 then 3 else if x == 0 then 0 else 1, fl ||| flIf (x < -1 || 1 < x) (flNV ||| flNX))

/-- The elements of an entry placed at rising positions. -/
def cvtElems (r : CvtRow) (rm : Rm) (a : Nat) : List Nat → Int × Fl
  | [] => (0, 0)
  | i :: is =>
    let (v, fl) := cvtElem r.src r.dst rm (bitsN a (r.srcAt + i * r.src.width) r.src.width)
    let (rest, fl2) := cvtElems r rm a is
    let part : Int := if r.count == 1 then v else ((wrapN r.dst.width v : Nat) : Int)
    (part * (2 : Int) ^ (i * r.dst.width) + rest, fl ||| fl2)

/-- cvt on one lane (R175): `a` is the source (64 bits for a pair), `old` the old destination; the result has 64 bits,
of which a single destination takes the low 32. -/
def cvtLane (n : Nat) (rm : Rm) (a : Nat) (old : Word) : Nat × Fl :=
  let r := cvtRow n
  let (v, fl) := cvtElems r rm a (upTo r.count)
  match r.into with
  | none => (wrapN 64 v, fl)
  | some p => (setBitsN old.toNat p (r.count * r.dst.width) (wrapN (r.count * r.dst.width) v), fl)

/-- What an S20 scale is (R22). -/
inductive S20 where
  | zero
  | poison
  | val (m : Nat) (e : Int)
deriving DecidableEq, Repr

/-- The S20 scale in the low 20 bits of a word (R22). -/
def s20Of (w : Nat) : S20 :=
  let e := bitsN w 12 8
  if e == 0 then .zero else if e == 255 then .poison else .val (4096 + bitsN w 0 12) ((e : Int) - 139)

/-- A value times S20 scales, in the order-free way of R23; `none` is the poison case. -/
def scaleV (x : FVal) (scales : List S20) : Option (FVal × Fl) :=
  if scales.any (· == .poison) then none
  else if scales.any (· == .zero) then
    match x with
    | .nan s => some (.nan false, flIf s flNV)
    | .inf _ => some (.nan false, flNV)
    | .num neg _ _ => some (.num neg 0 0, 0)
  else
    some (scales.foldl (fun (acc : FVal × Fl) s =>
      match s, acc.1 with
      | .val m e, .num neg k f => (.num neg (k * m) (f + e), acc.2)
      | _, v => (v, acc.2)) (x, 0))

/-- Smallest S20 code whose value is not below a positive `m * 2^e` (R38); `none` above the largest. -/
def s20Up (m : Nat) (e : Int) : Option Nat :=
  let top := e + (Nat.log2 m : Int)
  if top < -126 then some 0x01000
  else
    let (n, _) := roundAt .rup false m e (top - 12)
    let code := (top + 127).toNat * 4096 + (n - 4096)
    if 0xFEFFF < code then none else some code

end Sys2Proof.Machine
end

