-- ==== Sys2Proof/Machine/Trans.lean ====
section
/-! DEFINITION. The one-operand float operations of R174. fexp2, flog2, fsin and fcos are computed in fixed point to
more than 300 bits and then rounded once; DEDUCED (log 12): R174 asks for correct rounding at every operand, which this
gives unless a result lies within 2^-300 of a rounding boundary. -/

namespace Sys2Proof.Machine

/-- Bits of the fixed-point fractions used for fexp2 and flog2. -/
def fxP : Nat := 400

/-- Bits of the fixed-point fractions used for fsin and fcos, which also carry an argument below 2^128. -/
def fxQ : Nat := 640

/-- `2 * atanh(num / den)` times `2^p`: the terms `t, t * z^2 / 3, …`, where `pw` holds `z^(2k+1) * 2^p`. -/
def atanhAux (num den : Nat) : Nat → Nat → Nat → Nat → Nat
  | 0, _, _, acc => acc
  | n + 1, k, pw, acc => atanhAux num den n (k + 1) (pw * num * num / (den * den)) (acc + pw / (2 * k + 1))

/-- `ln((den + num) / (den - num)) * 2^p` as `2 * atanh(num / den)`, for `num * 3 ≤ den`. -/
def ln2Atanh (p num den : Nat) : Nat := 2 * atanhAux num den 200 0 (2 ^ p * num / den) 0

/-- `ln 2 * 2^fxP`. -/
def fxLn2 : Nat := ln2Atanh fxP 1 3

/-- `exp(x / 2^fxP) * 2^fxP` for `0 ≤ x < 2^fxP`: terms `t * x / k`. -/
def expAux (x : Nat) : Nat → Nat → Nat → Nat → Nat
  | 0, _, _, acc => acc
  | n + 1, k, t, acc => let t2 := t * x / 2 ^ fxP / k; expAux x n (k + 1) t2 (acc + t2)

/-- `atan(1 / q) * 2^fxQ`, alternating terms; `pw` holds `2^fxQ / q^(2k+1)`. -/
def atanAux (q : Nat) : Nat → Nat → Nat → Int → Int
  | 0, _, _, acc => acc
  | n + 1, k, pw, acc =>
    let t : Int := ((pw / (2 * k + 1) : Nat) : Int)
    atanAux q n (k + 1) (pw / (q * q)) (if k % 2 == 0 then acc + t else acc - t)

/-- `pi / 2 * 2^fxQ` by Machin's formula. -/
def fxHalfPi : Nat :=
  ((4 * (4 * atanAux 5 160 0 (2 ^ fxQ / 5) 0 - atanAux 239 60 0 (2 ^ fxQ / 239) 0)) / 2).toNat

/-- `x - x^3/3! + …` (k from 1) or `1 - x^2/2! + …` (k from 0), `t` the current term times `2^fxQ`. -/
def trigAux (x : Nat) : Nat → Nat → Nat → Bool → Int → Int
  | 0, _, _, _, acc => acc
  | n + 1, k, t, minus, acc =>
    let ti : Int := (t : Int)
    trigAux x n (k + 2) (t * x / 2 ^ fxQ * x / 2 ^ fxQ / ((k + 1) * (k + 2))) (!minus) (if minus then acc - ti else acc + ti)

/-- `sin` and `cos` of `r / 2^fxQ`, times `2^fxQ`. -/
def fxSin (r : Nat) : Int := trigAux r 140 1 r false 0
def fxCos (r : Nat) : Int := trigAux r 140 0 (2 ^ fxQ) false 0

/-- A fixed-point value that is not exactly representable, as a value with its sticky bit. -/
def fxVal (v : Int) (p : Nat) : FVal := stickyNum (v < 0) v.natAbs (-(p : Int)) true

/-- A value a little above or below `m * 2^e` in magnitude, by less than one part in `2^200`. -/
def nudge (neg : Bool) (m : Nat) (e : Int) (up : Bool) : FVal :=
  .num neg (if up then m * 2 ^ 200 + 1 else m * 2 ^ 200 - 1) (e - 200)

/-- `2^x` for a finite `x` (R174). -/
def exp2V (neg : Bool) (m : Nat) (e : Int) : FVal :=
  if m == 0 then .num false 1 0
  else
    let top := e + (Nat.log2 m : Int)
    if top < -100 then nudge false 1 0 (!neg)
    else if 12 < top then (if neg then .num false 1 (-8000) else .num false 1 8000)
    else
      let fx : Int := mantAt neg m e (if e < -(fxP : Int) then e else -(fxP : Int))
      let n := fx / (2 : Int) ^ fxP
      let fr := (fx - n * (2 : Int) ^ fxP).toNat
      if fr == 0 then .num false 1 n
      else
        let y := expAux (fr * fxLn2 / 2 ^ fxP) 140 1 (2 ^ fxP) (2 ^ fxP)
        match fxVal y fxP with
        | .num s k f => .num s k (f + n)
        | v => v

/-- `log2` of a positive finite value (R174). -/
def log2V (m : Nat) (e : Int) : FVal :=
  let l := Nat.log2 m
  let ex := e + (l : Int)
  if m == 2 ^ l then intVal ex
  else
    let frac := ln2Atanh fxP (m - 2 ^ l) (m + 2 ^ l)
    fxVal (ex * (2 : Int) ^ fxP + ((frac * 2 ^ fxP / fxLn2 : Nat) : Int)) fxP

/-- sin (`cosine` false) or cos of a finite value other than zero (R174). -/
def sinCosV (cosine neg : Bool) (m : Nat) (e : Int) : FVal :=
  let top := e + (Nat.log2 m : Int)
  if top < -60 then (if cosine then nudge false 1 0 false else nudge neg m e false)
  else
    let fx := m * 2 ^ (e + (fxQ : Int)).toNat
    let n := fx / fxHalfPi
    let r := fx % fxHalfPi
    let k := (if cosine then n + 1 else n) % 4
    let v := if k % 2 == 0 then fxSin r else fxCos r
    let v1 := if 2 ≤ k then -v else v
    fxVal (if neg && !cosine then -v1 else v1) fxQ

/-- The operations of major 0x20 (R174). -/
inductive FOp1 where
  | fsqrt | frcp | frsq | fexp2 | flog2 | fsin | fcos | fabs | fneg | ffloor | fceil | ftrunc | fround | fclass
deriving DecidableEq, Repr

/-- A value rounded to a pattern with extra flags. -/
def fin (f : Fmt) (rm : Rm) (v : FVal) (fl : Fl) : Nat × Fl :=
  let (r, g) := roundArith f rm v
  (r, fl ||| g)

/-- One element of a one-operand float operation on a value that is no NaN (R174). -/
def fop1V (op : FOp1) (f : Fmt) (rm : Rm) (w : Nat) (neg : Bool) (m : Nat) (e : Int) : Nat × Fl :=
  let zero := m == 0
  match op with
  | .fsqrt => if zero then (w, 0) else if neg then (f.nan, flNV) else fin f rm (sqrtV m e) 0
  | .frcp => if zero then (signBits f neg + f.infBits, flDZ) else fin f rm (divV neg 1 0 m e) 0
  | .frsq =>
    if zero then (signBits f neg + f.infBits, flDZ) else if neg then (f.nan, flNV) else fin f rm (rsqrtV m e) 0
  | .fexp2 => fin f rm (exp2V neg m e) 0
  | .flog2 =>
    if zero then (signBits f true + f.infBits, flDZ) else if neg then (f.nan, flNV) else fin f rm (log2V m e) 0
  | .fsin => if zero then (w, 0) else fin f rm (sinCosV false neg m e) 0
  | .fcos => if zero then fin f rm (.num false 1 0) 0 else fin f rm (sinCosV true neg m e) 0
  | .fabs => (w % 2 ^ (f.width - 1), 0)
  | .fneg => (w % 2 ^ (f.width - 1) + signBits f (!neg), 0)
  | .ffloor => integralF f .rdn w
  | .fceil => integralF f .rup w
  | .ftrunc => integralF f .rz w
  | .fround => integralF f rm w
  | .fclass => (classF f w, 0)

/-- The same operation on an infinity (R174). -/
def fop1Inf (op : FOp1) (f : Fmt) (w : Nat) (neg : Bool) : Nat × Fl :=
  match op with
  | .fsqrt => if neg then (f.nan, flNV) else (w, 0)
  | .frcp => (signBits f neg, 0)
  | .frsq => if neg then (f.nan, flNV) else (0, 0)
  | .fexp2 => if neg then (0, 0) else (w, 0)
  | .flog2 => if neg then (f.nan, flNV) else (w, 0)
  | .fsin => (f.nan, flNV)
  | .fcos => (f.nan, flNV)
  | .fabs => (w % 2 ^ (f.width - 1), 0)
  | .fneg => (w % 2 ^ (f.width - 1) + signBits f (!neg), 0)
  | .ffloor => (w, 0)
  | .fceil => (w, 0)
  | .ftrunc => (w, 0)
  | .fround => (w, 0)
  | .fclass => (classF f w, 0)

/-- One element of a one-operand float operation (R174): pattern and flags. -/
def fop1 (op : FOp1) (f : Fmt) (rm : Rm) (w : Nat) : Nat × Fl :=
  if op = .fclass then (classF f w, 0)
  else
    match unpackF f w with
    | .nan s => (f.nan, flIf s flNV)
    | .inf neg => fop1Inf op f w neg
    | .num neg m e => fop1V op f rm w neg m e

end Sys2Proof.Machine
end

