-- ==== Sys2Proof/Machine/Forms.lean ====
section
/-! DEFINITION. The shared forms of the arithmetic instructions: scalar, lane, predicate, float, conversion and
cross-lane (R161 to R178). Each takes the word, its halfwords, its operand specifiers and the operation. -/

namespace Sys2Proof.Machine

/-- Engines and vision that run every instruction; those that run lane instructions (R49). -/
def onAll : Nat := 0x3F
def onLanes : Nat := 0x28
def onTile : Nat := 0x1F

/-- A scalar instruction of two sources (R161). -/
def State.scalar2 (s : State) (word half d a b : Nat) (rule : TagRule) (f : DWord → DWord → DWord) :
    Host.Outcome State Fault Refusal :=
  s.issue { word := word, half := half, legal := onAll, ssrc := [b, a], sdst := [d], region := some rule }
    fun is s sv _ => done (s.sput is.key d (f (sval sv 1) (sval sv 0)))

/-- A scalar instruction that also reads its destination (R159, R161): the destination's value comes last. -/
def State.scalar3 (s : State) (word half d a b : Nat) (f : DWord → DWord → DWord → DWord) :
    Host.Outcome State Fault Refusal :=
  s.issue { word := word, half := half, legal := onAll, ssrc := [b, a, d], sdst := [d], sread := [d],
            region := some .pin }
    fun is s sv _ => done (s.sput is.key d (f (sval sv 1) (sval sv 0) (sval sv 2)))

/-- A scalar instruction of one source (R163, R165). -/
def State.scalar1 (s : State) (word half d a : Nat) (rule : TagRule) (f : DWord → DWord) :
    Host.Outcome State Fault Refusal :=
  s.issue { word := word, half := half, legal := onAll, ssrc := [a], sdst := [d], region := some rule }
    fun is s sv _ => done (s.sput is.key d (f (sval sv 0)))

/-- A scalar instruction with no register source (R164). -/
def State.scalar0 (s : State) (word half d : Nat) (v : DWord) : Host.Outcome State Fault Refusal :=
  s.issue { word := word, half := half, legal := onAll, sdst := [d], region := some .pin }
    fun is s _ _ => done (s.sput is.key d v)

/-- lsi: the destination shifted and a constant inserted (R164). -/
def State.scalarInsert (s : State) (word d : Nat) (f : DWord → DWord) : Host.Outcome State Fault Refusal :=
  s.issue { word := word, legal := onAll, ssrc := [d], sdst := [d], sread := [d], region := some .pin }
    fun is s sv _ => done (s.sput is.key d (f (sval sv 0)))

/-- Whether a lane destination that is also read is a ring-stream register (R159). -/
def laneReadBad (d : Nat) : Bool := d == 0x3A || d == 0x3B

/-- A lane instruction of two sources (R167). -/
def State.lane2 (s : State) (word half d a b : Nat) (rule : TagRule) (f : Word → Word → Word) :
    Host.Outcome State Fault Refusal :=
  s.issue { word := word, half := half, legal := onLanes, lsrc := [b, a], ldst := [d], region := some rule }
    fun is s _ lv => done (s.lput is d (is.lanes.map fun l => (l, f (lval lv 1 l) (lval lv 0 l))))

/-- A lane instruction that also reads its destination (R159, R167). -/
def State.lane3 (s : State) (word half d a b : Nat) (f : Word → Word → Word → Word) :
    Host.Outcome State Fault Refusal :=
  s.issue { word := word, half := half, legal := onLanes, lsrc := [b, a, d], ldst := [d], bad := laneReadBad d,
            region := some .pin }
    fun is s _ lv => done (s.lput is d (is.lanes.map fun l => (l, f (lval lv 1 l) (lval lv 0 l) (lval lv 2 l))))

/-- A lane instruction of one source (R167, R168). -/
def State.lane1 (s : State) (word half d a : Nat) (rule : TagRule) (f : Word → Word) :
    Host.Outcome State Fault Refusal :=
  s.issue { word := word, half := half, legal := onLanes, lsrc := [a], ldst := [d], region := some rule }
    fun is s _ lv => done (s.lput is d (is.lanes.map fun l => (l, f (lval lv 0 l))))

/-- A comparison into a predicate (R169). -/
def State.laneCmp (s : State) (word p a b : Nat) (op : Nat) (f : Word → Word → Bool) :
    Host.Outcome State Fault Refusal :=
  s.issue { word := word, legal := onLanes, lsrc := [b, a], pdst := [p], region := some (.cmp op) }
    fun is s _ lv => done (s.pput is p (is.lanes.map fun l => (l, f (lval lv 1 l) (lval lv 0 l))))

/-- Predicate logic (R170). -/
def State.pred2 (s : State) (word p a b : Nat) (f : Bool → Bool → Bool) : Host.Outcome State Fault Refusal :=
  s.issue { word := word, legal := onLanes, pdst := [p], region := some .pin }
    fun is s _ _ => done (s.pput is p (is.lanes.map fun l => (l, f (s.pget is.key a l) (s.pget is.key b l))))

/-! ### Floating point -/

/-- Rounding mode that a lane uses (R26, R144). -/
def State.laneRm (s : State) (is : Iss) (lane : Nat) : Rm := s.rmOf_ is.key (if isWave is.key then lane else 0)

/-- Lane results with flags (R27, R160). -/
def State.fput (s : State) (is : Iss) (d : Nat) (rs : List (Nat × Word × Fl)) : State :=
  (s.orLaneFlags is.key (rs.map fun r => (r.1, r.2.2))).lput is d (rs.map fun r => (r.1, r.2.1))

/-- A float instruction of two sources (R172). -/
def State.float2 (s : State) (word half d a b f : Nat) (op : FOp2) : Host.Outcome State Fault Refusal :=
  s.issue { word := word, half := half, legal := onLanes, lsrc := [b, a], ldst := [d] }
    fun is s _ lv => done (s.fput is d (is.lanes.map fun l =>
      (l, perElem2 (fmtOfCode f) (fop2 op (fmtOfCode f) (s.laneRm is l)) (lval lv 1 l) (lval lv 0 l))))

/-- ffma (R172). -/
def State.float3 (s : State) (word half d a b f : Nat) : Host.Outcome State Fault Refusal :=
  s.issue { word := word, half := half, legal := onLanes, lsrc := [b, a, d], ldst := [d], bad := laneReadBad d }
    fun is s _ lv => done (s.fput is d (is.lanes.map fun l =>
      (l, perElem3 (fmtOfCode f) (ffmaF (fmtOfCode f) (s.laneRm is l)) (lval lv 1 l) (lval lv 0 l) (lval lv 2 l))))

/-- A float instruction of one source (R174). -/
def State.float1 (s : State) (word half d a f : Nat) (op : FOp1) : Host.Outcome State Fault Refusal :=
  s.issue { word := word, half := half, legal := onLanes, lsrc := [a], ldst := [d] }
    fun is s _ lv => done (s.fput is d (is.lanes.map fun l =>
      (l, perElem1 (fmtOfCode f) (fop1 op (fmtOfCode f) (s.laneRm is l)) (lval lv 0 l))))

/-- fcmp (R173). -/
def State.floatCmp (s : State) (word cond p a b f : Nat) : Host.Outcome State Fault Refusal :=
  s.issue { word := word, legal := onLanes, lsrc := [b, a], pdst := [p] }
    fun is s _ lv =>
      let rs := is.lanes.map fun l => (l, fcmpLane cond (fmtOfCode f) (lval lv 1 l) (lval lv 0 l))
      done ((s.orLaneFlags is.key (rs.map fun r => (r.1, r.2.2))).pput is p (rs.map fun r => (r.1, r.2.1)))

/-- cvt (R32, R33, R175). A pair result retires its low half, then its high half. -/
def State.convert (s : State) (word d a n mode : Nat) : Host.Outcome State Fault Refusal :=
  let wide := cvtSrcPair n
  let out2 := cvtDstPair n
  let into := cvtInto n
  s.issue { word := word, legal := onLanes,
            lsrc := (if wide then [pairHi a, a] else [a]) ++ (if into then [d] else []),
            ldst := if out2 then [d, pairHi d] else [d],
            pairs := (if wide then [a] else []) ++ (if out2 then [d] else []),
            bad := into && laneReadBad d }
    fun is s _ lv =>
      let k := if wide then 2 else 1
      let rs := is.lanes.map fun l =>
        let x := if wide then (lval lv 1 l).toNat + 2 ^ 32 * (lval lv 0 l).toNat else (lval lv 0 l).toNat
        (l, cvtLane n (rmOf mode) x (if into then lval lv k l else 0))
      let s1 := s.orLaneFlags is.key (rs.map fun r => (r.1, r.2.2))
      let lo := rs.map fun r => (r.1, BitVec.ofNat 32 r.2.1)
      let hi := rs.map fun r => (r.1, BitVec.ofNat 32 (r.2.1 / 2 ^ 32))
      done (if out2 then (s1.lput is d lo).lput is (pairHi d) hi else s1.lput is d lo)

/-! ### Crossing lanes -/

/-- Source lane of a cross-lane read: 0 get, 1 sh, 2 rot, 3 xor (R176); `none` where it is out of range. -/
def crossSource (form lanes l : Nat) (c : Int) : Option Nat :=
  let src : Int :=
    if form == 0 then c
    else if form == 1 then (l : Int) - c
    else if form == 2 then ((l : Int) - c) % (lanes : Int)
    else (Nat.xor l c.toNat : Nat)
  if src < 0 || (lanes : Int) ≤ src then none else some src.toNat

/-- Whether a lane of a wave supplies its register: its thread has not exited (R140, R176). -/
def State.laneLive (s : State) (key lane : Nat) : Bool := !isWave key || (s.ctlAt key lane).life != .exited

/-- The slots that a register of a lane names are pinned in the region of that lane's thread (R334). -/
def State.pinLane (s : State) (key lane spec : Nat) : State :=
  match (s.ctlAt key lane).region with
  | none => s
  | some r => s.modCtl key lane fun c => { c with region := some (r.pinTags [laneTag spec]) }

/-- A lane register written without a tag loses the one it had (R334). -/
def State.untag (s : State) (key lane spec : Nat) : State :=
  match (s.ctlAt key lane).region with
  | none => s
  | some r => s.modCtl key lane fun c => { c with region := some (r.setLaneTag spec none) }

/-- What a cross-lane read does to the open regions of a wave (R334): the slots it reads are pinned, and its results, in
`d` of some lanes, are untagged. -/
def State.pinLanes (s : State) (key : Nat) (pins : List (Nat × Nat)) (d : Nat) (lanes : List Nat) : State :=
  if isWave key then lanes.foldl (fun s l => s.untag key l d) (pins.foldl (fun s p => s.pinLane key p.1 p.2) s) else s

/-- A cross-lane read; `imm` is the amount of the immediate forms (R176). -/
def State.cross (s : State) (word d a : Nat) (b : Option Nat) (imm : Int) (form : Nat) :
    Host.Outcome State Fault Refusal :=
  s.issue { word := word, legal := onLanes, lsrc := b.toList ++ [a], lcross := [a],
            ldst := [d], pdst := [7], region := some .memory }
    fun is s0 _ lv =>
      let k := match b with | some _ => 1 | none => 0
      let n := laneCount is.key
      let amount (l : Nat) : Int :=
        match b with
        | none => imm
        | some _ => if form == 1 then (lval lv 0 l).toInt else ((lval lv 0 l).toNat : Int)
      let src (l : Nat) : Option Nat := crossSource form n l (amount l)
      let spoilt (l : Nat) : Bool :=
        isWave is.key && match src l with | some x => a < 0x3A && s0.poisonLane.has (laneKey is.key a x) | none => false
      let good := is.lanes.filter fun l => !spoilt l
      -- What a lane reads is pinned where it stands: the source in the lane read, the amount in its own.
      let pins := good.flatMap fun l =>
        (match src l with | some x => [(x, a)] | none => []) ++ (match b with | some y => [(l, y)] | none => [])
      let s := s0.pinLanes is.key pins d good
      let rs := good.map fun l =>
        match src l with
        | none => (l, (0 : Word), false)
        | some x => (l, if s.laneLive is.key x then lval lv k x else 0, true)
      let s1 := s.pput is 7 (rs.map fun r => (r.1, r.2.2))
      { st := s1.lput is d (rs.map fun r => (r.1, r.2.1)),
        faults := (is.lanes.filter spoilt).map (·, fltOf 0x0B 0) }

/-- A scalar made from a predicate's active bits (R177). -/
def State.predScalar (s : State) (word d p : Nat) (f : List (Nat × Bool) → DWord) :
    Host.Outcome State Fault Refusal :=
  s.issue { word := word, legal := onLanes, sdst := [d], region := some .pin }
    fun is s _ _ => done (s.sput is.key d (f (is.lanes.map fun l => (l, s.pget is.key p l))))

/-- A scalar made from a lane register's active elements (R177). -/
def State.laneScalar (s : State) (word d a : Nat) (f : List Word → DWord) : Host.Outcome State Fault Refusal :=
  s.issue { word := word, legal := onLanes, lsrc := [a], sdst := [d], region := some .pin }
    fun is s _ lv => done (s.sput is.key d (f (is.lanes.map fun l => lval lv 0 l)))

/-- rfal: a scalar made from the lowest active lane, which alone it reads (R177, R334). -/
def State.firstLane (s : State) (word d a : Nat) : Host.Outcome State Fault Refusal :=
  s.issue { word := word, legal := onLanes, lsrc := [a], sdst := [d], region := some .memory }
    fun is s _ lv =>
      let l0 := is.lanes.headD 0
      done ((if isWave is.key then s.pinLane is.key l0 a else s).sput is.key d ((lval lv 0 l0).setWidth 64))

/-- Bits of a ballot (R177). -/
def ballotBits (ps : List (Nat × Bool)) : DWord :=
  BitVec.ofNat 64 (ps.foldl (fun acc p => acc + b2n p.2 * 2 ^ p.1) 0)

/-- Number of true bits. -/
def countTrue (ps : List (Nat × Bool)) : Nat := (ps.filter (·.2)).length

/-- The signed sum of lane values (R177). -/
def sumLanes (ws : List Word) : DWord := dword (ws.foldl (fun acc w => acc + w.toInt) 0)

/-- The signed least, or greatest, of lane values (R177). -/
def leastLane : List Word → Word
  | [] => 0
  | w :: ws => ws.foldl minS w
def greatestLane : List Word → Word
  | [] => 0
  | w :: ws => ws.foldl maxS w

/-- movs: a scalar's low half to every active lane (R177). -/
def State.scalarToLanes (s : State) (word d a : Nat) : Host.Outcome State Fault Refusal :=
  s.issue { word := word, legal := onLanes, ssrc := [a], ldst := [d], region := some .pin }
    fun is s sv _ => done (s.lput is d (is.lanes.map fun l => (l, (sval sv 0).setWidth 32)))

/-- laneid (R177). -/
def State.laneNumber (s : State) (word d : Nat) : Host.Outcome State Fault Refusal :=
  s.issue { word := word, legal := onLanes, ldst := [d], region := some .pin }
    fun is s _ _ => done (s.lput is d (is.lanes.map fun l => (l, BitVec.ofNat 32 l)))

/-- The ordered FP32 sum of R178 and its flags. -/
def fsumLanes (rm : Rm) : List Word → Nat × Fl
  | [] => (0, 0)
  | w :: ws =>
    let acc := ws.foldl (fun acc x =>
      let r := fop2 .fadd .fp32 rm acc.1 x.toNat
      (r.1, acc.2 ||| r.2)) (w.toNat, (0 : Fl))
    let v := unpackF .fp32 acc.1
    if v.isNan then (Fmt.nan .fp32, acc.2 ||| sigFlag v) else acc

/-- fredadd (R178). -/
def State.floatSum (s : State) (word d a : Nat) : Host.Outcome State Fault Refusal :=
  s.issue { word := word, legal := onLanes, lsrc := [a], sdst := [d] }
    fun is s _ lv =>
      let l0 := is.threads.headD 0
      let r := fsumLanes (s.rmOf_ is.key l0) (is.lanes.map fun l => lval lv 0 l)
      done ((s.orFlags is.key l0 r.2).sput is.key d (BitVec.ofNat 64 r.1))

end Sys2Proof.Machine
end

