-- ==== Sys2Proof/Machine/System.lean ====
section
/-! DEFINITION. Shared operations of the control-flow and system instructions: branches (R87 to R90), special registers
(R56, R96), hold regions (R95), halt (R93), trap and eret (R378, R379). -/

namespace Sys2Proof.Machine

/-- Target of a format-B branch of a thread (R46, R87). -/
def State.branchTarget (s : State) (key lane : Nat) (off : BitVec 14) : DWord :=
  (s.ctlAt key lane).pc + BitVec.ofInt 64 (2 * off.toInt)

/-- A branch taken by the threads for which a condition holds (R87, R90). -/
def State.branch (s : State) (word : Nat) (off : BitVec 14) (ssrc : List Nat) (legal : Nat) (rule : TagRule)
    (cond : Iss → State → List DWord → Nat → Bool) : Host.Outcome State Fault Refusal :=
  s.issue { word := word, legal := legal, ssrc := ssrc, region := some rule }
    fun is s sv _ =>
      { st := s,
        jumps := (is.threads.filter (cond is s sv)).map fun l => (l, s.branchTarget is.key l off) }

/-- Whether some lane of a predicate is 1 for the branches of R87. -/
def State.predTaken (s : State) (is : Iss) (p lane : Nat) : Bool :=
  if isWave is.key then s.pget is.key p lane else (upTo 64).any fun l => s.pget is.key p l

/-- A jump to the address in a scalar (R89): reason 8 for an odd target. -/
def State.jumpTo (s : State) (word a : Nat) : Host.Outcome State Fault Refusal :=
  s.issue { word := word, legal := onAll, ssrc := [a], region := some .pin }
    fun is s sv _ =>
      let t := sval sv 0
      if bit t 0 then { st := s, faults := is.threads.map (·, fltOf 0x04 (framingInfo word 8)) }
      else { st := s, jumps := is.threads.map (·, t) }

/-! ### Special registers (R56, R96) -/

/-- Where a special register exists: engines and vision, as `Op.legal` (R56). -/
def specialOn (n : Nat) : Nat :=
  if n ≤ 2 || n == 4 || n == 5 || n == 0x19 || n == 0x1A || n == 0x1C || n == 0x1D then onAll
  else if n == 3 || (8 ≤ n && n < 16) || n == 0x18 then onTile
  else if 0x10 ≤ n && n ≤ 0x14 then 0x20
  else if n == 0x15 then onLanes
  else if n == 0x1B then 0x21
  else 0

/-- Trip counts of a job's loop levels, and each level's place in the gang (R117): the spatial levels are a mixed-radix
reading of the member's index, the first most significant. -/
def Slot.levelTrip (x : Slot) (i : Nat) : Nat := (x.levels.map (·.trips)).getD i 1

/-- Product of the spatial trip counts after a level. -/
def Slot.radixAfter (x : Slot) (i : Nat) : Nat :=
  ((x.levels.drop (i + 1)).filter (·.kind != 0)).foldl (fun n l => n * l.trips) 1

/-- Coordinate of a gang member in a level (R117). -/
def Slot.coord (x : Slot) (core i : Nat) : Nat :=
  match x.levels[i]? with
  | none => 0
  | some l => if l.kind == 0 then 0 else (x.cores.idxOf core) / x.radixAfter i % l.trips

/-- Value of a special register for a stream or thread (R56). -/
def State.special (s : State) (key lane n : Nat) : DWord :=
  let c := s.ctlAt key lane
  let x := s.slotAt c.job
  let g := s.groupOf key
  let nat (v : Nat) : DWord := BitVec.ofNat 64 v
  if n == 0 then nat (laneCount key)
  else if n == 1 then nat (coreKind key)
  else if n == 2 then nat (keyCore key)
  else if n == 3 then nat (keyCtx key)
  else if n == 4 then nat c.job
  else if n == 5 then nat (cardPart x.card)
  else if n < 0x0C then nat (x.coord (keyCore key) (n - 8))
  else if n < 0x10 then nat (x.levelTrip (n - 12))
  else if n == 0x10 then nat (((s.waves.find key).map (·.num)).getD 0)
  else if n == 0x11 then nat ((g.map (·.x)).getD 0)
  else if n == 0x12 then nat ((g.map (·.y)).getD 0)
  else if n == 0x13 then nat ((g.map (·.z)).getD 0)
  else if n == 0x14 then nat (s.tidOf key lane)
  else if n == 0x15 then nat (if isWave key then lane else 0)
  else if n == 0x18 then c.sbase
  else if n == 0x19 then c.fmode
  else if n == 0x1A then c.fflags
  else if n == 0x1B then c.arcause
  else if n == 0x1C then c.trapcause
  else c.trapinfo

/-- srd (R96). -/
def State.readSpecial (s : State) (word d r : Nat) : Host.Outcome State Fault Refusal :=
  s.issue { word := word, legal := specialOn r, sdst := [d], ill := specialOn r == 0, region := some .pin }
    fun is s _ _ => done (s.sput is.key d (s.special is.key (is.threads.headD 0) r))

/-- The special registers that swr writes. -/
def Ctl.writeSpecial (c : Ctl) (r : Nat) (v : DWord) : Ctl :=
  if r == 0x18 then { c with sbase := v }
  else if r == 0x19 then { c with fmode := fmodeMask v }
  else { c with fflags := fflagsMask v }

/-- swr (R96): a register that is read-only or does not exist where the word runs is an illegal instruction (R56). -/
def State.writeSpecial (s : State) (word r a : Nat) : Host.Outcome State Fault Refusal :=
  let ok := r == 0x18 || r == 0x19 || r == 0x1A
  s.issue { word := word, legal := onAll, ssrc := [a], ill := !ok, illOn := if r == 0x18 then 0x20 else 0 }
    fun is s sv _ =>
      done (is.threads.foldl (fun s l => s.modCtl is.key l fun c => c.writeSpecial r (sval sv 0)) s)

/-- A clock read into a scalar (R100). -/
def State.readClock (s : State) (word d : Nat) (v : State → DWord) : Host.Outcome State Fault Refusal :=
  s.issue { word := word, legal := onAll, sdst := [d] } fun is s _ _ => done (s.sput is.key d (v s))

/-! ### Hold, halt, trap, eret -/

/-- halt (R93). -/
def Ctl.halt (c : Ctl) : Ctl := { c with life := .halted, holdEnd := none, armed := none }

/-- What was held while a handler ran is delivered at the first boundary after it (R377). -/
def Owed.atBoundary (o : Owed) : Owed := { o with deferred := o.deferred.map fun d => { d with atDelivery := false } }

/-- The return of eret through a trap record (R379): the control state after it, or the block-framing reason and word. The
header word at HDR is given. -/
def Ctl.returnThrough (c : Ctl) (t : TrapRec) (w : Nat) : Except (Nat × Nat) Ctl :=
  let passes := bits t.passes 0 12
  match headerDefect w with
  | some r => .error (r, w)
  | none =>
    let len := bitsN w 18 10
    let rpt := bitsN w 6 12
    let c1 := { c with handling := false, yBit := bitN w 4, sw := 0, loopBuf := [], amod := none, owed := c.owed.atBoundary }
    if t.ret == t.hdr then
      if passes != 0 then .error (1, w)
      else .ok { c1 with pc := t.hdr, hdr := t.hdr, atHeader := true, passes := 0, len := 0, rpt := 0, yBit := c.yBit,
                         sw := if c.yBit then 2 else 1 }
    else
      let off := t.ret.toNat - t.hdr.toNat
      if t.ret.toNat < t.hdr.toNat + 4 || 4 + 2 * len < off || rpt < passes then .error (1, w)
      else
        let c2 := { c1 with hdr := t.hdr, len := len, rpt := rpt }
        if off == 4 + 2 * len then
          if passes == 0 then .ok { c2 with pc := t.ret, atHeader := true, passes := 0 }
          else .ok { c2 with pc := t.hdr + 4, atHeader := false, passes := passes - 1 }
        else .ok { c2 with pc := t.ret, atHeader := false, passes := passes }

/-- eret for one stream or thread: the state after it, or its fault (R372, R379). -/
def State.eretThread (s : State) (word key lane : Nat) : Except Flt State :=
  match s.recordPoison key with
  | some a => .error (fltOf 0x0B a.toNat)
  | none =>
    let t := s.trapRec key lane
    if bit t.hdr 0 || bit t.ret 0 then .error (fltOf 0x04 (framingInfo word 8))
    else
      match s.fetchHeader key lane t.hdr with
      | .error f => .error f
      | .ok (s1, w) =>
        match (s1.ctlAt key lane).returnThrough t w with
        | .error (r, x) => .error (fltOf 0x04 (framingInfo x r))
        | .ok c => .ok (s1.setCtl key lane c)

/-- Several threads' effects in lane order: each keeps its state or takes its fault (R146). -/
def State.perThread (s : State) (threads : List Nat) (f : State → Nat → Except Flt State) :
    State × List (Nat × Flt) :=
  threads.foldl (fun acc l =>
    match f acc.1 l with
    | .ok s1 => (s1, acc.2)
    | .error e => (acc.1, acc.2 ++ [(l, e)])) (s, [])

/-- eret (R379). -/
def State.eret (s : State) (word : Nat) : Host.Outcome State Fault Refusal :=
  s.issue { word := word, legal := onAll, inHandler := true } fun is s _ _ =>
    let r := s.perThread is.threads fun s l => s.eretThread word is.key l
    { st := r.1, faults := r.2, held := is.threads }

/-- Threads exit, and with the last of them the wave (R139, R156). -/
def State.exitThreads (s : State) (key : Nat) (threads : List Nat) : State :=
  (threads.foldl (fun s l => s.exitThread key l) s).endWave key

/-- A sillage record of prof for each executing thread (R133). -/
def State.profile (s : State) (key : Nat) (threads : List Nat) (k : Nat) (v : DWord) : State :=
  threads.foldl (fun s l => s.sillage key l (0x40 + k) v.toNat s.ns false) s

end Sys2Proof.Machine
end

