-- ==== Sys2Proof/Machine/Escalate.lean ====
section
/-! DEFINITION. What the supervisor does about an escalated stream or thread, and the freezing of cores (R102, R380, R381,
R384). -/

namespace Sys2Proof.Machine

/-! ### Escalated streams and threads (R380, R381) -/

/-- The escalated stream or thread that a command names: by slot, core, kind and thread number. -/
def State.escalated (s : State) (v : DWord) : Option (Nat × Nat) :=
  let slot := bits v 0 8
  let core := bits v 8 8
  let kind := bits v 16 4
  let tid := bits v 20 10
  let x := s.slotAt slot
  let bad (key lane : Nat) : Bool := (s.ctlAt key lane).life == .escalated && (s.ctlAt key lane).job == slot
  if x.state != 3 then none
  else if kind == 8 then
    ((s.jobWaves slot).filter fun k => keyCore k == core).findSome? fun k =>
      ((upTo 32).find? fun l => bad k l && s.tidOf k l == tid).map fun l => (k, l)
  else
    let key := streamKey core (cardCtx x.card) (kind - 1)
    if 1 ≤ kind && kind ≤ 5 && core < 64 && bad key 0 then some (key, 0) else none

/-- The record of an escalated stream fails a check of R379: it stays as it is, and a new escalation is written. -/
def State.escalateAgain (s : State) (key lane word reason : Nat) : State :=
  let c := s.ctlAt key lane
  let t := s.trapRec key lane
  let again := s.escalate key lane 0x04 (BitVec.ofNat 64 (framingInfo word reason)) t.iaddr 0 t.cause
  again.setCtl key lane c

/-- The eret of an escalated stream's or thread's record as it now stands. The word in %trapinfo of the new escalation is 0
where none was read: a record with an odd address, a header that cannot be fetched, a poisoned record (log 25). -/
def State.resumeEscalated (s : State) (key lane : Nat) : State :=
  let t := s.trapRec key lane
  if (s.recordPoison key).isSome then s.escalateAgain key lane 0 1
  else if bit t.hdr 0 || bit t.ret 0 then s.escalateAgain key lane 0 8
  else
    match s.fetchHeader key lane t.hdr with
    | .error _ => s.escalateAgain key lane 0 1
    | .ok (s1, w) =>
      match (s1.ctlAt key lane).returnThrough t w with
      | .error (r, x) => s1.escalateAgain key lane x r
      | .ok c => s1.setCtl key lane { c with life := .live, waiting := none, stall := [] }

/-- An escalated stream ends as by rdv, once everything it issued has completed; a thread as by exit. -/
def State.endEscalated (s : State) (key lane : Nat) : State :=
  if isWave key then s.exitThreads key [lane]
  else
    let s1 := s.modCtl key 0 fun c =>
      { c with life := .live, waiting := some .rdv, waitG := 0, poppedT := [], poppedQ := [], stall := [], retire := none }
    s1.resumeWait key 0

/-- A command written to esc_cmd: ACTION 0 resumes, 1 ends, the others are ignored (R381). -/
def State.escCommand (s : State) (value : DWord) : State :=
  match s.escalated value with
  | some (key, lane) =>
    if bits value 30 2 == 0 then s.resumeEscalated key lane
    else if bits value 30 2 == 1 then s.endEscalated key lane
    else s
  | none => s

/-- ESC_CMD_RESUME (R381): a command of ACTION 0. -/
def execEscCmdResume (value : BitVec 64) (s : State) : Host.Outcome State Fault Refusal :=
  .next (if bits value 30 2 == 0 then s.escCommand value else s)

/-- ESC_CMD_END (R381): a command of ACTION 1. -/
def execEscCmdEnd (value : BitVec 64) (s : State) : Host.Outcome State Fault Refusal :=
  .next (if bits value 30 2 == 1 then s.escCommand value else s)

/-! ### Freezing (R381, R384) -/

/-- Streams and threads of a core that have control state: keys and lanes. -/
def State.coreAgents (s : State) (core : Nat) : List (Nat × Nat) :=
  (s.ctl.filter fun e => keyCore (e.1 / 32) == core && e.2.life != .off).map fun e => (e.1 / 32, e.1 % 32)

/-- Whether a stream or thread may be stopped by a freeze: it stands at a boundary (R381), which the unit of an amod that
still lacks its instruction is before (R55). One stopped for an eviction has stopped already. -/
def Ctl.freezable (c : Ctl) : Bool := c.late.isNone && c.stopAt.isNone

/-- The agents of a core at a boundary stopped for a freeze. -/
def State.freezeCore (s : State) (core : Nat) : State :=
  (s.coreAgents core).foldl (fun s a =>
    let c := s.ctlAt a.1 a.2
    if c.freezable && c.frozenAt.isNone then s.setCtl a.1 a.2 { c.wholeUnit with frozenAt := some s.cyc } else s) s

/-- A frozen core goes on: %sbase and an armed target of its tile streams move by the time that they stood (R102). -/
def State.thawCore (s : State) (core : Nat) : State :=
  (s.coreAgents core).foldl (fun s a =>
    let c := s.ctlAt a.1 a.2
    match c.frozenAt with
    | none => s
    | some t =>
      let d := BitVec.ofNat 64 (s.cyc - t)
      let tile := !isWave a.1
      s.setCtl a.1 a.2 { c with frozenAt := none, sbase := if tile then c.sbase + d else c.sbase,
                                armed := c.armed.map (· + d) }) s

/-- A freeze register written: `first` is the core of bit 0 and `frozen` the register that shows completed freezes. -/
def State.setFreeze (s : State) (reg frozen first n : Nat) (v : DWord) : State :=
  let old := s.creg_ reg
  let new := BitVec.ofNat 64 (bits v 0 n)
  let s1 := s.setCreg reg new
  (upTo n).foldl (fun s k =>
    if bit new k then (if bit old k then s else s.freezeCore (first + k))
    else if bit old k then (s.setCreg frozen (setBits (s.creg_ frozen) k 1 0)).thawCore (first + k)
    else s) s1

/-- ESC_FREEZE_TILE (R381). -/
def execEscFreezeTile (value : BitVec 64) (s : State) : Host.Outcome State Fault Refusal :=
  .next (s.setFreeze (escBase + 0x28) (escBase + 0x38) 0 64 value)

/-- ESC_FREEZE_VIS (R381). -/
def execEscFreezeVis (value : BitVec 64) (s : State) : Host.Outcome State Fault Refusal :=
  .next (s.setFreeze (escBase + 0x30) (escBase + 0x40) 64 24 value)

/-- Whether a core has been told to freeze. -/
def State.freezing (s : State) (core : Nat) : Bool :=
  if core < 64 then bit (s.creg_ (escBase + 0x28)) core else bit (s.creg_ (escBase + 0x30)) (core - 64)

/-- FREEZE_COMPLETE (R381, R384): every engine or wave of the core stands at a boundary, and the matrix engine's readouts
have been performed. -/
def execFreezeComplete (core : Nat) (s : State) : Host.Outcome State Fault Refusal :=
  if 87 < core || !s.freezing core || s.coreFrozen core then .next s
  else
    let s1 := (upTo 4).foldl (fun s ctx => if core < 64 then s.finishReadouts (streamKey core ctx 2) else s) (s.freezeCore core)
    if (s1.coreAgents core).all fun a => (s1.ctlAt a.1 a.2).frozenAt.isSome || (s1.ctlAt a.1 a.2).stopAt.isSome then
      .next (if core < 64 then s1.setCreg (escBase + 0x38) (setBits (s1.creg_ (escBase + 0x38)) core 1 1)
        else s1.setCreg (escBase + 0x40) (setBits (s1.creg_ (escBase + 0x40)) (core - 64) 1 1))
    else .next s1

end Sys2Proof.Machine
end

