-- ==== Sys2Proof/Machine/Ingest.lean ====
section
/-! DEFINITION. The ingest engine: its streams, buffers and descriptors (R296, R313, R395, R396). An event whose time has not
come leaves the state as it is (log 1). -/

namespace Sys2Proof.Machine

/-- Register `k` (a byte offset) of stream entry `n`. -/
def ingReg (n k : Nat) : Nat := ingBase + 64 * n + k

/-- Fields of a stream's configuration (R396). -/
def State.ingCtl (s : State) (n : Nat) : DWord := s.creg_ (ingReg n 0)
def State.ingPart (s : State) (n : Nat) : Nat := bits (s.ingCtl n) 24 6
def State.ingCount (s : State) (n : Nat) : Nat := bits (s.creg_ (ingReg n 0x18)) 32 16
def State.ingSize (s : State) (n : Nat) : Nat := bits (s.creg_ (ingReg n 0x18)) 0 32

/-- Whether every field of a stream is in range (R396). -/
def State.ingConfigOk (s : State) (n : Nat) : Bool :=
  let c := s.ingCtl n
  let source := bits c 1 2
  let port := bits c 4 4
  let count := s.ingCount n
  bits c 30 34 == 0 && bits c 22 2 == 0 && bits c 12 4 == 0 && !bit c 3 && (source == 1 || source == 2) &&
  (if source == 1 then port < 4 else port < 8 && [0x2A, 0x2B, 0x2C, 0x1E].contains (bits c 16 6)) &&
  bits (s.creg_ (ingReg n 0x10)) 0 12 == 0 && bits (s.creg_ (ingReg n 0x20)) 0 5 == 0 &&
  bits (s.creg_ (ingReg n 0x18)) 48 16 == 0 && 1 ≤ count && count ≤ 4096 && popN 16 count == 1 &&
  s.ingSize n != 0 && s.ingSize n % 64 == 0

/-- ing_stat written: RUNNING and CFGERR. -/
def State.setIngStat (s : State) (n : Nat) (run err : Bool) : State :=
  s.setCreg (ingReg n 0x38) (BitVec.ofNat 64 (b2n run + 2 * b2n err))

/-- INGEST_STREAM_ENABLE (R396): a stream whose EN is set and that is neither running nor stopped by an error. -/
def execIngestStreamEnable (stream : Nat) (s : State) : Host.Outcome State Fault Refusal :=
  if 63 < stream || !bit (s.ingCtl stream) 0 || s.creg_ (ingReg stream 0x38) != 0 then .next s
  else if bits (s.ingCtl stream) 1 2 == 0 then .next s
  else if !s.ingConfigOk stream then .next (s.setIngStat stream false true)
  else
    let t := s.creg_ (ingReg stream 0x30)
    .next ({ (s.setCreg (ingReg stream 0x30) (setBits t 32 32 0)) with
      ingestDropped := s.ingestDropped.del stream }.setIngStat stream true false)

/-- Whether a running stream accepts a frame (R396). -/
def State.ingAccepts (s : State) (n : Nat) (f : Frame) : Bool :=
  let c := s.ingCtl n
  bit c 0 && bit (s.creg_ (ingReg n 0x38)) 0 && bits c 1 2 == f.source && bits c 4 4 == f.port &&
  (if f.source == 1 then (s.creg_ (ingReg n 8)).toNat == f.sid else bits c 8 4 == f.vc && bits c 16 6 == f.dt)

/-- A stash write of bytes of one sector at a physical address: it allocates in the partition's ways where the page permits
it, else it goes through to external memory; every cached copy is invalidated (R296, R305, R313). -/
def State.stashAt (s : State) (part pa : Nat) (e : TlbEnt) (bs0 : List Byte) : State :=
  let mtype := bitsN e.bits 10 2
  let grain := bitsN e.bits 8 2
  let through := !bitN e.bits 12 || !s.mayAllocate part pa
  let s0 := (s.recallFor pa mtype grain).markStale none pa grain
  let (s1, bs) := if s.remote pa then s0.errInject pa bs0 else (s0, bs0)
  let whole := bs.length == 64 && pa % 64 == 0
  let s3 := if mtype == 0 && !through then (if whole then s1.markNew (pa / 64) false else s1).physWrite pa bs
    else (if whole then s1.cleanMem (pa / 64) else s1).extWrite pa bs
  s3.send { kind := .homeWrite, unit := unitOf grain pa, grain := grain, mtype := mtype, part := part, src := 31, dst := 31,
            addr := pa, len := bs.length, ep := epIngest, through := through }

/-- Stash writes of the parts of a byte range, in order, as a supervisor makes them (R351, R355). False where a translation or
permission fault or an aperture address stops them, with the parts before it written. -/
def State.stashParts (s : State) (part va : Nat) (bs : List Byte) : List (Nat × Nat) → State × Bool
  | [] => (s, true)
  | (a, n) :: rest =>
    if inAperture a then (s, false)
    else
      match s.translate part [] false .write a with
      | .error _ => (s.walkKept part [] a, false)
      | .ok (s1, e) =>
        State.stashParts (s1.stashAt part (e.ppage * 2 ^ e.lg + a % 2 ^ e.lg) e ((bs.drop (a - va)).take n)) part va bs rest

/-- Stash writes of bytes at virtual addresses of a partition, sector by sector. -/
def State.stash (s : State) (part va : Nat) (bs : List Byte) : State × Bool :=
  s.stashParts part va bs (sectorParts (bs.length / 64 + 2) va bs.length)

/-- A stream that meets a fault stops, and the supervisor is interrupted (R396). -/
def State.ingFails (s : State) (n : Nat) : State := (s.setIngStat n false true).sendMsi

/-- The descriptor of a frame (R396). -/
def State.descriptor (s : State) (n : Nat) (addr : Nat) (f : Frame) : List Byte × List Byte :=
  let size := s.ingSize n
  let dropped := minN (s.ingestDropped.get 0 n) 0xFFFF
  let status := 2 ^ 31 + b2n (decide (size < f.bytes.length)) * 2 ^ 30 + b2n f.bad * 2 ^ 29 + dropped
  (leBytes 8 addr ++ leBytes 4 (minN f.bytes.length size) ++ leBytes 4 f.seq ++ leBytes 8 f.capture, leBytes 4 status ++ leBytes 4 0)

/-- A frame taken by a stream: dropped without a free buffer, else written, described and announced (R396). -/
def State.takeFrame (s : State) (n : Nat) (f : Frame) : State :=
  if !s.ingConfigOk n then s.setIngStat n false true
  else
    let tail := s.creg_ (ingReg n 0x30)
    let prod := bits tail 0 32
    let cons := bits (s.creg_ (ingReg n 0x28)) 0 32
    if s.ingCount n ≤ (prod + 2 ^ 32 - cons) % 2 ^ 32 then
      { s.setCreg (ingReg n 0x30) (setBits tail 32 32 (bits tail 32 32 + 1)) with
        ingestDropped := s.ingestDropped.set 0 n (s.ingestDropped.get 0 n + 1) }
    else
      let k := prod % s.ingCount n
      let part := s.ingPart n
      let addr := (s.creg_ (ingReg n 0x10)).toNat + k * s.ingSize n
      let desc := (s.creg_ (ingReg n 0x20)).toNat + 32 * k
      let (front, back) := s.descriptor n addr f
      match s.stash part addr (f.bytes.take (s.ingSize n)) with
      | (s1, false) => s1.ingFails n
      | (s1, true) =>
        match s1.stash part desc front with
        | (s2, false) => s2.ingFails n
        | (s2, true) =>
          match s2.stash part (desc + 24) back with
          | (s3, false) => s3.ingFails n
          | (s3, true) =>
            { s3.setCreg (ingReg n 0x30) (setBits tail 0 32 (prod + 1)) with ingestDropped := s3.ingestDropped.del n }

/-- INGEST_FRAME (R296, R313, R396): a frame at a port goes to the stream that accepts it, or nowhere; a port in reset takes none
(R392). -/
def execIngestFrame (id : Nat) (s : State) : Host.Outcome State Fault Refusal :=
  match s.flights.find id with
  | some (.frame f) =>
    let s1 := s.land id
    .next (if s1.island.isolated.contains (4, if f.source == 1 then f.port else f.port + 4) then s1
      else match (upTo 64).find? fun n => s1.ingAccepts n f with
      | some n => s1.takeFrame n f
      | none => s1)
  | _ => .next s

end Sys2Proof.Machine
end

