-- ==== Sys2Proof/Machine/Protocol.lean ====
section
/-! DEFINITION. What each message of the coherence protocol does where it arrives (R301 to R324, R397, R401), and the home
steps of cache maintenance (R318). -/

namespace Sys2Proof.Machine

/-! ### At the home -/

/-- The sectors of a home access that leaves the package move at the peer's controllers (R220, R364). -/
def State.countLeaving (s : State) (m : Msg) : State :=
  if m.uncharged || s.failedLinks.contains (m.unit / 2 ^ 46) then s
  else (sectorParts 64 m.addr m.len).foldl (fun s p => s.countPeer m.part p.1) s

/-- The modified data of a unit that a Put takes to a peer package is a write there, which an armed injection alters (R397). -/
def State.alterPut (s : State) (m : Msg) : State :=
  if m.kind == .putS then s
  else
    let bs := (upTo (unitBytes m.grain)).map fun i => s.byteAt (m.unit + i)
    let (t, cs) := s.errInject m.unit bs
    if cs == bs then s else t.physWrite m.unit cs

/-- A message leaves the package over a Kolte port: what comes of it there is the peer's. A Put of the proxy waits until the
local copies are recalled, and the unit's lines leave the slice with it (R323). Over a link that has failed, a request is
answered at once, with poisoned data (R324). -/
def State.leavePackage (s : State) (id : Nat) (m : Msg) : State :=
  let isPut := m.kind == .putS || m.kind == .putM || m.kind == .putO
  let peer := if s.remote m.unit then m.unit / 2 ^ 46 else s.peerPackage m.dst
  let answer (k : MsgKind) : State :=
    (s.land id).sendOut { kind := k, unit := m.unit, grain := m.grain, part := m.part, slot := m.slot, src := 31, dst := m.src }
  if isPut && s.unitHeld m.unit m.grain then s
  else
    match (if isPut then s.dirFind m.unit m.grain else none) with
    | some _ =>
      s.homeBegin { kind := .backInv, unit := m.unit, grain := m.grain, mtype := 0, part := m.part, slot := m.slot, agent := 31,
                    addr := m.unit, len := 0, waiting := 0 }
    | none =>
      if isPut then
        if s.failedLinks.contains peer then (answer .putAck).dropLines m.unit (unitBytes m.grain)
        else ((s.land id).alterPut m).dropLines m.unit (unitBytes m.grain)
      else if s.remote m.unit && m.direct then (s.land id).countLeaving m
      else if s.remote m.unit && s.failedLinks.contains peer then
        match m.kind with
        | .getS => answer .data
        | .getM => answer .data
        | .upg => answer .grant
        | _ => s.land id
      else s.land id

/-- The bytes that a message of a peer package carries are performed, altered where an error injection is armed; data of a remote
home is what stands in its memory (R397). -/
def State.takeBytes (s : State) (m : Msg) : State :=
  if m.bytes == [] then s
  else if m.kind == .data then s.extWrite m.addr m.bytes
  else
    let (t, bs) := s.errInject m.addr m.bytes
    if m.cls == 0 && m.src == 31 || m.kind == .atomFar then t.placeStore none (.phys m.addr m.mtype m.grain m.part) bs
    else (t.markStale none m.addr m.grain).physWrite m.addr bs

/-- A Put at the home: it waits for a home operation on its unit, and migration never refuses it (R304, R315). -/
def State.putAtHome (s : State) (id : Nat) (m : Msg) : State :=
  if s.unitHeld m.unit m.grain || s.queuedBefore id m.unit m.grain then s.enqueue id m.unit
  else
    let owns := match s.dirFind m.unit m.grain with
      | some (_, e) => e.owner == some m.src && 2 ≤ e.state
      | none => false
    (((if owns then s.takeBytes m else s).servePut m).land id).dequeue id m.unit

/-- A home operation of a kind begun for a message (R305); on a unit of another package the proxy first obtains the state that
it needs (R323). -/
def State.startHome (s : State) (id : Nat) (m : Msg) (k : HomeKind) : State × Bool :=
  if s.remote m.unit && m.mtype == 0 && !m.through && !s.proxyHolds m then (s.proxyAsk m, false)
  else
    (s.homeBegin { kind := k, unit := m.unit, grain := m.grain, mtype := m.mtype, part := m.part, slot := m.slot,
                   agent := m.src, addr := m.addr, len := m.len, waiting := 0, through := m.through,
                   uncharged := m.uncharged, req := id, ep := m.ep, undo := m.undo }, true)

/-- A home write or a far atomic arrives (R305, R397): one that came from a peer package is performed now; this package's own
stand in memory already (log 5). -/
def State.writeArrives (s : State) (id : Nat) (m : Msg) (k : HomeKind) : State :=
  let s1 := if m.bytes == [] then s else (s.takeBytes m).setFlight id (.msg { m with bytes := [] })
  s1.atHome id { m with bytes := [] } fun t => t.startHome id m k

/-! ### At the caches (R302) -/

/-- A forward or Inv from a remote home at the proxy: a home operation over the local copies, which holds the unit until the
proxy has answered (R323). -/
def State.probeProxy (s : State) (id : Nat) (m : Msg) : State :=
  let defers := answerOf m.kind (m.req == 31) (s.cacheAt m.dst m.unit m.grain).st == .defer
  if s.unitHeld m.unit m.grain then s
  else if defers || (s.dirFind m.unit m.grain).isNone then s.answerProbe id
  else
    s.homeBegin { kind := if m.kind == .fwdGetS then .read else .backInv, unit := m.unit, grain := m.grain, mtype := 0,
                  part := m.part, slot := m.slot, agent := 31, addr := m.unit, len := 0, waiting := 0, probe := some id }

/-- What the proxy had deferred and does no longer arrives again (R302, R323). -/
def State.wakeProbes (s before : State) (m : Msg) : State :=
  if !s.toProxy m then s
  else
    let waits (t : State) : List Nat := (t.cacheAt m.dst m.unit m.grain).deferred
    ((waits before).filter fun i => !(waits s).contains i).foldl (fun s i =>
      match s.flights.find i with
      | some (.msg x) => s.probeProxy i x
      | _ => s) s

/-- A home-out message that probes a cache, in the order in which its slice sent it (R301). -/
def State.probe (s : State) (id : Nat) (m : Msg) : State :=
  if s.sentBefore id m then s
  else if s.toProxy m then s.probeProxy id m
  else (s.applyHomeOut id m).getD s

/-- A sector that reaches a vision core's cache from a slice counts for its kernel (R138). -/
def State.countSlice (s : State) (m : Msg) : State :=
  match m.slot with
  | some k => if m.src == 31 && m.dst < 24 && (s.slotAt k).state != 0 then
      s.modSlot k fun x => { x with sectors := x.sectors + 1 } else s
  | none => s

/-- A sector of data arrives (R299, R302, R311): one from the home waits for its fill. -/
def State.dataArrives (s : State) (id : Nat) (m : Msg) : State :=
  let t := (s.land id).takeBytes m
  if m.src == 31 && (s.sentBefore id m || s.sectorFilling m.addr) then s
  else if m.dst == 31 then t
  else if s.toProxy m then ((t.proxySector m m.addr).takeSector m).wakeProbes s m
  else (t.takeSector m).countSlice m

/-- An invalidation answer at its requester, or at the home whose recall it answers. -/
def State.answered (s : State) (id : Nat) (m : Msg) : State :=
  if m.dst == 31 then (s.land id).homeAnswer m else ((s.land id).takeAnswer m).wakeProbes s m

/-- The result of a far atomic arrives: at a caching agent its predictor learns from it (R331). -/
def State.resultArrives (s : State) (id : Nat) (m : Msg) : State :=
  if m.dst < 31 then (s.land id).predictUpdate m.dst m.addr m.contended else s.land id

/-- A sector's fill arrives (R310): the bytes not written take the memory value, and a sector that was written is dirty. -/
def State.fillArrives (s : State) (id : Nat) (m : Msg) : State :=
  let s1 := s.land id
  match s1.lineFind m.addr with
  | none => s1
  | some (k, l) =>
    let fill (x : Sector) : Sector :=
      if x.filling then { v := true, d := x.newer } else x
    { s1 with lines := s1.lines.put k (l.modSector (m.addr / 64 % 4) fill) }

/-! ### Any message -/

/-- What a message does where it arrives. -/
def State.deliverTo (s : State) (id : Nat) (m : Msg) : State :=
  match m.kind with
  | .getS => s.atHome id m fun t => t.serveAt m
  | .getM => s.atHome id m fun t => t.serveAt m
  | .upg => s.atHome id m fun t => t.serveAt m
  | .putS => s.putAtHome id m
  | .putM => s.putAtHome id m
  | .putO => s.putAtHome id m
  | .atomFar => s.writeArrives id m .atomic
  | .homeRead => s.atHome id m fun t => t.startHome id m .read
  | .homeWrite => s.writeArrives id m .write
  | .inv => s.probe id m
  | .fwdGetS => s.probe id m
  | .fwdGetM => s.probe id m
  | .data => s.dataArrives id m
  | .grant => if s.sentBefore id m then s else ((s.land id).takeData m).wakeProbes s m
  | .putAck => if s.sentBefore id m then s else (s.land id).takePutAck m
  | .nackMoved => if s.sentBefore id m then s else (s.land id).takeNack m
  | .atomResp => if s.sentBefore id m then s else s.resultArrives id m
  | .invAck => s.answered id m
  | .probeMiss => s.answered id m
  | .recalled => ((s.land id).takeBytes m).homeAnswer m
  | .fill => s.fillArrives id m

/-- A message handled where it arrives; accesses of its agent that wait for room are tried again (R297). -/
def State.deliver (s : State) (id : Nat) (m : Msg) : State := (s.deliverTo id m).wakeRoom m.dst

/-- A message on its way: discarded by a router, sent over a Kolte port, or handled where it arrives (R322, R323). A message
that its cache has deferred is not on its way. -/
def State.msgArrives (s : State) (id : Nat) (m : Msg) : State :=
  if (m.dst < 31 && (s.cacheAt m.dst m.unit m.grain).deferred.contains id) || s.unaccepted (s.msgEnds m).1 (s.msgEnds m).2 then s
  else
    match s.msgLost m with
    | some r => (s.land id).routingError r
    | none => if s.crosses m then s.leavePackage id m else s.deliver id m

/-! ### Messages of the peer packages (R323) -/

/-- Whether a message is one that comes over a Kolte port: to this package's proxy, to an accessor of a remote unit that no
slice may hold, or from a peer's proxy or its accessors to a home here or the home's operation. -/
def State.fromPeer (s : State) (m : Msg) : Bool :=
  if s.remote m.unit then s.toProxy m || (m.direct && (m.kind == .data || m.kind == .atomResp))
  else (28 ≤ m.src && m.src < 31) || (m.src == 31 && m.dst == 31 && (m.ep == epKolte 0 || m.ep == epKolte 1))

/-- A message of a peer package comes over its Kolte port. -/
def State.linkMessage (s : State) (m : Msg) : State := if s.fromPeer m then s.send m else s

/-! ### Cache maintenance at the homes (R318) -/

/-- What one unit's step of cache maintenance comes to: it is done, it cannot begin yet, or it is the operation named. -/
inductive MaintStep where
  | done (s : State)
  | wait (s : State)
  | begun (s : State) (id : Nat)
deriving DecidableEq, Repr

/-- One unit's step of cache maintenance: a home operation at its home, behind what holds the unit and after the entries of
another grain (R305, R314, R315, R318). That of a unit of another package is made at the home there; over a failed link nothing
is left to do (R324). -/
def State.maintUnit (s : State) (k : HomeKind) (part unit grain : Nat) : MaintStep :=
  let u := unitOf grain (s.settled unit)
  if s.remote u then
    if s.failedLinks.contains (u / 2 ^ 46) then .done s else .begun (s.launch (.away k u grain)) s.nextId
  else
    match s.dirMismatch u grain with
    | some (_, e) => .wait (s.dropMismatch part e)
    | none =>
      if s.unitHeld u grain || s.isIncoming u then .wait s
      else
        let t := s.homeBegin { kind := k, unit := u, grain := grain, mtype := 0, part := part, slot := none, agent := 31, addr := u,
                               len := 0, waiting := 0 }
        if t.flights.has s.nextId then .begun t s.nextId else .done t

/-- The home of a peer package has done a unit's step: what was modified here stands in its memory, or is discarded (R318). -/
def State.awayDone (s : State) (id : Nat) : State :=
  match s.flights.find id with
  | some (.away k u g) =>
    let s1 := s.land id
    if k == .inv then s1.dropDirty u (unitBytes g) else s1.writeBack u (unitBytes g)
  | _ => s

/-- Stretches of which a cache, a slice line, an entry, a message, an operation or a modified byte tells, or a unit of a
migration not yet copied; the step on any other unit has no effect (R318). -/
def State.presentSpans (s : State) : List (Nat × Nat) :=
  s.dir.map (fun e => (e.2.unit, unitBytes e.2.grain)) ++ s.caches.map (fun e => (keyUnit e.1, unitBytes e.2.grain)) ++
  s.lines.map (fun e => (256 * e.2.line, 256)) ++ s.dirty.map (fun e => (e.1, 1)) ++
  s.migrated.map (fun e => ((s.creg_ (migBase + 32 * e.1 + 8)).toNat + e.2, (s.creg_ (migBase + 32 * e.1 + 16)).toNat - e.2)) ++
  s.flights.filterMap fun e => match e.2 with
    | .msg m => some (m.unit, unitBytes m.grain)
    | .home h => some (h.unit, unitBytes h.grain)
    | _ => none

/-- The same stretches, with those of a migration's new page named by the old one, where a walk may meet them (R315). -/
def State.walkSpans (s : State) : List (Nat × Nat) :=
  let l := s.presentSpans
  l ++ s.migrated.flatMap fun e =>
    let reg := migBase + 32 * e.1
    let old := (s.creg_ reg).toNat
    let new := (s.creg_ (reg + 8)).toNat
    let size := (s.creg_ (reg + 16)).toNat
    l.filterMap fun x => if x.1 < new + size && new < x.1 + x.2 then some (old + (maxN x.1 new - new), x.2) else none

/-- The first unit of a stretch that starts at a unit, in ascending address, on which a step may have an effect (R318). -/
def State.nextUnit (s : State) (lo n grain : Nat) : Option Nat :=
  let u := unitBytes grain
  (s.walkSpans.filterMap fun x => if x.1 < lo + n && lo < x.1 + x.2 then some (maxN lo (x.1 / u * u)) else none).foldl
    (fun (best : Option Nat) a => match best with
      | none => some a
      | some b => some (minN a b)) none

end Sys2Proof.Machine
end

