-- ==== Sys2Proof/Machine/Coherence.lean ====
section
/-! DEFINITION. The events of the coherence protocol: requests at the homes, messages at the caches, fills, migration, and
the loss of a Kolte link (R300 to R324, R397, R401). An event whose time has not come leaves the state as it is (log 1). -/

namespace Sys2Proof.Machine

/-- A message of a kind that is on its way arrives. -/
def State.onMsg (s : State) (id : Nat) (kind : MsgKind) : Host.Outcome State Fault Refusal :=
  match s.flights.find id with
  | some (.msg m) => .next (if m.kind == kind then s.msgArrives id m else s)
  | _ => .next s

/-- GETS (R303, R304). -/
def execGets (id : Nat) (s : State) : Host.Outcome State Fault Refusal := s.onMsg id .getS

/-- GETM (R303, R304). -/
def execGetm (id : Nat) (s : State) : Host.Outcome State Fault Refusal := s.onMsg id .getM

/-- UPG (R303, R304). -/
def execUpg (id : Nat) (s : State) : Host.Outcome State Fault Refusal := s.onMsg id .upg

/-- PUTS (R303). -/
def execPuts (id : Nat) (s : State) : Host.Outcome State Fault Refusal := s.onMsg id .putS

/-- PUTM (R303). -/
def execPutm (id : Nat) (s : State) : Host.Outcome State Fault Refusal := s.onMsg id .putM

/-- PUTO (R303). -/
def execPuto (id : Nat) (s : State) : Host.Outcome State Fault Refusal := s.onMsg id .putO

/-- ATOM_FAR (R305, R330). -/
def execAtomFar (id : Nat) (s : State) : Host.Outcome State Fault Refusal := s.onMsg id .atomFar

/-- HOME_READ (R305, R401). -/
def execHomeRead (id : Nat) (s : State) : Host.Outcome State Fault Refusal := s.onMsg id .homeRead

/-- HOME_WRITE (R305, R397). -/
def execHomeWrite (id : Nat) (s : State) : Host.Outcome State Fault Refusal := s.onMsg id .homeWrite

/-- RECALLED_DATA (R305). -/
def execRecalledData (id : Nat) (s : State) : Host.Outcome State Fault Refusal := s.onMsg id .recalled

/-- INV (R302, R308). -/
def execInv (id : Nat) (s : State) : Host.Outcome State Fault Refusal := s.onMsg id .inv

/-- FWD_GETS (R302). -/
def execFwdGets (id : Nat) (s : State) : Host.Outcome State Fault Refusal := s.onMsg id .fwdGetS

/-- FWD_GETM (R302). -/
def execFwdGetm (id : Nat) (s : State) : Host.Outcome State Fault Refusal := s.onMsg id .fwdGetM

/-- DATA (R302, R311). -/
def execData (id : Nat) (s : State) : Host.Outcome State Fault Refusal := s.onMsg id .data

/-- GRANT (R302). -/
def execGrant (id : Nat) (s : State) : Host.Outcome State Fault Refusal := s.onMsg id .grant

/-- PUT_ACK (R302). -/
def execPutAck (id : Nat) (s : State) : Host.Outcome State Fault Refusal := s.onMsg id .putAck

/-- NACK_MOVED (R316). -/
def execNackMoved (id : Nat) (s : State) : Host.Outcome State Fault Refusal := s.onMsg id .nackMoved

/-- ATOM_RESP (R330, R331): the predictor learns whether the far atomic met another holder. -/
def execAtomResp (id : Nat) (s : State) : Host.Outcome State Fault Refusal := s.onMsg id .atomResp

/-- INV_ACK (R302, R305). -/
def execInvAck (id : Nat) (s : State) : Host.Outcome State Fault Refusal := s.onMsg id .invAck

/-- PROBE_MISS (R302, R305, R308). -/
def execProbeMiss (id : Nat) (s : State) : Host.Outcome State Fault Refusal := s.onMsg id .probeMiss

/-- SLICE_FILL (R310). -/
def execSliceFill (id : Nat) (s : State) : Host.Outcome State Fault Refusal := s.onMsg id .fill

/-! ### A link lost (R324) -/

/-- A unit of the proxy whose request had crossed a link that has failed is answered at once: with data, which is poisoned
from now on, or with the end of its eviction (R324). -/
def State.answerLost (s : State) (e : Nat × CUnit) : State :=
  let a := keyAgent e.1
  let unit := keyUnit e.1
  let c := { e.2 with need := 0, got := 0 }
  let here : Bool := s.flights.any fun f => match f.2 with
    | .msg m => m.src == a && m.unit == unit && m.cls == 0
    | _ => false
  let reply (k : MsgKind) : Msg :=
    { kind := k, unit := unit, grain := c.grain, part := c.part, slot := c.slot, src := 31, dst := a }
  let s1 := s.setCache a unit c.grain c
  if here then s
  else
    match c.st with
    | .isD => (s1.proxyData (reply .data)).takeData (reply .data)
    | .imAD => (s1.proxyData (reply .data)).takeData (reply .data)
    | .smAD => s1.takeData (reply .grant)
    | .omA => s1.takeData (reply .grant)
    | .imA => s1.reachM a unit c.grain c
    | .smA => s1.reachM a unit c.grain c
    | .miA => s1.takePutAck (reply .putAck)
    | .oiA => s1.takePutAck (reply .putAck)
    | .siA => s1.takePutAck (reply .putAck)
    | .iiA => s1.takePutAck (reply .putAck)
    | _ => s

/-- The link to a peer is lost: dirty units of the peer held here are poisoned, requests that had crossed are answered, and
every later access to it meets poison (R324). -/
def State.loseLink (s : State) (peer : Nat) : State :=
  let held := s.dirty.filter fun (e : Nat × Byte) => e.1 / 2 ^ 46 == peer
  let s1 := held.foldl (fun s e => s.markNew (e.1 / 64) true) { s with failedLinks := s.failedLinks ++ [peer] }
  let lost (e : Nat × CUnit) : Bool := keyUnit e.1 / 2 ^ 46 == peer && keyAgent e.1 == s1.proxyAgent (keyUnit e.1)
  (s1.caches.filter lost).foldl State.answerLost s1

/-! ### Migration (R315) -/

/-- OLD, NEW, SIZE and STATE of a migration entry (R382). -/
def migReg (entry k : Nat) : Nat := migBase + 32 * entry + 8 * k

/-- A migration entry is DONE: the supervisor is interrupted (R315). -/
def State.migrationDone (s : State) (entry : Nat) : State := (s.setCreg (migReg entry 3) 2).sendMsi

/-- The bytes of OLD as they stand at the cut become those of NEW, with their poison (R315): OLD keeps them, and every later
access goes to NEW. -/
def State.cutOver (s : State) (old new n : Nat) : State :=
  let raw (a : Nat) : Byte := (s.dirty.find a).getD (s.mem.get 0 a)
  let within (b a : Nat) : Bool := b ≤ a && a < b + n
  let marked := (s.poisonMem ++ s.poisonNew).filterMap fun e => if within old (64 * e.1) then some e.1 else none
  let offs (t : Tab Byte) : List Nat :=
    (t.keys.filter (within old)).map (· - old) ++ (t.keys.filter (within new)).map (· - new)
  let lines := (upTo ((n + 1023) / 1024)).foldl (fun s i => s.markStale none (new + 1024 * i) 2) s
  let moved : State := { lines with
    dirty := (offs s.dirty ++ offs s.mem).foldl (fun t i => Tab.put t (new + i) (raw (old + i))) s.dirty
    poisonNew := s.poisonNew.filter fun e => !within new (64 * e.1)
    poisonMem := s.poisonMem.filter fun e => !within new (64 * e.1) }
  marked.foldl (fun t x => t.markNew (x - old / 64 + new / 64) (s.sectorPoisoned x)) moved

/-- Requests that wait at a home of OLD arrived before the cut (R315). -/
def State.markEarly (s : State) (old n : Nat) : State :=
  let waits := s.homeQueue.flatMap (·.2)
  { s with flights := s.flights.map fun (e : Nat × Flight) => match e.2 with
      | .msg m => if waits.contains e.1 && old ≤ m.unit && m.unit < old + n then (e.1, .msg { m with early := true }) else e
      | _ => e }

/-- MIGRATION_START (R315): each home of an OLD unit records its cut, each home of a NEW unit marks it incoming. -/
def execMigrationStart (entry : Nat) (s : State) : Host.Outcome State Fault Refusal :=
  if 15 < entry || s.creg_ (migReg entry 3) != 1 || s.migrated.has entry then .next s
  else
    let old := (s.creg_ (migReg entry 0)).toNat
    let size := (s.creg_ (migReg entry 2)).toNat
    let s1 := (s.cutOver old (s.creg_ (migReg entry 1)).toNat size).markEarly old size
    let s2 := { s1 with migrated := s1.migrated.put entry 0 }
    .next (if size == 0 then s2.migrationDone entry else s2)

/-- The directory entry of the unit that a physical address is in. -/
def State.entryAt (s : State) (pa : Nat) : Option DirEnt :=
  (s.dir.find? fun e => e.2.unit ≤ pa && pa < e.2.unit + unitBytes e.2.grain).map (·.2)

/-- Whether a request that arrived before the cut still waits for a unit of OLD. -/
def State.earlyWaits (s : State) (pa : Nat) : Bool :=
  s.flights.any fun e => match e.2 with
    | .msg m => m.early && m.unit ≤ pa && pa < m.unit + unitBytes m.grain
    | _ => false

/-- A sector of OLD is read, from its slice line or from external memory, and written at the home of NEW for partition 0
(R305, R315, log 5); the unit is no longer incoming. -/
def State.copyOver (s : State) (entry off old new size : Nat) : State :=
  let grain := match s.entryAt new with | some e => e.grain | none => 0
  let held := match s.lineFind old with | some (_, l) => (l.sectors.getD (old / 64 % 4) {}).v | none => false
  let s1 := (if held then s else s.charge 0 none old false).homeBegin
    { kind := .write, unit := unitOf grain new, grain := grain, mtype := 0, part := 0, slot := none, agent := 31, addr := new,
      len := 64, waiting := 0 }
  let s2 := { s1 with migrated := s1.migrated.put entry (off + 64) }
  if size ≤ off + 64 then s2.migrationDone entry else s2

/-- MIGRATION_UNIT_COPY (R315): the next unit is taken, behind the requests before the cut, which recalls its copies; then its
data is written to NEW. -/
def execMigrationUnitCopy (entry : Nat) (s : State) : Host.Outcome State Fault Refusal :=
  match s.migrated.find entry with
  | none => .next s
  | some off =>
    let old := (s.creg_ (migReg entry 0)).toNat + off
    let new := (s.creg_ (migReg entry 1)).toNat + off
    let size := (s.creg_ (migReg entry 2)).toNat
    if s.creg_ (migReg entry 3) != 1 || size ≤ off || s.unitHeld old 0 || s.unitHeld new 0 || s.earlyWaits old then .next s
    else
      match s.entryAt old with
      | some e =>
        .next (s.homeBegin { kind := .backInv, unit := e.unit, grain := e.grain, mtype := 0, part := 0, slot := none,
                             agent := 31, addr := e.unit, len := 0, waiting := 0 })
      | none => .next (s.copyOver entry off old new size)

end Sys2Proof.Machine
end

