-- ==== Sys2Proof/Machine/MemOps.lean ====
section
/-! DEFINITION. The accesses of loads and stores (R285 to R288), outside and inside an atomic region (R333 to
R335). -/

namespace Sys2Proof.Machine

/-- Why a thread's access stops: a fault, or the abort of its region with cause and detail (R338). -/
inductive Stop where
  | fault (f : Flt)
  | abort (cause detail : Nat)
deriving DecidableEq, Repr

/-- Lane of the control state that an access of a lane belongs to: its own thread, or the stream. -/
def ctlLane (key lane : Nat) : Nat := if isWave key then lane else 0

/-! ### Accesses in an atomic region -/

/-- Whether two byte ranges meet. -/
def rangesMeet (a n b m : Nat) : Bool := a < b + m && b < a + n

/-- The place of a region access: normal cached memory, or abort 12 (R333). -/
def State.regionPlace (s : State) (key lane : Nat) (a : Acc) (va n : Nat) : Except Stop (State × Nat × Place) :=
  if inAperture va then .error (.abort 12 0)
  else
    match s.locate key lane a va n with
    | .error f => .error (.fault f)
    | .ok (s1, .phys pa mtype grain part) =>
      if mtype == 0 then .ok (s1, pa, .phys pa mtype grain part) else .error (.abort 12 0)
    | .ok (_, .loc _) => .error (.abort 12 0)

/-- The units of the 256-byte line of an address and the bytes of the line in each (R299). -/
def lineUnits (grain pa : Nat) : List (Nat × Nat) :=
  if grain == 0 then (upTo 4).map fun k => (pa / 256 * 256 + 64 * k, 64) else [(pa / 256 * 256, 256)]

/-- The line of a region's first load from it read as a relaxed load reads it, unit by unit (R334, R336, R338). -/
def State.lineRead (s : State) (key lane : Nat) : Place → State
  | .loc _ => s
  | .phys pa mtype grain part =>
    (lineUnits grain pa).foldl (fun s u => s.readAccess key lane (.phys u.1 mtype grain part) u.2) s

/-- The 256-byte line at a physical address as it stands. -/
def State.lineNow (s : State) (line : Nat) : List Byte := (upTo 256).map fun i => s.byteAt (256 * line + i)

/-- The load slot of a line, claimed where there is none; `none` at a ninth line (R334). -/
def Region.slotFor (r : Region) (s : State) (va pa : Nat) : Option (Region × Nat) :=
  match r.slots.findIdx? (fun x => x.line == pa / 256) with
  | some i => some (r, i)
  | none =>
    if 8 ≤ r.slots.length then none
    else some ({ r with slots := r.slots ++ [{ va := va / 256 * 256, line := pa / 256, snap := s.lineNow (pa / 256),
                                               stale := false, pinned := false }] }, r.slots.length)

/-- A byte as the region's own stores leave it over a slot's snapshot. -/
def Region.byteOver (r : Region) (slot pa : Nat) : Byte :=
  let base := match r.slots[slot]? with | some x => x.snap.getD (pa % 256) 0 | none => 0
  r.stores.foldl (fun b e => if e.addr ≤ pa && pa < e.addr + e.size then BitVec.ofNat 8 (e.data / 256 ^ (pa - e.addr)) else b)
    base

/-- A region load of `n` bytes (R334): the value, its tag, and the region after it. -/
def State.regionLoad (s : State) (key lane : Nat) (r : Region) (va n : Nat) :
    Except Stop (State × Region × Nat × Option RTag) :=
  match s.regionPlace key lane .read va n with
  | .error e => .error e
  | .ok (s0, pa, p) =>
    if s0.placePoisoned p n then .error (.fault (s0.poisonFault p va n))
    else
      match r.slotFor s0 va pa with
      | none => .error (.abort 3 8)
      | some (r1, i) =>
        let s1 := if r1.slots.length == r.slots.length then s0 else s0.lineRead key lane p
        let v := leNat ((upTo n).map fun k => r1.byteOver i (pa + k))
        let met := r1.stores.filter fun e => rangesMeet e.addr e.size pa n
        match met.getLast? with
        | none => .ok (s1, r1, v, some { slot := i, off := pa % 256, size := n, c := 0 })
        | some e =>
          if e.addr == pa && e.size == n then .ok (s1, r1, v, e.tag)
          else
            let named := met.filterMap fun e => e.tag.map (·.slot)
            .ok (s1, named.foldl (fun r k => r.pin k) r1, v, none)

/-- A region store of `n` bytes (R334, R335): buffered, symbolic where its data is tagged. -/
def State.regionStore (s : State) (key lane : Nat) (r : Region) (va n v : Nat) (tag : Option RTag) :
    Except Stop (State × Region) :=
  match s.regionPlace key lane .write va n with
  | .error e => .error e
  | .ok (s1, pa, _) =>
    if 16 ≤ r.stores.length then .error (.abort 5 0)
    else .ok (s1, { r with stores := r.stores ++ [{ va := va, addr := pa, size := n, data := v % 256 ^ n, tag := tag }] })

/-! ### One access of a stream or thread -/

/-- A load: alignment, then the access (R285 to R287). -/
def State.loadOne (s : State) (key lane va n : Nat) : Except Stop (State × Nat × Option RTag) :=
  if va % n != 0 then .error (.fault (fltOf 0x08 va))
  else
    match (s.ctlAt key lane).region with
    | none =>
      match s.memRead key lane va n with
      | .error f => .error (.fault f)
      | .ok (s1, v) => .ok (s1, v, none)
    | some r =>
      match s.regionLoad key lane r va n with
      | .error e => .error e
      | .ok (s1, r1, v, t) => .ok (s1.modCtl key lane fun c => { c with region := some r1 }, v, t)

/-- A store; `tagKey` is the tag key of the data register and `symbolic` holds where the address is untagged (R334). -/
def State.storeOne (s : State) (key lane va n v : Nat) (tagKey : Nat) (symbolic : Bool) : Except Stop State :=
  if va % n != 0 then .error (.fault (fltOf 0x08 va))
  else
    match (s.ctlAt key lane).region with
    | none =>
      match s.memWrite key lane va n v with
      | .error f => .error (.fault f)
      | .ok s1 => .ok s1
    | some r =>
      let r0 := if symbolic then r else r.pinTags [tagKey]
      match s.regionStore key lane r0 va n v (if symbolic then r.tags.find tagKey else none) with
      | .error e => .error e
      | .ok (s1, r1) => .ok (s1.modCtl key lane fun c => { c with region := some r1 })

/-- The slots that an access's address registers name are pinned (R334). -/
def State.pinAddress (s : State) (key lane : Nat) (keys : List Nat) : State :=
  match (s.ctlAt key lane).region with
  | none => s
  | some r => s.modCtl key lane fun c => { c with region := some (r.pinTags keys) }

/-- Whether some address register of an access carries a tag. -/
def State.addressTagged (s : State) (key lane : Nat) (keys : List Nat) : Bool :=
  match (s.ctlAt key lane).region with
  | none => false
  | some r => keys.any fun k => (r.tags.find k).isSome

/-- Lane accesses in rising lane order: what each lane's access answers, and where it stops. -/
def eachLane {β : Type} (s : State) (lanes : List Nat) (f : State → Nat → Except Stop (State × β)) :
    State × List (Nat × β) × List (Nat × Stop) :=
  lanes.foldl (fun acc l =>
    match f acc.1 l with
    | .ok (s1, b) => (s1, acc.2.1 ++ [(l, b)], acc.2.2)
    | .error e => (acc.1, acc.2.1, acc.2.2 ++ [(l, e)])) (s, [], [])

/-- The effect of an instruction whose lanes may have stopped: region aborts are made here, faults are taken by issue. -/
def stopped (s : State) (key : Nat) (stops : List (Nat × Stop)) : Eff :=
  let aborts := stops.filterMap fun x => match x.2 with | .abort c d => some (x.1, c, d) | .fault _ => none
  { st := aborts.foldl (fun s a => s.regionAbort key a.1 a.2.1 a.2.2) s,
    faults := stops.filterMap fun x => match x.2 with | .fault f => some (ctlLane key x.1, f) | .abort _ _ => none,
    held := aborts.map (·.1) }

/-- The tag of a loaded lane register (R334). -/
def State.tagLane (s : State) (key lane d : Nat) (t : Option RTag) : State :=
  match (s.ctlAt key lane).region with
  | none => s
  | some r => s.modCtl key lane fun c => { c with region := some (r.setLaneTag d t) }

/-- Lane results of a load with their tags. -/
def State.loadPut (s : State) (is : Iss) (d : Nat) (rs : List (Nat × Nat × Option RTag)) : State :=
  let s1 := s.lput is d (rs.map fun r => (r.1, BitVec.ofNat 32 r.2.1))
  if isWave is.key then rs.foldl (fun s r => s.tagLane is.key r.1 d r.2.2) s1 else s1

/-- Address of a lane's access in ld and st (R285). -/
def laneAddr (base : DWord) (off : BitVec 6) (e lane : Nat) : Nat :=
  ((base + BitVec.ofInt 64 (off.toInt * (e : Int))).toNat + lane * e) % 2 ^ 64

/-- Address of a scalar access (R287). -/
def scalarAddr (base : DWord) (off : BitVec 6) (e : Nat) : Nat :=
  (base + BitVec.ofInt 64 (off.toInt * (e : Int))).toNat

/-- The misaligned access of ld and st, raised once before the lanes access anything, where there is one (R285). -/
def misalignedBase (base : DWord) (off : BitVec 6) (e : Nat) : Option Flt :=
  let a := laneAddr base off e 0
  if a % e != 0 then some (fltOf 0x08 a) else none

/-- ld: one access of `e` bytes for each active lane; 8 bytes fill a pair (R285). -/
def State.laneLoad (s : State) (word d base : Nat) (off : BitVec 6) (z : Nat) : Host.Outcome State Fault Refusal :=
  let e := 2 ^ z
  s.issue { word := word, legal := 0x28, ssrc := [base], ldst := if z == 3 then [d, pairHi d] else [d],
            pairs := if z == 3 then [d] else [], region := some .memory }
    fun is s sv _ =>
      match misalignedBase (sval sv 0) off e with
      | some f => { st := s, faults := is.threads.map (·, f) }
      | none =>
      if z == 3 then
        let r := eachLane s is.lanes fun s l =>
          let a := laneAddr (sval sv 0) off e l
          let cl := ctlLane is.key l
          match s.loadOne is.key cl a 4 with
          | .error x => .error x
          | .ok (s1, v0, t0) =>
            match s1.loadOne is.key cl (a + 4) 4 with
            | .error x => .error x
            | .ok (s2, v1, t1) => .ok (s2, ((v0, t0), (v1, t1)))
        let s1 := r.1.loadPut is d (r.2.1.map fun x => (x.1, x.2.1))
        stopped (s1.loadPut is (pairHi d) (r.2.1.map fun x => (x.1, x.2.2))) is.key r.2.2
      else
        let r := eachLane s is.lanes fun s l =>
          match s.loadOne is.key (ctlLane is.key l) (laneAddr (sval sv 0) off e l) e with
          | .error x => .error x
          | .ok (s1, v, t) => .ok (s1, (v, t))
        stopped (r.1.loadPut is d (r.2.1.map fun x => (x.1, x.2))) is.key r.2.2

/-- st (R285). -/
def State.laneStore (s : State) (word d base : Nat) (off : BitVec 6) (z : Nat) : Host.Outcome State Fault Refusal :=
  let e := 2 ^ z
  s.issue { word := word, legal := 0x28, ssrc := [base], lsrc := if z == 3 then [d, pairHi d] else [d],
            pairs := if z == 3 then [d] else [], region := some .memory }
    fun is s sv lv =>
      match misalignedBase (sval sv 0) off e with
      | some f => { st := s, faults := is.threads.map (·, f) }
      | none =>
      let r := eachLane s is.lanes fun s l =>
        let a := laneAddr (sval sv 0) off e l
        let cl := ctlLane is.key l
        if z == 3 then
          if (s.ctlAt is.key cl).region.isSome then
            match s.storeOne is.key cl a 4 (lval lv 0 l).toNat (laneTag d) true with
            | .error x => .error x
            | .ok s1 =>
              match s1.storeOne is.key cl (a + 4) 4 (lval lv 1 l).toNat (laneTag (pairHi d)) true with
              | .error x => .error x
              | .ok s2 => .ok (s2, ())
          else
            match s.storeOne is.key cl a 8 ((lval lv 0 l).toNat + 2 ^ 32 * (lval lv 1 l).toNat) 0 true with
            | .error x => .error x
            | .ok s1 => .ok (s1, ())
        else
          match s.storeOne is.key cl a e (lval lv 0 l).toNat (laneTag d) true with
          | .error x => .error x
          | .ok s1 => .ok (s1, ())
      stopped r.1 is.key r.2.2

/-- Address of a lane's access in the gather and scatter forms (R286). -/
def gatherAddr (lv : List (List Word)) (lane : Nat) : Nat := (lval lv 0 lane).toNat * 2 ^ 32 + (lval lv 1 lane).toNat

/-- ldg and ldg16 (R286). -/
def State.gather (s : State) (word d a b e : Nat) : Host.Outcome State Fault Refusal :=
  s.issue { word := word, legal := 0x28, lsrc := [b, a], ldst := [d], region := some .memory }
    fun is s _ lv =>
      let r := eachLane s is.lanes fun s l =>
        let cl := ctlLane is.key l
        let s0 := s.pinAddress is.key cl [laneTag a, laneTag b]
        match s0.loadOne is.key cl (gatherAddr lv l) e with
        | .error x => .error x
        | .ok (s1, v, t) => .ok (s1, (v, t))
      stopped (r.1.loadPut is d (r.2.1.map fun x => (x.1, x.2))) is.key r.2.2

/-- stg and stg16 (R286). -/
def State.scatter (s : State) (word d a b e : Nat) : Host.Outcome State Fault Refusal :=
  s.issue { word := word, legal := 0x28, lsrc := [b, a, d], region := some .memory }
    fun is s _ lv =>
      let r := eachLane s is.lanes fun s l =>
        let cl := ctlLane is.key l
        let keys := [laneTag a, laneTag b]
        let plain := !s.addressTagged is.key cl keys
        let s0 := s.pinAddress is.key cl keys
        match s0.storeOne is.key cl (gatherAddr lv l) e ((lval lv 2 l).toNat % 256 ^ e) (laneTag d) plain with
        | .error x => .error x
        | .ok s1 => .ok (s1, ())
      stopped r.1 is.key r.2.2

/-- A scalar access stops for every executing thread (R145). -/
def stopAll (s : State) (is : Iss) : Stop → Eff
  | .fault f => { st := s, faults := is.threads.map (·, f) }
  | .abort c d => stopped s is.key (is.threads.map (·, Stop.abort c d))

/-- A scalar load of `e` bytes, performed once as an access of the lowest executing thread (R144, R287). -/
def State.scalarLoad (s : State) (word d base : Nat) (off : BitVec 6) (e : Nat) (region : Option TagRule) :
    Host.Outcome State Fault Refusal :=
  s.issue { word := word, legal := 0x3F, ssrc := [base], sdst := [d], region := region, ceRegion := true }
    fun is s0 sv _ =>
      let s := s0.finishReadouts is.key
      let l0 := is.threads.headD 0
      match (s.pinAddress is.key l0 [scalarTag base]).loadOne is.key l0 (scalarAddr (sval sv 0) off e) e with
      | .error x => stopAll s is x
      | .ok (s1, v, t) =>
        let s2 := s1.sput is.key d (BitVec.ofNat 64 v)
        match (s2.ctlAt is.key l0).region with
        | some r => done (s2.modCtl is.key l0 fun c =>
            { c with region := some (if d < 32 then r.setTag (scalarTag d) t
                                     else match t with | some x => r.pin x.slot | none => r) })
        | none => done s2

/-- A scalar store of `e` bytes (R144, R287). -/
def State.scalarStore (s : State) (word d base : Nat) (off : BitVec 6) (e : Nat) (region : Option TagRule) :
    Host.Outcome State Fault Refusal :=
  s.issue { word := word, legal := 0x3F, ssrc := [base, d], region := region, ceRegion := true }
    fun is s0 sv _ =>
      let s := s0.finishReadouts is.key
      let l0 := is.threads.headD 0
      let plain := !s.addressTagged is.key l0 [scalarTag base]
      match (s.pinAddress is.key l0 [scalarTag base]).storeOne is.key l0 (scalarAddr (sval sv 0) off e) e
          ((sval sv 1).toNat % 256 ^ e) (scalarTag d) plain with
      | .error x => stopAll s is x
      | .ok s1 => done s1

end Sys2Proof.Machine
end

