-- ==== Sys2Proof/Machine/SyncOps.lean ====
section
/-! DEFINITION. The operations behind the flag file, barrier objects, futures, the waits of every stream, queue bindings
and the vision workgroup instructions (R85, R92, R94, R147 to R151, R340 to R348). -/

namespace Sys2Proof.Machine

/-- An effect by which every executing thread takes one fault, on a state that nothing else has changed. -/
def faultAll (s : State) (is : Iss) (f : Flt) : Eff := { st := s, faults := is.threads.map (·, f) }

/-- The same, where what the instruction read before its fault stands. -/
def faultKept (s : State) (is : Iss) (f : Flt) : Eff := { faultAll s is f with keep := true }

/-- Lowest executing thread: the one that a scalar operation of an issue set belongs to (R144). -/
def Iss.first (is : Iss) : Nat := is.threads.headD 0

/-! ### Flags (R340, R341) -/

/-- finc and fset: retired at issue, the update goes to the flag home. -/
def State.flagSet (s : State) (word f y : Nat) (add : Bool) : Host.Outcome State Fault Refusal :=
  s.issue { word := word, legal := onTile, ssrc := [y] } fun is s0 sv _ =>
    let s := s0.finishReadouts is.key
    done (s.launch (.flag { key := is.key, job := s.jobOf is.key 0, flag := f, add := add, value := sval sv 0 }))

/-- fwait. -/
def State.flagWait (s : State) (word f y : Nat) : Host.Outcome State Fault Refusal :=
  s.issue { waitOp word onTile with ssrc := [y] } fun is s sv _ => s.block is fun _ => .fwait f (sval sv 0)

/-- fread: the stream's own updates are performed before it (R341). -/
def State.flagGet (s : State) (word f y : Nat) : Host.Outcome State Fault Refusal :=
  s.issue { word := word, legal := onTile, sdst := [y] } fun is s _ _ =>
    let s1 := s.finishFlags is.key
    done (s1.sput is.key y (s1.flagRead is.key f))

/-! ### Barrier objects (R343) -/

/-- A barrier instruction on the object that y names; `f` gives the object's new bytes and the scalar it answers. -/
def State.barrierOp (s : State) (word x y : Nat) (acc : Acc) (src dst : List Nat)
    (f : Nat → DWord → Except Nat (Nat × Option DWord)) : Host.Outcome State Fault Refusal :=
  s.issue { word := word, legal := onAll, ssrc := y :: src, sdst := dst } fun is s0 sv _ =>
    let s := s0.finishReadouts is.key
    let addr := (sval sv 0).toNat
    match s.objectAt is.key is.first acc addr with
    | .error e => faultAll s is e
    | .ok (s1, p) =>
      match f (s1.placeRead p 16) (sval sv 1) with
      | .error r =>
        if acc == .write then faultAll s is (objectFault 0x22 r addr)
        else faultKept (s1.objectRead (keyCore is.key) (s1.jobOf is.key is.first) p) is (objectFault 0x22 r addr)
      | .ok (v, out) =>
        let s2 := s1.objectWrite is.key is.first acc addr p (leBytes 16 v)
        done (match out with | some d => s2.sput is.key x d | none => s2)

/-- bar.init. -/
def barInit (_ : Nat) (n : DWord) : Except Nat (Nat × Option DWord) :=
  if bits n 0 32 == 0 || bit n 31 || bits n 32 32 != 0 then .error 1 else .ok (barrierOf n.toNat 0 false 0, none)

/-- bar.arrive. -/
def barArrive (v : Nat) (_ : DWord) : Except Nat (Nat × Option DWord) :=
  if barExpected v ≤ barArrived v then .error 2
  else
    .ok (barComplete (barrierOf (barExpected v) (barArrived v + 1) (barPhase v) (barPending v)),
      some (flagW (barPhase v)))

/-- bar.expect. -/
def barExpect (v : Nat) (n : DWord) : Except Nat (Nat × Option DWord) := .ok (barPend v n.toNat, none)

/-- bar.wait. -/
def State.barrierWait (s : State) (word x y : Nat) : Host.Outcome State Fault Refusal :=
  s.issue { waitOp word onAll with ssrc := [y, x] } fun is s sv _ =>
    (s.finishReadouts is.key).block is fun _ => .barWait (sval sv 0).toNat (bit (sval sv 1) 0)

/-! ### Futures (R346) -/

/-- fut.res and fut.fail: state 1 or 2. -/
def State.futureEnd (s : State) (word x y state : Nat) : Host.Outcome State Fault Refusal :=
  s.issue { word := word, legal := onAll, ssrc := [y, x] } fun is s0 sv _ =>
    let s := s0.finishReadouts is.key
    match s.futureResolve is.key is.first (sval sv 0).toNat (bits (sval sv 1) 0 32) state with
    | .error e => faultKept e.1 is e.2
    | .ok s1 => done s1

/-- fut.reg. -/
def State.futureReg (s : State) (word x y : Nat) : Host.Outcome State Fault Refusal :=
  s.issue { word := word, legal := onAll, ssrc := [y, x] } fun is s0 sv _ =>
    let s := s0.finishReadouts is.key
    let addr := (sval sv 0).toNat
    let card := bits (sval sv 1) 0 8
    match s.objectAt is.key is.first .rmw addr with
    | .error e => faultAll s is e
    | .ok (s1, p) =>
      let v := s1.placeRead p 8
      let failed := s1.objectRead (keyCore is.key) (s1.jobOf is.key is.first) p
      if futState v == 3 then faultKept failed is (objectFault 0x23 2 addr)
      else if bits (sval sv 1) 8 56 != 0 then faultKept failed is (objectFault 0x23 3 addr)
      else if futCard v != 0xFFFF then faultKept failed is (fltOf 0x25 addr)
      else
        let s2 := s1.objectWrite is.key is.first .rmw addr p (leBytes 8 (setBitsN v 16 16 card))
        done (if futState v == 0 then s2 else s2.decrementJoin card)

/-- fut.get: with W = 1 a blocking wait. -/
def State.futureGet (s : State) (word x y : Nat) (w : Bool) : Host.Outcome State Fault Refusal :=
  s.issue { word := word, legal := onAll, wait := w, ssrc := [y], sdst := [x] } fun is s0 sv _ =>
    let s := s0.finishReadouts is.key
    let addr := (sval sv 0).toNat
    if w then s.block is fun _ => .futGet addr x
    else
      match s.objectAt is.key is.first .read addr with
      | .error e => faultAll s is e
      | .ok (s1, p) =>
        let v := s1.placeRead p 8
        let s2 := s1.objectRead (keyCore is.key) (s1.jobOf is.key is.first) p
        if futState v == 3 then faultKept s2 is (objectFault 0x23 2 addr) else done (s2.sput is.key x (BitVec.ofNat 64 v))

/-- waitl (R348). -/
def State.waitLocation (s : State) (word v a z : Nat) : Host.Outcome State Fault Refusal :=
  s.issue { waitOp word onAll with ssrc := [a, v] } fun is s0 sv _ =>
    let s := s0.finishReadouts is.key
    s.block is fun _ => .waitl (sval sv 0).toNat z ((sval sv 1).toNat % 2 ^ (8 * 2 ^ z)) s.cyc

/-! ### wait and rdv (R92, R94) -/

/-- Where a wait class is legal, as `Op.legal` (R92). -/
def classOn (k : Nat) : Nat :=
  if k < 2 then onAll else if k == 2 then 0x12 else if k < 5 then 0x1E else onTile

/-- wait. -/
def State.waitClass (s : State) (word k a : Nat) : Host.Outcome State Fault Refusal :=
  s.issue { waitOp word (classOn k) with ssrc := [a] } fun is s sv _ =>
    let v := sval sv 0
    match (if k == 5 || k == 6 then s.queueCheck is.key (32 + bits v 0 4) (k == 6) else none) with
    | some f => faultAll s is f
    | none => s.block is fun _ => .cls k v

/-- rdv. The stream waits, or makes its pushes and arrives. -/
def State.rendezvous (s : State) (word : Nat) (g : BitVec 4) : Host.Outcome State Fault Refusal :=
  s.issue { word := word, legal := onTile, deliver := true, unstamped := true } fun is s _ _ =>
    let tokens := if keyEng is.key == 0 then 0 else g.toNat
    let s1 := s.modCtl is.key 0 fun c => { c with waitG := tokens, stall := [], holdEnd := none }
    if s1.rdvReady is.key then { st := s1.rdvArrive is.key, final := true }
    else { st := s1.stopAt is.key 0 .rdv, pending := true }

/-! ### qbind (R85) -/

/-- Whether some stream of a core's context is stalled on a queue. -/
def State.stalledOn (s : State) (core ctx q : Nat) : Bool :=
  (upTo 5).any fun e =>
    (s.ctlAt (streamKey core ctx e) 0).stall.any fun n =>
      match n with
      | .entries k _ => k == q
      | .queueRoom k => k == q
      | _ => false

/-- Whether a binding word is valid (R85). -/
def bindingOk (w : DWord) : Bool :=
  let p := bits w 0 4
  let c := bits w 4 4
  bits w 8 56 == 0 && ((p == 0 && c == 0) || (1 ≤ p && p ≤ 5 && 1 ≤ c && c ≤ 5 && p != c))

/-- A binding reaches its queue unit (R85): the checks are made, and the instruction retires; a fault puts back what it
popped (R86). -/
def State.bindNow (s : State) (key : Nat) : State :=
  match (s.ctlAt key 0).late with
  | some (.qbind q w _) =>
    let ck := keyCtxKey key
    let s1 := s.modCtl key 0 fun c => { c with late := none }
    if !bindingOk w then (s1.unpop key).faultThread key 0 (queueFault key q 4)
    else if s.queue ck q != [] || s.stalledOn (keyCore key) (keyCtx key) q then
      (s1.unpop key).faultThread key 0 (queueFault key q 3)
    else { s1 with qbinds := s1.qbinds.set 0 (16 * ck + q) (bits w 0 8) }.completeLate key 0
  | _ => s

/-- Whether a stream has issued a binding of a queue in an earlier tile cycle. -/
def Ctl.binds (c : Ctl) (q cyc : Nat) : Bool :=
  match c.late with
  | some (.qbind n _ t) => n == q && t < cyc
  | _ => false

/-- A stream's binding of a queue reaches the queue unit in a later tile cycle than its issue, and with it those that
lower engines of the context have on their way to the same queue, in ascending order of the engines (R85). -/
def State.applyBinding (s : State) (key q : Nat) : State :=
  if !(s.ctlAt key 0).binds q s.cyc then s
  else
    ((upTo (keyEng key + 1)).map fun e => streamKey (keyCore key) (keyCtx key) e).foldl
      (fun s k => if (s.ctlAt k 0).binds q s.cyc then s.bindNow k else s) s

/-- qbind issues: its binding is on its way. -/
def State.bindQueue (s : State) (word d a : Nat) : Host.Outcome State Fault Refusal :=
  s.issue { word := word, legal := onTile, ssrc := [a], bad := d < 8 || 15 < d } fun is s sv _ =>
    { st := s.modCtl is.key 0 fun c => { c with late := some (.qbind d (sval sv 0) s.cyc) }, pending := true }

/-! ### Vision workgroups (R147 to R151) -/

/-- wbar: each executing thread arrives and waits for the phase to end. -/
def State.groupBarrier (s : State) (word : Nat) : Host.Outcome State Fault Refusal :=
  s.issue (waitOp word 0x20) fun is s _ _ =>
    match s.waves.find is.key with
    | none => done s
    | some w =>
      let k := 64 * (keyCore is.key - 64) + w.wg
      match s.groups.find k with
      | none => done s
      | some g =>
        let s1 := { s with groups := s.groups.put k { g with arrived := g.arrived + is.threads.length } }
        (s1.checkWbar (keyCore is.key - 64) w.wg).block is fun _ => .wbar g.phase

/-- gbar. -/
def State.gridBarrier (s : State) (word : Nat) : Host.Outcome State Fault Refusal :=
  s.issue (waitOp word 0x20) fun is s _ _ =>
    let slot := s.jobOf is.key is.first
    let x := s.slotAt slot
    if !bitN (cardFlags x.card) 1 then faultAll s is (fltOf 0x1F 0)
    else
      let s1 := s.setSlot slot { x with gbarCount := x.gbarCount + is.threads.length }
      (s1.checkGbar slot).block is fun _ => .gbar x.gbarPhase

/-- xacq. -/
def State.acquireBlock (s : State) (word : Nat) : Host.Outcome State Fault Refusal :=
  s.issue (waitOp word 0x20) fun is s _ _ =>
    let core := keyCore is.key - 64
    let part := keySlot is.key / 12
    let q := s.xqueue.get [] (4 * core + part)
    let held := match s.waves.find is.key with | some w => w.block.isSome | none => false
    if held || q.contains is.key then s.block is fun _ => .xacq
    else
      match s.freeBlock core part with
      | some b => if q.isEmpty then done (s.takeBlock is.key b)
                  else { s with xqueue := s.xqueue.put (4 * core + part) (q ++ [is.key]) }.block is fun _ => .xacq
      | none => { s with xqueue := s.xqueue.put (4 * core + part) (q ++ [is.key]) }.block is fun _ => .xacq

/-- xrel. -/
def State.releaseBlock (s : State) (word : Nat) : Host.Outcome State Fault Refusal :=
  s.issue { word := word, legal := 0x20 } fun is s _ _ => done (s.yieldBlock is.key)

/-- fetchwg. -/
def State.fetchGroup (s : State) (word x : Nat) : Host.Outcome State Fault Refusal :=
  s.issue { word := word, legal := 0x20, ssrc := [x] } fun is s sv _ =>
    let off := (sval sv 0).toNat
    match s.waves.find is.key with
    | none => done s
    | some w =>
      let k := 64 * (keyCore is.key - 64) + w.wg
      match s.groups.find k with
      | none => done s
      | some g =>
        if off % 16 != 0 || g.units * 4096 < off + 16 then faultAll s is (fltOf 0x07 off)
        else if 4 ≤ g.requests then { st := s, held := is.threads }
        else
          let box := locKey (keyCore is.key) (g.base * 4096) + off
          let s1 := s.locWrite box (List.replicate 16 0)
          done ({ s1 with groups := s1.groups.put k { g with requests := g.requests + 1 } }.launch
            (.mailbox { key := is.key, job := g.job, group := k, box := box }))

end Sys2Proof.Machine
end

