-- ==== Sys2Proof/Machine/RingOps.lean ====
section
/-! DEFINITION. Ring instructions (R184 to R197). -/

namespace Sys2Proof.Machine

/-- The checks of a tile-class ring instruction (R188): reasons 1, 3 and 4, in this order; `side` is PROD or CONS. -/
def State.ringUse (s : State) (key n : Nat) (side : Ring → Nat) : Except Flt Ring :=
  let r := s.ringAt (keyCore key) n
  if r.holder != some (s.jobOf key 0) then .error (ringFault key n 1)
  else if r.cls != 0 then .error (ringFault key n 3)
  else if !bitN (side r) (keyEng key) then .error (ringFault key n 4)
  else .ok r

/-- rclaim (R189). -/
def State.ringClaim (s : State) (word d n : Nat) : Host.Outcome State Fault Refusal :=
  s.issue { word := word, legal := onTile, sdst := [d], bad := 32 ≤ n } fun is s _ _ =>
    match s.ringUse is.key n Ring.prod with
    | .error f => faultAll s is f
    | .ok r =>
      let i := r.tail % r.count
      if r.used < r.count then
        let s1 := s.setRing (keyCore is.key) n
          { r with tags := r.tags.put i 1, bytes := r.bytes.put i 0, tail := (r.tail + 1) % 2 ^ 32 }
        done (s1.sput is.key d (BitVec.ofNat 64 (0xFFFFFFFFFF000000 + r.base + i * r.slotSize)))
      else done (s.sput is.key d (BitVec.allOnes 64))

/-- The slot that an address operand of rfill or rfree names, in the state that the instruction requires (R188, R189,
R191): an address outside the region raises the aperture fault, and one that names no such slot reason 5. -/
def State.ringSlot (s : State) (key n : Nat) (r : Ring) (addr tag : Nat) : Except Flt Nat :=
  match s.aperture key 0 addr 1 with
  | .error f => .error f
  | .ok _ =>
    match r.slotAt addr with
    | none => .error (ringFault key n 5)
    | some i => if r.tags.get 0 i != tag then .error (ringFault key n 5) else .ok i

/-- rfill (R189). -/
def State.ringFill (s : State) (word a n : Nat) : Host.Outcome State Fault Refusal :=
  s.issue { word := word, legal := onTile, ssrc := [a], bad := 32 ≤ n } fun is s0 sv _ =>
    let s := s0.finishReadouts is.key
    match s.ringUse is.key n Ring.prod with
    | .error f => faultAll s is f
    | .ok r =>
      match s.ringSlot is.key n r (sval sv 0).toNat 1 with
      | .error f => faultAll s is f
      | .ok i => done (s.setRing (keyCore is.key) n { r with tags := r.tags.put i 2 })

/-- The head advanced over freed slots (R191). -/
def Ring.advance : Nat → Ring → Ring
  | 0, r => r
  | k + 1, r =>
    if r.head != r.take && r.tags.get 0 (r.head % r.count) == 0 then Ring.advance k { r with head := (r.head + 1) % 2 ^ 32 }
    else r

/-- rfree (R191). -/
def State.ringFree (s : State) (word a n : Nat) : Host.Outcome State Fault Refusal :=
  s.issue { word := word, legal := onTile, ssrc := [a], bad := 32 ≤ n } fun is s0 sv _ =>
    let s := s0.finishReadouts is.key
    match s.ringUse is.key n Ring.cons with
    | .error f => faultAll s is f
    | .ok r =>
      match s.ringSlot is.key n r (sval sv 0).toNat 3 with
      | .error f => faultAll s is f
      | .ok i => done (s.setRing (keyCore is.key) n (Ring.advance r.count { r with tags := r.tags.put i 0 }))

/-- rwaitf (R191). -/
def State.ringTake (s : State) (word d n : Nat) : Host.Outcome State Fault Refusal :=
  s.issue { waitOp word onTile with sdst := [d], bad := 32 ≤ n } fun is s _ _ =>
    match s.ringUse is.key n Ring.cons with
    | .error f => faultAll s is f
    | .ok _ => s.block is fun _ => .rwaitf n d

/-- rwaite (R189). -/
def State.ringRoom (s : State) (word n : Nat) : Host.Outcome State Fault Refusal :=
  s.issue { waitOp word onTile with bad := 32 ≤ n } fun is s _ _ =>
    match s.ringUse is.key n Ring.prod with
    | .error f => faultAll s is f
    | .ok _ => s.block is fun _ => .rwaite n

/-! ### rbind (R193) -/

/-- Whether a binding word of ring-stream register `k` is valid (R193). -/
def ringWordOk (k : Nat) (w : DWord) : Bool :=
  let core := bits w 8 8
  bits w 24 40 == 0 && !bit w 7 && !bit w 5 &&
  (if !bit w 6 then bits w 0 24 == 0
   else if k < 2 then bits w 16 8 == 0 && core == 0xFF
   else core < 64 || core == 0xFF)

/-- rbind. A binding to a ring of the issuing core is checked for reasons 1 and 3, and the word for reason 9; the lowest is
raised (R58, R188, R193). -/
def State.ringBind (s : State) (word k a : Nat) : Host.Outcome State Fault Refusal :=
  s.issue { word := word, legal := 0x08, ssrc := [a], bad := 4 ≤ k } fun is s sv _ =>
    let w := sval sv 0
    let n := bits w 0 5
    let r := s.ringAt (keyCore is.key) n
    let here := bits w 8 8 == 0xFF || bits w 8 8 == keyCore is.key
    if bit w 6 && here && r.holder != some (s.jobOf is.key 0) then faultAll s is (ringFault is.key n 1)
    else if bit w 6 && here && r.cls != 1 then faultAll s is (ringFault is.key n 3)
    else if !ringWordOk k w then faultAll s is (ringFault is.key n 9)
    else done (s.modCtl is.key 0 fun c => { c with ringIn := c.ringIn.set 0 k w })

/-! ### rinit (R185, R192) -/

/-- Whether a control block keeps the rules of R185 for a job whose slots may lie from `lo` up to `hi`. -/
def controlBlockOk (b : List Byte) (lo hi : Nat) : Bool :=
  let f (o n : Nat) : Nat := leNat ((b.drop o).take n)
  let size := f 4 4
  let count := f 8 2
  f 0x0B 1 < 4 && f 0x0E 1 == 0 && (b.drop 0x10).all (· == 0) &&
  (count == 0 ||
    (count ≤ 256 && 2 ^ Nat.log2 count == count && f 0 4 % 64 == 0 && f 0x0A 1 < 2 && f 0x0C 1 < 32 && f 0x0D 1 < 32 &&
     (if f 0x0A 1 == 0 then size % 64 == 0 && 64 ≤ size && size ≤ 0x100000
      else size % 4 == 0 && 4 ≤ size && size ≤ 256 && f 0x0D 1 == 8) &&
     lo ≤ f 0 4 && f 0 4 + count * size ≤ hi))

/-- Whether a stream waits on a ring, or is stalled at issue on an element of it (R192). -/
def Ctl.waitsOnRing (c : Ctl) (n : Nat) : Bool :=
  match c.waiting with
  | some (.rwaitf r _) => r == n
  | some (.rwaite r) => r == n
  | _ => c.stall.any fun x => match x with | .elements r _ => r == n | _ => false

/-- Waits of the job's streams on a ring of a core end: each stream takes reason 7 where it waits, in R377's order. Bindings
to the ring go, and elements on their way to it, of which the trap has reason 13 (R192, R194, log 32). -/
def State.loseRing (s : State) (slot core n : Nat) : State :=
  (upTo 5).foldl (fun s e =>
    let key := streamKey core (s.jobCtx slot) e
    let c := s.ctlAt key 0
    let bound (w : DWord) : Bool := bits w 0 5 == n && (bits w 8 8 == 0xFF || bits w 8 8 == core)
    let s1 := s.setCtl key 0
      { c with ringIn := c.ringIn.filter fun b => !bound b.2
               retire := c.retire.map fun x => x.loseElements key n fun e => bound (c.ringIn.get 0 e.1) }
    if c.waitsOnRing n then
      s1.owe slot key { ord := s.nextId, cause := 0x10, cls := 3, info := (ringFault key n 7).info, atDelivery := false,
                        byHandler := c.handling }
    else s1) s

/-- Generation after another (R186). -/
def nextGen (g : Nat) : Nat := if g % 256 == 255 then 1 else g % 256 + 1

/-- rinit. -/
def State.ringInit (s : State) (word a n : Nat) : Host.Outcome State Fault Refusal :=
  s.issue { word := word, legal := onTile, ssrc := [a], bad := 32 ≤ n } fun is s0 sv _ =>
    let s := s0.finishReadouts is.key
    let core := keyCore is.key
    let slot := s.jobOf is.key 0
    let card := (s.slotAt slot).card
    let r := s.ringAt core n
    let addr := (sval sv 0).toNat
    if r.holder.isSome && r.holder != some slot then faultAll s is (ringFault is.key n 2)
    else if addr % 64 != 0 then faultAll s is (ringFault is.key n 6)
    else
      match s.apertureBytes is.key 0 addr 64 with
      | .error f => faultAll s is f
      | .ok b =>
        let f (o k : Nat) : Nat := leNat ((b.drop o).take k)
        if !controlBlockOk b (cardBase card * 4096) (saveImage card) then faultAll s is (ringFault is.key n 6)
        else
          let s1 := (s.dropWaiting core n).loseRing slot core n
          if f 8 2 == 0 then done (s1.setRing core n { r with holder := none })
          else
            let g := nextGen r.gen
            let s2 := s1.setRing core n
              { holder := some slot, gen := g, base := f 0 4, slotSize := f 4 4, count := f 8 2, cls := f 0x0A 1,
                flags := f 0x0B 1, prod := f 0x0C 1, cons := f 0x0D 1 }
            done (s2.locWrite (locKey core (apertureOff addr + 15)) [BitVec.ofNat 8 g])

/-! ### rpush (R195 to R197) -/

/-- Whether a push descriptor is valid (R195): of its targets, the NT that are used (log 32). -/
def pushOk (b : List Byte) : Bool :=
  let f (o n : Nat) : Nat := leNat ((b.drop o).take n)
  let nt := f 0x44 1
  1 ≤ nt && nt ≤ 16 && 1 ≤ f 0x40 4 && f 0x40 4 ≤ 0x100000 && f 0x45 1 < 2 && f 0x46 2 == 0 &&
  (b.drop 0x4C).all (· == 0) &&
  (upTo nt).all fun j =>
    let t := f (4 * j) 4
    bitsN t 0 8 < 64 && bitsN t 13 3 == 0 && bitsN t 24 8 == 0

/-- One delivery for each target of a push takes up its way (R195). -/
def State.sendPush (s : State) (key slot id : Nat) (b : List Byte) (bytes : List Byte) : State :=
  let f (o n : Nat) : Nat := leNat ((b.drop o).take n)
  (upTo (f 0x44 1)).foldl (fun s j =>
    let t := f (4 * j) 4
    s.launch (.delivery { key := key, job := slot, source := .push id j, core := bitsN t 0 8, ring := bitsN t 8 5,
                          gen := bitsN t 16 8, head := bytes })) s

/-- rpush. The source bytes are read at issue (log 21). -/
def State.ringPush (s : State) (word src p : Nat) : Host.Outcome State Fault Refusal :=
  s.issue { word := word, legal := onTile, ssrc := [p, src], completes := true } fun is s0 sv _ =>
    let s := s0.finishReadouts is.key
    let slot := s.jobOf is.key 0
    let desc := (sval sv 0).toNat
    let from_ := (sval sv 1).toNat
    if desc % 128 != 0 then faultAll s is (ringFault is.key 0 10)
    else
      match s.apertureBytes is.key 0 desc 128 with
      | .error f => faultAll s is f
      | .ok b =>
        let f (o n : Nat) : Nat := leNat ((b.drop o).take n)
        if !pushOk b then faultAll s is (ringFault is.key 0 10)
        else
          match s.apertureBytes is.key 0 from_ (f 0x40 4) with
          | .error f => faultAll s is f
          | .ok bytes =>
            if 32 ≤ s.commandsOut is.key then { st := s, needs := [.copySlot] }
            else
              let c := s.ctlAt is.key 0
              let nt := f 0x44 1
              let push : Push :=
                { key := is.key, job := slot, desc := locKey (keyCore is.key) (apertureOff desc), fou := bitN (f 0x45 1) 0,
                  status := List.replicate nt 0, ringsOf := (upTo nt).map fun j => bitsN (f (4 * j) 4) 8 5,
                  g := if keyEng is.key == 0 then 0 else bitsN word 8 4, byHandler := c.handling, iaddr := c.pc }
              done ((s.launch (.push push)).sendPush is.key slot s.nextId b bytes)

end Sys2Proof.Machine
end

