-- ==== Sys2Proof/Machine/CopyOps.lean ====
section
/-! DEFINITION. Copy commands at work: the elements they move (R207 to R219), how they complete (R204, R190, R216) and
how they stop (R211, R216), and their issue (R199 to R214). -/

namespace Sys2Proof.Machine

/-! ### Checksums (R215) -/

/-- CRC-32C continued over one byte. -/
def crc32c (c : Nat) (b : Byte) : Nat :=
  let x0 := Nat.xor (2 ^ 32 - 1 - c % 2 ^ 32) b.toNat
  let x := (upTo 8).foldl (fun x _ => if x % 2 == 1 then Nat.xor (x / 2) 0x82F63B78 else x / 2) x0
  2 ^ 32 - 1 - x

/-- The word sum continued over one byte at a place of its word; the bytes of a word may be added one at a time, since the
sum is one modulo 2^32 - 1. -/
def wordSum (c place : Nat) (b : Byte) : Nat :=
  let v := c + b.toNat * 256 ^ (place % 4)
  if 2 ^ 32 ≤ v then v - 2 ^ 32 + 1 else v

/-! ### BFX blocks (R38, R39, R218) -/

/-- A format of R218. -/
def bfxFmt (code : Nat) : Fmt := if code == 0 then .fp32 else if code == 1 then .fp64 else if code == 2 then .bf16 else .fp16

/-- The 32 elements of a source block, missing ones +0. -/
def bfxElems (code : Nat) (bs : List Byte) : List Nat :=
  (upTo 32).map fun j => leNat ((bs.drop (j * bfxElem code)).take (bfxElem code))

/-- S_rank of a block and its flags (R38, R18). A block with a NaN or an infinity and also a finite magnitude above
2^127 * 8191/4096 meets two rows of R38's table, of which one sets OF and the other does not: it sets no OF here (log 35). -/
def bfxScale (code : Nat) (ws : List Nat) : Nat × Fl :=
  let vals := ws.map (unpackF (bfxFmt code))
  if vals.any (fun v => match v with | .num _ _ _ => false | _ => true) then
    (0xFF000, vals.foldl (fun f v => f ||| sigFlag v) 0)
  else
    let top := vals.foldl (fun (acc : FVal) v => match v with
      | .num _ m e => if ltV false acc (.num false m e) then .num false m e else acc
      | _ => acc) (.num false 0 0)
    match top with
    | .num _ m e =>
      if m == 0 then (0, 0) else match s20Up m e with | some c => (c, 0) | none => (0xFF000, flOF)
    | _ => (0, 0)

/-- q of an element under a scale, and its flags (R18, R39, R218). Under a poisoned scale a signalling NaN sets NV beside SPOISON
(log 35). -/
def bfxQ (s : S20) (x : FVal) : Int × Fl :=
  match s, x with
  | .zero, .nan _ => (0, flNV)
  | .zero, .inf _ => (0, flNV)
  | .zero, .num _ m _ => (0, flIf (m != 0) flNX)
  | .poison, x => (0, flSPOISON ||| sigFlag x)
  | .val _ _, .nan _ => (0, flNV)
  | .val _ _, .inf _ => (0, flNV)
  | .val sm se, .num neg m e =>
    let k := e - se + 55
    let num := m * 2 ^ k.toNat
    let den := sm * 2 ^ (-k).toNat
    let q := num / den
    let r := num % den
    let q1 := if den < 2 * r || (2 * r == den && q % 2 == 1) then q + 1 else q
    if 2 ^ 63 - 1 < q1 then ((if neg then -(2 ^ 63 - 1 : Int) else 2 ^ 63 - 1), flOF ||| flNX)
    else ((if neg then -(q1 : Int) else (q1 : Int)), flIf (r != 0) flNX)

/-- An output element from its sum (R39, R218). -/
def bfxOut (code : Nat) (s : S20) (sum : Int) : Nat × Fl :=
  match s with
  | .zero => (0, 0)
  | .poison => ((bfxFmt code).nan, flSPOISON)
  | .val m e => roundConv (bfxFmt code) .rne (.num (sum < 0) (sum.natAbs * m) (e - 55))

/-! ### Accesses of a command -/

/-- The place of one byte that a command accesses, or its REASON and FADDR (R211): an aperture address in the job's region
on a core, or memory. `localOnly` holds where the address must be an aperture address (R209, R219). -/
def State.copyByte (s : State) (c : Cmd) (core : Nat) (localOnly : Bool) (a : Acc) (va : Nat) :
    Except (Nat × Nat) (State × Place) :=
  let card := (s.slotAt c.job).card
  if localOnly || inAperture va then
    let off := apertureOff va
    if off < cardBase card * 4096 || (cardBase card + cardSize card) * 4096 ≤ off then .error (4, va)
    else .ok (s, .loc (locKey core off))
  else
    match s.translate (cardPart card) (tlbPath c.key false va) true a va with
    | .error f => .error (if f.cause == 0x0A then 3 else if a == .read then 1 else 2, va)
    | .ok (s1, e) =>
      let pa := e.ppage * 2 ^ e.lg + va % 2 ^ e.lg
      if s1.failedLinks.contains (pa / 2 ^ 46) then .error (6, va)
      else .ok (s1, .phys pa (bitsN e.bits 10 2) (bitsN e.bits 8 2) (cardPart card))

/-- The places of `n` bytes from an address, up to the lowest that fails: a byte that is read fails where it is poisoned
(R211, R218). -/
def State.copyPlaces (s : State) (c : Cmd) (core : Nat) (localOnly : Bool) (a : Acc) (va : Nat) :
    Nat → Except (Nat × Nat) (State × List Place)
  | 0 => .ok (s, [])
  | n + 1 =>
    match s.copyByte c core localOnly a (va % 2 ^ 64) with
    | .error e => .error e
    | .ok (s1, p) =>
      if a != .write && s1.placePoisoned p 1 then .error (5, va % 2 ^ 64)
      else
        match State.copyPlaces s1 c core localOnly a (va + 1) n with
        | .error e => .error e
        | .ok (s2, ps) => .ok (s2, p :: ps)

/-- Runs of places within one sector each: the first place of each run and its bytes. -/
def placeRuns : List Place → List (Place × Nat)
  | [] => []
  | p :: ps =>
    match p, placeRuns ps with
    | .phys pa mtype grain part, (.phys next m g q, n) :: rest =>
      if next == pa + 1 && next % 64 != 0 then (.phys pa mtype grain part, n + 1) :: rest
      else (.phys pa mtype grain part, 1) :: (.phys next m g q, n) :: rest
    | p, runs => (p, 1) :: runs

/-- An access of a command reaches the home of its sector, which charges the sector to the command's partition once; a sector of
a peer's cached page is charged at the peer's controllers too (R217, R220). -/
def State.noteSector (s : State) (c : Cmd) (k : MsgKind) (p : Place) (n : Nat) (undo : List (Nat × Byte × Byte)) :
    State × Cmd :=
  match p with
  | .loc _ => (s, c)
  | .phys pa mtype grain part =>
    let met := if k == .homeRead then c.rd else c.wr
    let s0 := if s.remote pa && mtype == 0 && !met.contains (pa / 64) then s.countPeer part pa else s
    let s1 := s0.send
      { kind := k, unit := unitOf grain pa, grain := grain, mtype := mtype, part := part, slot := some c.job, src := 31,
        dst := 31, addr := pa, len := n, ep := keyCore c.key, uncharged := met.contains (pa / 64),
        undo := undo }
    (s1, if met.contains (pa / 64) then c
         else if k == .homeRead then { c with rd := (pa / 64) :: met } else { c with wr := (pa / 64) :: met })

/-- The accesses of a command to some places, and what they overwrite in external memory (R400). -/
def State.noteCopy (s : State) (c : Cmd) (k : MsgKind) (ps : List Place) (undo : List (Nat × Byte × Byte) := []) :
    State × Cmd :=
  (placeRuns ps).foldl (fun acc x => acc.1.noteSector acc.2 k x.1 x.2 undo) (s, c)

/-- What a command's bytes overwrite in external memory itself (R400). -/
def State.copyUndo (s : State) (ps : List Place) (bs : List Byte) : List (Nat × Byte × Byte) :=
  (ps.zip bs).flatMap fun x => s.storeUndo 31 x.1 [x.2]

/-- Bytes at places read. -/
def State.bytesAt (s : State) (ps : List Place) : List Byte := ps.map fun p => BitVec.ofNat 8 (s.placeRead p 1)

/-- Bytes written at places, one beside the other; granules written whole lose their poison (R371). -/
def State.copyStore (s : State) (ps : List Place) (bs : List Byte) : State :=
  let s1 := (ps.zip bs).foldl (fun s x => s.sendStore none x.1 [x.2]) s
  let locs := ps.filterMap fun p => match p with | .loc k => some k | _ => none
  let s2 := (placeRuns ps).foldl (fun s x => if x.2 == 64 then s.cleanSector 31 x.1 else s) s1
  { s2 with poisonLoc := s2.poisonLoc.filter fun e => !((upTo 8).all fun i => locs.contains (8 * e.1 + i)) }

/-- Bytes stored by a command that only writes them. -/
def State.copyPut (s : State) (c : Cmd) (ps : List Place) (bs : List Byte) : State × Cmd :=
  (s.copyStore ps bs).noteCopy c .homeWrite ps (s.copyUndo ps bs)

/-- Of two accesses of one element, the failure with the lower address (R218). -/
def lowerFail {α β : Type} (x : Except (Nat × Nat) α) (y : Except (Nat × Nat) β) : Except (Nat × Nat) Unit :=
  match x, y with
  | .error a, .error b => .error (if b.2 < a.2 then b else a)
  | .error a, .ok _ => .error a
  | .ok _, .error b => .error b
  | .ok _, .ok _ => .ok ()

/-! ### Elements -/

/-- Cores that a linear command writes to. -/
def Cmd.targets (c : Cmd) : List Nat :=
  if c.isMc then (upTo 64).filter fun i => bit (c.z.getD 2 0) i
  else [if ctlDcore c.z0 == 0xFF then keyCore c.key else ctlDcore c.z0]

/-- Places of one byte on every core that a command writes to. -/
def State.targetPlaces (s : State) (c : Cmd) (va : Nat) : List Nat → Except (Nat × Nat) (State × List Place)
  | [] => .ok (s, [])
  | core :: rest =>
    match s.copyByte c core (c.isMc || ctlDcore c.z0 != 0xFF) .write va with
    | .error e => .error e
    | .ok (s1, p) =>
      match State.targetPlaces s1 c va rest with
      | .error e => .error e
      | .ok (s2, ps) => .ok (s2, p :: ps)

/-- The granule that a byte of a linear copy completes loses its poison (R371). -/
def State.clearGranule (s : State) (p : Place) (pos : Nat) : State :=
  match p with
  | .loc k => if k % 8 == 7 && 7 ≤ pos then { s with poisonLoc := s.poisonLoc.del (k / 8) } else s
  | .phys pa _ _ _ => if pa % 64 == 63 && 63 ≤ pos then s.cleanSector 31 p else s

/-- A byte of a linear copy: its sector, which the bytes up to its end or the command's end share, is met once (R210,
R220). -/
def State.noteStream (s : State) (c : Cmd) (k : MsgKind) (p : Place) (n : Nat) (undo : List (Nat × Byte × Byte)) :
    State × Cmd :=
  match p with
  | .loc _ => (s, c)
  | .phys pa _ _ _ =>
    let last := if k == .homeRead then c.rd else c.wr
    if last == [pa / 64] then (s, c)
    else s.noteSector (if k == .homeRead then { c with rd := [] } else { c with wr := [] }) k p n undo

/-- The bytes that a linear copy is about to write from its present one on: those at its source. -/
def State.copyAhead (s : State) (c : Cmd) (src n : Nat) (b : Byte) : List Byte :=
  match s.copyPlaces c (keyCore c.key) false .read src n with
  | .ok (_, ps) => s.bytesAt ps
  | .error _ => [b]

/-- One byte of copy, copy.ck, copy.ckv or copy.mc (R209, R215, R219); a checksum takes the byte as it stands at the
destination (R216, R397). -/
def State.copyLinear (s : State) (c : Cmd) : Except (Nat × Nat) (State × Cmd) :=
  let src := (c.y.toNat + c.pos) % 2 ^ 64
  let dst := (c.x.toNat + c.pos) % 2 ^ 64
  let left := c.nominal - c.pos
  match s.copyByte c (keyCore c.key) false .read src with
  | .error e => .error e
  | .ok (s1, p) =>
    if s1.placePoisoned p 1 then .error (5, src)
    else
      match s1.targetPlaces c dst c.targets with
      | .error e => .error e
      | .ok (s2, ps) =>
        let b : Byte := BitVec.ofNat 8 (s2.placeRead p 1)
        let (s3, c1) := s2.noteStream c .homeRead p (minN left (64 - src % 64)) []
        let s4 := ps.foldl (fun s q => (s.sendStore none q [b]).clearGranule q c.pos) s3
        let n := minN left (64 - dst % 64)
        let (s5, c2) := ps.foldl (fun (acc : State × Cmd) q =>
          acc.1.noteStream acc.2 .homeWrite q n (s2.storeUndo 31 q (s2.copyAhead c src n b))) (s4, c1)
        let kept : Byte := match ps with | q :: _ => BitVec.ofNat 8 (s5.placeRead q 1) | [] => b
        let run := if !c.isCk then c.run else if ctlCkind c.z0 == 0 then crc32c c.run kept else wordSum c.run c.pos kept
        .ok (s5, { c2 with run := run })

/-- One element of ldt or stt (R207). -/
def State.copyBox (s : State) (c : Cmd) : Except (Nat × Nat) (State × Cmd) :=
  let e := tenE c.tensor
  let core := keyCore c.key
  let dense := (c.x.toNat + e * c.pos) % 2 ^ 64
  match tensorAt c.tensor c.box (boxCoords c.box c.pos) with
  | none =>
    if c.f == 1 then .ok (s, c)
    else
      match s.copyPlaces c core false .write dense e with
      | .error x => .error x
      | .ok (s1, ps) => .ok (s1.copyPut c ps (leBytes e (fillValue c.tensor)))
  | some t =>
    match s.copyPlaces c core false .read (if c.f == 0 then t else dense) e with
    | .error x => .error x
    | .ok (s1, src) =>
      match s1.copyPlaces c core false .write (if c.f == 0 then dense else t) e with
      | .error x => .error x
      | .ok (s2, ps) =>
        let bs := s2.bytesAt src
        let (s3, c1) := s2.noteCopy c .homeRead src
        .ok (s3.copyPut c1 ps bs)

/-- What one position of copy.red reads and writes, both resolved before either changes anything: the state and the command
after the reads, the bytes at both, and the places of the second. -/
def State.copyPair (s : State) (c : Cmd) (a : Acc) (src n dst m : Nat) :
    Except (Nat × Nat) (State × Cmd × List Byte × List Place × List Byte) :=
  let core := keyCore c.key
  match lowerFail (s.copyPlaces c core false .read src n) (s.copyPlaces c core false a dst m) with
  | .error e => .error e
  | .ok () =>
    match s.copyPlaces c core false .read src n with
    | .error e => .error e
    | .ok (s1, ss) =>
      match s1.copyPlaces c core false a dst m with
      | .error e => .error e
      | .ok (s2, ds) =>
        let (s3, c1) := s2.noteCopy c .homeRead ss
        .ok (s3, c1, s2.bytesAt ss, ds, s2.bytesAt ds)

/-- The result of one position of copy.red, by one atomic for each sector of the destination (R217). -/
def State.copyCombine (s : State) (c : Cmd) (all ps : List Place) (bs : List Byte) (f : Fl) : State × Cmd :=
  (s.copyStore ps bs).noteCopy { c with fl := Nat.lor c.fl f.toNat } .atomFar all (s.copyUndo ps bs)

/-- The combination of two 32-bit elements (R217 OP 0 to 3). -/
def redElem (op : Nat) (rm : Rm) (d x : Nat) : Nat × Fl :=
  if op == 0 then ((d + x) % 2 ^ 32, 0)
  else if op == 1 then fop2 .fadd .fp32 rm d x
  else if op == 2 then minMaxF .fp32 true d x
  else minMaxF .fp32 false d x

/-- One element position of copy.red (R217, R218). -/
def State.copyReduce (s : State) (c : Cmd) : Except (Nat × Nat) (State × Cmd) :=
  let op := ctlOp c.z0
  let fmt := ctlFmt c.z0
  let src := (c.y.toNat + c.pos * c.unit) % 2 ^ 64
  let n := minN c.unit (c.nominal - c.pos * c.unit)
  if op < 4 then
    match s.copyPair c .rmw src 4 ((c.x.toNat + 4 * c.pos) % 2 ^ 64) 4 with
    | .error e => .error e
    | .ok (s1, c1, bs, ps, ds) =>
      let (v, f) := redElem op (rmOf c.rm) (leNat ds) (leNat bs)
      .ok (s1.copyCombine c1 ps ps (leBytes 4 v) f)
  else if op == 4 then
    match s.copyPair c .rmw src n ((c.x.toNat + 520 * c.pos) % 2 ^ 64) 8 with
    | .error e => .error e
    | .ok (s1, c1, bs, ps, ds) =>
      let (v, f) := bfxScale fmt (bfxElems fmt bs)
      .ok (s1.copyCombine c1 ps ps (leBytes 8 (maxN (leNat ds % 2 ^ 20) v)) f)
  else if op == 5 then
    match s.copyPair c .rmw src n ((c.x.toNat + 520 * c.pos) % 2 ^ 64) 520 with
    | .error e => .error e
    | .ok (s1, c1, bs, ps, ds) =>
      let sc := s20Of (leNat (ds.take 8))
      let qs := (bfxElems fmt bs).map fun w => bfxQ sc (unpackF (bfxFmt fmt) w)
      let out := qs.zipIdx.flatMap fun x =>
        leBytes 16 ((leNat ((ds.drop (8 + 16 * x.2)).take 16) + wrapN 128 x.1.1) % 2 ^ 128)
      .ok (s1.copyCombine c1 ps (ps.drop 8) out (qs.foldl (fun f q => f ||| q.2) 0))
  else
    let m := 32 * bfxElem fmt
    match s.copyPair c .write src 520 ((c.x.toNat + m * c.pos) % 2 ^ 64) m with
    | .error e => .error e
    | .ok (s1, c1, bs, ps, _) =>
      let sc := s20Of (leNat (bs.take 8))
      let os := (upTo 32).map fun j => bfxOut fmt sc (signedN 128 (leNat ((bs.drop (8 + 16 * j)).take 16)))
      let fl : Fl := os.foldl (fun f o => f ||| o.2) 0
      .ok (s1.copyPut { c1 with fl := Nat.lor c.fl fl.toNat } ps (os.flatMap fun o => leBytes (bfxElem fmt) o.1))

/-- The next element of a command. -/
def State.copyElement (s : State) (c : Cmd) : Except (Nat × Nat) (State × Cmd) :=
  match (if c.isBox then s.copyBox c else if c.isRed then s.copyReduce c else s.copyLinear c) with
  | .error e => .error e
  | .ok (s1, c1) => .ok (s1, { c1 with pos := c.pos + 1 })

/-- Up to `n` further elements: where the command stands then, and why it stopped. -/
def State.copyRun (s : State) (c : Cmd) : Nat → State × Cmd × Option (Nat × Nat)
  | 0 => (s, c, none)
  | n + 1 =>
    match s.copyElement c with
    | .error e => (s, c, some e)
    | .ok (s1, c1) => State.copyRun s1 c1 n

/-! ### Streams that may be away (R120, R402) -/

/-- A scalar register of a job's stream written where it now is: in the stream, or in the save image of an evicted job. -/
def State.putScalar (s : State) (slot key n : Nat) (v : DWord) : State :=
  if (s.slotAt slot).state == 4 then
    s.locWrite (s.savedArea slot (keyCore key) (keyEng key) + 0x20 + 8 * n) (leBytes 8 v.toNat)
  else s.sset key n v

/-- Copy commands of a job's stream still out, kept current in the save image of an evicted job (R402 OUTSTANDING). -/
def State.noteOutstanding (s : State) (slot key : Nat) : State :=
  if (s.slotAt slot).state != 4 then s
  else
    let n := (s.flights.filter fun e => match e.2 with
      | .copy c => c.key == key && c.job == slot
      | .push p => p.key == key && p.job == slot
      | .ret r => r.key == key && r.job == slot
      | _ => false).length
    s.locWrite (s.savedArea slot (keyCore key) (keyEng key) + 0x1D8) (leBytes 8 (n % 64))

/-- Pending checksum registers brought up to date (R216, R402 PENDREG). -/
def State.refreshPending (s : State) (slot key r : Nat) : State :=
  if s.checksumPending slot key r then s
  else if (s.slotAt slot).state == 4 then
    let k := s.savedArea slot (keyCore key) (keyEng key) + 0x1D0
    s.locWrite k (leBytes 8 (setBitsN (s.locRead k 8) r 1 0))
  else s.modCtl key 0 fun x => { x with pendRegs := x.pendRegs.filter (· != r) }

/-! ### Completion (R204, R190) -/

/-- The object that a completion word names, for one operation of the command. -/
def State.copyObject (s : State) (c : Cmd) : Except (Nat × Nat) (State × Place) :=
  let addr := complAddr c.compl
  match s.copyByte c (keyCore c.key) false .rmw addr with
  | .error e => .error e
  | .ok (s1, p) => if s1.placePoisoned p 16 then .error (5, addr) else .ok (s1, p)

/-- A deferred fault of a command's completion recorded for its stream. -/
def State.oweCompletion (s : State) (id : Nat) (c : Cmd) (f : Flt) : State :=
  s.owe c.job c.key { ord := id, cause := f.cause, cls := 3, info := f.info, atDelivery := true, byHandler := false }

/-- A command's future resolved (1) or failed (2) with a value (R204, R346). -/
def State.copyFuture (s : State) (id : Nat) (c : Cmd) (value state : Nat) : Except (Nat × Nat) State :=
  let addr := complAddr c.compl
  match s.copyObject c with
  | .error e => .error e
  | .ok (s1, p) =>
    let v := s1.placeRead p 8
    let failed := s1.objectRead (keyCore c.key) c.job p
    if futState v == 3 then .ok (failed.oweCompletion id c (objectFault 0x23 2 addr))
    else if futState v != 0 then .ok (failed.oweCompletion id c (fltOf 0x24 addr))
    else
      let s2 := s1.objectStore (keyCore c.key) c.job .rmw p (futureBytes state (futCard v) value)
      .ok (if futCard v == 0xFFFF then s2 else s2.decrementJoin (futCard v))

/-- A command's bytes signalled to its ring slot (R190): reasons 7 and 12 are deferred. -/
def State.copyRingSlot (s : State) (id : Nat) (c : Cmd) : State :=
  let core := keyCore c.key
  let r := s.ringAt core c.ring
  if r.gen != c.ringGen || r.holder != some c.job then s.oweCompletion id c (ringFault c.key c.ring 7)
  else
    match r.slotAt (complAddr c.compl) with
    | none => s.oweCompletion id c (ringFault c.key c.ring 12)
    | some i =>
      match r.signal i c.nominal with
      | none => s.oweCompletion id c (ringFault c.key c.ring 12)
      | some r1 => s.setRing core c.ring r1

/-- Whether a copy.ckv finds its checksum other than expected (R216). -/
def Cmd.mismatch (c : Cmd) : Bool := c.maj == 0x35 && c.f == 1 && c.run != bits (c.z.getD 3 0) 0 32

/-- The completion object signalled (R204). -/
def State.signalCopy (s : State) (id : Nat) (c : Cmd) : Except (Nat × Nat) State :=
  let k := complKind c.compl
  if k == 1 then
    match s.copyObject c with
    | .error e => .error e
    | .ok (s1, p) =>
      .ok (s1.objectStore (keyCore c.key) c.job .rmw p (leBytes 16 (barPend (s1.placeRead p 16) (2 ^ 64 - c.nominal % 2 ^ 64))))
  else if k == 2 then
    if c.mismatch then s.copyFuture id c c.run 2
    else s.copyFuture id c (if c.isCk then c.run else c.nominal % 2 ^ 32) 1
  else if k == 3 then .ok (s.copyRingSlot id c)
  else .ok s

/-! ### Stopping (R211, R216) -/

/-- One command stopped: its future fails at once, and its fault is owed to the stream. -/
def State.stopOne (s : State) (id : Nat) (c : Cmd) (reason faddr : Nat) : State :=
  let c1 := { c with stop := some (reason, faddr), chained := c.chained || reason == 7, after := none }
  let s1 := s.setFlight id (.copy c1)
  let s2 := if complKind c.compl == 2 then
      match s1.copyFuture id c1 reason 2 with
      | .ok s2 => s2
      | .error _ => s1
    else s1
  let record := 0xFFFFFFFFFF000000 + copyRecordOff (s2.slotAt c.job).card c.key
  s2.owe c.job c.key
    { ord := id, cause := 0x12, cls := 3, info := BitVec.ofNat 64 record, atDelivery := true, byHandler := false }

/-- A command stopped, and with it every later link of its checksum chain (R216). -/
def State.stopCopy (s : State) (id : Nat) (c : Cmd) (reason faddr : Nat) : State :=
  let s1 := s.stopOne id c reason faddr
  let r := s1.flights.foldl (fun (acc : State × List Nat) e => match e.2 with
    | .copy x =>
      match x.after with
      | some p => if acc.2.contains p && x.stop.isNone then (acc.1.stopOne e.1 x 7 0, e.1 :: acc.2) else acc
      | none => acc
    | _ => acc) (s1, [id])
  (r.1.writeCopyRecord c.job c.key).wakeDeferred c.job c.key

/-- What the accesses of an element that fails leave behind: the walks of its source and of the failing address, and the read of
poisoned data (R356, R358, R364). -/
def State.copyFailing (s : State) (c : Cmd) (reason faddr : Nat) : State :=
  let part := cardPart (s.slotAt c.job).card
  let walk (s : State) (va : Nat) : State := if inAperture va then s else s.walkKept part (tlbPath c.key false va) va
  let s1 := if c.isBox || c.count ≤ c.pos then s else walk s ((c.y.toNat + c.pos * c.unit) % 2 ^ 64)
  let s2 := if reason == 1 || reason == 2 || reason == 3 || reason == 5 then walk s1 faddr else s1
  if reason != 5 then s2
  else
    match s2.copyByte c (keyCore c.key) false .read faddr with
    | .ok (s3, p) => (s3.noteSector c .homeRead p 1 []).1
    | .error _ => s2

/-- A command stopped by an element that fails (R211). -/
def State.failCopy (s : State) (id : Nat) (c : Cmd) (reason faddr : Nat) : State :=
  (s.copyFailing c reason faddr).stopCopy id c reason faddr

/-- A command completed (R204, R216): its object, its checksum, the links that wait for it, its tokens and its flags. -/
def State.finishCopy (s : State) (id : Nat) (c : Cmd) : State :=
  match s.signalCopy id c with
  | .error (r, a) => s.failCopy id c r a
  | .ok s1 =>
    let s2 := s1.land id
    let s3 :=
      if !c.isCk then s2
      else
        let n := c.zreg + 2
        let s3 := { s2 with flights := s2.flights.map fun (e : Nat × Flight) => match e.2 with
          | .copy x =>
            if x.after == some id then (e.1, .copy { x with after := none, run := c.run })
            else if x.key == c.key && x.job == c.job && x.isCk && x.zreg == c.zreg && x.chained && x.stop.isSome then
              (e.1, .copy { x with run := c.run })
            else e
          | _ => e }
        (s3.putScalar c.job c.key n (BitVec.ofNat 64 c.run)).refreshPending c.job c.key n
    (((s3.pushCompletion c.job c.key c.g).putFlags c.job c.key (BitVec.ofNat 7 c.fl)).noteOutstanding c.job c.key).wakeDeferred
      c.job c.key

/-- A command that may move data now: it has not stopped and waits for no earlier link. -/
def Cmd.runs (c : Cmd) : Bool := c.stop.isNone && c.after.isNone

/-- A command performs its next element (R210). -/
def State.copyTurn (s : State) (id : Nat) : State :=
  match s.flights.find id with
  | some (.copy c) =>
    if c.runs && c.pos < c.count then
      match s.copyElement c with
      | .error (r, a) => s.failCopy id c r a
      | .ok (s1, c1) => s1.setFlight id (.copy c1)
    else s
  | _ => s

/-! ### Issue (R199 to R214) -/

/-- The copy-command fault (R213). -/
def copyCommandFault (reason : Nat) : Flt := fltOf 0x11 reason

/-- Whether the control word breaks R202 or R217 (reason 1). -/
def Cmd.controlBad (c : Cmd) : Bool :=
  if c.isBox then false
  else
    let w := c.z0
    let op := ctlOp w
    bits w 57 7 != 0 || bits w 53 3 != 0 || (ctlCkind w != 0 && !c.isCk) ||
    (!c.isRed && (op != 0 || ctlFmt w != 0)) ||
    ((c.isRed || c.isMc) && ctlDcore w != 0xFF) ||
    (ctlDcore w != 0xFF && !inAperture c.x.toNat) ||
    (c.isRed &&
      (op == 7 || (op < 4 && ctlFmt w != 0) || inAperture c.x.toNat ||
       ctlLen w % (if op < 4 then 4 else if op == 6 then 520 else bfxElem (ctlFmt w)) != 0))

/-- The ring of the job that a completion word's slot belongs to (R190, R203). -/
def State.slotRing (s : State) (c : Cmd) : Option Nat :=
  (upTo 32).find? fun n =>
    let r := s.ringAt (keyCore c.key) n
    r.holder == some c.job && r.cls == 0 && (r.slotAt (complAddr c.compl)).isSome

/-- A 64-byte record read for a command: misaligned, it is invalid (R205, R206). -/
def State.readRecord (s : State) (key addr : Nat) : Except Flt (State × List Byte) :=
  if addr % 64 != 0 then .error (copyCommandFault 3)
  else
    match s.memRead key 0 addr 64 with
    | .error f => .error f
    | .ok (s1, v) => .ok (s1, leBytes 64 v)

/-- Tensor record and box of a command, checked (R205, R206, R213 reason 3). -/
def State.readBox (s : State) (key rec_ box : Nat) : Except Flt (State × List Byte × List Byte) :=
  match s.readRecord key rec_ with
  | .error f => .error f
  | .ok (s1, t) =>
    match s1.readRecord key box with
    | .error f => .error f
    | .ok (s2, b) => if tensorOk t && boxOk t b then .ok (s2, t, b) else .error (copyCommandFault 3)

/-- The checks of R213 in order of reason, the records read between (R201 to R206, R219). -/
def State.checkCopy (s : State) (c : Cmd) : Except Flt (State × Cmd) :=
  let card := (s.slotAt c.job).card
  let cores := (s.slotAt c.job).cores
  let ring := if complKind c.compl == 3 then s.slotRing c else some 0
  if c.controlBad then .error (copyCommandFault 1)
  else if !complOk c.compl || ring.isNone then .error (copyCommandFault 2)
  else
    let c1 := { c with ring := ring.getD 0, ringGen := (s.ringAt (keyCore c.key) (ring.getD 0)).gen }
    if c.isBox then
      match s.readBox c.key c.y.toNat c.z0.toNat with
      | .error f => .error f
      | .ok (s1, t, b) =>
        let c2 := { c1 with recs := t ++ b }
        let lo := cardBase card * 4096
        let hi := (cardBase card + cardSize card) * 4096
        let off := apertureOff c.x.toNat
        if c.x.toNat % tenE t != 0 || off < lo || hi < off + c2.nominal then .error (copyCommandFault 3)
        else .ok (s1, c2)
    else if !c.isMc && ctlDcore c.z0 != 0xFF && !cores.contains (ctlDcore c.z0) then .error (copyCommandFault 4)
    else if c.isMc && ((upTo 64).any fun i => bit (c.z.getD 2 0) i && !cores.contains i) then .error (copyCommandFault 4)
    else .ok (s, c1)

/-- The last command of a stream that writes a checksum register, which a new link continues (R216); a resumed link continues
what has not stopped, or was itself resumed, and not the stopped links of the chain that is resumed (R214). -/
def State.chainTail (s : State) (c : Cmd) : Option (Nat × Cmd) :=
  s.flights.reverse.findSome? fun e => match e.2 with
    | .copy x =>
      if x.key == c.key && x.job == c.job && x.isCk && x.zreg == c.zreg && (!c.resumed || x.stop.isNone || x.resumed) then
        some (e.1, x)
      else none
    | _ => none

/-- A checked command taken up (R199): B = 0 completes at once, and a link of a stopped chain stops (R204, R216). -/
def State.startCopy (s : State) (c : Cmd) (tail : Option (Nat × Cmd)) : State :=
  let id := s.nextId
  let c1 := { c with after := tail.map (·.1) }
  let s1 := s.launch (.copy c1)
  let s2 := if c.isCk then s1.modCtl c.key 0 fun x =>
      { x with pendRegs := if x.pendRegs.contains (c.zreg + 2) then x.pendRegs else x.pendRegs ++ [c.zreg + 2] }
    else s1
  match tail with
  | some (_, p) => if p.stop.isSome then s2.stopCopy id c1 7 0 else s2
  | none => if c.nominal == 0 then s2.finishCopy id c1 else s2

/-- The effect of a copy command whose operands have been read. -/
def State.issueCopy (s : State) (is : Iss) (c : Cmd) : Eff :=
  match s.checkCopy c with
  | .error f => faultAll s is f
  | .ok (s1, c1) =>
    if 32 ≤ s1.commandsOut is.key then { st := s, needs := [.copySlot] }
    else done (s1.startCopy c1 (if c.isCk then s1.chainTail c1 else none))

/-- A copy command as it issues: its group of scalars from z. -/
def State.copyWord (s : State) (word maj f x y z : Nat) : Host.Outcome State Fault Refusal :=
  let quad := maj == 0x35 && f != 2
  let n := if quad then 4 else 2
  s.issue { word := word, legal := 0x12, ssrc := [y, x] ++ (upTo n).map (z + ·), completes := true,
            bad := 32 ≤ z || z % n != 0, chain := if quad && f < 2 then some (z + 2) else none }
    fun is s0 sv _ =>
      let s := s0
      s.issueCopy is
        { key := is.key, job := s.jobOf is.key 0, iaddr := (s.ctlAt is.key 0).pc, maj := maj, f := f, g := bitsN word 8 4,
          x := sval sv 1, y := sval sv 0, z := (upTo n).map fun i => sval sv (2 + i), zreg := z,
          rm := bits (s.ctlAt is.key 0).fmode 0 2,
          run := if quad && f < 2 then bits (sval sv 4) 0 32 else 0 }

/-- The command that a fault record describes, to be issued again from where it stopped (R214). -/
def resumeCmd (key job : Nat) (iaddr : DWord) (g rm : Nat) (reg : Nat → DWord) (r : List Byte) : Cmd :=
  let f (o n : Nat) : Nat := leNat ((r.drop o).take n)
  let d (o : Nat) : DWord := BitVec.ofNat 64 (f o 8)
  let maj := f 0x68 1
  let fn := f 0x69 1
  let quad := maj == 0x35 && fn != 2
  let c : Cmd :=
    { key := key, job := job, iaddr := iaddr, maj := maj, f := fn, g := g, x := d 0x08, y := d 0x10,
      z := (upTo (if quad then 4 else 2)).map fun i => d (0x18 + 8 * i), zreg := f 0x6C 1, rm := rm,
      chained := bitN (f 0x6D 1) 0 }
  { c with run := if c.chained then bits (reg (c.zreg + 2)) 0 32 else f 0x64 4 }

/-- copy.resume (R214). A record that no command could have left, by its ZREG, is met with reason 5 as well (log 6). -/
def State.copyResume (s : State) (word x : Nat) : Host.Outcome State Fault Refusal :=
  s.issue { word := word, legal := 0x12, ssrc := [x], completes := true, deliver := true } fun is s sv _ =>
    let addr := (sval sv 0).toNat
    if addr % 128 != 0 then faultAll s is (copyCommandFault 5)
    else
      match s.memRead is.key 0 addr 128 with
      | .error f => faultAll s is f
      | .ok (s1, v) =>
        let r := leBytes 128 v
        let c0 := s1.ctlAt is.key 0
        let c := resumeCmd is.key (s1.jobOf is.key 0) c0.pc (bitsN word 8 4) (bits c0.fmode 0 2) (s1.sget is.key) r
        let good := ((c.maj == 0x34 && c.f < 3) || (c.maj == 0x35 && c.f < 4)) && leNat ((r.drop 0x6E).take 1) == keyEng is.key + 1
        let n := if c.maj == 0x35 && c.f != 2 then 4 else 2
        if !good || 32 ≤ c.zreg || c.zreg % n != 0 then faultAll s is (copyCommandFault 5)
        else
          match s1.checkCopy c with
          | .error f => faultAll s is f
          | .ok (s2, c1) =>
            if 32 ≤ s2.commandsOut is.key then { st := s, needs := [.copySlot] }
            else
              let c2 := { c1 with pos := c1.posAfter (leNat ((r.drop 0x38).take 8)), chained := false, resumed := true }
              done (s2.startCopy c2 (if c.isCk && c.chained then s2.chainTail c2 else none))

/-- trec (R201, R208). -/
def State.tensorCount (s : State) (word d r b : Nat) : Host.Outcome State Fault Refusal :=
  s.issue { word := word, legal := 0x12, ssrc := [b, r], sdst := [d], bad := 32 ≤ b } fun is s sv _ =>
    match s.readBox is.key (sval sv 1).toNat (sval sv 0).toNat with
    | .error f => faultAll s is f
    | .ok (s1, t, x) => done (s1.sput is.key d (BitVec.ofNat 64 (tenE t * boxCount x)))

end Sys2Proof.Machine
end

