-- ==== Sys2Proof/Machine/Island.lean ====
section
/-! DEFINITION. The safety island: its registers, bring-up, measurement and attestation, restarts of reset domains, monitors
and the power limit (R385 to R394). An event whose time has not come leaves the state as it is (log 1). -/

namespace Sys2Proof.Machine

/-! ### What the island's registers show (R386, R387, R392) -/

/-- si_status of an island. -/
def Island.status (i : Island) : Nat :=
  minN i.lserr 255 * 2 ^ 32 + i.error * 2 ^ 24 + i.stage * 2 ^ 8 + b2n (i.phase == 2)

/-- si_cmd_stat of an island. -/
def Island.cmdStat (i : Island) : Nat :=
  i.restarts % 2 ^ 16 * 2 ^ 48 + i.withdrawn % 2 ^ 16 * 2 ^ 32 + i.queue.length % 256 * 2 ^ 24 + 2 * b2n i.lost +
  b2n (i.current.isSome || i.queue != [])

/-- The island changed, its read-only registers with it. -/
def State.setIsland (s : State) (i : Island) : State :=
  ({ s with island := i }.setCreg (dspBase + 0x8000) (BitVec.ofNat 64 i.status)).setCreg (dspBase + 0x8010)
    (BitVec.ofNat 64 i.cmdStat)

/-- si_tcap: loaded cores and the cap (R386, R394). -/
def State.tcap (s : State) : Nat :=
  b2n (decide (s.tileCap < s.loadedCores)) * 2 ^ 16 + s.loadedCores * 2 ^ 8 + s.tileCap

/-! ### Measurement and bring-up (R388, R389, R391) -/

/-- Bytes of a free value: `n` of them (log 2). -/
def freeBytes (k n : Nat) : List Byte := (upTo n).map fun j => (Config.freeValue (k + j)).setWidth 8

/-- LENGTH of an image, the bytes of its body, and VERSION, as 8 bytes; R388's fields fill 60 of the header's 64 bytes, and
VERSION stands aligned at 0x10 (R388, log 9). -/
def imageLength (im : List Byte) : Nat := leNat ((im.drop 8).take 4)
def imageVersion (im : List Byte) : List Byte := (im.drop 16).take 8

/-- Header and body of an image (R388). -/
def imageText (im : List Byte) : List Byte := im.take (64 + imageLength im)

/-- Whether an image of a KIND verifies: its magic, its KIND, its size, and its signature against the key whose digest is
fused into the part (R388). -/
def imageOk (kind : Nat) (im : List Byte) : Bool :=
  im.take 4 == [0x51#8, 0x49#8, 0x4D#8, 0x47#8] && im.getD 4 0 == BitVec.ofNat 8 kind &&
  im.length == 64 + imageLength im + 7856 && Config.sha256 Config.bootKey == Config.keyDigest &&
  Config.verifies Config.bootKey (imageText im) (im.drop (64 + imageLength im))

/-- A SHA-256 digest as 32 bytes (log 9). -/
def sha256Bytes (bs : List Byte) : List Byte := leBytes 32 (Config.sha256 bs).toNat

/-- An image measured before it runs: its entry in the log, and the log digest extended (R389). -/
def State.measure (s : State) (kind : Nat) : State :=
  let i := s.island
  let im := Config.image kind
  let entry := leBytes 8 kind ++ imageVersion im ++ sha256Bytes (imageText im)
  { s with island := { i with log := i.log ++ [entry], digest := sha256Bytes (i.digest ++ entry) } }

/-- Images verified, and each that verifies measured, up to the first that does not (R388, R389). -/
def State.loadImages (s : State) : List Nat → State × Bool
  | [] => (s, true)
  | k :: ks => if imageOk k (Config.image k) then State.loadImages (s.measure k) ks else (s, false)

/-- RESET_N_RELEASE (R391): bring-up begins with stage 0. -/
def execResetNRelease (s : State) : Host.Outcome State Fault Refusal :=
  .next (if s.island.phase == 0 then s.setIsland { s.island with phase := 1, stage := 0 } else s)

/-- ERROR of a stage that fails: images 1, PHYs 2, training 3, self-tests 4 (R387, R388, R391). The spec gives the writing of
memory no code of its own; it takes that of training (log 41). -/
def stageError (stage : Nat) : Nat := if stage < 2 then 1 else if stage == 2 then 2 else if stage < 5 then 3 else 4

/-- The images that a stage verifies, by KIND (R391). -/
def stageImages (stage : Nat) : List Nat := if stage == 0 then [1] else if stage == 1 then [2, 3, 4] else []

/-- What a stage has done when it ends well (R391). Stage 4 writes the memory of this package. -/
def State.stageEffect (s : State) : Nat → State
  | 1 => { s with routing := [] }
  | 4 =>
    let own (a : Nat) : Bool := a / 2 ^ 46 == s.pkg
    { s with
      mem := s.mem.filter fun e => !own e.1, dirty := s.dirty.filter fun e => !own e.1
      poisonMem := s.poisonMem.filter fun e => !own (64 * e.1), poisonNew := s.poisonNew.filter fun e => !own (64 * e.1)
      zeroed := [] }
  | 6 => { s with pairLatch := [], predictor := [], cyc := 0, loc := [], poisonLoc := [], pages := [], pageTags := [], poisonPage := [],
                  island := { s.island with clusters := 1, bootEntry := Config.imageEntry (Config.image 4) } }
  | _ => s

/-- BRINGUP_STAGE_DONE (R385, R388, R389, R391): the next stage starts, or READY is set; a failure stops bring-up. Stages 0
and 1 fail where an image does not verify, stages 2 to 5 as the event says, and stage 6 has no failure. While the island's
cores are stopped no stage ends. -/
def execBringupStageDone (ok : Bool) (s : State) : Host.Outcome State Fault Refusal :=
  let stage := s.island.stage
  if s.island.phase != 1 || s.island.restarting then .next s
  else
    let (s0, verified) := s.loadImages (stageImages stage)
    if !verified || (!ok && 2 ≤ stage && stage < 6) then
      .next (s0.setIsland { s0.island with phase := 3, error := stageError stage })
    else
      let s1 := s0.stageEffect stage
      .next (if stage < 6 then s1.setIsland { s1.island with stage := stage + 1 }
        else s1.setIsland { s1.island with phase := 2 })

/-- POWER_CYCLE (R393): the part is as before RESET_N is released. What the board fixes stays, and so does the model's own
schedule. -/
def execPowerCycle (s : State) : Host.Outcome State Fault Refusal :=
  .next { State.reset with agenda := s.agenda, free := s.free, pkg := s.pkg, installed := s.installed }

/-! ### Lockstep (R385) -/

/-- LOCKSTEP_MISMATCH (R385): both cores stop and the island restarts from ROM. -/
def execLockstepMismatch (s : State) : Host.Outcome State Fault Refusal :=
  let i := s.island
  .next (s.setIsland { i with lserr := minN (i.lserr + 1) 255, siErr := true, restarting := true })

/-- SI_ERR deasserted by a write of 1 to ERRCLR (R385). -/
def State.clearSiErr (s : State) (v : DWord) : State :=
  if bit v 0 then s.setIsland { s.island with siErr := false } else s

/-- SI_ERRCLR (R385, R386). -/
def execSiErrclr (value : BitVec 64) (s : State) : Host.Outcome State Fault Refusal := .next (s.clearSiErr value)

/-! ### Attestation (R390) -/

/-- A write of si_attest (R386, R390). -/
def State.requestReport (s : State) (v : DWord) : State :=
  let a := v.toNat % 2 ^ 48 / 64 * 64
  { s.setCreg (dspBase + 0x8020) (BitVec.ofNat 64 a) with island := { s.island with attest := some a } }

/-- SI_ATTEST_WRITE (R386, R390). -/
def execSiAttestWrite (value : BitVec 64) (s : State) : Host.Outcome State Fault Refusal := .next (s.requestReport value)

/-- Most entries that a report of 12 KiB holds beside the nonce, L, the count, the public key and the signature. -/
def reportEntries : Nat := (12288 - 68 - 32 - 7856) / 48

/-- A report (R390). The device's key is a free value and stands before the signature (log 9). -/
def Island.report (i : Island) (nonce : List Byte) : List Byte :=
  let es := i.log.take reportEntries
  let body := nonce ++ i.digest ++ leBytes 4 es.length ++ es.flatMap (fun e => e) ++ freeBytes (2 ^ 80) 32
  body ++ ((Config.signature body) ++ List.replicate 7856 0).take 7856

/-- ATTESTATION_REPORT (R297, R390): the report is written, then byte 40 of the request, by home operations of the island
(log 37). -/
def execAttestationReport (s : State) : Host.Outcome State Fault Refusal :=
  match s.island.attest, s.island.restarting with
  | some a, false =>
    let s0 := s.partRead epIsland 0 a 40
    let nonce := (upTo 32).map fun k => s0.byteAt (a + k)
    let buf := s0.physRead (a + 32) 8 % 2 ^ 48
    let s1 := (s0.partWrite epIsland 0 buf (s0.island.report nonce)).partWrite epIsland 0 (a + 40) [1]
    .next { s1 with island := { s1.island with attest := none } }
  | _, _ => .next s

/-! ### Monitors (R393) -/

/-- The limits of si_thr that a reading lies beyond, 0 the low one and 1 the high one; a limit of 0 is none (R393). -/
def limitsPassed (thr : DWord) (reading : Int) : List Nat :=
  let lo := signedN 32 (bits thr 0 32)
  let hi := signedN 32 (bits thr 32 32)
  (if lo != 0 && reading < lo then [0] else []) ++ (if hi != 0 && hi < reading then [1] else [])

/-- Sensor kind and die of a monitor, whose codes the spec does not give: a free value (log 2). -/
def monitorKind (monitor : Nat) : Nat := bits (Config.freeValue (2 ^ 81 + monitor)) 0 16

/-- Every reset domain (R392). -/
def allDomains : List (Nat × Nat) :=
  (upTo 64).map (fun n => (0, n)) ++ (upTo 24).map (fun n => (1, 64 + n)) ++ (upTo 4).map (fun n => (2, n)) ++
  (upTo 16).map (fun n => (3, n)) ++ (upTo 15).map fun n => (4, n)

/-- THERMTRIP asserted: every domain but the island is held in reset (R393). -/
def State.trip (s : State) : State :=
  { s with ctl := [], waves := [], groups := [], ctxJob := [], engCtx := [], flights := [], caches := [] }.setIsland
    { s.island with phase := 3, error := 5, thermTrip := true, isolated := allDomains }

/-- The reading of a monitor, signed. -/
def State.readingOf (s : State) (monitor : Nat) : Int := signedN 32 (bits (s.creg_ (dspBase + 0x8100 + 8 * monitor)) 0 32)

/-- What a monitor's reading leads to (R393): at 125 °C a sensor trips; a limit newly passed interrupts the island and sends the
supervisor's message-signalled interrupt, once for each crossing. -/
def State.actOn (s : State) (monitor : Nat) : State :=
  let i := s.island
  let passed := (limitsPassed (s.creg_ (dspBase + 0x8500 + 8 * monitor)) (s.readingOf monitor)).map (2 * monitor + ·)
  let fresh := passed.filter fun k => !i.crossed.contains k
  let s1 := { s with island := { i with crossed := (i.crossed.filter fun k => k / 2 != monitor) ++ passed } }
  let s2 := fresh.foldl (fun (s : State) _ => { s with islandInterrupts := s.islandInterrupts + 1 }.sendMsi) s1
  if monitor < 40 && 125000 ≤ s.readingOf monitor && !i.thermTrip then s2.trip else s2

/-- MONITOR_CROSSING (R385, R393): a new reading, which leads to nothing while the island's cores are stopped. -/
def execMonitorCrossing (monitor : Nat) (reading : BitVec 32) (s : State) : Host.Outcome State Fault Refusal :=
  if 84 < monitor then .next s
  else
    let s1 := s.setCreg (dspBase + 0x8100 + 8 * monitor) (BitVec.ofNat 64 (monitorKind monitor * 2 ^ 32 + reading.toNat))
    .next (if s1.island.restarting then s1 else s1.actOn monitor)

/-- THERMTRIP (R385, R393): a sensor that reads 125 °C. -/
def execThermtrip (s : State) : Host.Outcome State Fault Refusal :=
  .next (if !s.island.restarting && !s.island.thermTrip && (upTo 40).any (fun n => 125000 ≤ s.readingOf n) then s.trip else s)

/-! ### Restart of a domain (R392) -/

/-- Whether an INDEX names a domain of its KIND. -/
def domainExists (kind index : Nat) : Bool :=
  match kind with
  | 0 => index < 64
  | 1 => 64 ≤ index && index < 88
  | 2 => index < 4
  | 3 => index < 16
  | 4 => index < 15
  | _ => false

/-- A write of si_cmd (R392). -/
def State.requestRestart (s : State) (v : DWord) : State :=
  let kind := bits v 16 8
  let index := bits v 0 16
  let i := s.island
  if bits v 24 40 != 0 || !domainExists kind index then s
  else if 8 ≤ i.queue.length then s.setIsland { i with lost := true }
  else s.setIsland { i with queue := i.queue ++ [(kind, index)] }

/-- SI_CMD_RESTART (R392). -/
def execSiCmdRestart (value : BitVec 64) (s : State) : Host.Outcome State Fault Refusal := .next (s.requestRestart value)

/-- DOMAIN_SELF_CHECK_FAILURE (R392): the island restarts the domain on its own initiative; the number is that of si_cmd. -/
def execDomainSelfCheckFailure (domain : Nat) (s : State) : Host.Outcome State Fault Refusal :=
  let kind := domain / 65536
  let index := domain % 65536
  .next (if domainExists kind index then s.setIsland { s.island with queue := s.island.queue ++ [(kind, index)] } else s)

/-- The caching agent of a domain. -/
def domainAgent (kind index : Nat) : Option Nat :=
  if kind == 1 then some (index - 64) else if kind == 2 then some (24 + index) else none

/-- A request of an agent or an answer to it, which its routers no longer accept once its domain restarts (R392 step 1). -/
def Msg.ofDomain (m : Msg) (agent : Nat) : Bool :=
  (m.src == agent && m.cls == 0) ||
  (m.dst == agent && [MsgKind.data, .grant, .putAck, .nackMoved, .atomResp, .invAck, .probeMiss].contains m.kind)

/-- The packets of a restarting domain discarded, and its requests taken out of the homes' queues (R392 step 1). -/
def State.dropPackets (s : State) (agent : Nat) : State :=
  let keep (f : Flight) : Bool := match f with
    | .msg m => !m.ofDomain agent
    | _ => true
  let left : Tab Flight := s.flights.filter fun e => keep e.2
  { s with
    flights := left
    homeQueue := (s.homeQueue.map fun e => (e.1, e.2.filter fun i => left.has i)).filter fun e => e.2 != [] }

/-- The sectors of a cached unit. -/
def unitSectors (e : Nat × CUnit) : List Nat := (upTo (unitBytes e.2.grain / 64)).map fun k => keyUnit e.1 / 64 + k

/-- The homes reclaim every unit that an agent may hold; a unit that it held dirty is poisoned (R392 step 2). -/
def State.reclaimUnits (s0 : State) (agent : Nat) : State :=
  let s1 := s0.dropPackets agent
  let owner (st : CState) : Bool := st = .m || st = .o || st = .omA || st = .miA || st = .oiA
  let lost := s1.caches.filter fun e => keyAgent e.1 == agent && owner e.2.st
  let s := (lost.flatMap unitSectors).foldl (fun s x => s.markNew x true) s1
  { s with
    roomWait := s.roomWait.filter fun w => w.agent != agent
    caches := s.caches.filter fun e => keyAgent e.1 != agent
    dir := s.dir.filterMap fun e =>
      let d := if e.2.owner == some agent then { e.2 with owner := none, state := if e.2.shared then 1 else 0 } else e.2
      let d1 := if !d.coarse then { d with sharers := d.sharers.erase agent } else d
      if d1.state == 0 || (d1.state == 1 && !d1.shared) then none else some (e.1, d1) }

/-- Copies that a test picks out end with a reason at the element they have come to, in the order of their issue (R211). -/
def State.stopCopies (s : State) (reason : Nat) (hit : State → Cmd → Bool) : State :=
  s.flights.foldl (fun s e =>
    match s.flights.find e.1 with
    | some (.copy c) =>
      if c.stop.isNone && hit s c then s.stopCopy e.1 c reason ((c.x.toNat + c.pos * c.unit) % 2 ^ 64) else s
    | _ => s) s

/-- Copies that write to a restarted tile core end with REASON 8 (R211, R392 step 2). -/
def State.cutCopies (s : State) (core : Nat) : State :=
  s.stopCopies 8 fun _ c => if c.isMc then bit (c.z.getD 2 0) core else !c.isBox && !c.isRed && ctlDcore c.z0 == core

/-- Whether a copy is in flight over the link to a peer: a sector that it has met is the peer's, or its next element's is. -/
def State.overLink (s : State) (peer : Nat) (c : Cmd) : Bool :=
  (c.rd ++ c.wr).any (fun x => x / 2 ^ 40 == peer) ||
  (c.runs && c.pos < c.count && match s.copyElement c with | .error (6, _) => true | _ => false)

/-- The link to a peer is lost, and every copy in flight over it ends with REASON 6 (R211, R324, R392). -/
def State.cutLink (s : State) (peer : Nat) : State :=
  if s.failedLinks.contains peer then s else (s.loseLink peer).stopCopies 6 fun s c => s.overLink peer c

/-- KOLTE_LINK_FAILURE (R324). -/
def execKolteLinkFailure (peer : Nat) (s : State) : Host.Outcome State Fault Refusal :=
  .next (if peer == s.pkg || 3 < peer then s else s.cutLink peer)

/-- Jobs that hold anything on a core (R392 step 3). -/
def State.jobsOn (s : State) (core : Nat) : List Nat :=
  (s.slots.filter fun e =>
    if cardVision e.2.card then 64 ≤ core && s.groups.any fun g => g.1 / 64 == core - 64 && g.2.job == e.1
    else e.2.cores.contains core).map (·.1)

/-- A job withdrawn by a restart: a periodic card keeps its slot and is placed afresh at its next release (R392). -/
def State.restartJob (s : State) (slot : Nat) : State :=
  let x := s.slotAt slot
  if cardPeriod x.card == 0 then s.withdraw slot
  else
    let s1 := ((if cardVision x.card then s.leaveVision slot else s.leaveTile slot).dropHeld slot).modSlot slot fun y =>
      { y with cores := [], saved := [], savedWaves := [], savedGroups := [], savedLanes := [], savedQueue := [],
               savedPoison := [], savedPoisonS := [], ports := [], keyway := [], restoring := false, stopping := false }
    if x.state == 1 then { s1 with evaluations := s1.evaluations + 1 } else s1.endInstance slot

/-- The peer package that a Kolte port reaches: port 0 the next in the ring, port 1 the one before (log 4). -/
def State.peerOf (s : State) (port : Nat) : Nat := if port == 13 then (s.pkg + 1) % 4 else (s.pkg + 3) % 4

/-- Steps 1 to 3 of a restart (R392); the jobs withdrawn add to those that the restart has withdrawn before. -/
def State.beginRestart (s : State) (kind index : Nat) : State :=
  let s0 := match domainAgent kind index with | some a => s.reclaimUnits a | none => s
  let s1 := if kind == 0 then s0.cutCopies index else s0
  if kind < 2 then
    let jobs := s1.jobsOn index
    let s2 := jobs.foldl (fun s k => s.restartJob k) s1
    { s2 with island := { s2.island with withdrawn := s.island.withdrawn + jobs.length } }
  else if kind == 4 && 13 ≤ index then s1.cutLink (s1.peerOf index)
  else s1

/-- ISLAND_RESTART_DONE (R385): the part is supervised again; a restart of a domain that was in progress resumes from its first
step, and the monitors' actions that were not performed are (R393). -/
def execIslandRestartDone (s : State) : Host.Outcome State Fault Refusal :=
  let i := s.island
  if !i.restarting then .next s
  else
    let s1 := { s with island := { i with restarting := false } }
    let s2 := match i.current with
      | some (k, n) => s1.beginRestart k n
      | none => s1
    .next ((upTo 85).foldl (fun s n => s.actOn n) (s2.setIsland s2.island))

/-- DOMAIN_RESTART_START (R392): the oldest request, once no restart is under way. -/
def execDomainRestartStart (s : State) : Host.Outcome State Fault Refusal :=
  let i := s.island
  match i.queue, i.current, i.restarting || i.thermTrip with
  | (k, n) :: rest, none, false =>
    let s1 := { s with island := { i with queue := rest, current := some (k, n), withdrawn := 0,
                                          isolated := if i.isolated.contains (k, n) then i.isolated else i.isolated ++ [(k, n)] } }
    let s2 := s1.beginRestart k n
    .next (s2.setIsland s2.island)
  | _, _, _ => .next s

/-- A tile core as its reset leaves it (R392 step 4). -/
def State.resetTile (s : State) (c : Nat) : State :=
  { s with
    loc := s.loc.dropRange (locKey c 0) (2 ^ 24), poisonLoc := s.poisonLoc.dropRange (locKey c 0 / 8) (2 ^ 21)
    rings := s.rings.dropRange (32 * c) 32, acc := s.acc.dropRange (8192 * c) 8192
    poisonAcc := s.poisonAcc.dropRange (8192 * c) 8192, colAcc := s.colAcc.dropRange (65536 * c) 65536
    poisonCa := s.poisonCa.dropRange (65536 * c) 65536, caOwner := s.caOwner.del c, caCtx := s.caCtx.dropRange (4 * c) 4
    pages := s.pages.dropRange (4096 * 256 * c) (4096 * 256), pageTags := s.pageTags.dropRange (256 * c) 256
    poisonPage := s.poisonPage.dropRange (256 * c) 256, rtes := s.rtes.dropRange (64 * c) 64, orphans := s.orphans.del c
    tlbs := (s.tlbs.del (2 * 65536 + c)).del (3 * 65536 + c), engCtx := s.engCtx.dropRange (5 * c) 5
    icache := s.icache.del c, busy := s.busy.dropRange (32 * c) 32 }

/-- A vision core as its reset leaves it. -/
def State.resetVision (s : State) (c : Nat) : State :=
  let k := c - 64
  { s with
    loc := s.loc.dropRange (locKey c 0) (2 ^ 24), poisonLoc := s.poisonLoc.dropRange (locKey c 0 / 8) (2 ^ 21)
    tlbs := (s.tlbs.dropRange (4 * k) 4).del (65536 + k), predictor := s.predictor.dropRange (256 * k) 256
    xqueue := s.xqueue.dropRange (4 * k) 4, regionBufs := s.regionBufs.dropRange (4 * k) 4, icache := s.icache.del c
    protocolErrors := s.protocolErrors.del k }

/-- The memory of a controller rewritten with zero data; the slice lines homed there keep their sectors, the clean ones until
they are dropped. -/
def State.resetController (s : State) (c : Nat) : State :=
  let own (a : Nat) : Bool := a / 2 ^ 46 == s.pkg && controllerOf a == c
  let kept := s.lines.flatMap fun e => (e.2.sectors.zipIdx).filterMap fun x =>
    let a := 256 * e.2.line + 64 * x.2
    if x.1.v && own a then some (a / 64) else none
  { s with
    mem := s.mem.filter fun e => !own e.1 || kept.contains (e.1 / 64)
    poisonMem := s.poisonMem.filter fun e => !own (64 * e.1) || kept.contains e.1
    zeroed := kept.foldl (fun t x => t.put x true) s.zeroed }

/-- Frames that stand at a restarted port are lost; a Kolte link is up again. -/
def State.resetPort (s : State) (n : Nat) : State :=
  let s1 := { s with flights := s.flights.filter fun e => match e.2 with
      | .frame f => !((f.source == 1 && f.port == n) || (f.source == 2 && f.port + 4 == n))
      | _ => true }
  if 13 ≤ n then { s1 with failedLinks := s1.failedLinks.filter (· != s1.peerOf n) } else s1

/-- DOMAIN_RESTART_DONE (R392 steps 4 and 5). -/
def execDomainRestartDone (s : State) : Host.Outcome State Fault Refusal :=
  let i := s.island
  match i.current, i.restarting || i.thermTrip with
  | some (k, n), false =>
    let s1 := match k with
      | 0 => s.resetTile n
      | 1 => s.resetVision n
      | 2 => { s with predictor := s.predictor.dropRange (256 * (24 + n)) 256, protocolErrors := s.protocolErrors.del (24 + n) }
      | 3 => s.resetController n
      | 4 => s.resetPort n
      | _ => s
    let s2 := s1.setIsland { i with current := none, restarts := i.restarts + 1, isolated := i.isolated.filter (· != (k, n)) }
    .next ({ s2 with evaluations := s2.evaluations + 1 }.sendMsi)
  | _, _ => .next s

/-! ### The power limit (R394) -/

/-- A write of si_plimit; values outside 120 to 300 are discarded (R386). -/
def State.setPowerLimit (s : State) (v : DWord) : State :=
  if 120 ≤ v.toNat && v.toNat ≤ 300 then s.setCreg (dspBase + 0x8018) v else s

/-- SI_PLIMIT_WRITE (R386, R394). -/
def execSiPlimitWrite (value : BitVec 64) (s : State) : Host.Outcome State Fault Refusal := .next (s.setPowerLimit value)

end Sys2Proof.Machine
end

