-- ==== Sys2Proof/Machine/Xlate.lean ====
section
/-! DEFINITION. Page walks as events, invalidation of translations, the regulators' events and the errors of storage (R356 to
R368, R371). An event whose time has not come leaves the state as it is (log 1). -/

namespace Sys2Proof.Machine

/-! ### Walks and invalidation (R357 to R360) -/

/-- TRANSLATION_WALK (R356 to R358): the walk for an address that a stream or thread missed on. The walk of a fetch at its
program counter that fails raises the translation fault there (R74); another access raises its own. -/
def execTranslationWalk (who : Agent) (va : BitVec 64) (s : State) : Host.Outcome State Fault Refusal :=
  let (key, lane) := agentKey who
  let part := s.partOf key lane
  let fetch := (s.ctlAt key lane).pc == va
  let path := tlbPath key fetch va.toNat
  if !s.running key lane || !canonicalVa va.toNat || inAperture va.toNat || (s.tlbLookup part va.toNat path).isSome then
    .next s
  else
    match s.walkInstall part va.toNat path with
    | .ok (s1, _) => .next s1
    | .error (r, l) =>
      .next (if fetch && s.atBoundary key lane && !(s.ctlAt key lane).stopped then
        s.takeFault key lane (s.xltFault va.toNat r l true .exec) else s.walkKept part path va.toNat)

/-- A command written to xlt_inv_cmd: it sets BUSY, or LOST while one is under way; KIND 3 is ignored (R359, R360). -/
def State.xltCommand (s : State) (v : DWord) : State :=
  let st := xltBase + 0x210
  let kind := bits v 8 2
  if s.invalidating.isSome then s.setCreg st (setBits (s.creg_ st) 1 1 1)
  else if kind == 3 then s
  else
    { s.setCreg st (setBits (s.creg_ st) 0 1 1) with
      invalidating := some (kind, bits v 0 6, (s.creg_ (xltBase + 0x200)).toNat) }

/-- XLT_INV_PAGE (R359): a command of KIND 0. -/
def execXltInvPage (value : BitVec 64) (s : State) : Host.Outcome State Fault Refusal :=
  .next (if bits value 8 2 == 0 then s.xltCommand value else s)

/-- XLT_INV_PARTITION (R359): a command of KIND 1. -/
def execXltInvPartition (value : BitVec 64) (s : State) : Host.Outcome State Fault Refusal :=
  .next (if bits value 8 2 == 1 then s.xltCommand value else s)

/-- XLT_INV_ALL (R359): a command of KIND 2. -/
def execXltInvAll (value : BitVec 64) (s : State) : Host.Outcome State Fault Refusal :=
  .next (if bits value 8 2 == 2 then s.xltCommand value else s)

/-- Whether an invalidation names a held translation. -/
def TlbEnt.named (e : TlbEnt) (kind part va : Nat) : Bool :=
  kind == 2 || (e.part == part && (kind == 1 || e.serves part va))

/-- Whether an open atomic region may still use a translation that an invalidation names: of a page, one within the largest leaf
there (R353, R360). -/
def State.regionsUse (s : State) (kind part va : Nat) : Bool :=
  s.ctl.any fun e => match e.2.region with
    | none => false
    | some r =>
      (kind == 2 || s.partOf (e.1 / 32) (e.1 % 32) == part) &&
      (r.slots.map (·.va) ++ r.stores.map (·.va)).any fun a => kind != 0 || a / 2 ^ 30 == va / 2 ^ 30

/-- XLT_INV_DONE (R360): the accesses of the open regions that use the entries named are performed, every structure has dropped
those entries, and BUSY clears. -/
def execXltInvDone (s : State) : Host.Outcome State Fault Refusal :=
  match s.invalidating with
  | none => .next s
  | some (kind, part, va) =>
    let st := xltBase + 0x210
    .next (if s.regionsUse kind part va then s else { s with
      invalidating := none
      tlbs := s.tlbs.map fun (t : Nat × List TlbEnt) => (t.1, t.2.filter fun e => !e.named kind part va) }.setCreg st
        (setBits (s.creg_ st) 0 1 0))

/-! ### Regulators (R363 to R367) -/

/-- SECTOR_REQUEST (R322, R363, R364, R366): a sector request of a home slice arrives at its controller, in the window of that
instant, unless a router discards it. -/
def execSectorRequest (id : Nat) (s : State) : Host.Outcome State Fault Refusal :=
  match s.flights.find id with
  | some (.sector q) =>
    let slice := epSlice (homeSlice q.pa)
    let controller := epController (controllerOf q.pa)
    .next (if s.unaccepted slice controller then s
      else match s.lostBetween slice controller with
        | some r => (s.land id).routingError r
        | none => ((s.land id).windowNow q.part).sectorArrives q)
  | _ => .next s

/-- REGULATOR_WINDOW_START (R363, R366). -/
def execRegulatorWindowStart (partition : Nat) (s : State) : Host.Outcome State Fault Refusal :=
  .next (s.windowStart partition)

/-! ### Errors of storage (R371) -/

/-- CORRECTABLE_ERROR (R371): corrected and counted. -/
def execCorrectableError (unit : Nat) (s : State) : Host.Outcome State Fault Refusal :=
  .next { s with corrected := s.corrected.set 0 unit (s.corrected.get 0 unit + 1) }

/-- One granule poisoned. An error of external memory leaves a newer copy of its sector as it is. -/
def State.poisonAt (s : State) (store : Store) (key : Nat) : State :=
  match store with
  | .memory =>
    let m := controllerOf (64 * key)
    let newer := s.dirty.any fun e => e.1 / 64 == key
    { s with poisonMem := s.poisonMem.put key true
             poisonNew := if newer then (if s.sectorPoisoned key then s.poisonNew.del key else s.poisonNew.put key false)
                          else s.poisonNew.del key
             poisoned := s.poisoned.set 0 m (s.poisoned.get 0 m + 1) }
  | .cached => s.markNew key true
  | .scratch => { s with poisonLoc := s.poisonLoc.put key true }
  | .lane => { s with poisonLane := s.poisonLane.put key true }
  | .scalar => { s with poisonScalar := s.poisonScalar.put key true }
  | .acc => { s with poisonAcc := s.poisonAcc.put key true }
  | .colAcc => { s with poisonCa := s.poisonCa.put key true }
  | .page => { s with poisonPage := s.poisonPage.put key true }

/-- UNCORRECTABLE_ERROR (R371): the data it concerns is poisoned. -/
def execUncorrectableError (id : Nat) (s : State) : Host.Outcome State Fault Refusal :=
  match s.flights.find id with
  | some (.upset store key) => .next ((s.land id).poisonAt store key)
  | _ => .next s

end Sys2Proof.Machine
end

