-- ==== Sys2Proof/Machine/Registers.lean ====
section
/-! DEFINITION. The control registers of the part as the supervisor and the safety island write and read them (R108, R131,
R312, R315, R359, R368, R381, R382, R386, R396, R397). -/

namespace Sys2Proof.Machine

/-! ### Writes -/

/-- A log2 record count written: neither 0 nor in range leaves the register (R382). -/
def State.writeLog (s : State) (a : Nat) (v : DWord) (most : Nat) : State :=
  let k := v.toNat
  if k == 0 || (4 ≤ k && k ≤ most) then s.setCreg a v else s

/-- An address register written, aligned down to `2 ^ lg` bytes (R382). -/
def State.writeAddr (s : State) (a : Nat) (v : DWord) (lg : Nat) : State :=
  s.setCreg a (BitVec.ofNat 64 (v.toNat % 2 ^ 48 / 2 ^ lg * 2 ^ lg))

/-- The dispatcher control block (R108, R131). -/
def State.writeDispatcher (s : State) (off : Nat) (v : DWord) : State :=
  let a := dspBase + off
  if off == 0x00 || off == 0x08 then s.submit v.toNat
  else if off == 0x10 then s.withdraw (bits v 0 8)
  else if off == 0x18 then s.stepTime v.toNat
  else if off == 0x30 then s.writeAddr a v 12
  else if off == 0x38 then s.writeLog a v 16
  else if off == 0x50 then s.writeAddr a v 6
  else if off == 0x58 then s.writeLog a v 16
  else if off == 0x60 then s.setCreg a (BitVec.ofNat 64 (bits v 0 32))
  else if off == 0x70 then s.writeAddr a v 2
  else if off == 0x78 then s.setCreg a (BitVec.ofNat 64 (bits v 0 32))
  else if 0x1000 ≤ off && off < 0x1800 then
    let k := off % 32
    if k == 0 then s.writeAddr a v 5
    else if k == 8 then s.writeLog a v 20
    else if k == 16 then s.setCreg a (BitVec.ofNat 64 (bits v 0 32))
    else s
  else s

/-- The island's registers (R386, R393, R397). -/
def State.writeIsland (s : State) (off : Nat) (v : DWord) : State :=
  let a := dspBase + off
  if off == 0x8008 then s.requestRestart v
  else if off == 0x8018 then s.setPowerLimit v
  else if off == 0x8020 then s.requestReport v
  else if off == 0x8028 then s.clearSiErr v
  else if off == 0x8040 then s.setCreg a (setBits v 51 12 0)
  else if 0x8500 ≤ off && off < 0x8500 + 8 * 85 then s.setCreg a v
  else s

/-- The translation control block (R359). -/
def State.writeXlt (s : State) (off : Nat) (v : DWord) : State :=
  let a := xltBase + off
  if off < 0x200 then s.setCreg a (BitVec.ofNat 64 (bits v 12 36 * 4096 + bits v 0 1))
  else if off == 0x200 then s.setCreg a v
  else if off == 0x208 then s.xltCommand v
  else s

/-- The regulator control block (R368). -/
def State.writeRegulator (s : State) (off : Nat) (v : DWord) : State :=
  let a := regBase + off
  if off == 0x00 then s.writeAddr a v 6
  else if off == 0x08 then s.writeLog a v 16
  else if off == 0x10 then s.setCreg a (BitVec.ofNat 64 (bits v 0 32))
  else if 0x1000 ≤ off && off < 0x1800 && off % 32 == 16 then s.setCreg a v
  else s

/-- The migration control block (R315, R382): COPY starts an entry that is IDLE, IDLE ends one that is DONE. -/
def State.writeMigration (s : State) (off : Nat) (v : DWord) : State :=
  let entry := off / 32
  let st := s.creg_ (migReg entry 3)
  if 15 < entry || st == 1 then s
  else if off % 32 != 24 then if st == 0 then s.setCreg (migBase + off) v else s
  else if v == 0 then { s.setCreg (migReg entry 3) 0 with migrated := s.migrated.del entry }
  else if v == 1 && st == 0 then s.setCreg (migReg entry 3) 1
  else s

/-- The escalation control block (R381). -/
def State.writeEscalation (s : State) (off : Nat) (v : DWord) : State :=
  let a := escBase + off
  if off == 0x00 then s.writeAddr a v 6
  else if off == 0x08 then s.writeLog a v 16
  else if off == 0x10 then s.setCreg a (BitVec.ofNat 64 (bits v 0 32))
  else if off == 0x20 then s.escCommand v
  else if off == 0x28 then s.setFreeze (escBase + 0x28) (escBase + 0x38) 0 64 v
  else if off == 0x30 then s.setFreeze (escBase + 0x30) (escBase + 0x40) 64 24 v
  else s

/-- Bits of ing_ctl and ing_buf_cfg that read 0 (R396). -/
def ingMask (k : Nat) (v : DWord) : DWord :=
  if k == 0 then v &&& 0x3F3F0FF7#64 else if k == 0x18 then v &&& 0xFFFFFFFFFFFF#64 else v

/-- The ingest control block (R396): EN written 0 stops a stream and clears what stopped it. -/
def State.writeIngest (s : State) (off : Nat) (v : DWord) : State :=
  let a := ingBase + off
  let k := off % 64
  if k == 0 then
    let s1 := s.setCreg a (ingMask k v)
    if bit v 0 then s1 else s1.setIngStat (off / 64) false false
  else if k == 0x28 then s.setCreg a (BitVec.ofNat 64 (bits v 0 32))
  else if k < 0x28 then s.setCreg a (ingMask k v)
  else s

/-- The way masks of a slice (R312). -/
def State.writeSlice (s : State) (off : Nat) (v : DWord) : State :=
  if off % 4096 < 0x200 then s.setCreg (0x3F0000100000 + off) (BitVec.ofNat 64 (bits v 0 16)) else s

/-- A word of the trap record of an escalated tile stream or vision thread, which the supervisor may rewrite (R382). -/
def State.writeWindow (s : State) (pa : Nat) (v : DWord) : State :=
  if 0x3F1000000000 ≤ pa && pa < 0x3F1010000000 then
    let c := (pa - 0x3F1000000000) / 2 ^ 22
    let off := (pa - 0x3F1000000000) % 2 ^ 22
    let k := locKey c (off - 0x200000)
    let mine := s.ctl.any fun e =>
      !isWave (e.1 / 32) && keyCore (e.1 / 32) == c && e.2.life == .escalated &&
      s.recordKey (e.1 / 32) ≤ k && k < s.recordKey (e.1 / 32) + 64
    if 0x200000 ≤ off && mine then s.locWrite k (leBytes 8 v.toNat) else s
  else if 0x3F1010000000 ≤ pa && pa < 0x3F1028000000 then
    let core := (pa - 0x3F1010000000) / 2 ^ 24
    let off := (pa - 0x3F1010000000) % 2 ^ 24
    let slot := (off - 0x200000) / 0x2000
    let o := (off - 0x200000) % 0x2000
    let key := waveKey core slot
    let lane := (o - 0x1800) / 64
    if 0x200000 ≤ off && slot < 48 && 0x1800 ≤ o && (s.ctlAt key lane).life == .escalated then
      s.modCtl key lane fun c =>
        let t := c.tr
        { c with tr := match o % 64 / 8 with
            | 0 => { t with hdr := v } | 1 => { t with ret := v } | 2 => { t with passes := v } | 3 => { t with iaddr := v }
            | 4 => { t with cause := v } | 5 => { t with info := v } | 6 => { t with detail := v } | _ => { t with time := v } }
    else s
  else s

/-- A 64-bit write by the supervisor or the island at PA[45:0] (R382). Writes of read-only words are discarded. -/
def State.writeRegister (s : State) (pa : Nat) (v : DWord) : State :=
  if pa % 8 != 0 then s
  else if dspBase ≤ pa && pa < dspBase + 0x8000 then s.writeDispatcher (pa - dspBase) v
  else if dspBase + 0x8000 ≤ pa && pa < dspBase + 0x9000 then s.writeIsland (pa - dspBase) v
  else if xltBase ≤ pa && pa < xltBase + 0x1000 then s.writeXlt (pa - xltBase) v
  else if regBase ≤ pa && pa < regBase + 0x2000 then s.writeRegulator (pa - regBase) v
  else if migBase ≤ pa && pa < migBase + 0x1000 then s.writeMigration (pa - migBase) v
  else if escBase ≤ pa && pa < escBase + 0x1000 then s.writeEscalation (pa - escBase) v
  else if ingBase ≤ pa && pa < ingBase + 0x1000 then s.writeIngest (pa - ingBase) v
  else if 0x3F0000100000 ≤ pa && pa < 0x3F0000150000 then s.writeSlice (pa - 0x3F0000100000) v
  else s.writeWindow pa v

/-- REGISTER_WRITE (R382): a write to this package's control space; of a peer's, its error injection is held (R397). -/
def execRegisterWrite (addr value : BitVec 64) (s : State) : Host.Outcome State Fault Refusal :=
  .next (if bits addr 46 18 == s.pkg then s.writeRegister (bits addr 0 46) value
    else if bits addr 48 16 == 0 && bits addr 0 46 == dspBase + 0x8040 then
      s.setCreg (s.errReg (bits addr 46 2)) (setBits value 51 12 0)
    else s)

end Sys2Proof.Machine
end

