-- ==== Sys2Proof/Machine/Views.lean ====
section
/-! DEFINITION. The records of the state window whose contents the spec names: rings (R186), reassembly entries (R269), column
accumulators (R249), ports (R261), translations (R357), regions and predictors (R331, R332), kernel classes (R138), directory
entries in the format of R306, slice lines and queues. Where the spec gives a record no layout, the layout is the model's
(log 43). -/

namespace Sys2Proof.Machine

/-- A byte of a record given by its fields: offset, bytes and value. -/
def fieldByte (fields : List (Nat × Nat × Nat)) (o : Nat) : Byte :=
  match fields.find? fun f => f.1 ≤ o && o < f.1 + f.2.1 with
  | some f => BitVec.ofNat 8 (f.2.2 / 256 ^ (o - f.1))
  | none => 0

/-- Bits as bytes: the number whose bit `i` is `p i`. -/
def bitsOf (n : Nat) (p : Nat → Bool) : Nat := (upTo n).foldl (fun a i => a + b2n (p i) * 2 ^ i) 0

/-- An optional number as a field of some bits shows it: all ones for none. -/
def orOnes (w : Nat) (x : Option Nat) : Nat := x.getD (2 ^ w - 1)

/-! ### Tile cores (R383) -/

/-- The 64 bytes of a ring (R186): its counters, then its control block as R185 lays it out. -/
def Ring.view (r : Ring) : List (Nat × Nat × Nat) :=
  [(0, 2, orOnes 16 r.holder), (2, 1, r.gen), (4, 4, r.tail), (8, 4, r.take), (12, 4, r.head), (16, 4, r.base),
   (20, 4, r.slotSize), (24, 2, r.count), (26, 1, r.cls), (27, 1, r.flags), (28, 1, r.prod), (29, 1, r.cons), (31, 1, r.gen)]

/-- The 256 bytes of a reassembly entry (R269): state, counts, returned bits and descriptor. -/
def Rte.view (r : Rte) : List (Nat × Nat × Nat) :=
  [(0, 1, r.state), (1, 1, r.job), (4, 4, r.seq), (8, 8, r.deadline), (16, 8, r.status),
   (32, 128, bitsOf r.fate.length fun i => r.fate.getD i 0 == 2), (192, 64, leNat r.desc)]

/-- The column accumulators' state of a core (R249): OWNER, then CLAIMED and LOST, and MLAST, of each context. -/
def State.columnView (s : State) (c : Nat) : List (Nat × Nat × Nat) :=
  (0, 2, orOnes 16 (s.caOwner.find c)) :: (upTo 4).flatMap fun x =>
    let t := s.caCtx.get {} (ctxKey c x)
    [(8 + 2 * x, 1, b2n t.claimed + 2 * b2n t.lost), (9 + 2 * x, 1, t.mlast)]

/-- The first card slot of a tile job for a context that passes a test. -/
def State.awayJob (s : State) (test : Slot → Bool) (x : Nat) : Option Slot :=
  (s.slots.find? fun e => e.2.state != 0 && !cardVision e.2.card && cardCtx e.2.card == x && test e.2).map (·.2)

/-- The job of a context of a core, where the core is the lowest of its gang: the home of its flags and of its ports (R261,
R340). Where no such job is loaded, one that is evicted or between instances and keeps its gang. -/
def State.homeJob (s : State) (c x : Nat) : Option Slot :=
  let home (y : Slot) : Bool := y.cores.head? == some c
  match (s.ctxJob.find (ctxKey c x)).map s.slotAt with
  | some y => if home y then some y else s.awayJob home x
  | none => s.awayJob home x

/-- The 16 bytes of a port (R261); 0 where it is not registered. -/
def portView (p : Option Port) : List (Nat × Nat × Nat) :=
  match p with
  | none => []
  | some p => [(0, 1, p.core), (1, 1, p.ring), (2, 1, p.gen), (3, 1, p.policy), (4, 2, p.cap), (6, 1, p.spill), (7, 1, 1)]

/-- The 16 bytes of a translation (R357): the page's virtual address and partition, and its entry as R354 lays it out. -/
def tlbView (e : Option TlbEnt) : List (Nat × Nat × Nat) :=
  match e with
  | none => []
  | some e => [(0, 8, e.vpage * 2 ^ e.lg + e.part), (8, 8, e.ppage * 2 ^ e.lg / 4096 * 65536 + e.bits)]

/-- A byte of a translation structure. -/
def State.tlbByte (s : State) (key o : Nat) : Byte := fieldByte (tlbView (s.tlbs.get [] key)[o / 16]?) (o % 16)

/-- A byte between the reassembly entries and the lane files of a tile core's window. -/
def State.tileTables (s : State) (c off : Nat) : Byte :=
  if off < 0x18040 then fieldByte (s.columnView c) (off - 0x18000)
  else if off < 0x180C0 then
    let i := 256 * c + 2 * (off - 0x18040)
    BitVec.ofNat 8 (s.pageTags.get 0 i + 16 * s.pageTags.get 0 (i + 1))
  else if off < 0x18100 then 0
  else if off < 0x18108 then fieldByte [(0, 8, s.orphans.get 0 c)] (off - 0x18100)
  else if 0x18200 ≤ off && off < 0x18A00 then
    let o := off - 0x18200
    match s.homeJob c (o / 512) with
    | some x => fieldByte [(0, 8, (x.flags.get 0 (o % 512 / 8)).toNat)] (o % 8)
    | none => 0
  else if 0x19000 ≤ off && off < 0x1D000 then
    let o := off - 0x19000
    match s.homeJob c (o / 4096) with
    | some x => fieldByte (portView (x.ports.find (o % 4096 / 16))) (o % 16)
    | none => 0
  else if 0x20000 ≤ off && off < 0x22000 then s.tlbByte (2 * 65536 + c) (off - 0x20000)
  else if 0x22000 ≤ off && off < 0x24000 then s.tlbByte (3 * 65536 + c) (off - 0x22000)
  else 0

/-! ### Vision cores (R382) -/

/-- A tag of an atomic region in 16 bytes; all zero for none. -/
def tagView (at_ : Nat) : Option RTag → List (Nat × Nat × Nat)
  | none => []
  | some t => [(at_, 1, 1), (at_ + 1, 1, t.slot), (at_ + 2, 1, t.off), (at_ + 3, 1, t.size), (at_ + 8, 8, t.c)]

/-- The 4096 bytes of a thread's open region (R332 to R335): eight load slots of 272 bytes, then 16 constraints of 40, 16
stores of 48 and 16 undo entries of 16. -/
def Region.view (r : Region) : List (Nat × Nat × Nat) :=
  r.slots.zipIdx.flatMap (fun (x : RSlot × Nat) =>
    let a := 272 * x.2
    [(a, 8, 256 * x.1.line), (a + 8, 1, 1 + 2 * b2n x.1.stale + 4 * b2n x.1.pinned), (a + 16, 256, leNat x.1.snap)]) ++
  r.cons.zipIdx.flatMap (fun (x : RCons × Nat) =>
    let a := 2176 + 40 * x.2
    [(a, 1, 1 + 2 * x.1.op + 8 * b2n x.1.outcome)] ++ tagView (a + 8) x.1.lhs.tag ++
      (if x.1.lhs.tag.isNone then [(a + 16, 8, x.1.lhs.k)] else []) ++
      tagView (a + 24) x.1.rhs.tag ++ (if x.1.rhs.tag.isNone then [(a + 32, 8, x.1.rhs.k)] else [])) ++
  r.stores.zipIdx.flatMap (fun (x : RStore × Nat) =>
    let a := 2816 + 48 * x.2
    [(a, 8, x.1.va), (a + 8, 8, x.1.addr), (a + 16, 1, x.1.size), (a + 24, 8, x.1.data)] ++ tagView (a + 32) x.1.tag) ++
  r.undo.zipIdx.flatMap fun (x : RUndo × Nat) =>
    let a := 3584 + 16 * x.2
    [(a, 1, 1 + x.1.file), (a + 1, 1, x.1.reg), (a + 8, 8, x.1.old)]

/-- The kernel class, lane operations and sectors of a job (R138). -/
def Slot.classView (x : Slot) : List (Nat × Nat × Nat) := [(0, 8, x.cls), (8, 8, x.laneOps), (16, 8, x.sectors)]

/-- A byte of what a vision core's window shows from its classification on: kernel classes by card slot, the extended-block
queues, the waves that hold region buffers, the predictor, in the first core's window those of the application clusters, and the
open regions of the buffers (log 43). -/
def State.visionTables (s : State) (k off : Nat) : Byte :=
  let buffers (p : Nat) : List Nat := s.regionBufs.get [] (4 * k + p)
  if off < 0x2000 then fieldByte (s.slotAt (off / 32)).classView (off % 32)
  else if off < 0x2100 then
    let p := (off - 0x2000) / 64
    let q := s.xqueue.get [] (4 * k + p)
    fieldByte ((0, 1, q.length) :: q.zipIdx.map fun (x : Nat × Nat) => (1 + x.2, 1, keySlot x.1)) (off % 64)
  else if 0x3000 ≤ off && off < 0x3020 then
    BitVec.ofNat 8 (orOnes 8 ((buffers ((off - 0x3000) / 8))[off % 8]?.map keySlot))
  else if 0x4000 ≤ off && off < 0x4100 then BitVec.ofNat 8 (s.predictor.get 0 (256 * k + (off - 0x4000)))
  else if k == 0 && 0x5000 ≤ off && off < 0x5400 then BitVec.ofNat 8 (s.predictor.get 0 (256 * 24 + (off - 0x5000)))
  else if 0x10000 ≤ off && off < 0x210000 then
    let i := (off - 0x10000) / 4096
    match (buffers (i / 128))[i / 32 % 4]? with
    | none => 0
    | some w => match (s.ctlAt w (i % 32)).region with
      | none => 0
      | some r => fieldByte r.view (off % 4096)
  else 0

/-- A byte of a vision core's register file (R134): for each partition the base blocks of its twelve slots, then the extended
blocks, which read 0 while no wave holds them. -/
def State.fileByte (s : State) (k off : Nat) : Byte :=
  let p := off / 0xF000
  let block := off % 0xF000 / 3072
  let reg := off % 3072 / 128
  let word (key r : Nat) : Byte := BitVec.ofNat 8 ((s.lget key r (off % 128 / 4)).toNat / 256 ^ (off % 4))
  if block < 12 then word (waveKey k (12 * p + block)) reg
  else
    match s.waves.find? fun e => (e.1 - 2048) / 12 == 4 * k + p && e.2.block == some (block - 12) with
    | some e => word e.1 (24 + reg)
    | none => 0

/-- The 32 bytes of a slot's wave state (R125): workgroup and number, extended block and its number, place of a queued request,
and the outstanding requests of its workgroup. -/
def State.waveView (s : State) (key : Nat) : List (Nat × Nat × Nat) :=
  match s.waves.find key with
  | none => []
  | some w =>
    let queue := s.xqueue.get [] ((key - 2048) / 12)
    let requests := match s.groupOf key with | some g => g.requests | none => 0
    [(0, 1, w.wg), (1, 1, w.num), (2, 1, b2n w.block.isSome), (3, 1, w.block.getD 0), (4, 1, b2n (queue.contains key)),
     (5, 1, queue.idxOf key % 256), (6, 1, requests)]

/-- Code of a thread's state (R140): 0 Running, 1 Waiting, 2 Handling, 3 Exited, 4 stopped by an escalation. -/
def Ctl.threadState (c : Ctl) : Nat :=
  if c.life == .escalated then 4 else if c.life != .live then 3 else if c.waiting.isSome then 1 else if c.handling then 2 else 0

/-- The 64 bytes of a thread (R125): program counter, repetition count, state, in-handler bit and special registers. -/
def Ctl.view (c : Ctl) : List (Nat × Nat × Nat) :=
  [(0, 8, c.pc.toNat), (8, 4, c.passes), (12, 1, c.threadState), (13, 1, b2n c.handling), (16, 8, c.fmode.toNat),
   (24, 8, c.fflags.toNat), (32, 8, c.trapcause.toNat), (40, 8, c.trapinfo.toNat), (48, 8, c.arcause.toNat)]

/-- A byte of a slot's control and trap records where R125's table gives the entry no layout. -/
def State.recordByte (s : State) (key o : Nat) : Byte :=
  if 0x220 ≤ o && o < 0x240 then fieldByte (s.waveView key) (o - 0x220)
  else if 0x1000 ≤ o && o < 0x1800 then fieldByte (s.ctlAt key (o % 0x800 / 64)).view (o % 64)
  else 0

/-- A byte of a vision core's translation structures: those of its partitions, then the core's. -/
def State.visionTlbByte (s : State) (k off : Nat) : Byte :=
  if off < 0x4000 then s.tlbByte (4 * k + off / 4096) (off % 4096)
  else if off < 0x8000 then s.tlbByte (65536 + k) (off - 0x4000)
  else 0

/-! ### Slices -/

/-- A directory entry in the format of R306: the address bits that the home and the set do not imply are those of the
line number above its set. -/
def DirEnt.view (e : DirEnt) : Nat :=
  let ptrs := (match e.owner with | some o => [o] | none => []) ++ e.sharers.filter fun a => e.owner != some a
  let p (i : Nat) : Nat := ptrs.getD i 0
  let low := if e.coarse then e.groups % 256 * 2 ^ 22 + p 0 * 2 ^ 10
    else minN ptrs.length 4 * 2 ^ 30 + p 3 * 2 ^ 25 + p 2 * 2 ^ 20 + p 1 * 2 ^ 15 + p 0 * 2 ^ 10
  e.unit % 2 ^ 46 / 1024 / 80 / 256 * 2 ^ 38 + e.grain * 2 ^ 36 + e.state * 2 ^ 34 + b2n e.coarse * 2 ^ 33 + low

/-- The 64 bytes of a slice line (R299, R309, R310): its address, partition and grain, its state fields, and for each sector its
bits and the bytes written since its fill began. -/
def Line.view (l : Line) (fields : Nat) : List (Nat × Nat × Nat) :=
  [(0, 8, 256 * l.line + 1), (8, 1, l.part), (9, 1, l.grain), (10, 1, b2n l.follow), (11, 1, fields)] ++
  l.sectors.zipIdx.flatMap fun (x : Sector × Nat) =>
    [(16 + 12 * x.2, 4, x.1.wmask % 2 ^ 16 + b2n x.1.v * 2 ^ 16 + b2n x.1.d * 2 ^ 17 + b2n x.1.filling * 2 ^ 18),
     (20 + 12 * x.2, 8, x.1.fillRec)]

/-- Units that wait at a home, oldest first, and units that a back-invalidation of it holds. -/
def State.waitingUnits (s : State) (h : Nat) : List Nat :=
  (s.homeQueue.get [] h).map fun i => match s.flights.find i with
    | some (.msg m) => m.unit
    | _ => 0
def State.backInvalidated (s : State) (h : Nat) : List Nat :=
  s.flights.filterMap fun (e : Nat × Flight) => match e.2 with
    | .home o => if o.kind == .backInv && homeSlice o.unit == h then some o.unit else none
    | _ => none

/-- The state fields of a slice line's tag (R299): those of the proxy's units in a line of another package; the slice holds no
state of the others, whose units have theirs in the directory (R309, log 43). -/
def State.lineFields (s : State) (l : Line) : Nat :=
  if s.remote (256 * l.line) then s.tagFields (s.proxyAgent (256 * l.line)) l.line else 0

/-- Addresses as 64-bit words with bit 0 set. -/
def listView (l : List Nat) : List (Nat × Nat × Nat) := l.zipIdx.map fun (x : Nat × Nat) => (8 * x.2, 8, x.1 + 1)

/-- A byte of a slice's window (R382): directory entries, lines, translations, and the queue and back-invalidations. -/
def State.sliceWindow (s : State) (h off : Nat) : Byte :=
  if off < 0x80000 then
    match s.dir.find (65536 * h + off / 8) with
    | some e => fieldByte [(0, 8, e.view)] (off % 8)
    | none => 0
  else if 0x800000 ≤ off && off < 0x880000 then
    match s.lines.find (8192 * h + (off - 0x800000) / 64) with
    | some l => fieldByte (l.view (s.lineFields l)) (off % 64)
    | none => 0
  else if 0xC00000 ≤ off && off < 0xC04000 then s.tlbByte (4 * 65536 + h) (off - 0xC00000)
  else if 0xE00000 ≤ off && off < 0xE01000 then fieldByte (listView (s.waitingUnits h)) (off - 0xE00000)
  else if 0xE01000 ≤ off && off < 0xE02000 then fieldByte (listView (s.backInvalidated h)) (off - 0xE01000)
  else 0

end Sys2Proof.Machine
end

