-- ==== Sys2Proof/Machine/Readback.lean ====
section
/-! DEFINITION. What the supervisor and the safety island read in control space (R108, R110, R382 to R384): the control
registers, the card slots and the state window. A read changes nothing but the latch of dsp_tpair_ns, which has an event of
its own (R99). -/

namespace Sys2Proof.Machine

/-! ### Windows of the cores -/

/-- A byte of a tile core's window, as R383 lays it out in the formats of R121 and R402, and of log 43 where the spec gives
the contents no layout; none where nothing stands. -/
def State.tileWindow (s : State) (c off : Nat) : Option Byte :=
  let at_ (l : List Byte) (i : Nat) : Option Byte := some (l.getD i 0)
  if off < 0x5000 then at_ (s.engineArea (streamKey c (off / 5120) (off / 1024 % 5))) (off % 1024)
  else if off < 0x9000 then at_ (s.contextArea (ctxKey c ((off - 0x5000) / 4096))) (off % 4096)
  else if off < 0xB000 then
    let x := (off - 0x9000) / 2048
    let o := (off - 0x9000) % 2048
    let ck := ctxKey c x
    if o < 1024 then at_ (s.shapes.get [] (16 * ck + o / 64)) (o % 64)
    else at_ (s.accords.get realAccord (4 * ck + (o - 1024) / 256)) (o % 256)
  else if off < 0xC000 then
    if off < 0xB800 then some (fieldByte (s.ringAt c ((off - 0xB000) / 64)).view (off % 64)) else none
  else if off < 0x14000 then
    let r := s.ringAt c ((off - 0xC000) / 1024)
    let i := off % 1024 / 4
    at_ (leBytes 4 (r.tags.get 0 i + 4 * r.bytes.get 0 i)) (off % 4)
  else if off < 0x18000 then some (fieldByte (s.rtes.get {} (64 * c + (off - 0x14000) / 256)).view (off % 256))
  else if off < 0x24000 then some (s.tileTables c off)
  else if 0x30000 ≤ off && off < 0x40000 then
    let key := streamKey c ((off - 0x30000) / 0x4000) 3
    let o := off % 0x4000
    if o < 0x3A00 then at_ (leBytes 4 (s.lget key (o / 256) (o % 256 / 4)).toNat) (o % 4)
    else if o < 0x3A40 then
      let p := (o - 0x3A00) / 8
      at_ (leBytes 8 (if p == 0 then 2 ^ 64 - 1 else (s.preg.get 0 (8 * key + p)).toNat)) (o % 8)
    else some 0
  else if 0x40000 ≤ off && off < 0x50000 then
    at_ (leBytes 8 (s.acc.get 0 (1024 * (8 * c + (off - 0x40000) / 8192) + off % 8192 / 8)).toNat) (off % 8)
  else if 0x80000 ≤ off && off < 0xC0000 then
    at_ (leBytes 4 (s.colAcc.get 0 (2048 * (32 * c + (off - 0x80000) / 8192) + off % 8192 / 4)).toNat) (off % 4)
  else if 0x200000 ≤ off && off < 0x380000 then some (s.loc.get 0 (locKey c (off - 0x200000)))
  else none

/-- A byte of a vision core's window (R382): its register file and its local store, and its slots as a save area lays them
out (R125), with the layout of log 43 where that gives none. -/
def State.visionWindow (s : State) (k off : Nat) : Option Byte :=
  if off < 0x3C000 then some (s.fileByte k off)
  else if 0x100000 ≤ off && off < 0x140000 then some (s.loc.get 0 (locKey (64 + k) (off - 0x100000)))
  else if 0x200000 ≤ off && off < 0x200000 + 48 * 0x2000 then
    let key := waveKey k ((off - 0x200000) / 0x2000)
    match s.waves.find key with
    | some w => some (s.visionByte w.job k (fun _ => s.recordByte key (off % 0x2000)) (0x7C000 + off - 0x200000))
    | none => some 0
  else if 0x300000 ≤ off && off < 0x308000 then some (s.visionTlbByte k (off - 0x300000))
  else if 0x400000 ≤ off && off < 0x610000 then some (s.visionTables k (off - 0x400000))
  else none

/-- A byte of a card slot's words (R382): state code, executed ns, dropped releases, hinge fallbacks, discarded
decrements (R346, log 43), and the card copy. -/
def State.slotWindow (s : State) (k off : Nat) : Byte :=
  let x := s.slotAt k
  let w (v : Nat) : Byte := BitVec.ofNat 8 (v / 256 ^ (off % 8))
  if off < 8 then w (x.state % 256)
  else if off < 0x10 then w x.execNs
  else if off < 0x18 then w x.dropped
  else if off < 0x20 then w x.fallbacks
  else if off < 0x28 then w x.strayDecrements
  else if 0x80 ≤ off then x.card.getD (off - 0x80) 0
  else 0

/-- A byte of a controller's words (R382): for each partition the window count, the share and the held requests; and its
corrected and poisoned errors (R371). -/
def State.controllerWindow (s : State) (m off : Nat) : Option Byte :=
  if off < 64 * 32 then
    let r := s.regulators.get {} (off / 32)
    let o := off % 32 / 8
    let v := if o == 0 then r.counts.get 0 m else if o == 1 then r.share m
      else if o == 2 then (r.held.get [] m).length else 0
    some (BitVec.ofNat 8 (v / 256 ^ (off % 8)))
  else if 0x1000 ≤ off && off < 0x1010 then some (fieldByte [(0, 8, s.corrected.get 0 m), (8, 8, s.poisoned.get 0 m)] (off % 16))
  else none

/-- A byte of the state window; none where the spec gives the contents no layout. -/
def State.windowByte (s : State) (a : Nat) : Option Byte :=
  if 0x3F1000000000 ≤ a && a < 0x3F1010000000 then s.tileWindow ((a - 0x3F1000000000) / 2 ^ 22) (a % 2 ^ 22)
  else if 0x3F1010000000 ≤ a && a < 0x3F1028000000 then s.visionWindow ((a - 0x3F1010000000) / 2 ^ 24) (a % 2 ^ 24)
  else if 0x3F1030000000 ≤ a && a < 0x3F1030010000 then some (s.slotWindow ((a - 0x3F1030000000) / 256) (a % 256))
  else if 0x3F1040000000 ≤ a && a < 0x3F1090000000 then
    some (s.sliceWindow ((a - 0x3F1040000000) / 2 ^ 24) (a % 2 ^ 24))
  else if 0x3F1090000000 ≤ a && a < 0x3F1090032000 then
    let r := (a - 0x3F1090000000) / 4096
    let o := a % 4096
    if o < 50 then some (BitVec.ofNat 8 (s.routeEntry r o))
    else if 0x100 ≤ o && o < 0x108 then some (BitVec.ofNat 8 (s.routingErrors.get 0 r / 256 ^ (o - 0x100)))
    else none
  else if 0x3F1091000000 ≤ a && a < 0x3F1091100000 then s.controllerWindow ((a - 0x3F1091000000) / 65536) (a % 65536)
  else none

/-! ### Reads -/

/-- What an agent reads from the aligned 64-bit word at PA[45:0] of this package's control space (R108, R382). Bytes of the
state window that the spec gives no layout are free values (log 2). -/
def State.readControl (s : State) (agent a : Nat) : DWord :=
  if a == dspBase + 0x20 then BitVec.ofNat 64 s.pairNs
  else if a == dspBase + 0x28 then BitVec.ofNat 64 (s.pairLatch.get 0 agent)
  else if a == dspBase + 0x8030 then BitVec.ofNat 64 s.tcap
  else if a < 0x3F1000000000 then s.creg_ a
  else BitVec.ofNat 64 (leNat ((upTo 8).map fun i => (s.windowByte (a + i)).getD ((Config.freeValue (a + i)).setWidth 8)))

end Sys2Proof.Machine
end

