-- ==== Sys2Proof/WellFormed.lean ====
section
/-! DEFINITION. Which field values are encodings at all: the patterns of R46, R50, R52 to R57, R167, R171, R175, R233,
R240, R243 and R256 that are illegal instructions are not well formed. Operand specifiers that raise the
illegal-operand fault (R47, R48) are well formed: the fault is their meaning. -/

namespace Sys2Proof

/-- The encodings that exist. Events have no encoding and are well formed. -/
def Instr.wf : Instr → Bool
  | .br _ _ => true
  | .bz _ _ _ => true
  | .bnz _ _ _ => true
  | .bp _ _ _ => true
  | .bnp _ _ _ => true
  | .loop _ _ _ => true
  | .call _ _ _ => true
  | .nop _ => true
  | .halt _ => true
  | .rdv _ => true
  | .yield _ => true
  | .wait _ _ _ => true
  | .jr _ _ => true
  | .trap _ _ => true
  | .eret _ => true
  | .hold n _ => n != 0 && n.toNat ≤ 512
  | .unhold _ => true
  | .srd _ _ _ => true
  | .swr _ _ _ => true
  | .prof _ _ _ => true
  | .rdtime _ _ => true
  | .rdcyc _ _ => true
  | .exit _ => true
  | .are _ => true
  | .arx _ => true
  | .ret _ _ => true
  | .qbind _ _ _ => true
  | .qbindTakesEffect _ _ _ => true
  | .add _ _ _ _ => true
  | .sub _ _ _ _ => true
  | .and _ _ _ _ => true
  | .or _ _ _ _ => true
  | .xor _ _ _ _ => true
  | .shl _ _ _ _ => true
  | .shr _ _ _ _ => true
  | .sra _ _ _ _ => true
  | .mul _ _ _ _ => true
  | .mulh _ _ _ _ => true
  | .mulhu _ _ _ _ => true
  | .mad _ _ _ _ => true
  | .min _ _ _ _ => true
  | .max _ _ _ _ => true
  | .minu _ _ _ _ => true
  | .maxu _ _ _ _ => true
  | .div _ _ _ _ => true
  | .divu _ _ _ _ => true
  | .rem _ _ _ _ => true
  | .remu _ _ _ _ => true
  | .seq _ _ _ _ => true
  | .slt _ _ _ _ => true
  | .sltu _ _ _ _ => true
  | .sel _ _ _ _ => true
  | .addi _ _ _ _ => true
  | .andi _ _ _ _ => true
  | .shli _ _ _ _ => true
  | .shri _ _ _ _ => true
  | .li _ _ _ => true
  | .lsi _ _ _ => true
  | .clz _ _ _ => true
  | .ctz _ _ _ => true
  | .popc _ _ _ => true
  | .not _ _ _ => true
  | .neg _ _ _ => true
  | .sext8 _ _ _ => true
  | .sext16 _ _ _ => true
  | .sext32 _ _ _ => true
  | .zext8 _ _ _ => true
  | .zext16 _ _ _ => true
  | .zext32 _ _ _ => true
  | .bswap _ _ _ => true
  | .addLane _ _ _ _ => true
  | .subLane _ _ _ _ => true
  | .andLane _ _ _ _ => true
  | .orLane _ _ _ _ => true
  | .xorLane _ _ _ _ => true
  | .shlLane _ _ _ _ => true
  | .shrLane _ _ _ _ => true
  | .sraLane _ _ _ _ => true
  | .mulLane _ _ _ _ => true
  | .mulhLane _ _ _ _ => true
  | .mulhuLane _ _ _ _ => true
  | .madLane _ _ _ _ => true
  | .minLane _ _ _ _ => true
  | .maxLane _ _ _ _ => true
  | .minuLane _ _ _ _ => true
  | .maxuLane _ _ _ _ => true
  | .addiLane _ _ _ _ => true
  | .andiLane _ _ _ _ => true
  | .shliLane _ _ _ _ => true
  | .shriLane _ _ _ _ => true
  | .clzLane _ _ _ => true
  | .popcLane _ _ _ => true
  | .notLane _ _ _ => true
  | .negLane _ _ _ => true
  | .abs _ _ _ => true
  | .sext8Lane _ _ _ => true
  | .sext16Lane _ _ _ => true
  | .zext8Lane _ _ _ => true
  | .zext16Lane _ _ _ => true
  | .bswapLane _ _ _ => true
  | .cmpEq _ _ _ _ => true
  | .cmpLt _ _ _ _ => true
  | .cmpLtu _ _ _ _ => true
  | .cmpNe _ _ _ _ => true
  | .fadd _ _ _ f _ => f != 3
  | .fsub _ _ _ f _ => f != 3
  | .fmul _ _ _ f _ => f != 3
  | .ffma _ _ _ f _ => f != 3
  | .fmin _ _ _ f _ => f != 3
  | .fmax _ _ _ f _ => f != 3
  | .fcmp _ _ _ _ f _ => f != 3
  | .fsqrt _ _ f _ => f != 3
  | .frcp _ _ f _ => f != 3
  | .frsq _ _ f _ => f != 3
  | .fexp2 _ _ f _ => f != 3
  | .flog2 _ _ f _ => f != 3
  | .fsin _ _ f _ => f != 3
  | .fcos _ _ f _ => f != 3
  | .fabs _ _ f _ => f != 3
  | .fneg _ _ f _ => f != 3
  | .ffloor _ _ f _ => f != 3
  | .fceil _ _ f _ => f != 3
  | .ftrunc _ _ f _ => f != 3
  | .fround _ _ f _ => f != 3
  | .fclass _ _ f _ => f != 3
  | .cvt _ _ n _ _ => n != 63
  | .xlGet _ _ _ _ => true
  | .xlSh _ _ _ _ => true
  | .xlRot _ _ _ _ => true
  | .xlXor _ _ _ _ => true
  | .xliGet _ _ _ _ => true
  | .xliSh _ _ _ _ => true
  | .xliRot _ _ _ _ => true
  | .xliXor _ _ _ _ => true
  | .rfal _ _ _ => true
  | .ballot _ _ _ => true
  | .vany _ _ _ => true
  | .vall _ _ _ => true
  | .pcount _ _ _ => true
  | .movs _ _ _ => true
  | .mov _ _ _ => true
  | .laneid _ _ => true
  | .vredadd _ _ _ => true
  | .vredmin _ _ _ => true
  | .vredmax _ _ _ => true
  | .fredadd _ _ _ => true
  | .pand _ _ _ _ => true
  | .por _ _ _ _ => true
  | .pxor _ _ _ _ => true
  | .pandn _ _ _ _ => true
  | .ld _ _ _ _ _ => true
  | .st _ _ _ _ _ => true
  | .ldg _ _ _ _ => true
  | .stg _ _ _ _ => true
  | .ldg16 _ _ _ _ => true
  | .stg16 _ _ _ _ => true
  | .lds _ _ _ _ _ => true
  | .sts _ _ _ _ _ => true
  | .ldsAcq _ _ _ _ => true
  | .stsRel _ _ _ _ => true
  | .fenceAcq _ _ => true
  | .fenceRel _ _ => true
  | .fenceAr _ _ => true
  | .fenceSc _ _ => true
  | .qsync _ => true
  | .afence _ => true
  | .cclean _ _ _ => true
  | .cflush _ _ _ => true
  | .cinv _ _ _ => true
  | .prefetch _ _ _ => true
  | .atomAdd d _ _ _ => d != 0x3C
  | .atomAnd d _ _ _ => d != 0x3C
  | .atomOr d _ _ _ => d != 0x3C
  | .atomXor d _ _ _ => d != 0x3C
  | .atomMin d _ _ _ => d != 0x3C
  | .atomMax d _ _ _ => d != 0x3C
  | .atomMinu d _ _ _ => d != 0x3C
  | .atomMaxu d _ _ _ => d != 0x3C
  | .atomXchg d _ _ _ => d != 0x3C
  | .atomCas d _ _ _ => d != 0x3C
  | .atomFaddF32 d _ _ _ => d != 0x3C
  | .atomFaddBf16x2 d _ _ _ => d != 0x3C
  | .redAdd _ _ _ => true
  | .redAnd _ _ _ => true
  | .redOr _ _ _ => true
  | .redXor _ _ _ => true
  | .redMin _ _ _ => true
  | .redMax _ _ _ => true
  | .redMinu _ _ _ => true
  | .redMaxu _ _ _ => true
  | .redXchg _ _ _ => true
  | .redCas _ _ _ => true
  | .redFaddF32 _ _ _ => true
  | .redFaddBf16x2 _ _ _ => true
  | .arb _ _ => true
  | .finc _ _ _ => true
  | .fset _ _ _ => true
  | .fwait _ _ _ => true
  | .fread _ _ _ => true
  | .flagUpdate _ => true
  | .barInit _ _ _ => true
  | .barArrive _ _ _ => true
  | .barExpect _ _ _ => true
  | .barWait _ _ _ => true
  | .futRes _ _ _ => true
  | .futReg _ _ _ => true
  | .futFail _ _ _ => true
  | .futGet _ _ _ _ => true
  | .ldt _ _ _ _ => true
  | .stt _ _ _ _ => true
  | .copy _ _ _ _ => true
  | .copyResume _ _ => true
  | .copyCk _ _ _ _ => true
  | .copyCkv _ _ _ _ => true
  | .copyRed _ _ _ _ => true
  | .copyMc _ _ _ _ => true
  | .trec _ _ _ _ => true
  | .copyCompletion _ => true
  | .copyElementFault _ => true
  | .deferredFaultDelivery _ _ _ => true
  | .rclaim _ _ _ => true
  | .rfill _ _ _ => true
  | .rwaitf _ _ _ => true
  | .rwaite _ _ => true
  | .rfree _ _ _ => true
  | .rbind _ _ _ => true
  | .rpush _ _ _ => true
  | .rinit _ _ _ => true
  | .rpushDeliveryArrival _ => true
  | .rpushDeliveryAccept _ => true
  | .rpushCompletion _ => true
  | .ringElementDelivery _ => true
  | .mma m _ _ _ _ _ _ _ _ => m.toNat ≤ 5
  | .mmaP24 m _ _ _ _ _ _ _ _ => m.toNat ≤ 5
  | .mmar m _ _ _ _ _ _ _ _ => m.toNat ≤ 5
  | .mmarP24 m _ _ _ _ _ _ _ _ => m.toNat ≤ 5
  | .shp _ _ _ => true
  | .accld _ _ _ => true
  | .acczero _ _ => true
  | .accrd _ _ _ c r _ => c != 0 || r == 0
  | .amul _ _ _ _ => true
  | .aconj _ _ _ => true
  | .anorm _ _ _ => true
  | .compress _ _ f _ => f.toNat ≤ 5
  | .accumulatorRetirement _ _ => true
  | .readoutCompletion _ => true
  | .wload _ _ _ _ => true
  | .tma _ _ _ _ _ _ => true
  | .tmard _ s _ _ _ _ => s != 3
  | .wstat _ _ _ => true
  | .wloadRetirement _ _ => true
  | .columnAccumulatorRetirement _ _ => true
  | .route _ _ _ => true
  | .rret _ _ _ => true
  | .rasm _ _ _ => true
  | .rport _ _ => true
  | .rportKey _ _ => true
  | .rportRel _ _ => true
  | .rportRetirement _ _ _ => true
  | .routeReturnArrival _ => true
  | .routeDeadline _ _ => true
  | .routeTimeoutNotification _ _ _ => true
  | .rretCompletion _ => true
  | .fetchwg _ _ => true
  | .xacq _ => true
  | .xrel _ => true
  | .gbar _ => true
  | .wbar _ => true
  | .sample _ _ _ _ => true
  | .waitl _ _ _ _ => true
  | .waitlTimeout _ => true
  | .waitlWatchLost _ => true
  | .addLaneShort d a _ => d.toNat ≤ 10 && a.toNat ≤ 10
  | .subLaneShort d a _ => d.toNat ≤ 10 && a.toNat ≤ 10
  | .andLaneShort d a _ => d.toNat ≤ 10 && a.toNat ≤ 10
  | .orLaneShort d a _ => d.toNat ≤ 10 && a.toNat ≤ 10
  | .xorLaneShort d a _ => d.toNat ≤ 10 && a.toNat ≤ 10
  | .shlLaneShort d a _ => d.toNat ≤ 10 && a.toNat ≤ 10
  | .shrLaneShort d a _ => d.toNat ≤ 10 && a.toNat ≤ 10
  | .sraLaneShort d a _ => d.toNat ≤ 10 && a.toNat ≤ 10
  | .mulLaneShort d a _ => d.toNat ≤ 10 && a.toNat ≤ 10
  | .minLaneShort d a _ => d.toNat ≤ 10 && a.toNat ≤ 10
  | .maxLaneShort d a _ => d.toNat ≤ 10 && a.toNat ≤ 10
  | .minuLaneShort d a _ => d.toNat ≤ 10 && a.toNat ≤ 10
  | .maxuLaneShort d a _ => d.toNat ≤ 10 && a.toNat ≤ 10
  | .faddF32Short d a _ => d.toNat ≤ 10 && a.toNat ≤ 10
  | .fsubF32Short d a _ => d.toNat ≤ 10 && a.toNat ≤ 10
  | .fmulF32Short d a _ => d.toNat ≤ 10 && a.toNat ≤ 10
  | .ffmaF32Short d a _ => d.toNat ≤ 10 && a.toNat ≤ 10
  | .fminF32Short d a _ => d.toNat ≤ 10 && a.toNat ≤ 10
  | .fmaxF32Short d a _ => d.toNat ≤ 10 && a.toNat ≤ 10
  | .faddF16Short d a _ => d.toNat ≤ 10 && a.toNat ≤ 10
  | .fmulF16Short d a _ => d.toNat ≤ 10 && a.toNat ≤ 10
  | .ffmaF16Short d a _ => d.toNat ≤ 10 && a.toNat ≤ 10
  | .faddBf16Short d a _ => d.toNat ≤ 10 && a.toNat ≤ 10
  | .fmulBf16Short d a _ => d.toNat ≤ 10 && a.toNat ≤ 10
  | .ffmaBf16Short d a _ => d.toNat ≤ 10 && a.toNat ≤ 10
  | .movShort d a => d.toNat ≤ 10 && a.toNat ≤ 10
  | .negLaneShort d a => d.toNat ≤ 10 && a.toNat ≤ 10
  | .notLaneShort d a => d.toNat ≤ 10 && a.toNat ≤ 10
  | .absShort d a => d.toNat ≤ 10 && a.toNat ≤ 10
  | .fnegF32Short d a => d.toNat ≤ 10 && a.toNat ≤ 10
  | .fabsF32Short d a => d.toNat ≤ 10 && a.toNat ≤ 10
  | .addShort _ _ => true
  | .subShort _ _ => true
  | .andShort _ _ => true
  | .orShort _ _ => true
  | .xorShort _ _ => true
  | .shlShort _ _ => true
  | .shrShort _ _ => true
  | .sraShort _ _ => true
  | .mv _ _ => true
  | .addiShort _ _ => true
  | .liShort _ _ => true
  | .shliShort _ _ => true
  | .shriShort _ _ => true
  | .andiShort _ _ => true
  | .negShort _ _ => true
  | .notShort _ _ => true
  | .nopShort _ => true
  | .yieldShort => true
  | .stamp _ => true
  | .amod c p _ o => p != 3 && (c == 0 || o == 3)
  | .stampedIssue _ _ => true
  | .stallRelease _ _ _ => true
  | .blockingWaitEnd _ => true
  | .pendingPushDrain _ _ _ => true
  | .holdRegionExpiry _ _ _ => true
  | .holdOverrun _ _ _ => true
  | .dspSubmitSv _ => true
  | .dspSubmitSi _ => true
  | .dspWithdraw _ => true
  | .dspTimeSet _ => true
  | .dspTpairNsRead _ => true
  | .timePairCapture => true
  | .ptpDiscipline _ => true
  | .cardQueueScan => true
  | .jobRelease _ => true
  | .dispatcherEvaluation => true
  | .evictionSaveComplete _ => true
  | .hingeFallback _ _ _ => true
  | .jobRestore _ => true
  | .deadlineMiss _ => true
  | .deadlineMissException _ => true
  | .regionClearDone _ => true
  | .pageClearDone _ => true
  | .workgroupPlacement _ => true
  | .kernelClassification _ => true
  | .fetchwgAnswer _ => true
  | .gets _ => true
  | .getm _ => true
  | .upg _ => true
  | .puts _ => true
  | .putm _ => true
  | .puto _ => true
  | .atomFar _ => true
  | .homeRead _ => true
  | .homeWrite _ => true
  | .recalledData _ => true
  | .inv _ => true
  | .fwdGets _ => true
  | .fwdGetm _ => true
  | .data _ => true
  | .grant _ => true
  | .putAck _ => true
  | .nackMoved _ => true
  | .atomResp _ => true
  | .invAck _ => true
  | .probeMiss _ => true
  | .sliceFill _ => true
  | .kolteLinkFailure _ => true
  | .migrationStart _ => true
  | .migrationUnitCopy _ => true
  | .translationWalk _ _ => true
  | .xltInvPage _ => true
  | .xltInvPartition _ => true
  | .xltInvAll _ => true
  | .xltInvDone => true
  | .sectorRequest _ => true
  | .regulatorWindowStart _ => true
  | .budgetOverrunException _ => true
  | .escCmdResume _ => true
  | .escCmdEnd _ => true
  | .escFreezeTile _ => true
  | .escFreezeVis _ => true
  | .freezeComplete _ => true
  | .siCmdRestart _ => true
  | .domainRestartStart => true
  | .domainRestartDone => true
  | .siPlimitWrite _ => true
  | .siAttestWrite _ => true
  | .attestationReport => true
  | .siErrclr _ => true
  | .lockstepMismatch => true
  | .islandRestartDone => true
  | .resetNRelease => true
  | .bringupStageDone _ => true
  | .thermtrip => true
  | .monitorCrossing _ _ => true
  | .correctableError _ => true
  | .uncorrectableError _ => true
  | .ingestFrame _ => true
  | .registerWrite _ _ => true
  | .powerCycle => true
  | .domainSelfCheckFailure _ => true
  | .ingestStreamEnable _ => true

end Sys2Proof
end

