-- ==== Sys2Proof/Decode.lean ====
section
/-! DEFINITION. Decoding of halfwords and bytes (R40, R44 to R55, R57) and the encoder written from the same tables.
A word that is no instruction is refused by name: illegal-instruction, or illegal-operand for the rport form number
of R263. -/

namespace Sys2Proof

noncomputable section

/-- Field `[lo + k - 1 : lo]` of an instruction word. -/
def fld (w lo k : Nat) : BitVec k := BitVec.ofNat k (w / 2 ^ lo)

/-- Whether field `[lo + k - 1 : lo]` of a word holds `v`. -/
def fixedAt (w lo k v : Nat) : Bool := w / 2 ^ lo % 2 ^ k == v

/-- A field's contribution to a word. -/
def put {k : Nat} (x : BitVec k) (lo : Nat) : Nat := x.toNat * 2 ^ lo

/-- Major 0x00 (R49). -/
def decodeMaj00 (w : Nat) : Option Instr :=
  if fixedAt w 26 6 0x0 then some (.br (fld w 12 14) (fld w 8 4))
  else none

/-- Major 0x01 (R49). -/
def decodeMaj01 (w : Nat) : Option Instr :=
  some (.bz (fld w 26 6) (fld w 12 14) (fld w 8 4))

/-- Major 0x02 (R49). -/
def decodeMaj02 (w : Nat) : Option Instr :=
  some (.bnz (fld w 26 6) (fld w 12 14) (fld w 8 4))

/-- Major 0x03 (R49). -/
def decodeMaj03 (w : Nat) : Option Instr :=
  if fixedAt w 29 3 0x0 then some (.bp (fld w 26 3) (fld w 12 14) (fld w 8 4))
  else none

/-- Major 0x04 (R49). -/
def decodeMaj04 (w : Nat) : Option Instr :=
  if fixedAt w 29 3 0x0 then some (.bnp (fld w 26 3) (fld w 12 14) (fld w 8 4))
  else none

/-- Major 0x05 (R49). -/
def decodeMaj05 (w : Nat) : Option Instr :=
  some (.loop (fld w 26 6) (fld w 12 14) (fld w 8 4))

/-- Major 0x06 (R49). -/
def decodeMaj06 (w : Nat) : Option Instr :=
  some (.call (fld w 26 6) (fld w 12 14) (fld w 8 4))

/-- Major 0x07 (R49). -/
def decodeMaj07 (w : Nat) : Option Instr :=
  if fixedAt w 12 20 0x0 then some (.nop (fld w 8 4))
  else if fixedAt w 12 20 0x1 then some (.halt (fld w 8 4))
  else if fixedAt w 12 20 0x2 then some (.rdv (fld w 8 4))
  else if fixedAt w 12 20 0x3 then some (.yield (fld w 8 4))
  else if fixedAt w 12 8 0x4 && fixedAt w 29 3 0x0 then some (.wait (fld w 26 3) (fld w 20 6) (fld w 8 4))
  else if fixedAt w 12 8 0x5 && fixedAt w 26 6 0x0 then some (.jr (fld w 20 6) (fld w 8 4))
  else if fixedAt w 12 14 0x6 then some (.trap (fld w 26 6) (fld w 8 4))
  else if fixedAt w 12 20 0x7 then some (.eret (fld w 8 4))
  else if fixedAt w 12 8 0x8 then some (.hold (fld w 20 12) (fld w 8 4))
  else if fixedAt w 12 20 0x9 then some (.unhold (fld w 8 4))
  else if fixedAt w 12 8 0xA then some (.srd (fld w 26 6) (fld w 20 6) (fld w 8 4))
  else if fixedAt w 12 8 0xB then some (.swr (fld w 26 6) (fld w 20 6) (fld w 8 4))
  else if fixedAt w 12 8 0xC then some (.prof (fld w 26 6) (fld w 20 6) (fld w 8 4))
  else if fixedAt w 12 14 0xD then some (.rdtime (fld w 26 6) (fld w 8 4))
  else if fixedAt w 12 14 0xE then some (.rdcyc (fld w 26 6) (fld w 8 4))
  else if fixedAt w 12 20 0xF then some (.exit (fld w 8 4))
  else if fixedAt w 12 20 0x10 then some (.are (fld w 8 4))
  else if fixedAt w 12 20 0x11 then some (.arx (fld w 8 4))
  else if fixedAt w 12 8 0x12 && fixedAt w 26 6 0x0 then some (.ret (fld w 20 6) (fld w 8 4))
  else if fixedAt w 12 8 0x13 then some (.qbind (fld w 26 6) (fld w 20 6) (fld w 8 4))
  else none

/-- Major 0x08 (R49). -/
def decodeMaj08 (w : Nat) : Option Instr :=
  if fixedAt w 12 2 0x0 then some (.add (fld w 26 6) (fld w 20 6) (fld w 14 6) (fld w 8 4))
  else if fixedAt w 12 2 0x1 then some (.sub (fld w 26 6) (fld w 20 6) (fld w 14 6) (fld w 8 4))
  else if fixedAt w 12 2 0x2 then some (.and (fld w 26 6) (fld w 20 6) (fld w 14 6) (fld w 8 4))
  else if fixedAt w 12 2 0x3 then some (.or (fld w 26 6) (fld w 20 6) (fld w 14 6) (fld w 8 4))
  else none

/-- Major 0x09 (R49). -/
def decodeMaj09 (w : Nat) : Option Instr :=
  if fixedAt w 12 2 0x0 then some (.xor (fld w 26 6) (fld w 20 6) (fld w 14 6) (fld w 8 4))
  else if fixedAt w 12 2 0x1 then some (.shl (fld w 26 6) (fld w 20 6) (fld w 14 6) (fld w 8 4))
  else if fixedAt w 12 2 0x2 then some (.shr (fld w 26 6) (fld w 20 6) (fld w 14 6) (fld w 8 4))
  else if fixedAt w 12 2 0x3 then some (.sra (fld w 26 6) (fld w 20 6) (fld w 14 6) (fld w 8 4))
  else none

/-- Major 0x0A (R49). -/
def decodeMaj0A (w : Nat) : Option Instr :=
  if fixedAt w 12 2 0x0 then some (.mul (fld w 26 6) (fld w 20 6) (fld w 14 6) (fld w 8 4))
  else if fixedAt w 12 2 0x1 then some (.mulh (fld w 26 6) (fld w 20 6) (fld w 14 6) (fld w 8 4))
  else if fixedAt w 12 2 0x2 then some (.mulhu (fld w 26 6) (fld w 20 6) (fld w 14 6) (fld w 8 4))
  else if fixedAt w 12 2 0x3 then some (.mad (fld w 26 6) (fld w 20 6) (fld w 14 6) (fld w 8 4))
  else none

/-- Major 0x0B (R49). -/
def decodeMaj0B (w : Nat) : Option Instr :=
  if fixedAt w 12 2 0x0 then some (.min (fld w 26 6) (fld w 20 6) (fld w 14 6) (fld w 8 4))
  else if fixedAt w 12 2 0x1 then some (.max (fld w 26 6) (fld w 20 6) (fld w 14 6) (fld w 8 4))
  else if fixedAt w 12 2 0x2 then some (.minu (fld w 26 6) (fld w 20 6) (fld w 14 6) (fld w 8 4))
  else if fixedAt w 12 2 0x3 then some (.maxu (fld w 26 6) (fld w 20 6) (fld w 14 6) (fld w 8 4))
  else none

/-- Major 0x0C (R49). -/
def decodeMaj0C (w : Nat) : Option Instr :=
  if fixedAt w 12 2 0x0 then some (.div (fld w 26 6) (fld w 20 6) (fld w 14 6) (fld w 8 4))
  else if fixedAt w 12 2 0x1 then some (.divu (fld w 26 6) (fld w 20 6) (fld w 14 6) (fld w 8 4))
  else if fixedAt w 12 2 0x2 then some (.rem (fld w 26 6) (fld w 20 6) (fld w 14 6) (fld w 8 4))
  else if fixedAt w 12 2 0x3 then some (.remu (fld w 26 6) (fld w 20 6) (fld w 14 6) (fld w 8 4))
  else none

/-- Major 0x0D (R49). -/
def decodeMaj0D (w : Nat) : Option Instr :=
  if fixedAt w 12 2 0x0 then some (.seq (fld w 26 6) (fld w 20 6) (fld w 14 6) (fld w 8 4))
  else if fixedAt w 12 2 0x1 then some (.slt (fld w 26 6) (fld w 20 6) (fld w 14 6) (fld w 8 4))
  else if fixedAt w 12 2 0x2 then some (.sltu (fld w 26 6) (fld w 20 6) (fld w 14 6) (fld w 8 4))
  else if fixedAt w 12 2 0x3 then some (.sel (fld w 26 6) (fld w 20 6) (fld w 14 6) (fld w 8 4))
  else none

/-- Major 0x0E (R49). -/
def decodeMaj0E (w : Nat) : Option Instr :=
  if fixedAt w 12 2 0x0 then some (.addi (fld w 26 6) (fld w 20 6) (fld w 14 6) (fld w 8 4))
  else if fixedAt w 12 2 0x1 then some (.andi (fld w 26 6) (fld w 20 6) (fld w 14 6) (fld w 8 4))
  else if fixedAt w 12 2 0x2 then some (.shli (fld w 26 6) (fld w 20 6) (fld w 14 6) (fld w 8 4))
  else if fixedAt w 12 2 0x3 then some (.shri (fld w 26 6) (fld w 20 6) (fld w 14 6) (fld w 8 4))
  else none

/-- Major 0x0F (R49). -/
def decodeMaj0F (w : Nat) : Option Instr :=
  some (.li (fld w 26 6) (fld w 12 14) (fld w 8 4))

/-- Major 0x10 (R49). -/
def decodeMaj10 (w : Nat) : Option Instr :=
  some (.lsi (fld w 26 6) (fld w 12 14) (fld w 8 4))

/-- Major 0x11 (R49). -/
def decodeMaj11 (w : Nat) : Option Instr :=
  if fixedAt w 12 8 0x0 then some (.clz (fld w 26 6) (fld w 20 6) (fld w 8 4))
  else if fixedAt w 12 8 0x1 then some (.ctz (fld w 26 6) (fld w 20 6) (fld w 8 4))
  else if fixedAt w 12 8 0x2 then some (.popc (fld w 26 6) (fld w 20 6) (fld w 8 4))
  else if fixedAt w 12 8 0x3 then some (.not (fld w 26 6) (fld w 20 6) (fld w 8 4))
  else if fixedAt w 12 8 0x4 then some (.neg (fld w 26 6) (fld w 20 6) (fld w 8 4))
  else if fixedAt w 12 8 0x5 then some (.sext8 (fld w 26 6) (fld w 20 6) (fld w 8 4))
  else if fixedAt w 12 8 0x6 then some (.sext16 (fld w 26 6) (fld w 20 6) (fld w 8 4))
  else if fixedAt w 12 8 0x7 then some (.sext32 (fld w 26 6) (fld w 20 6) (fld w 8 4))
  else if fixedAt w 12 8 0x8 then some (.zext8 (fld w 26 6) (fld w 20 6) (fld w 8 4))
  else if fixedAt w 12 8 0x9 then some (.zext16 (fld w 26 6) (fld w 20 6) (fld w 8 4))
  else if fixedAt w 12 8 0xA then some (.zext32 (fld w 26 6) (fld w 20 6) (fld w 8 4))
  else if fixedAt w 12 8 0xB then some (.bswap (fld w 26 6) (fld w 20 6) (fld w 8 4))
  else none

/-- Major 0x12 (R49). -/
def decodeMaj12 (w : Nat) : Option Instr :=
  if fixedAt w 12 2 0x0 then some (.addLane (fld w 26 6) (fld w 20 6) (fld w 14 6) (fld w 8 4))
  else if fixedAt w 12 2 0x1 then some (.subLane (fld w 26 6) (fld w 20 6) (fld w 14 6) (fld w 8 4))
  else if fixedAt w 12 2 0x2 then some (.andLane (fld w 26 6) (fld w 20 6) (fld w 14 6) (fld w 8 4))
  else if fixedAt w 12 2 0x3 then some (.orLane (fld w 26 6) (fld w 20 6) (fld w 14 6) (fld w 8 4))
  else none

/-- Major 0x13 (R49). -/
def decodeMaj13 (w : Nat) : Option Instr :=
  if fixedAt w 12 2 0x0 then some (.xorLane (fld w 26 6) (fld w 20 6) (fld w 14 6) (fld w 8 4))
  else if fixedAt w 12 2 0x1 then some (.shlLane (fld w 26 6) (fld w 20 6) (fld w 14 6) (fld w 8 4))
  else if fixedAt w 12 2 0x2 then some (.shrLane (fld w 26 6) (fld w 20 6) (fld w 14 6) (fld w 8 4))
  else if fixedAt w 12 2 0x3 then some (.sraLane (fld w 26 6) (fld w 20 6) (fld w 14 6) (fld w 8 4))
  else none

/-- Major 0x14 (R49). -/
def decodeMaj14 (w : Nat) : Option Instr :=
  if fixedAt w 12 2 0x0 then some (.mulLane (fld w 26 6) (fld w 20 6) (fld w 14 6) (fld w 8 4))
  else if fixedAt w 12 2 0x1 then some (.mulhLane (fld w 26 6) (fld w 20 6) (fld w 14 6) (fld w 8 4))
  else if fixedAt w 12 2 0x2 then some (.mulhuLane (fld w 26 6) (fld w 20 6) (fld w 14 6) (fld w 8 4))
  else if fixedAt w 12 2 0x3 then some (.madLane (fld w 26 6) (fld w 20 6) (fld w 14 6) (fld w 8 4))
  else none

/-- Major 0x15 (R49). -/
def decodeMaj15 (w : Nat) : Option Instr :=
  if fixedAt w 12 2 0x0 then some (.minLane (fld w 26 6) (fld w 20 6) (fld w 14 6) (fld w 8 4))
  else if fixedAt w 12 2 0x1 then some (.maxLane (fld w 26 6) (fld w 20 6) (fld w 14 6) (fld w 8 4))
  else if fixedAt w 12 2 0x2 then some (.minuLane (fld w 26 6) (fld w 20 6) (fld w 14 6) (fld w 8 4))
  else if fixedAt w 12 2 0x3 then some (.maxuLane (fld w 26 6) (fld w 20 6) (fld w 14 6) (fld w 8 4))
  else none

/-- Major 0x16 (R49). -/
def decodeMaj16 (w : Nat) : Option Instr :=
  if fixedAt w 12 2 0x0 then some (.addiLane (fld w 26 6) (fld w 20 6) (fld w 14 6) (fld w 8 4))
  else if fixedAt w 12 2 0x1 then some (.andiLane (fld w 26 6) (fld w 20 6) (fld w 14 6) (fld w 8 4))
  else if fixedAt w 12 2 0x2 && fixedAt w 19 1 0x0 then some (.shliLane (fld w 26 6) (fld w 20 6) (fld w 14 5) (fld w 8 4))
  else if fixedAt w 12 2 0x3 && fixedAt w 19 1 0x0 then some (.shriLane (fld w 26 6) (fld w 20 6) (fld w 14 5) (fld w 8 4))
  else none

/-- Major 0x17 (R49). -/
def decodeMaj17 (w : Nat) : Option Instr :=
  if fixedAt w 12 8 0x0 then some (.clzLane (fld w 26 6) (fld w 20 6) (fld w 8 4))
  else if fixedAt w 12 8 0x1 then some (.popcLane (fld w 26 6) (fld w 20 6) (fld w 8 4))
  else if fixedAt w 12 8 0x2 then some (.notLane (fld w 26 6) (fld w 20 6) (fld w 8 4))
  else if fixedAt w 12 8 0x3 then some (.negLane (fld w 26 6) (fld w 20 6) (fld w 8 4))
  else if fixedAt w 12 8 0x4 then some (.abs (fld w 26 6) (fld w 20 6) (fld w 8 4))
  else if fixedAt w 12 8 0x5 then some (.sext8Lane (fld w 26 6) (fld w 20 6) (fld w 8 4))
  else if fixedAt w 12 8 0x6 then some (.sext16Lane (fld w 26 6) (fld w 20 6) (fld w 8 4))
  else if fixedAt w 12 8 0x7 then some (.zext8Lane (fld w 26 6) (fld w 20 6) (fld w 8 4))
  else if fixedAt w 12 8 0x8 then some (.zext16Lane (fld w 26 6) (fld w 20 6) (fld w 8 4))
  else if fixedAt w 12 8 0x9 then some (.bswapLane (fld w 26 6) (fld w 20 6) (fld w 8 4))
  else none

/-- Major 0x18 (R49). -/
def decodeMaj18 (w : Nat) : Option Instr :=
  if fixedAt w 12 2 0x0 && fixedAt w 29 3 0x0 then some (.cmpEq (fld w 26 3) (fld w 20 6) (fld w 14 6) (fld w 8 4))
  else if fixedAt w 12 2 0x1 && fixedAt w 29 3 0x0 then some (.cmpLt (fld w 26 3) (fld w 20 6) (fld w 14 6) (fld w 8 4))
  else if fixedAt w 12 2 0x2 && fixedAt w 29 3 0x0 then some (.cmpLtu (fld w 26 3) (fld w 20 6) (fld w 14 6) (fld w 8 4))
  else if fixedAt w 12 2 0x3 && fixedAt w 29 3 0x0 then some (.cmpNe (fld w 26 3) (fld w 20 6) (fld w 14 6) (fld w 8 4))
  else none

/-- Major 0x19 (R49). -/
def decodeMaj19 (w : Nat) : Option Instr :=
  some (.fadd (fld w 26 6) (fld w 20 6) (fld w 14 6) (fld w 12 2) (fld w 8 4))

/-- Major 0x1A (R49). -/
def decodeMaj1A (w : Nat) : Option Instr :=
  some (.fsub (fld w 26 6) (fld w 20 6) (fld w 14 6) (fld w 12 2) (fld w 8 4))

/-- Major 0x1B (R49). -/
def decodeMaj1B (w : Nat) : Option Instr :=
  some (.fmul (fld w 26 6) (fld w 20 6) (fld w 14 6) (fld w 12 2) (fld w 8 4))

/-- Major 0x1C (R49). -/
def decodeMaj1C (w : Nat) : Option Instr :=
  some (.ffma (fld w 26 6) (fld w 20 6) (fld w 14 6) (fld w 12 2) (fld w 8 4))

/-- Major 0x1D (R49). -/
def decodeMaj1D (w : Nat) : Option Instr :=
  some (.fmin (fld w 26 6) (fld w 20 6) (fld w 14 6) (fld w 12 2) (fld w 8 4))

/-- Major 0x1E (R49). -/
def decodeMaj1E (w : Nat) : Option Instr :=
  some (.fmax (fld w 26 6) (fld w 20 6) (fld w 14 6) (fld w 12 2) (fld w 8 4))

/-- Major 0x1F (R49). -/
def decodeMaj1F (w : Nat) : Option Instr :=
  some (.fcmp (fld w 29 3) (fld w 26 3) (fld w 20 6) (fld w 14 6) (fld w 12 2) (fld w 8 4))

/-- Major 0x20 (R49). -/
def decodeMaj20 (w : Nat) : Option Instr :=
  if fixedAt w 14 6 0x0 then some (.fsqrt (fld w 26 6) (fld w 20 6) (fld w 12 2) (fld w 8 4))
  else if fixedAt w 14 6 0x1 then some (.frcp (fld w 26 6) (fld w 20 6) (fld w 12 2) (fld w 8 4))
  else if fixedAt w 14 6 0x2 then some (.frsq (fld w 26 6) (fld w 20 6) (fld w 12 2) (fld w 8 4))
  else if fixedAt w 14 6 0x3 then some (.fexp2 (fld w 26 6) (fld w 20 6) (fld w 12 2) (fld w 8 4))
  else if fixedAt w 14 6 0x4 then some (.flog2 (fld w 26 6) (fld w 20 6) (fld w 12 2) (fld w 8 4))
  else if fixedAt w 14 6 0x5 then some (.fsin (fld w 26 6) (fld w 20 6) (fld w 12 2) (fld w 8 4))
  else if fixedAt w 14 6 0x6 then some (.fcos (fld w 26 6) (fld w 20 6) (fld w 12 2) (fld w 8 4))
  else if fixedAt w 14 6 0x7 then some (.fabs (fld w 26 6) (fld w 20 6) (fld w 12 2) (fld w 8 4))
  else if fixedAt w 14 6 0x8 then some (.fneg (fld w 26 6) (fld w 20 6) (fld w 12 2) (fld w 8 4))
  else if fixedAt w 14 6 0x9 then some (.ffloor (fld w 26 6) (fld w 20 6) (fld w 12 2) (fld w 8 4))
  else if fixedAt w 14 6 0xA then some (.fceil (fld w 26 6) (fld w 20 6) (fld w 12 2) (fld w 8 4))
  else if fixedAt w 14 6 0xB then some (.ftrunc (fld w 26 6) (fld w 20 6) (fld w 12 2) (fld w 8 4))
  else if fixedAt w 14 6 0xC then some (.fround (fld w 26 6) (fld w 20 6) (fld w 12 2) (fld w 8 4))
  else if fixedAt w 14 6 0xD then some (.fclass (fld w 26 6) (fld w 20 6) (fld w 12 2) (fld w 8 4))
  else none

/-- Major 0x21 (R49). -/
def decodeMaj21 (w : Nat) : Option Instr :=
  some (.cvt (fld w 26 6) (fld w 20 6) (fld w 14 6) (fld w 12 2) (fld w 8 4))

/-- Major 0x22 (R49). -/
def decodeMaj22 (w : Nat) : Option Instr :=
  if fixedAt w 12 2 0x0 then some (.xlGet (fld w 26 6) (fld w 20 6) (fld w 14 6) (fld w 8 4))
  else if fixedAt w 12 2 0x1 then some (.xlSh (fld w 26 6) (fld w 20 6) (fld w 14 6) (fld w 8 4))
  else if fixedAt w 12 2 0x2 then some (.xlRot (fld w 26 6) (fld w 20 6) (fld w 14 6) (fld w 8 4))
  else if fixedAt w 12 2 0x3 then some (.xlXor (fld w 26 6) (fld w 20 6) (fld w 14 6) (fld w 8 4))
  else none

/-- Major 0x23 (R49). -/
def decodeMaj23 (w : Nat) : Option Instr :=
  if fixedAt w 12 2 0x0 then some (.xliGet (fld w 26 6) (fld w 20 6) (fld w 14 6) (fld w 8 4))
  else if fixedAt w 12 2 0x1 then some (.xliSh (fld w 26 6) (fld w 20 6) (fld w 14 6) (fld w 8 4))
  else if fixedAt w 12 2 0x2 then some (.xliRot (fld w 26 6) (fld w 20 6) (fld w 14 6) (fld w 8 4))
  else if fixedAt w 12 2 0x3 then some (.xliXor (fld w 26 6) (fld w 20 6) (fld w 14 6) (fld w 8 4))
  else none

/-- Major 0x24 (R49). -/
def decodeMaj24 (w : Nat) : Option Instr :=
  if fixedAt w 12 8 0x0 then some (.rfal (fld w 26 6) (fld w 20 6) (fld w 8 4))
  else if fixedAt w 12 8 0x1 && fixedAt w 23 3 0x0 then some (.ballot (fld w 26 6) (fld w 20 3) (fld w 8 4))
  else if fixedAt w 12 8 0x2 && fixedAt w 23 3 0x0 then some (.vany (fld w 26 6) (fld w 20 3) (fld w 8 4))
  else if fixedAt w 12 8 0x3 && fixedAt w 23 3 0x0 then some (.vall (fld w 26 6) (fld w 20 3) (fld w 8 4))
  else if fixedAt w 12 8 0x4 && fixedAt w 23 3 0x0 then some (.pcount (fld w 26 6) (fld w 20 3) (fld w 8 4))
  else if fixedAt w 12 8 0x5 then some (.movs (fld w 26 6) (fld w 20 6) (fld w 8 4))
  else if fixedAt w 12 8 0x6 then some (.mov (fld w 26 6) (fld w 20 6) (fld w 8 4))
  else if fixedAt w 12 14 0x7 then some (.laneid (fld w 26 6) (fld w 8 4))
  else if fixedAt w 12 8 0x8 then some (.vredadd (fld w 26 6) (fld w 20 6) (fld w 8 4))
  else if fixedAt w 12 8 0x9 then some (.vredmin (fld w 26 6) (fld w 20 6) (fld w 8 4))
  else if fixedAt w 12 8 0xA then some (.vredmax (fld w 26 6) (fld w 20 6) (fld w 8 4))
  else if fixedAt w 12 8 0xB then some (.fredadd (fld w 26 6) (fld w 20 6) (fld w 8 4))
  else none

/-- Major 0x25 (R49). -/
def decodeMaj25 (w : Nat) : Option Instr :=
  if fixedAt w 12 2 0x0 && fixedAt w 17 3 0x0 && fixedAt w 23 3 0x0 && fixedAt w 29 3 0x0 then some (.pand (fld w 26 3) (fld w 20 3) (fld w 14 3) (fld w 8 4))
  else if fixedAt w 12 2 0x1 && fixedAt w 17 3 0x0 && fixedAt w 23 3 0x0 && fixedAt w 29 3 0x0 then some (.por (fld w 26 3) (fld w 20 3) (fld w 14 3) (fld w 8 4))
  else if fixedAt w 12 2 0x2 && fixedAt w 17 3 0x0 && fixedAt w 23 3 0x0 && fixedAt w 29 3 0x0 then some (.pxor (fld w 26 3) (fld w 20 3) (fld w 14 3) (fld w 8 4))
  else if fixedAt w 12 2 0x3 && fixedAt w 17 3 0x0 && fixedAt w 23 3 0x0 && fixedAt w 29 3 0x0 then some (.pandn (fld w 26 3) (fld w 20 3) (fld w 14 3) (fld w 8 4))
  else none

/-- Major 0x26 (R49). -/
def decodeMaj26 (w : Nat) : Option Instr :=
  some (.ld (fld w 26 6) (fld w 20 6) (fld w 14 6) (fld w 12 2) (fld w 8 4))

/-- Major 0x27 (R49). -/
def decodeMaj27 (w : Nat) : Option Instr :=
  some (.st (fld w 26 6) (fld w 20 6) (fld w 14 6) (fld w 12 2) (fld w 8 4))

/-- Major 0x28 (R49). -/
def decodeMaj28 (w : Nat) : Option Instr :=
  if fixedAt w 12 2 0x0 then some (.ldg (fld w 26 6) (fld w 20 6) (fld w 14 6) (fld w 8 4))
  else if fixedAt w 12 2 0x1 then some (.stg (fld w 26 6) (fld w 20 6) (fld w 14 6) (fld w 8 4))
  else if fixedAt w 12 2 0x2 then some (.ldg16 (fld w 26 6) (fld w 20 6) (fld w 14 6) (fld w 8 4))
  else if fixedAt w 12 2 0x3 then some (.stg16 (fld w 26 6) (fld w 20 6) (fld w 14 6) (fld w 8 4))
  else none

/-- Major 0x29 (R49). -/
def decodeMaj29 (w : Nat) : Option Instr :=
  some (.lds (fld w 26 6) (fld w 20 6) (fld w 14 6) (fld w 12 2) (fld w 8 4))

/-- Major 0x2A (R49). -/
def decodeMaj2A (w : Nat) : Option Instr :=
  some (.sts (fld w 26 6) (fld w 20 6) (fld w 14 6) (fld w 12 2) (fld w 8 4))

/-- Major 0x2B (R49). -/
def decodeMaj2B (w : Nat) : Option Instr :=
  if fixedAt w 12 2 0x0 then some (.ldsAcq (fld w 26 6) (fld w 20 6) (fld w 14 6) (fld w 8 4))
  else if fixedAt w 12 2 0x1 then some (.stsRel (fld w 26 6) (fld w 20 6) (fld w 14 6) (fld w 8 4))
  else none

/-- Major 0x2C (R49). -/
def decodeMaj2C (w : Nat) : Option Instr :=
  if fixedAt w 14 18 0x0 then some (.fenceAcq (fld w 12 2) (fld w 8 4))
  else if fixedAt w 14 18 0x1 then some (.fenceRel (fld w 12 2) (fld w 8 4))
  else if fixedAt w 14 18 0x2 then some (.fenceAr (fld w 12 2) (fld w 8 4))
  else if fixedAt w 14 18 0x3 then some (.fenceSc (fld w 12 2) (fld w 8 4))
  else if fixedAt w 12 20 0x10 then some (.qsync (fld w 8 4))
  else if fixedAt w 12 20 0x11 then some (.afence (fld w 8 4))
  else if fixedAt w 12 8 0x12 then some (.cclean (fld w 26 6) (fld w 20 6) (fld w 8 4))
  else if fixedAt w 12 8 0x13 then some (.cflush (fld w 26 6) (fld w 20 6) (fld w 8 4))
  else if fixedAt w 12 8 0x14 then some (.cinv (fld w 26 6) (fld w 20 6) (fld w 8 4))
  else if fixedAt w 12 8 0x15 then some (.prefetch (fld w 26 6) (fld w 20 6) (fld w 8 4))
  else none

/-- Major 0x2D (R49). -/
def decodeMaj2D (w : Nat) : Option Instr :=
  if fixedAt w 12 2 0x0 && fixedAt w 26 6 0x3C then some (.redAdd (fld w 20 6) (fld w 14 6) (fld w 8 4))
  else if fixedAt w 12 2 0x1 && fixedAt w 26 6 0x3C then some (.redAnd (fld w 20 6) (fld w 14 6) (fld w 8 4))
  else if fixedAt w 12 2 0x2 && fixedAt w 26 6 0x3C then some (.redOr (fld w 20 6) (fld w 14 6) (fld w 8 4))
  else if fixedAt w 12 2 0x3 && fixedAt w 26 6 0x3C then some (.redXor (fld w 20 6) (fld w 14 6) (fld w 8 4))
  else if fixedAt w 12 2 0x0 then some (.atomAdd (fld w 26 6) (fld w 20 6) (fld w 14 6) (fld w 8 4))
  else if fixedAt w 12 2 0x1 then some (.atomAnd (fld w 26 6) (fld w 20 6) (fld w 14 6) (fld w 8 4))
  else if fixedAt w 12 2 0x2 then some (.atomOr (fld w 26 6) (fld w 20 6) (fld w 14 6) (fld w 8 4))
  else if fixedAt w 12 2 0x3 then some (.atomXor (fld w 26 6) (fld w 20 6) (fld w 14 6) (fld w 8 4))
  else none

/-- Major 0x2E (R49). -/
def decodeMaj2E (w : Nat) : Option Instr :=
  if fixedAt w 12 2 0x0 && fixedAt w 26 6 0x3C then some (.redMin (fld w 20 6) (fld w 14 6) (fld w 8 4))
  else if fixedAt w 12 2 0x1 && fixedAt w 26 6 0x3C then some (.redMax (fld w 20 6) (fld w 14 6) (fld w 8 4))
  else if fixedAt w 12 2 0x2 && fixedAt w 26 6 0x3C then some (.redMinu (fld w 20 6) (fld w 14 6) (fld w 8 4))
  else if fixedAt w 12 2 0x3 && fixedAt w 26 6 0x3C then some (.redMaxu (fld w 20 6) (fld w 14 6) (fld w 8 4))
  else if fixedAt w 12 2 0x0 then some (.atomMin (fld w 26 6) (fld w 20 6) (fld w 14 6) (fld w 8 4))
  else if fixedAt w 12 2 0x1 then some (.atomMax (fld w 26 6) (fld w 20 6) (fld w 14 6) (fld w 8 4))
  else if fixedAt w 12 2 0x2 then some (.atomMinu (fld w 26 6) (fld w 20 6) (fld w 14 6) (fld w 8 4))
  else if fixedAt w 12 2 0x3 then some (.atomMaxu (fld w 26 6) (fld w 20 6) (fld w 14 6) (fld w 8 4))
  else none

/-- Major 0x2F (R49). -/
def decodeMaj2F (w : Nat) : Option Instr :=
  if fixedAt w 12 2 0x0 && fixedAt w 26 6 0x3C then some (.redXchg (fld w 20 6) (fld w 14 6) (fld w 8 4))
  else if fixedAt w 12 2 0x1 && fixedAt w 26 6 0x3C then some (.redCas (fld w 20 6) (fld w 14 6) (fld w 8 4))
  else if fixedAt w 12 2 0x2 && fixedAt w 26 6 0x3C then some (.redFaddF32 (fld w 20 6) (fld w 14 6) (fld w 8 4))
  else if fixedAt w 12 2 0x3 && fixedAt w 26 6 0x3C then some (.redFaddBf16x2 (fld w 20 6) (fld w 14 6) (fld w 8 4))
  else if fixedAt w 12 2 0x0 then some (.atomXchg (fld w 26 6) (fld w 20 6) (fld w 14 6) (fld w 8 4))
  else if fixedAt w 12 2 0x1 then some (.atomCas (fld w 26 6) (fld w 20 6) (fld w 14 6) (fld w 8 4))
  else if fixedAt w 12 2 0x2 then some (.atomFaddF32 (fld w 26 6) (fld w 20 6) (fld w 14 6) (fld w 8 4))
  else if fixedAt w 12 2 0x3 then some (.atomFaddBf16x2 (fld w 26 6) (fld w 20 6) (fld w 14 6) (fld w 8 4))
  else none

/-- Major 0x30 (R49). -/
def decodeMaj30 (w : Nat) : Option Instr :=
  if fixedAt w 26 6 0x0 then some (.arb (fld w 12 14) (fld w 8 4))
  else none

/-- Major 0x31 (R49). -/
def decodeMaj31 (w : Nat) : Option Instr :=
  if fixedAt w 12 8 0x0 then some (.finc (fld w 26 6) (fld w 20 6) (fld w 8 4))
  else if fixedAt w 12 8 0x1 then some (.fset (fld w 26 6) (fld w 20 6) (fld w 8 4))
  else if fixedAt w 12 8 0x2 then some (.fwait (fld w 26 6) (fld w 20 6) (fld w 8 4))
  else if fixedAt w 12 8 0x3 then some (.fread (fld w 26 6) (fld w 20 6) (fld w 8 4))
  else none

/-- Major 0x32 (R49). -/
def decodeMaj32 (w : Nat) : Option Instr :=
  if fixedAt w 12 8 0x0 then some (.barInit (fld w 26 6) (fld w 20 6) (fld w 8 4))
  else if fixedAt w 12 8 0x1 then some (.barArrive (fld w 26 6) (fld w 20 6) (fld w 8 4))
  else if fixedAt w 12 8 0x2 then some (.barExpect (fld w 26 6) (fld w 20 6) (fld w 8 4))
  else if fixedAt w 12 8 0x3 then some (.barWait (fld w 26 6) (fld w 20 6) (fld w 8 4))
  else none

/-- Major 0x33 (R49). -/
def decodeMaj33 (w : Nat) : Option Instr :=
  if fixedAt w 12 8 0x0 then some (.futRes (fld w 26 6) (fld w 20 6) (fld w 8 4))
  else if fixedAt w 12 8 0x1 then some (.futReg (fld w 26 6) (fld w 20 6) (fld w 8 4))
  else if fixedAt w 12 8 0x2 then some (.futFail (fld w 26 6) (fld w 20 6) (fld w 8 4))
  else if fixedAt w 12 2 0x3 && fixedAt w 15 5 0x0 then some (.futGet (fld w 26 6) (fld w 20 6) (fld w 14 1) (fld w 8 4))
  else none

/-- Major 0x34 (R49). -/
def decodeMaj34 (w : Nat) : Option Instr :=
  if fixedAt w 12 2 0x0 then some (.ldt (fld w 26 6) (fld w 20 6) (fld w 14 6) (fld w 8 4))
  else if fixedAt w 12 2 0x1 then some (.stt (fld w 26 6) (fld w 20 6) (fld w 14 6) (fld w 8 4))
  else if fixedAt w 12 2 0x2 then some (.copy (fld w 26 6) (fld w 20 6) (fld w 14 6) (fld w 8 4))
  else if fixedAt w 12 14 0x3 then some (.copyResume (fld w 26 6) (fld w 8 4))
  else none

/-- Major 0x35 (R49). -/
def decodeMaj35 (w : Nat) : Option Instr :=
  if fixedAt w 12 2 0x0 then some (.copyCk (fld w 26 6) (fld w 20 6) (fld w 14 6) (fld w 8 4))
  else if fixedAt w 12 2 0x1 then some (.copyCkv (fld w 26 6) (fld w 20 6) (fld w 14 6) (fld w 8 4))
  else if fixedAt w 12 2 0x2 then some (.copyRed (fld w 26 6) (fld w 20 6) (fld w 14 6) (fld w 8 4))
  else if fixedAt w 12 2 0x3 then some (.copyMc (fld w 26 6) (fld w 20 6) (fld w 14 6) (fld w 8 4))
  else none

/-- Major 0x36 (R49). -/
def decodeMaj36 (w : Nat) : Option Instr :=
  if fixedAt w 12 8 0x0 then some (.rclaim (fld w 26 6) (fld w 20 6) (fld w 8 4))
  else if fixedAt w 12 8 0x1 then some (.rfill (fld w 26 6) (fld w 20 6) (fld w 8 4))
  else if fixedAt w 12 8 0x2 then some (.rwaitf (fld w 26 6) (fld w 20 6) (fld w 8 4))
  else if fixedAt w 12 8 0x3 && fixedAt w 26 6 0x0 then some (.rwaite (fld w 20 6) (fld w 8 4))
  else none

/-- Major 0x37 (R49). -/
def decodeMaj37 (w : Nat) : Option Instr :=
  if fixedAt w 12 8 0x0 then some (.rfree (fld w 26 6) (fld w 20 6) (fld w 8 4))
  else if fixedAt w 12 8 0x1 then some (.rbind (fld w 26 6) (fld w 20 6) (fld w 8 4))
  else if fixedAt w 12 8 0x2 then some (.rpush (fld w 26 6) (fld w 20 6) (fld w 8 4))
  else if fixedAt w 12 8 0x3 then some (.rinit (fld w 26 6) (fld w 20 6) (fld w 8 4))
  else none

/-- Major 0x38 (R49). -/
def decodeMaj38 (w : Nat) : Option Instr :=
  if fixedAt w 12 2 0x0 then some (.mma (fld w 29 3) (fld w 26 3) (fld w 25 1) (fld w 24 1) (fld w 20 4) (fld w 19 1) (fld w 18 1) (fld w 14 4) (fld w 8 4))
  else if fixedAt w 12 2 0x1 then some (.mmaP24 (fld w 29 3) (fld w 26 3) (fld w 25 1) (fld w 24 1) (fld w 20 4) (fld w 19 1) (fld w 18 1) (fld w 14 4) (fld w 8 4))
  else if fixedAt w 12 2 0x2 then some (.mmar (fld w 29 3) (fld w 26 3) (fld w 25 1) (fld w 24 1) (fld w 20 4) (fld w 19 1) (fld w 18 1) (fld w 14 4) (fld w 8 4))
  else if fixedAt w 12 2 0x3 then some (.mmarP24 (fld w 29 3) (fld w 26 3) (fld w 25 1) (fld w 24 1) (fld w 20 4) (fld w 19 1) (fld w 18 1) (fld w 14 4) (fld w 8 4))
  else none

/-- Major 0x39 (R49). -/
def decodeMaj39 (w : Nat) : Option Instr :=
  if fixedAt w 12 8 0x0 then some (.shp (fld w 26 6) (fld w 20 6) (fld w 8 4))
  else if fixedAt w 12 8 0x1 then some (.accld (fld w 26 6) (fld w 20 6) (fld w 8 4))
  else if fixedAt w 12 14 0x2 then some (.acczero (fld w 26 6) (fld w 8 4))
  else if fixedAt w 12 2 0x3 && fixedAt w 24 2 0x0 && fixedAt w 30 2 0x0 then some (.accrd (fld w 29 1) (fld w 26 3) (fld w 20 4) (fld w 19 1) (fld w 14 5) (fld w 8 4))
  else none

/-- Major 0x3A (R49). -/
def decodeMaj3A (w : Nat) : Option Instr :=
  if fixedAt w 12 2 0x0 then some (.amul (fld w 26 6) (fld w 20 6) (fld w 14 6) (fld w 8 4))
  else if fixedAt w 12 8 0x1 then some (.aconj (fld w 26 6) (fld w 20 6) (fld w 8 4))
  else if fixedAt w 12 8 0x2 then some (.anorm (fld w 26 6) (fld w 20 6) (fld w 8 4))
  else if fixedAt w 12 2 0x3 && fixedAt w 17 3 0x0 then some (.compress (fld w 26 6) (fld w 20 6) (fld w 14 3) (fld w 8 4))
  else none

/-- Major 0x3B (R49). -/
def decodeMaj3B (w : Nat) : Option Instr :=
  if fixedAt w 12 2 0x0 then some (.wload (fld w 26 6) (fld w 20 6) (fld w 14 6) (fld w 8 4))
  else if fixedAt w 12 6 0x1 && fixedAt w 22 2 0x0 then some (.tma (fld w 29 3) (fld w 26 3) (fld w 25 1) (fld w 24 1) (fld w 18 4) (fld w 8 4))
  else if fixedAt w 12 2 0x2 then some (.tmard (fld w 30 2) (fld w 28 2) (fld w 23 5) (fld w 18 5) (fld w 14 4) (fld w 8 4))
  else if fixedAt w 12 8 0x3 then some (.wstat (fld w 26 6) (fld w 20 6) (fld w 8 4))
  else none

/-- Major 0x3C (R49). -/
def decodeMaj3C (w : Nat) : Option Instr :=
  if fixedAt w 12 8 0x0 then some (.route (fld w 26 6) (fld w 20 6) (fld w 8 4))
  else if fixedAt w 12 8 0x1 then some (.rret (fld w 26 6) (fld w 20 6) (fld w 8 4))
  else if fixedAt w 12 8 0x2 then some (.rasm (fld w 26 6) (fld w 20 6) (fld w 8 4))
  else if fixedAt w 12 8 0x3 && fixedAt w 26 6 0x0 then some (.rport (fld w 20 6) (fld w 8 4))
  else if fixedAt w 12 8 0x3 && fixedAt w 26 6 0x1 then some (.rportKey (fld w 20 6) (fld w 8 4))
  else if fixedAt w 12 8 0x3 && fixedAt w 26 6 0x2 then some (.rportRel (fld w 20 6) (fld w 8 4))
  else none

/-- Major 0x3D (R49). -/
def decodeMaj3D (w : Nat) : Option Instr :=
  if fixedAt w 12 14 0x0 then some (.fetchwg (fld w 26 6) (fld w 8 4))
  else if fixedAt w 12 20 0x1 then some (.xacq (fld w 8 4))
  else if fixedAt w 12 20 0x2 then some (.xrel (fld w 8 4))
  else if fixedAt w 12 20 0x3 then some (.gbar (fld w 8 4))
  else none

/-- Major 0x3E (R49). -/
def decodeMaj3E (w : Nat) : Option Instr :=
  if fixedAt w 12 2 0x3 then some (.trec (fld w 26 6) (fld w 20 6) (fld w 14 6) (fld w 8 4))
  else if fixedAt w 12 20 0x0 then some (.wbar (fld w 8 4))
  else if fixedAt w 12 2 0x1 then some (.sample (fld w 26 6) (fld w 20 6) (fld w 14 6) (fld w 8 4))
  else if fixedAt w 12 2 0x2 && fixedAt w 16 4 0x0 then some (.waitl (fld w 26 6) (fld w 20 6) (fld w 14 2) (fld w 8 4))
  else none

/-- Short family 00 (R52). -/
def decodeFamily00 (w : Nat) : Option Instr :=
  if fixedAt w 11 5 0x0 then some (.addLaneShort (fld w 7 4) (fld w 3 4) (fld w 2 1))
  else if fixedAt w 11 5 0x1 then some (.subLaneShort (fld w 7 4) (fld w 3 4) (fld w 2 1))
  else if fixedAt w 11 5 0x2 then some (.andLaneShort (fld w 7 4) (fld w 3 4) (fld w 2 1))
  else if fixedAt w 11 5 0x3 then some (.orLaneShort (fld w 7 4) (fld w 3 4) (fld w 2 1))
  else if fixedAt w 11 5 0x4 then some (.xorLaneShort (fld w 7 4) (fld w 3 4) (fld w 2 1))
  else if fixedAt w 11 5 0x5 then some (.shlLaneShort (fld w 7 4) (fld w 3 4) (fld w 2 1))
  else if fixedAt w 11 5 0x6 then some (.shrLaneShort (fld w 7 4) (fld w 3 4) (fld w 2 1))
  else if fixedAt w 11 5 0x7 then some (.sraLaneShort (fld w 7 4) (fld w 3 4) (fld w 2 1))
  else if fixedAt w 11 5 0x8 then some (.mulLaneShort (fld w 7 4) (fld w 3 4) (fld w 2 1))
  else if fixedAt w 11 5 0x9 then some (.minLaneShort (fld w 7 4) (fld w 3 4) (fld w 2 1))
  else if fixedAt w 11 5 0xA then some (.maxLaneShort (fld w 7 4) (fld w 3 4) (fld w 2 1))
  else if fixedAt w 11 5 0xB then some (.minuLaneShort (fld w 7 4) (fld w 3 4) (fld w 2 1))
  else if fixedAt w 11 5 0xC then some (.maxuLaneShort (fld w 7 4) (fld w 3 4) (fld w 2 1))
  else if fixedAt w 11 5 0xD then some (.faddF32Short (fld w 7 4) (fld w 3 4) (fld w 2 1))
  else if fixedAt w 11 5 0xE then some (.fsubF32Short (fld w 7 4) (fld w 3 4) (fld w 2 1))
  else if fixedAt w 11 5 0xF then some (.fmulF32Short (fld w 7 4) (fld w 3 4) (fld w 2 1))
  else if fixedAt w 11 5 0x10 then some (.ffmaF32Short (fld w 7 4) (fld w 3 4) (fld w 2 1))
  else if fixedAt w 11 5 0x11 then some (.fminF32Short (fld w 7 4) (fld w 3 4) (fld w 2 1))
  else if fixedAt w 11 5 0x12 then some (.fmaxF32Short (fld w 7 4) (fld w 3 4) (fld w 2 1))
  else if fixedAt w 11 5 0x13 then some (.faddF16Short (fld w 7 4) (fld w 3 4) (fld w 2 1))
  else if fixedAt w 11 5 0x14 then some (.fmulF16Short (fld w 7 4) (fld w 3 4) (fld w 2 1))
  else if fixedAt w 11 5 0x15 then some (.ffmaF16Short (fld w 7 4) (fld w 3 4) (fld w 2 1))
  else if fixedAt w 11 5 0x16 then some (.faddBf16Short (fld w 7 4) (fld w 3 4) (fld w 2 1))
  else if fixedAt w 11 5 0x17 then some (.fmulBf16Short (fld w 7 4) (fld w 3 4) (fld w 2 1))
  else if fixedAt w 11 5 0x18 then some (.ffmaBf16Short (fld w 7 4) (fld w 3 4) (fld w 2 1))
  else if fixedAt w 2 1 0x0 && fixedAt w 11 5 0x19 then some (.movShort (fld w 7 4) (fld w 3 4))
  else if fixedAt w 2 1 0x0 && fixedAt w 11 5 0x1A then some (.negLaneShort (fld w 7 4) (fld w 3 4))
  else if fixedAt w 2 1 0x0 && fixedAt w 11 5 0x1B then some (.notLaneShort (fld w 7 4) (fld w 3 4))
  else if fixedAt w 2 1 0x0 && fixedAt w 11 5 0x1C then some (.absShort (fld w 7 4) (fld w 3 4))
  else if fixedAt w 2 1 0x0 && fixedAt w 11 5 0x1D then some (.fnegF32Short (fld w 7 4) (fld w 3 4))
  else if fixedAt w 2 1 0x0 && fixedAt w 11 5 0x1E then some (.fabsF32Short (fld w 7 4) (fld w 3 4))
  else none

/-- Short family 01 (R53). -/
def decodeFamily01 (w : Nat) : Option Instr :=
  if fixedAt w 12 4 0x0 then some (.addShort (fld w 8 4) (fld w 2 6))
  else if fixedAt w 12 4 0x1 then some (.subShort (fld w 8 4) (fld w 2 6))
  else if fixedAt w 12 4 0x2 then some (.andShort (fld w 8 4) (fld w 2 6))
  else if fixedAt w 12 4 0x3 then some (.orShort (fld w 8 4) (fld w 2 6))
  else if fixedAt w 12 4 0x4 then some (.xorShort (fld w 8 4) (fld w 2 6))
  else if fixedAt w 12 4 0x5 then some (.shlShort (fld w 8 4) (fld w 2 6))
  else if fixedAt w 12 4 0x6 then some (.shrShort (fld w 8 4) (fld w 2 6))
  else if fixedAt w 12 4 0x7 then some (.sraShort (fld w 8 4) (fld w 2 6))
  else if fixedAt w 12 4 0x8 then some (.mv (fld w 8 4) (fld w 2 6))
  else if fixedAt w 12 4 0x9 then some (.addiShort (fld w 8 4) (fld w 2 6))
  else if fixedAt w 12 4 0xA then some (.liShort (fld w 8 4) (fld w 2 6))
  else if fixedAt w 12 4 0xB then some (.shliShort (fld w 8 4) (fld w 2 6))
  else if fixedAt w 12 4 0xC then some (.shriShort (fld w 8 4) (fld w 2 6))
  else if fixedAt w 12 4 0xD then some (.andiShort (fld w 8 4) (fld w 2 6))
  else if fixedAt w 12 4 0xE then some (.negShort (fld w 8 4) (fld w 2 6))
  else if fixedAt w 12 4 0xF then some (.notShort (fld w 8 4) (fld w 2 6))
  else none

/-- Short family 10 (R54). -/
def decodeFamily10 (w : Nat) : Option Instr :=
  if fixedAt w 2 2 0x0 && fixedAt w 8 8 0x0 then some (.nopShort (fld w 4 4))
  else if fixedAt w 2 14 0x1 then some (.yieldShort)
  else if fixedAt w 2 2 0x2 then some (.stamp (fld w 4 12))
  else if fixedAt w 2 2 0x3 && fixedAt w 11 5 0x0 then some (.amod (fld w 10 1) (fld w 8 2) (fld w 6 2) (fld w 4 2))
  else none

/-- A long word by its major (R44, R49). Major 0x3F is reserved (R57). -/
def decodeLongRow (w : Nat) : Option Instr :=

  if fixedAt w 2 6 0x00 then decodeMaj00 w
  else if fixedAt w 2 6 0x01 then decodeMaj01 w
  else if fixedAt w 2 6 0x02 then decodeMaj02 w
  else if fixedAt w 2 6 0x03 then decodeMaj03 w
  else if fixedAt w 2 6 0x04 then decodeMaj04 w
  else if fixedAt w 2 6 0x05 then decodeMaj05 w
  else if fixedAt w 2 6 0x06 then decodeMaj06 w
  else if fixedAt w 2 6 0x07 then decodeMaj07 w
  else if fixedAt w 2 6 0x08 then decodeMaj08 w
  else if fixedAt w 2 6 0x09 then decodeMaj09 w
  else if fixedAt w 2 6 0x0A then decodeMaj0A w
  else if fixedAt w 2 6 0x0B then decodeMaj0B w
  else if fixedAt w 2 6 0x0C then decodeMaj0C w
  else if fixedAt w 2 6 0x0D then decodeMaj0D w
  else if fixedAt w 2 6 0x0E then decodeMaj0E w
  else if fixedAt w 2 6 0x0F then decodeMaj0F w
  else if fixedAt w 2 6 0x10 then decodeMaj10 w
  else if fixedAt w 2 6 0x11 then decodeMaj11 w
  else if fixedAt w 2 6 0x12 then decodeMaj12 w
  else if fixedAt w 2 6 0x13 then decodeMaj13 w
  else if fixedAt w 2 6 0x14 then decodeMaj14 w
  else if fixedAt w 2 6 0x15 then decodeMaj15 w
  else if fixedAt w 2 6 0x16 then decodeMaj16 w
  else if fixedAt w 2 6 0x17 then decodeMaj17 w
  else if fixedAt w 2 6 0x18 then decodeMaj18 w
  else if fixedAt w 2 6 0x19 then decodeMaj19 w
  else if fixedAt w 2 6 0x1A then decodeMaj1A w
  else if fixedAt w 2 6 0x1B then decodeMaj1B w
  else if fixedAt w 2 6 0x1C then decodeMaj1C w
  else if fixedAt w 2 6 0x1D then decodeMaj1D w
  else if fixedAt w 2 6 0x1E then decodeMaj1E w
  else if fixedAt w 2 6 0x1F then decodeMaj1F w
  else if fixedAt w 2 6 0x20 then decodeMaj20 w
  else if fixedAt w 2 6 0x21 then decodeMaj21 w
  else if fixedAt w 2 6 0x22 then decodeMaj22 w
  else if fixedAt w 2 6 0x23 then decodeMaj23 w
  else if fixedAt w 2 6 0x24 then decodeMaj24 w
  else if fixedAt w 2 6 0x25 then decodeMaj25 w
  else if fixedAt w 2 6 0x26 then decodeMaj26 w
  else if fixedAt w 2 6 0x27 then decodeMaj27 w
  else if fixedAt w 2 6 0x28 then decodeMaj28 w
  else if fixedAt w 2 6 0x29 then decodeMaj29 w
  else if fixedAt w 2 6 0x2A then decodeMaj2A w
  else if fixedAt w 2 6 0x2B then decodeMaj2B w
  else if fixedAt w 2 6 0x2C then decodeMaj2C w
  else if fixedAt w 2 6 0x2D then decodeMaj2D w
  else if fixedAt w 2 6 0x2E then decodeMaj2E w
  else if fixedAt w 2 6 0x2F then decodeMaj2F w
  else if fixedAt w 2 6 0x30 then decodeMaj30 w
  else if fixedAt w 2 6 0x31 then decodeMaj31 w
  else if fixedAt w 2 6 0x32 then decodeMaj32 w
  else if fixedAt w 2 6 0x33 then decodeMaj33 w
  else if fixedAt w 2 6 0x34 then decodeMaj34 w
  else if fixedAt w 2 6 0x35 then decodeMaj35 w
  else if fixedAt w 2 6 0x36 then decodeMaj36 w
  else if fixedAt w 2 6 0x37 then decodeMaj37 w
  else if fixedAt w 2 6 0x38 then decodeMaj38 w
  else if fixedAt w 2 6 0x39 then decodeMaj39 w
  else if fixedAt w 2 6 0x3A then decodeMaj3A w
  else if fixedAt w 2 6 0x3B then decodeMaj3B w
  else if fixedAt w 2 6 0x3C then decodeMaj3C w
  else if fixedAt w 2 6 0x3D then decodeMaj3D w
  else if fixedAt w 2 6 0x3E then decodeMaj3E w
  else none

/-- A short word by its family (R40). -/
def decodeShortRow (w : Nat) : Option Instr :=
  if fixedAt w 0 2 0 then decodeFamily00 w
  else if fixedAt w 0 2 1 then decodeFamily01 w
  else if fixedAt w 0 2 2 then decodeFamily10 w
  else none

/-- Why bytes are no instruction. -/
inductive DecodeError where
  /-- A reserved pattern (R57). -/
  | illegalInstruction
  /-- An rport word whose form number is 3 or more (R263). -/
  | illegalOperand
  /-- The bytes end inside the word. -/
  | truncated
deriving DecidableEq, Repr

/-- Whether a halfword at an instruction position is the first half of a long word (R40). -/
def isLong (h : Half) : Bool := h.toNat % 4 == 3

/-- A row's instruction where its fields are an encoding (R57). -/
def guardWf : Option Instr → Except DecodeError Instr
  | some i => if i.wf then .ok i else .error .illegalInstruction
  | none => .error .illegalInstruction

/-- A long word given as a number (R44). -/
def decodeLong (w : Nat) : Except DecodeError Instr :=
  if fixedAt w 0 8 0xF3 && fixedAt w 12 8 0x03 && 3 ≤ w / 2 ^ 26 % 2 ^ 6 then .error .illegalOperand
  else guardWf (decodeLongRow w)

/-- A short word given as a number (R52 to R55). -/
def decodeShort (w : Nat) : Except DecodeError Instr := guardWf (decodeShortRow w)

/-- The instruction at a position, from its halfword and the next, which a short word does not use (R40). -/
def decodeHalves (h0 h1 : Half) : Except DecodeError Instr :=
  if isLong h0 then decodeLong (h0.toNat + 65536 * h1.toNat) else decodeShort h0.toNat

/-- The instruction at the head of a byte string, and the bytes after it (R40). -/
def decodeBytes : List Byte → Except DecodeError (Instr × List Byte)
  | b0 :: b1 :: rest =>
    let h0 : Half := BitVec.ofNat 16 (b0.toNat + 256 * b1.toNat)
    if isLong h0 then
      match rest with
      | b2 :: b3 :: rest2 =>
        match decodeHalves h0 (BitVec.ofNat 16 (b2.toNat + 256 * b3.toNat)) with
        | .ok i => .ok (i, rest2)
        | .error e => .error e
      | _ => .error .truncated
    else
      match decodeHalves h0 0 with
      | .ok i => .ok (i, rest)
      | .error e => .error e
  | _ => .error .truncated

/-- The halfwords of a long word, in memory order (R40). -/
def long (w : Nat) : List Half := [BitVec.ofNat 16 w, BitVec.ofNat 16 (w / 65536)]

/-- The halfword of a short word. -/
def short (w : Nat) : List Half := [BitVec.ofNat 16 w]

/-- The words of an instruction, written from the encoding tables (R46 to R55); an event has none. -/
def encode : Instr → List Half
  | .br o g => long (0x00000003 + put o 12 + put g 8)
  | .bz c o g => long (0x00000007 + put c 26 + put o 12 + put g 8)
  | .bnz c o g => long (0x0000000B + put c 26 + put o 12 + put g 8)
  | .bp p o g => long (0x0000000F + put p 26 + put o 12 + put g 8)
  | .bnp p o g => long (0x00000013 + put p 26 + put o 12 + put g 8)
  | .loop c o g => long (0x00000017 + put c 26 + put o 12 + put g 8)
  | .call c o g => long (0x0000001B + put c 26 + put o 12 + put g 8)
  | .nop g => long (0x0000001F + put g 8)
  | .halt g => long (0x0000101F + put g 8)
  | .rdv g => long (0x0000201F + put g 8)
  | .yield g => long (0x0000301F + put g 8)
  | .wait k a g => long (0x0000401F + put k 26 + put a 20 + put g 8)
  | .jr a g => long (0x0000501F + put a 20 + put g 8)
  | .trap n g => long (0x0000601F + put n 26 + put g 8)
  | .eret g => long (0x0000701F + put g 8)
  | .hold n g => long (0x0000801F + put n 20 + put g 8)
  | .unhold g => long (0x0000901F + put g 8)
  | .srd d r g => long (0x0000A01F + put d 26 + put r 20 + put g 8)
  | .swr r a g => long (0x0000B01F + put r 26 + put a 20 + put g 8)
  | .prof k a g => long (0x0000C01F + put k 26 + put a 20 + put g 8)
  | .rdtime d g => long (0x0000D01F + put d 26 + put g 8)
  | .rdcyc d g => long (0x0000E01F + put d 26 + put g 8)
  | .exit g => long (0x0000F01F + put g 8)
  | .are g => long (0x0001001F + put g 8)
  | .arx g => long (0x0001101F + put g 8)
  | .ret a g => long (0x0001201F + put a 20 + put g 8)
  | .qbind d a g => long (0x0001301F + put d 26 + put a 20 + put g 8)
  | .qbindTakesEffect _ _ _ => []
  | .add d a b g => long (0x00000023 + put d 26 + put a 20 + put b 14 + put g 8)
  | .sub d a b g => long (0x00001023 + put d 26 + put a 20 + put b 14 + put g 8)
  | .and d a b g => long (0x00002023 + put d 26 + put a 20 + put b 14 + put g 8)
  | .or d a b g => long (0x00003023 + put d 26 + put a 20 + put b 14 + put g 8)
  | .xor d a b g => long (0x00000027 + put d 26 + put a 20 + put b 14 + put g 8)
  | .shl d a b g => long (0x00001027 + put d 26 + put a 20 + put b 14 + put g 8)
  | .shr d a b g => long (0x00002027 + put d 26 + put a 20 + put b 14 + put g 8)
  | .sra d a b g => long (0x00003027 + put d 26 + put a 20 + put b 14 + put g 8)
  | .mul d a b g => long (0x0000002B + put d 26 + put a 20 + put b 14 + put g 8)
  | .mulh d a b g => long (0x0000102B + put d 26 + put a 20 + put b 14 + put g 8)
  | .mulhu d a b g => long (0x0000202B + put d 26 + put a 20 + put b 14 + put g 8)
  | .mad d a b g => long (0x0000302B + put d 26 + put a 20 + put b 14 + put g 8)
  | .min d a b g => long (0x0000002F + put d 26 + put a 20 + put b 14 + put g 8)
  | .max d a b g => long (0x0000102F + put d 26 + put a 20 + put b 14 + put g 8)
  | .minu d a b g => long (0x0000202F + put d 26 + put a 20 + put b 14 + put g 8)
  | .maxu d a b g => long (0x0000302F + put d 26 + put a 20 + put b 14 + put g 8)
  | .div d a b g => long (0x00000033 + put d 26 + put a 20 + put b 14 + put g 8)
  | .divu d a b g => long (0x00001033 + put d 26 + put a 20 + put b 14 + put g 8)
  | .rem d a b g => long (0x00002033 + put d 26 + put a 20 + put b 14 + put g 8)
  | .remu d a b g => long (0x00003033 + put d 26 + put a 20 + put b 14 + put g 8)
  | .seq d a b g => long (0x00000037 + put d 26 + put a 20 + put b 14 + put g 8)
  | .slt d a b g => long (0x00001037 + put d 26 + put a 20 + put b 14 + put g 8)
  | .sltu d a b g => long (0x00002037 + put d 26 + put a 20 + put b 14 + put g 8)
  | .sel d a b g => long (0x00003037 + put d 26 + put a 20 + put b 14 + put g 8)
  | .addi d a i g => long (0x0000003B + put d 26 + put a 20 + put i 14 + put g 8)
  | .andi d a i g => long (0x0000103B + put d 26 + put a 20 + put i 14 + put g 8)
  | .shli d a i g => long (0x0000203B + put d 26 + put a 20 + put i 14 + put g 8)
  | .shri d a i g => long (0x0000303B + put d 26 + put a 20 + put i 14 + put g 8)
  | .li d k g => long (0x0000003F + put d 26 + put k 12 + put g 8)
  | .lsi d k g => long (0x00000043 + put d 26 + put k 12 + put g 8)
  | .clz d a g => long (0x00000047 + put d 26 + put a 20 + put g 8)
  | .ctz d a g => long (0x00001047 + put d 26 + put a 20 + put g 8)
  | .popc d a g => long (0x00002047 + put d 26 + put a 20 + put g 8)
  | .not d a g => long (0x00003047 + put d 26 + put a 20 + put g 8)
  | .neg d a g => long (0x00004047 + put d 26 + put a 20 + put g 8)
  | .sext8 d a g => long (0x00005047 + put d 26 + put a 20 + put g 8)
  | .sext16 d a g => long (0x00006047 + put d 26 + put a 20 + put g 8)
  | .sext32 d a g => long (0x00007047 + put d 26 + put a 20 + put g 8)
  | .zext8 d a g => long (0x00008047 + put d 26 + put a 20 + put g 8)
  | .zext16 d a g => long (0x00009047 + put d 26 + put a 20 + put g 8)
  | .zext32 d a g => long (0x0000A047 + put d 26 + put a 20 + put g 8)
  | .bswap d a g => long (0x0000B047 + put d 26 + put a 20 + put g 8)
  | .addLane d a b g => long (0x0000004B + put d 26 + put a 20 + put b 14 + put g 8)
  | .subLane d a b g => long (0x0000104B + put d 26 + put a 20 + put b 14 + put g 8)
  | .andLane d a b g => long (0x0000204B + put d 26 + put a 20 + put b 14 + put g 8)
  | .orLane d a b g => long (0x0000304B + put d 26 + put a 20 + put b 14 + put g 8)
  | .xorLane d a b g => long (0x0000004F + put d 26 + put a 20 + put b 14 + put g 8)
  | .shlLane d a b g => long (0x0000104F + put d 26 + put a 20 + put b 14 + put g 8)
  | .shrLane d a b g => long (0x0000204F + put d 26 + put a 20 + put b 14 + put g 8)
  | .sraLane d a b g => long (0x0000304F + put d 26 + put a 20 + put b 14 + put g 8)
  | .mulLane d a b g => long (0x00000053 + put d 26 + put a 20 + put b 14 + put g 8)
  | .mulhLane d a b g => long (0x00001053 + put d 26 + put a 20 + put b 14 + put g 8)
  | .mulhuLane d a b g => long (0x00002053 + put d 26 + put a 20 + put b 14 + put g 8)
  | .madLane d a b g => long (0x00003053 + put d 26 + put a 20 + put b 14 + put g 8)
  | .minLane d a b g => long (0x00000057 + put d 26 + put a 20 + put b 14 + put g 8)
  | .maxLane d a b g => long (0x00001057 + put d 26 + put a 20 + put b 14 + put g 8)
  | .minuLane d a b g => long (0x00002057 + put d 26 + put a 20 + put b 14 + put g 8)
  | .maxuLane d a b g => long (0x00003057 + put d 26 + put a 20 + put b 14 + put g 8)
  | .addiLane d a i g => long (0x0000005B + put d 26 + put a 20 + put i 14 + put g 8)
  | .andiLane d a i g => long (0x0000105B + put d 26 + put a 20 + put i 14 + put g 8)
  | .shliLane d a i g => long (0x0000205B + put d 26 + put a 20 + put i 14 + put g 8)
  | .shriLane d a i g => long (0x0000305B + put d 26 + put a 20 + put i 14 + put g 8)
  | .clzLane d a g => long (0x0000005F + put d 26 + put a 20 + put g 8)
  | .popcLane d a g => long (0x0000105F + put d 26 + put a 20 + put g 8)
  | .notLane d a g => long (0x0000205F + put d 26 + put a 20 + put g 8)
  | .negLane d a g => long (0x0000305F + put d 26 + put a 20 + put g 8)
  | .abs d a g => long (0x0000405F + put d 26 + put a 20 + put g 8)
  | .sext8Lane d a g => long (0x0000505F + put d 26 + put a 20 + put g 8)
  | .sext16Lane d a g => long (0x0000605F + put d 26 + put a 20 + put g 8)
  | .zext8Lane d a g => long (0x0000705F + put d 26 + put a 20 + put g 8)
  | .zext16Lane d a g => long (0x0000805F + put d 26 + put a 20 + put g 8)
  | .bswapLane d a g => long (0x0000905F + put d 26 + put a 20 + put g 8)
  | .cmpEq d a b g => long (0x00000063 + put d 26 + put a 20 + put b 14 + put g 8)
  | .cmpLt d a b g => long (0x00001063 + put d 26 + put a 20 + put b 14 + put g 8)
  | .cmpLtu d a b g => long (0x00002063 + put d 26 + put a 20 + put b 14 + put g 8)
  | .cmpNe d a b g => long (0x00003063 + put d 26 + put a 20 + put b 14 + put g 8)
  | .fadd d a b f g => long (0x00000067 + put d 26 + put a 20 + put b 14 + put f 12 + put g 8)
  | .fsub d a b f g => long (0x0000006B + put d 26 + put a 20 + put b 14 + put f 12 + put g 8)
  | .fmul d a b f g => long (0x0000006F + put d 26 + put a 20 + put b 14 + put f 12 + put g 8)
  | .ffma d a b f g => long (0x00000073 + put d 26 + put a 20 + put b 14 + put f 12 + put g 8)
  | .fmin d a b f g => long (0x00000077 + put d 26 + put a 20 + put b 14 + put f 12 + put g 8)
  | .fmax d a b f g => long (0x0000007B + put d 26 + put a 20 + put b 14 + put f 12 + put g 8)
  | .fcmp c p a b f g => long (0x0000007F + put c 29 + put p 26 + put a 20 + put b 14 + put f 12 + put g 8)
  | .fsqrt d a f g => long (0x00000083 + put d 26 + put a 20 + put f 12 + put g 8)
  | .frcp d a f g => long (0x00004083 + put d 26 + put a 20 + put f 12 + put g 8)
  | .frsq d a f g => long (0x00008083 + put d 26 + put a 20 + put f 12 + put g 8)
  | .fexp2 d a f g => long (0x0000C083 + put d 26 + put a 20 + put f 12 + put g 8)
  | .flog2 d a f g => long (0x00010083 + put d 26 + put a 20 + put f 12 + put g 8)
  | .fsin d a f g => long (0x00014083 + put d 26 + put a 20 + put f 12 + put g 8)
  | .fcos d a f g => long (0x00018083 + put d 26 + put a 20 + put f 12 + put g 8)
  | .fabs d a f g => long (0x0001C083 + put d 26 + put a 20 + put f 12 + put g 8)
  | .fneg d a f g => long (0x00020083 + put d 26 + put a 20 + put f 12 + put g 8)
  | .ffloor d a f g => long (0x00024083 + put d 26 + put a 20 + put f 12 + put g 8)
  | .fceil d a f g => long (0x00028083 + put d 26 + put a 20 + put f 12 + put g 8)
  | .ftrunc d a f g => long (0x0002C083 + put d 26 + put a 20 + put f 12 + put g 8)
  | .fround d a f g => long (0x00030083 + put d 26 + put a 20 + put f 12 + put g 8)
  | .fclass d a f g => long (0x00034083 + put d 26 + put a 20 + put f 12 + put g 8)
  | .cvt d a n r g => long (0x00000087 + put d 26 + put a 20 + put n 14 + put r 12 + put g 8)
  | .xlGet d a b g => long (0x0000008B + put d 26 + put a 20 + put b 14 + put g 8)
  | .xlSh d a b g => long (0x0000108B + put d 26 + put a 20 + put b 14 + put g 8)
  | .xlRot d a b g => long (0x0000208B + put d 26 + put a 20 + put b 14 + put g 8)
  | .xlXor d a b g => long (0x0000308B + put d 26 + put a 20 + put b 14 + put g 8)
  | .xliGet d a i g => long (0x0000008F + put d 26 + put a 20 + put i 14 + put g 8)
  | .xliSh d a i g => long (0x0000108F + put d 26 + put a 20 + put i 14 + put g 8)
  | .xliRot d a i g => long (0x0000208F + put d 26 + put a 20 + put i 14 + put g 8)
  | .xliXor d a i g => long (0x0000308F + put d 26 + put a 20 + put i 14 + put g 8)
  | .rfal d a g => long (0x00000093 + put d 26 + put a 20 + put g 8)
  | .ballot d p g => long (0x00001093 + put d 26 + put p 20 + put g 8)
  | .vany d p g => long (0x00002093 + put d 26 + put p 20 + put g 8)
  | .vall d p g => long (0x00003093 + put d 26 + put p 20 + put g 8)
  | .pcount d p g => long (0x00004093 + put d 26 + put p 20 + put g 8)
  | .movs d a g => long (0x00005093 + put d 26 + put a 20 + put g 8)
  | .mov d a g => long (0x00006093 + put d 26 + put a 20 + put g 8)
  | .laneid d g => long (0x00007093 + put d 26 + put g 8)
  | .vredadd d a g => long (0x00008093 + put d 26 + put a 20 + put g 8)
  | .vredmin d a g => long (0x00009093 + put d 26 + put a 20 + put g 8)
  | .vredmax d a g => long (0x0000A093 + put d 26 + put a 20 + put g 8)
  | .fredadd d a g => long (0x0000B093 + put d 26 + put a 20 + put g 8)
  | .pand d a b g => long (0x00000097 + put d 26 + put a 20 + put b 14 + put g 8)
  | .por d a b g => long (0x00001097 + put d 26 + put a 20 + put b 14 + put g 8)
  | .pxor d a b g => long (0x00002097 + put d 26 + put a 20 + put b 14 + put g 8)
  | .pandn d a b g => long (0x00003097 + put d 26 + put a 20 + put b 14 + put g 8)
  | .ld d s o z g => long (0x0000009B + put d 26 + put s 20 + put o 14 + put z 12 + put g 8)
  | .st d s o z g => long (0x0000009F + put d 26 + put s 20 + put o 14 + put z 12 + put g 8)
  | .ldg d a b g => long (0x000000A3 + put d 26 + put a 20 + put b 14 + put g 8)
  | .stg d a b g => long (0x000010A3 + put d 26 + put a 20 + put b 14 + put g 8)
  | .ldg16 d a b g => long (0x000020A3 + put d 26 + put a 20 + put b 14 + put g 8)
  | .stg16 d a b g => long (0x000030A3 + put d 26 + put a 20 + put b 14 + put g 8)
  | .lds d s o z g => long (0x000000A7 + put d 26 + put s 20 + put o 14 + put z 12 + put g 8)
  | .sts d s o z g => long (0x000000AB + put d 26 + put s 20 + put o 14 + put z 12 + put g 8)
  | .ldsAcq d s o g => long (0x000000AF + put d 26 + put s 20 + put o 14 + put g 8)
  | .stsRel d s o g => long (0x000010AF + put d 26 + put s 20 + put o 14 + put g 8)
  | .fenceAcq s g => long (0x000000B3 + put s 12 + put g 8)
  | .fenceRel s g => long (0x000040B3 + put s 12 + put g 8)
  | .fenceAr s g => long (0x000080B3 + put s 12 + put g 8)
  | .fenceSc s g => long (0x0000C0B3 + put s 12 + put g 8)
  | .qsync g => long (0x000100B3 + put g 8)
  | .afence g => long (0x000110B3 + put g 8)
  | .cclean n a g => long (0x000120B3 + put n 26 + put a 20 + put g 8)
  | .cflush n a g => long (0x000130B3 + put n 26 + put a 20 + put g 8)
  | .cinv n a g => long (0x000140B3 + put n 26 + put a 20 + put g 8)
  | .prefetch n a g => long (0x000150B3 + put n 26 + put a 20 + put g 8)
  | .atomAdd d a b g => long (0x000000B7 + put d 26 + put a 20 + put b 14 + put g 8)
  | .atomAnd d a b g => long (0x000010B7 + put d 26 + put a 20 + put b 14 + put g 8)
  | .atomOr d a b g => long (0x000020B7 + put d 26 + put a 20 + put b 14 + put g 8)
  | .atomXor d a b g => long (0x000030B7 + put d 26 + put a 20 + put b 14 + put g 8)
  | .atomMin d a b g => long (0x000000BB + put d 26 + put a 20 + put b 14 + put g 8)
  | .atomMax d a b g => long (0x000010BB + put d 26 + put a 20 + put b 14 + put g 8)
  | .atomMinu d a b g => long (0x000020BB + put d 26 + put a 20 + put b 14 + put g 8)
  | .atomMaxu d a b g => long (0x000030BB + put d 26 + put a 20 + put b 14 + put g 8)
  | .atomXchg d a b g => long (0x000000BF + put d 26 + put a 20 + put b 14 + put g 8)
  | .atomCas d a b g => long (0x000010BF + put d 26 + put a 20 + put b 14 + put g 8)
  | .atomFaddF32 d a b g => long (0x000020BF + put d 26 + put a 20 + put b 14 + put g 8)
  | .atomFaddBf16x2 d a b g => long (0x000030BF + put d 26 + put a 20 + put b 14 + put g 8)
  | .redAdd a b g => long (0xF00000B7 + put a 20 + put b 14 + put g 8)
  | .redAnd a b g => long (0xF00010B7 + put a 20 + put b 14 + put g 8)
  | .redOr a b g => long (0xF00020B7 + put a 20 + put b 14 + put g 8)
  | .redXor a b g => long (0xF00030B7 + put a 20 + put b 14 + put g 8)
  | .redMin a b g => long (0xF00000BB + put a 20 + put b 14 + put g 8)
  | .redMax a b g => long (0xF00010BB + put a 20 + put b 14 + put g 8)
  | .redMinu a b g => long (0xF00020BB + put a 20 + put b 14 + put g 8)
  | .redMaxu a b g => long (0xF00030BB + put a 20 + put b 14 + put g 8)
  | .redXchg a b g => long (0xF00000BF + put a 20 + put b 14 + put g 8)
  | .redCas a b g => long (0xF00010BF + put a 20 + put b 14 + put g 8)
  | .redFaddF32 a b g => long (0xF00020BF + put a 20 + put b 14 + put g 8)
  | .redFaddBf16x2 a b g => long (0xF00030BF + put a 20 + put b 14 + put g 8)
  | .arb o g => long (0x000000C3 + put o 12 + put g 8)
  | .finc x y g => long (0x000000C7 + put x 26 + put y 20 + put g 8)
  | .fset x y g => long (0x000010C7 + put x 26 + put y 20 + put g 8)
  | .fwait x y g => long (0x000020C7 + put x 26 + put y 20 + put g 8)
  | .fread x y g => long (0x000030C7 + put x 26 + put y 20 + put g 8)
  | .flagUpdate _ => []
  | .barInit x y g => long (0x000000CB + put x 26 + put y 20 + put g 8)
  | .barArrive x y g => long (0x000010CB + put x 26 + put y 20 + put g 8)
  | .barExpect x y g => long (0x000020CB + put x 26 + put y 20 + put g 8)
  | .barWait x y g => long (0x000030CB + put x 26 + put y 20 + put g 8)
  | .futRes x y g => long (0x000000CF + put x 26 + put y 20 + put g 8)
  | .futReg x y g => long (0x000010CF + put x 26 + put y 20 + put g 8)
  | .futFail x y g => long (0x000020CF + put x 26 + put y 20 + put g 8)
  | .futGet x y w g => long (0x000030CF + put x 26 + put y 20 + put w 14 + put g 8)
  | .ldt x y z g => long (0x000000D3 + put x 26 + put y 20 + put z 14 + put g 8)
  | .stt x y z g => long (0x000010D3 + put x 26 + put y 20 + put z 14 + put g 8)
  | .copy x y z g => long (0x000020D3 + put x 26 + put y 20 + put z 14 + put g 8)
  | .copyResume x g => long (0x000030D3 + put x 26 + put g 8)
  | .copyCk x y z g => long (0x000000D7 + put x 26 + put y 20 + put z 14 + put g 8)
  | .copyCkv x y z g => long (0x000010D7 + put x 26 + put y 20 + put z 14 + put g 8)
  | .copyRed x y z g => long (0x000020D7 + put x 26 + put y 20 + put z 14 + put g 8)
  | .copyMc x y z g => long (0x000030D7 + put x 26 + put y 20 + put z 14 + put g 8)
  | .trec d r b g => long (0x000030FB + put d 26 + put r 20 + put b 14 + put g 8)
  | .copyCompletion _ => []
  | .copyElementFault _ => []
  | .deferredFaultDelivery _ _ _ => []
  | .rclaim x n g => long (0x000000DB + put x 26 + put n 20 + put g 8)
  | .rfill x n g => long (0x000010DB + put x 26 + put n 20 + put g 8)
  | .rwaitf x n g => long (0x000020DB + put x 26 + put n 20 + put g 8)
  | .rwaite n g => long (0x000030DB + put n 20 + put g 8)
  | .rfree x n g => long (0x000000DF + put x 26 + put n 20 + put g 8)
  | .rbind k a g => long (0x000010DF + put k 26 + put a 20 + put g 8)
  | .rpush s p g => long (0x000020DF + put s 26 + put p 20 + put g 8)
  | .rinit a n g => long (0x000030DF + put a 26 + put n 20 + put g 8)
  | .rpushDeliveryArrival _ => []
  | .rpushDeliveryAccept _ => []
  | .rpushCompletion _ => []
  | .ringElementDelivery _ => []
  | .mma m a e c s z b t g => long (0x000000E3 + put m 29 + put a 26 + put e 25 + put c 24 + put s 20 + put z 19 + put b 18 + put t 14 + put g 8)
  | .mmaP24 m a e c s z b t g => long (0x000010E3 + put m 29 + put a 26 + put e 25 + put c 24 + put s 20 + put z 19 + put b 18 + put t 14 + put g 8)
  | .mmar m a e c s z b t g => long (0x000020E3 + put m 29 + put a 26 + put e 25 + put c 24 + put s 20 + put z 19 + put b 18 + put t 14 + put g 8)
  | .mmarP24 m a e c s z b t g => long (0x000030E3 + put m 29 + put a 26 + put e 25 + put c 24 + put s 20 + put z 19 + put b 18 + put t 14 + put g 8)
  | .shp n y g => long (0x000000E7 + put n 26 + put y 20 + put g 8)
  | .accld n y g => long (0x000010E7 + put n 26 + put y 20 + put g 8)
  | .acczero n g => long (0x000020E7 + put n 26 + put g 8)
  | .accrd i a d c r g => long (0x000030E7 + put i 29 + put a 26 + put d 20 + put c 19 + put r 14 + put g 8)
  | .amul d a b g => long (0x000000EB + put d 26 + put a 20 + put b 14 + put g 8)
  | .aconj d a g => long (0x000010EB + put d 26 + put a 20 + put g 8)
  | .anorm d a g => long (0x000020EB + put d 26 + put a 20 + put g 8)
  | .compress d a f g => long (0x000030EB + put d 26 + put a 20 + put f 14 + put g 8)
  | .accumulatorRetirement _ _ => []
  | .readoutCompletion _ => []
  | .wload p a c g => long (0x000000EF + put p 26 + put a 20 + put c 14 + put g 8)
  | .tma p n z u s g => long (0x000010EF + put p 29 + put n 26 + put z 25 + put u 24 + put s 18 + put g 8)
  | .tmard o s w a d g => long (0x000020EF + put o 30 + put s 28 + put w 23 + put a 18 + put d 14 + put g 8)
  | .wstat d s g => long (0x000030EF + put d 26 + put s 20 + put g 8)
  | .wloadRetirement _ _ => []
  | .columnAccumulatorRetirement _ _ => []
  | .route v y g => long (0x000000F3 + put v 26 + put y 20 + put g 8)
  | .rret s h g => long (0x000010F3 + put s 26 + put h 20 + put g 8)
  | .rasm d n g => long (0x000020F3 + put d 26 + put n 20 + put g 8)
  | .rport y g => long (0x000030F3 + put y 20 + put g 8)
  | .rportKey y g => long (0x040030F3 + put y 20 + put g 8)
  | .rportRel y g => long (0x080030F3 + put y 20 + put g 8)
  | .rportRetirement _ _ _ => []
  | .routeReturnArrival _ => []
  | .routeDeadline _ _ => []
  | .routeTimeoutNotification _ _ _ => []
  | .rretCompletion _ => []
  | .fetchwg x g => long (0x000000F7 + put x 26 + put g 8)
  | .xacq g => long (0x000010F7 + put g 8)
  | .xrel g => long (0x000020F7 + put g 8)
  | .gbar g => long (0x000030F7 + put g 8)
  | .wbar g => long (0x000000FB + put g 8)
  | .sample d c i g => long (0x000010FB + put d 26 + put c 20 + put i 14 + put g 8)
  | .waitl v a z g => long (0x000020FB + put v 26 + put a 20 + put z 14 + put g 8)
  | .waitlTimeout _ => []
  | .waitlWatchLost _ => []
  | .addLaneShort d a s => short (0x0000 + put d 7 + put a 3 + put s 2)
  | .subLaneShort d a s => short (0x0800 + put d 7 + put a 3 + put s 2)
  | .andLaneShort d a s => short (0x1000 + put d 7 + put a 3 + put s 2)
  | .orLaneShort d a s => short (0x1800 + put d 7 + put a 3 + put s 2)
  | .xorLaneShort d a s => short (0x2000 + put d 7 + put a 3 + put s 2)
  | .shlLaneShort d a s => short (0x2800 + put d 7 + put a 3 + put s 2)
  | .shrLaneShort d a s => short (0x3000 + put d 7 + put a 3 + put s 2)
  | .sraLaneShort d a s => short (0x3800 + put d 7 + put a 3 + put s 2)
  | .mulLaneShort d a s => short (0x4000 + put d 7 + put a 3 + put s 2)
  | .minLaneShort d a s => short (0x4800 + put d 7 + put a 3 + put s 2)
  | .maxLaneShort d a s => short (0x5000 + put d 7 + put a 3 + put s 2)
  | .minuLaneShort d a s => short (0x5800 + put d 7 + put a 3 + put s 2)
  | .maxuLaneShort d a s => short (0x6000 + put d 7 + put a 3 + put s 2)
  | .faddF32Short d a s => short (0x6800 + put d 7 + put a 3 + put s 2)
  | .fsubF32Short d a s => short (0x7000 + put d 7 + put a 3 + put s 2)
  | .fmulF32Short d a s => short (0x7800 + put d 7 + put a 3 + put s 2)
  | .ffmaF32Short d a s => short (0x8000 + put d 7 + put a 3 + put s 2)
  | .fminF32Short d a s => short (0x8800 + put d 7 + put a 3 + put s 2)
  | .fmaxF32Short d a s => short (0x9000 + put d 7 + put a 3 + put s 2)
  | .faddF16Short d a s => short (0x9800 + put d 7 + put a 3 + put s 2)
  | .fmulF16Short d a s => short (0xA000 + put d 7 + put a 3 + put s 2)
  | .ffmaF16Short d a s => short (0xA800 + put d 7 + put a 3 + put s 2)
  | .faddBf16Short d a s => short (0xB000 + put d 7 + put a 3 + put s 2)
  | .fmulBf16Short d a s => short (0xB800 + put d 7 + put a 3 + put s 2)
  | .ffmaBf16Short d a s => short (0xC000 + put d 7 + put a 3 + put s 2)
  | .movShort d a => short (0xC800 + put d 7 + put a 3)
  | .negLaneShort d a => short (0xD000 + put d 7 + put a 3)
  | .notLaneShort d a => short (0xD800 + put d 7 + put a 3)
  | .absShort d a => short (0xE000 + put d 7 + put a 3)
  | .fnegF32Short d a => short (0xE800 + put d 7 + put a 3)
  | .fabsF32Short d a => short (0xF000 + put d 7 + put a 3)
  | .addShort d x => short (0x0001 + put d 8 + put x 2)
  | .subShort d x => short (0x1001 + put d 8 + put x 2)
  | .andShort d x => short (0x2001 + put d 8 + put x 2)
  | .orShort d x => short (0x3001 + put d 8 + put x 2)
  | .xorShort d x => short (0x4001 + put d 8 + put x 2)
  | .shlShort d x => short (0x5001 + put d 8 + put x 2)
  | .shrShort d x => short (0x6001 + put d 8 + put x 2)
  | .sraShort d x => short (0x7001 + put d 8 + put x 2)
  | .mv d x => short (0x8001 + put d 8 + put x 2)
  | .addiShort d i => short (0x9001 + put d 8 + put i 2)
  | .liShort d i => short (0xA001 + put d 8 + put i 2)
  | .shliShort d i => short (0xB001 + put d 8 + put i 2)
  | .shriShort d i => short (0xC001 + put d 8 + put i 2)
  | .andiShort d i => short (0xD001 + put d 8 + put i 2)
  | .negShort d x => short (0xE001 + put d 8 + put x 2)
  | .notShort d x => short (0xF001 + put d 8 + put x 2)
  | .nopShort g => short (0x0002 + put g 4)
  | .yieldShort => short (0x0006)
  | .stamp s => short (0x000A + put s 4)
  | .amod c p s o => short (0x000E + put c 10 + put p 8 + put s 6 + put o 4)
  | .stampedIssue _ _ => []
  | .stallRelease _ _ _ => []
  | .blockingWaitEnd _ => []
  | .pendingPushDrain _ _ _ => []
  | .holdRegionExpiry _ _ _ => []
  | .holdOverrun _ _ _ => []
  | .dspSubmitSv _ => []
  | .dspSubmitSi _ => []
  | .dspWithdraw _ => []
  | .dspTimeSet _ => []
  | .dspTpairNsRead _ => []
  | .timePairCapture => []
  | .ptpDiscipline _ => []
  | .cardQueueScan => []
  | .jobRelease _ => []
  | .dispatcherEvaluation => []
  | .evictionSaveComplete _ => []
  | .hingeFallback _ _ _ => []
  | .jobRestore _ => []
  | .deadlineMiss _ => []
  | .deadlineMissException _ => []
  | .regionClearDone _ => []
  | .pageClearDone _ => []
  | .workgroupPlacement _ => []
  | .kernelClassification _ => []
  | .fetchwgAnswer _ => []
  | .gets _ => []
  | .getm _ => []
  | .upg _ => []
  | .puts _ => []
  | .putm _ => []
  | .puto _ => []
  | .atomFar _ => []
  | .homeRead _ => []
  | .homeWrite _ => []
  | .recalledData _ => []
  | .inv _ => []
  | .fwdGets _ => []
  | .fwdGetm _ => []
  | .data _ => []
  | .grant _ => []
  | .putAck _ => []
  | .nackMoved _ => []
  | .atomResp _ => []
  | .invAck _ => []
  | .probeMiss _ => []
  | .sliceFill _ => []
  | .kolteLinkFailure _ => []
  | .migrationStart _ => []
  | .migrationUnitCopy _ => []
  | .translationWalk _ _ => []
  | .xltInvPage _ => []
  | .xltInvPartition _ => []
  | .xltInvAll _ => []
  | .xltInvDone => []
  | .sectorRequest _ => []
  | .regulatorWindowStart _ => []
  | .budgetOverrunException _ => []
  | .escCmdResume _ => []
  | .escCmdEnd _ => []
  | .escFreezeTile _ => []
  | .escFreezeVis _ => []
  | .freezeComplete _ => []
  | .siCmdRestart _ => []
  | .domainRestartStart => []
  | .domainRestartDone => []
  | .siPlimitWrite _ => []
  | .siAttestWrite _ => []
  | .attestationReport => []
  | .siErrclr _ => []
  | .lockstepMismatch => []
  | .islandRestartDone => []
  | .resetNRelease => []
  | .bringupStageDone _ => []
  | .thermtrip => []
  | .monitorCrossing _ _ => []
  | .correctableError _ => []
  | .uncorrectableError _ => []
  | .ingestFrame _ => []
  | .registerWrite _ _ => []
  | .powerCycle => []
  | .domainSelfCheckFailure _ => []
  | .ingestStreamEnable _ => []

/-- The bytes of an instruction in memory order (R40). -/
def encodeBytes (i : Instr) : List Byte :=
  (encode i).flatMap fun h => [BitVec.ofNat 8 h.toNat, BitVec.ofNat 8 (h.toNat / 256)]

/-- The instruction word zero-extended, as fault information carries it (R43, R49). -/
def encodeWord (i : Instr) : BitVec 32 :=
  match encode i with
  | [h0, h1] => BitVec.ofNat 32 (h0.toNat + 65536 * h1.toNat)
  | [h0] => BitVec.ofNat 32 h0.toNat
  | _ => 0

/-- Length of an instruction in halfwords; 0 for an event. -/
def Instr.halves (i : Instr) : Nat := (encode i).length

/-- The instruction a word numbered as the table numbers it stands for: its halfwords, and zeros above them. -/
def decodeTableWord (nbits w : Nat) : Option Instr :=
  if nbits == 0 then none
  else
    let v := w % 2 ^ nbits
    match decodeHalves (BitVec.ofNat 16 v) (BitVec.ofNat 16 (v / 65536)) with
    | .ok i => some i
    | .error _ => none

end

end Sys2Proof
end

