-- ==== Sys2Proof/Machine/AtomOps.lean ====
section
/-! DEFINITION. Atomics (R326 to R331) and the opening, commit and abort of atomic regions (R332 to R339). -/

namespace Sys2Proof.Machine

/-- The operations of majors 0x2D to 0x2F (R326). -/
inductive AtomOp where
  | add | and | or | xor | min | max | minu | maxu | xchg | cas | faddF32 | faddBf16
deriving DecidableEq, Repr

/-- The new value at a location of `w` bits and the flags raised; none where cas stores nothing (R327). -/
def AtomOp.apply (op : AtomOp) (w : Nat) (rm : Rm) (m y z : Nat) : Option Nat × Fl :=
  match op with
  | .add => (some ((m + y) % 2 ^ w), 0)
  | .and => (some (Nat.land m y), 0)
  | .or => (some (Nat.lor m y), 0)
  | .xor => (some (Nat.xor m y), 0)
  | .min => (some (if signedN w m < signedN w y then m else y), 0)
  | .max => (some (if signedN w m < signedN w y then y else m), 0)
  | .minu => (some (minN m y), 0)
  | .maxu => (some (maxN m y), 0)
  | .xchg => (some y, 0)
  | .cas => (if m == z then some y else none, 0)
  | .faddF32 =>
    let r := fop2 .fadd .fp32 rm m y
    (some r.1, r.2)
  | .faddBf16 =>
    let r := perElem2 .bf16 (fop2 .fadd .bf16 rm) (BitVec.ofNat 32 m) (BitVec.ofNat 32 y)
    (some r.1.toNat, r.2)

/-- Bits of a location on a core kind (R326). -/
def AtomOp.width (op : AtomOp) (key : Nat) : Nat :=
  if isWave key || keyEng key != 0 then 32 else match op with | .faddF32 => 32 | .faddBf16 => 32 | _ => 64

/-- Where an atomic of a normal cached page goes, and what that asks of the caches and homes (R330, R331): PLACE 1 is near,
2 far, 0 the predictor's choice. -/
def State.placeAtomic (s : State) (key lane : Nat) (p : Place) (n : Nat) (undo : List (Nat × Byte × Byte)) : State :=
  match p with
  | .loc _ => s
  | .phys pa mtype grain part =>
    let agent := agentOfKey key
    let slot := some (s.jobOf key lane)
    let place := match (s.ctlAt key lane).amod with | some a => a.place | none => 0
    if agent == 31 || mtype != 0 then s.farAtomic agent (keyCore key) pa n mtype grain part slot undo
    else if place == 2 || (place == 0 && s.predictFar agent pa) then
      s.farAtomic agent (keyCore key) pa n mtype grain part slot
    else s.nearAtomic agent pa grain part slot

/-- One lane's atomic (R327, R328): the old value and the flags, or its fault. -/
def State.atomicOne (s : State) (key lane : Nat) (op : AtomOp) (rm : Rm) (addr y z : Nat) :
    Except Stop (State × (Nat × Fl)) :=
  let w := op.width key
  let n := w / 8
  if addr % n != 0 then .error (.fault (fltOf 0x08 addr))
  else
    match s.locate key lane .rmw addr n with
    | .error f => .error (.fault f)
    | .ok (s1, p) =>
      let device := match p with | .phys _ mtype _ _ => mtype == 2 | .loc _ => false
      if device then .error (.fault (fltOf 0x0C addr))
      else if s1.placePoisoned p n then .error (.fault (s1.poisonFault p addr n))
      else
        let s2 := match p with
          | .phys pa mtype grain _ => s1.recallFor pa mtype grain
          | .loc _ => s1
        let old := s2.placeRead p n
        let (new, fl) := op.apply w rm old (y % 2 ^ w) (z % 2 ^ w)
        let (s3, undo) := match new with
          | some v =>
            ((s2.ownWrite (ctlKey key lane) addr p n).placeStore (some (ctlKey key lane)) p (leBytes n v),
             s2.storeUndo (agentOfKey key) p (leBytes n v))
          | none => (s2, [])
        .ok (s3.placeAtomic key lane p n undo, (old, fl))

/-- An atom or red; `d` is none for red (R326 to R329). The register files are those of the issuing core kind. -/
def State.atomicOp (s : State) (word : Nat) (d : Option Nat) (a b : Nat) (op : AtomOp) :
    Host.Outcome State Fault Refusal :=
  let key := match s.cur with | some c => c.key | none => 0
  let reads := match op, d with | .cas, some x => [x] | _, _ => []
  let dst := match d with | some x => [x] | none => []
  if isWave key || keyEng key == 3 then
    s.issue { word := word, legal := 0x29, atomic := true, lsrc := [b, pairHi a, a] ++ reads, ldst := dst, pairs := [a],
              bad := reads.any laneReadBad }
      fun is s _ lv =>
        let r := eachLane s is.lanes fun s l =>
          let addr := (lval lv 1 l).toNat * 2 ^ 32 + (lval lv 2 l).toNat
          s.atomicOne is.key (ctlLane is.key l) op (s.laneRm is l) addr (lval lv 0 l).toNat (lval lv 3 l).toNat
        let s1 := r.1.orLaneFlags is.key (r.2.1.map fun x => (x.1, x.2.2))
        let s2 := match d with
          | some x => s1.lput is x (r.2.1.map fun v => (v.1, BitVec.ofNat 32 v.2.1))
          | none => s1
        stopped s2 is.key r.2.2
  else
    s.issue { word := word, legal := 0x29, atomic := true, ssrc := [b, a] ++ reads, sdst := dst, sread := reads }
      fun is s sv _ =>
        match s.atomicOne is.key 0 op (s.rmOf_ is.key 0) (sval sv 1).toNat (sval sv 0).toNat (sval sv 2).toNat with
        | .error x => stopAll s is x
        | .ok (s1, old, fl) =>
          let s2 := s1.orFlags is.key 0 fl
          done (match d with | some x => s2.sput is.key x (BitVec.ofNat 64 old) | none => s2)

/-! ### Regions -/

/-- An arb refused for want of a buffer: %arcause is written and the thread goes to the fallback (R332). -/
def Ctl.noBuffer (c : Ctl) (fallback : DWord) : Ctl :=
  { c with arcause := 13, pc := fallback, hdr := fallback, passes := 0, atHeader := true, loopBuf := [], amod := none }

/-- A buffer for a wave: held, claimed, or wanting (R332). A tile CE context has its own. -/
def State.claimBuffer (s : State) (key : Nat) : Option State :=
  if !isWave key then some s
  else
    let p := 4 * (keyCore key - 64) + keySlot key / 12
    let l := s.regionBufs.get [] p
    if l.contains key then some s
    else if 4 ≤ l.length then none
    else some { s with regionBufs := s.regionBufs.put p (l ++ [key]) }

/-- arb for one thread: the state after it, and whether the thread's control state has been set (R332, R333). -/
def State.openRegion (s : State) (key lane : Nat) (off : BitVec 14) : State × Bool :=
  let fallback := s.branchTarget key lane off
  if (s.ctlAt key lane).region.isSome then (s.regionAbort key lane 11 0, true)
  else
    match s.claimBuffer key with
    | none => (s.modCtl key lane fun c => c.noBuffer fallback, true)
    | some s1 =>
      let r : Region :=
        if isWave key then
          { fallback := fallback, t0 := s.lget key 0x38 lane, t1 := s.lget key 0x39 lane,
            poison0 := s.poisonLane.has (laneKey key 0x38 lane), poison1 := s.poisonLane.has (laneKey key 0x39 lane) }
        else { fallback := fallback }
      (s1.modCtl key lane fun c => { c with region := some r }, false)

/-- Threads in lane order, each of which may set its own control state. -/
def State.eachThread (s : State) (threads : List Nat) (f : State → Nat → State × Bool) : State × List Nat :=
  threads.foldl (fun acc l =>
    let r := f acc.1 l
    (r.1, if r.2 then acc.2 ++ [l] else acc.2)) (s, [])

/-- arb (R332). -/
def State.arb (s : State) (word : Nat) (off : BitVec 14) : Host.Outcome State Fault Refusal :=
  s.issue { word := word, legal := 0x21, region := some .own } fun is s _ _ =>
    let r := s.eachThread is.threads fun s l => s.openRegion is.key l off
    { st := r.1, held := r.2 }

/-- arx (R338): nothing where no region is open. -/
def State.arx (s : State) (word : Nat) : Host.Outcome State Fault Refusal :=
  s.issue { word := word, legal := 0x21, region := some .own } fun is s _ _ =>
    let r := s.eachThread is.threads fun s l =>
      if (s.ctlAt is.key l).region.isSome then (s.regionAbort is.key l 10 0, true) else (s, false)
    { st := r.1, held := r.2 }

/-- The value that a tag stands for (R334). -/
def Region.tagValue (r : Region) (width : Nat) (t : RTag) : Nat :=
  let snap := match r.slots[t.slot]? with | some x => x.snap | none => []
  (leNat ((snap.drop t.off).take t.size) + t.c) % 2 ^ width

/-- The value of a constraint's side under the snapshots as they stand. -/
def Region.sideValue (r : Region) (width : Nat) (x : RSide) : Nat :=
  match x.tag with
  | some t => r.tagValue width t
  | none => x.k % 2 ^ width

/-- Stale slots that are not pinned read again; a stale pinned slot stops the commit (R337). -/
def Region.refresh (r : Region) (s : State) : Except Nat Region :=
  match (r.slots.zipIdx).find? fun x => x.1.stale && x.1.pinned with
  | some x => .error x.2
  | none =>
    .ok { r with slots := r.slots.map fun x => if x.stale then { x with snap := s.lineNow x.line, stale := false } else x }

/-- The first constraint whose condition no longer has its outcome (R337). -/
def Region.broken (r : Region) (width : Nat) : Option Nat :=
  ((r.cons.zipIdx).find? fun x =>
    consHolds x.1.op width (r.sideValue width x.1.lhs) (r.sideValue width x.1.rhs) != x.1.outcome).map (·.2)

/-- Every tagged register recomputed (R337). -/
def State.recompute (s : State) (key lane : Nat) (r : Region) : State :=
  r.tags.foldl (fun s t =>
    if isWave key then s.lset key (t.1 - 64) lane (BitVec.ofNat 32 (r.tagValue 32 t.2))
    else s.sset key t.1 (BitVec.ofNat 64 (r.tagValue 64 t.2))) s

/-- A line put among lines in ascending physical address. -/
def lineInto (x : Nat × Nat) : List (Nat × Nat) → List (Nat × Nat)
  | [] => [x]
  | y :: ys => if x.1 < y.1 then x :: y :: ys else y :: lineInto x ys

/-- The lines of a region's slots and store entries in ascending physical address, each with a virtual address in it
(R337). -/
def Region.lines (r : Region) : List (Nat × Nat) :=
  (r.slots.map (fun (x : RSlot) => (x.line, x.va)) ++ r.stores.map fun (e : RStore) => (e.addr / 256, e.va)).foldl
    (fun l x => lineInto x l) []

/-- One line taken, unit by unit: in the L1 in M on vision, by a hold at the home for the control engine (R337). -/
def State.takeLine (s : State) (key lane : Nat) : Place → State
  | .loc _ => s
  | .phys pa mtype grain part =>
    let agent := agentOfKey key
    let slot := some (s.jobOf key lane)
    (lineUnits grain pa).foldl (fun s u =>
      if agent < 31 && mtype == 0 then s.cacheAccess agent u.1 grain part slot true none
      else s.homeAccess (keyCore key) u.1 u.2 mtype grain part slot false) s

/-- Every line of a region taken for reading and writing, in order (R337, R355). -/
def State.takeLines (s : State) (key lane : Nat) : List (Nat × Nat) → Except Flt State
  | [] => .ok s
  | x :: rest =>
    match s.locate key lane .rmw x.2 1 with
    | .error f => .error f
    | .ok (s1, p) => (s1.takeLine key lane p).takeLines key lane rest

/-- The stores of a region performed in program order, behind what the agent stored before (R282, R294, R337). -/
def State.performStores (s : State) (key lane : Nat) (r : Region) : State :=
  r.stores.foldl (fun s e =>
    let v := match e.tag with | some t => r.tagValue (tagWidth key) t | none => e.data
    match s.locate key lane .write e.va e.size with
    | .ok (s1, p) =>
      (s1.ownWrite (ctlKey key lane) e.va p e.size).placeWrite (some (ctlKey key lane)) (some (s1.jobOf key lane)) 200 p
        (leBytes e.size v)
    | .error _ => s) s

/-- The tags that a commit reads: of the registers, the constraints and the stores. -/
def Region.tagsUsed (r : Region) : List RTag :=
  r.tags.map (·.2) ++ r.cons.flatMap (fun c => c.lhs.tag.toList ++ c.rhs.tag.toList) ++ r.stores.filterMap (·.tag)

/-- The poison fault of a commit that would read poisoned bytes of a stale slot again (R337, R372). -/
def State.staleFault (s : State) (r : Region) : Option Flt :=
  r.tagsUsed.findSome? fun t =>
    match r.slots[t.slot]? with
    | some x =>
      let p : Place := .phys (256 * x.line + t.off) 0 0 0
      if x.stale && s.placePoisoned p t.size then some (s.poisonFault p (x.va + t.off) t.size) else none
    | none => none

/-- are for one thread: the state after it, whether its control state has been set, or its fault (R337). -/
def State.commit (s : State) (key lane : Nat) : Except Flt (State × Bool) :=
  match (s.ctlAt key lane).region with
  | none => .ok (s, false)
  | some r =>
    match s.takeLines key lane r.lines with
    | .error f => .error f
    | .ok s1 =>
      match r.refresh s1 with
      | .error i => .ok (s1.regionAbort key lane 1 i, true)
      | .ok r1 =>
        match s1.staleFault r, r1.broken (tagWidth key) with
        | some f, _ => .error f
        | none, some i => .ok (s1.regionAbort key lane 2 i, true)
        | none, none =>
          let s2 := ((s1.recompute key lane r1).performStores key lane r1).modCtl key lane fun c => { c with region := none }
          let s3 := r1.pushes.foldl (fun s q => s.pushQueue (keyCtxKey key) q.1 q.2) s2
          .ok (s3.yieldBuffer key, false)

/-- are (R337): the threads of an issue set commit one after another. -/
def State.are (s : State) (word : Nat) : Host.Outcome State Fault Refusal :=
  s.issue { word := word, legal := 0x21, region := some .own } fun is s _ _ =>
    let r := is.threads.foldl (fun (acc : State × List Nat × List (Nat × Flt)) l =>
      match acc.1.commit is.key l with
      | .ok (s1, h) => (s1, (if h then acc.2.1 ++ [l] else acc.2.1), acc.2.2)
      | .error f => (acc.1, acc.2.1, acc.2.2 ++ [(l, f)])) (s, [], [])
    { st := r.1, held := r.2.1, faults := r.2.2 }

end Sys2Proof.Machine
end

