-- ==== Sys2Proof/Machine/Atomic.lean ====
section
/-! DEFINITION. Atomics, reductions and atomic regions (R326 to R339). -/

namespace Sys2Proof.Machine

/-- ATOM_ADD (R327). Atomic add returning the old value. -/
def execAtomAdd (d : BitVec 6) (a : BitVec 6) (b : BitVec 6) (g : BitVec 4) (s : State) : Host.Outcome State Fault Refusal :=
  s.atomicOp (0x000000B7 + put d 26 + put a 20 + put b 14 + put g 8) (some d.toNat) a.toNat b.toNat .add

/-- ATOM_AND (R327). Atomic and returning the old value. -/
def execAtomAnd (d : BitVec 6) (a : BitVec 6) (b : BitVec 6) (g : BitVec 4) (s : State) : Host.Outcome State Fault Refusal :=
  s.atomicOp (0x000010B7 + put d 26 + put a 20 + put b 14 + put g 8) (some d.toNat) a.toNat b.toNat .and

/-- ATOM_OR (R327). Atomic or returning the old value. -/
def execAtomOr (d : BitVec 6) (a : BitVec 6) (b : BitVec 6) (g : BitVec 4) (s : State) : Host.Outcome State Fault Refusal :=
  s.atomicOp (0x000020B7 + put d 26 + put a 20 + put b 14 + put g 8) (some d.toNat) a.toNat b.toNat .or

/-- ATOM_XOR (R327). Atomic xor returning the old value. -/
def execAtomXor (d : BitVec 6) (a : BitVec 6) (b : BitVec 6) (g : BitVec 4) (s : State) : Host.Outcome State Fault Refusal :=
  s.atomicOp (0x000030B7 + put d 26 + put a 20 + put b 14 + put g 8) (some d.toNat) a.toNat b.toNat .xor

/-- ATOM_MIN (R327). Atomic signed minimum. -/
def execAtomMin (d : BitVec 6) (a : BitVec 6) (b : BitVec 6) (g : BitVec 4) (s : State) : Host.Outcome State Fault Refusal :=
  s.atomicOp (0x000000BB + put d 26 + put a 20 + put b 14 + put g 8) (some d.toNat) a.toNat b.toNat .min

/-- ATOM_MAX (R327). Atomic signed maximum. -/
def execAtomMax (d : BitVec 6) (a : BitVec 6) (b : BitVec 6) (g : BitVec 4) (s : State) : Host.Outcome State Fault Refusal :=
  s.atomicOp (0x000010BB + put d 26 + put a 20 + put b 14 + put g 8) (some d.toNat) a.toNat b.toNat .max

/-- ATOM_MINU (R327). Atomic unsigned minimum. -/
def execAtomMinu (d : BitVec 6) (a : BitVec 6) (b : BitVec 6) (g : BitVec 4) (s : State) : Host.Outcome State Fault Refusal :=
  s.atomicOp (0x000020BB + put d 26 + put a 20 + put b 14 + put g 8) (some d.toNat) a.toNat b.toNat .minu

/-- ATOM_MAXU (R327). Atomic unsigned maximum. -/
def execAtomMaxu (d : BitVec 6) (a : BitVec 6) (b : BitVec 6) (g : BitVec 4) (s : State) : Host.Outcome State Fault Refusal :=
  s.atomicOp (0x000030BB + put d 26 + put a 20 + put b 14 + put g 8) (some d.toNat) a.toNat b.toNat .maxu

/-- ATOM_XCHG (R327). Atomic exchange. -/
def execAtomXchg (d : BitVec 6) (a : BitVec 6) (b : BitVec 6) (g : BitVec 4) (s : State) : Host.Outcome State Fault Refusal :=
  s.atomicOp (0x000000BF + put d 26 + put a 20 + put b 14 + put g 8) (some d.toNat) a.toNat b.toNat .xchg

/-- ATOM_CAS (R327). Atomic compare-and-swap against the destination's value. -/
def execAtomCas (d : BitVec 6) (a : BitVec 6) (b : BitVec 6) (g : BitVec 4) (s : State) : Host.Outcome State Fault Refusal :=
  s.atomicOp (0x000010BF + put d 26 + put a 20 + put b 14 + put g 8) (some d.toNat) a.toNat b.toNat .cas

/-- ATOM_FADD_F32 (R327). Atomic FP32 add. -/
def execAtomFaddF32 (d : BitVec 6) (a : BitVec 6) (b : BitVec 6) (g : BitVec 4) (s : State) : Host.Outcome State Fault Refusal :=
  s.atomicOp (0x000020BF + put d 26 + put a 20 + put b 14 + put g 8) (some d.toNat) a.toNat b.toNat .faddF32

/-- ATOM_FADD_BF16X2 (R327). Atomic packed BF16 add. -/
def execAtomFaddBf16x2 (d : BitVec 6) (a : BitVec 6) (b : BitVec 6) (g : BitVec 4) (s : State) : Host.Outcome State Fault Refusal :=
  s.atomicOp (0x000030BF + put d 26 + put a 20 + put b 14 + put g 8) (some d.toNat) a.toNat b.toNat .faddBf16

/-- RED_ADD (R327). Non-returning atomic add. -/
def execRedAdd (a : BitVec 6) (b : BitVec 6) (g : BitVec 4) (s : State) : Host.Outcome State Fault Refusal :=
  s.atomicOp (0xF00000B7 + put a 20 + put b 14 + put g 8) none a.toNat b.toNat .add

/-- RED_AND (R327). Non-returning atomic and. -/
def execRedAnd (a : BitVec 6) (b : BitVec 6) (g : BitVec 4) (s : State) : Host.Outcome State Fault Refusal :=
  s.atomicOp (0xF00010B7 + put a 20 + put b 14 + put g 8) none a.toNat b.toNat .and

/-- RED_OR (R327). Non-returning atomic or. -/
def execRedOr (a : BitVec 6) (b : BitVec 6) (g : BitVec 4) (s : State) : Host.Outcome State Fault Refusal :=
  s.atomicOp (0xF00020B7 + put a 20 + put b 14 + put g 8) none a.toNat b.toNat .or

/-- RED_XOR (R327). Non-returning atomic xor. -/
def execRedXor (a : BitVec 6) (b : BitVec 6) (g : BitVec 4) (s : State) : Host.Outcome State Fault Refusal :=
  s.atomicOp (0xF00030B7 + put a 20 + put b 14 + put g 8) none a.toNat b.toNat .xor

/-- RED_MIN (R327). Non-returning atomic signed minimum. -/
def execRedMin (a : BitVec 6) (b : BitVec 6) (g : BitVec 4) (s : State) : Host.Outcome State Fault Refusal :=
  s.atomicOp (0xF00000BB + put a 20 + put b 14 + put g 8) none a.toNat b.toNat .min

/-- RED_MAX (R327). Non-returning atomic signed maximum. -/
def execRedMax (a : BitVec 6) (b : BitVec 6) (g : BitVec 4) (s : State) : Host.Outcome State Fault Refusal :=
  s.atomicOp (0xF00010BB + put a 20 + put b 14 + put g 8) none a.toNat b.toNat .max

/-- RED_MINU (R327). Non-returning atomic unsigned minimum. -/
def execRedMinu (a : BitVec 6) (b : BitVec 6) (g : BitVec 4) (s : State) : Host.Outcome State Fault Refusal :=
  s.atomicOp (0xF00020BB + put a 20 + put b 14 + put g 8) none a.toNat b.toNat .minu

/-- RED_MAXU (R327). Non-returning atomic unsigned maximum. -/
def execRedMaxu (a : BitVec 6) (b : BitVec 6) (g : BitVec 4) (s : State) : Host.Outcome State Fault Refusal :=
  s.atomicOp (0xF00030BB + put a 20 + put b 14 + put g 8) none a.toNat b.toNat .maxu

/-- RED_XCHG (R327). Non-returning atomic exchange. -/
def execRedXchg (a : BitVec 6) (b : BitVec 6) (g : BitVec 4) (s : State) : Host.Outcome State Fault Refusal :=
  s.atomicOp (0xF00000BF + put a 20 + put b 14 + put g 8) none a.toNat b.toNat .xchg

/-- RED_CAS (R327). Non-returning compare-with-zero and store. -/
def execRedCas (a : BitVec 6) (b : BitVec 6) (g : BitVec 4) (s : State) : Host.Outcome State Fault Refusal :=
  s.atomicOp (0xF00010BF + put a 20 + put b 14 + put g 8) none a.toNat b.toNat .cas

/-- RED_FADD_F32 (R327). Non-returning atomic FP32 add. -/
def execRedFaddF32 (a : BitVec 6) (b : BitVec 6) (g : BitVec 4) (s : State) : Host.Outcome State Fault Refusal :=
  s.atomicOp (0xF00020BF + put a 20 + put b 14 + put g 8) none a.toNat b.toNat .faddF32

/-- RED_FADD_BF16X2 (R327). Non-returning atomic packed BF16 add. -/
def execRedFaddBf16x2 (a : BitVec 6) (b : BitVec 6) (g : BitVec 4) (s : State) : Host.Outcome State Fault Refusal :=
  s.atomicOp (0xF00030BF + put a 20 + put b 14 + put g 8) none a.toNat b.toNat .faddBf16

/-- ARB (R332). Opens an atomic region naming its fallback header. -/
def execArb (o : BitVec 14) (g : BitVec 4) (s : State) : Host.Outcome State Fault Refusal :=
  s.arb (0x000000C3 + put o 12 + put g 8) o

/-- ARE (R337). Commits the open atomic region, replaying stale slots and rechecking constraints, or aborts. -/
def execAre (g : BitVec 4) (s : State) : Host.Outcome State Fault Refusal :=
  s.are (0x0001001F + put g 8)

/-- ARX (R338). Explicitly aborts the open atomic region with cause 10. -/
def execArx (g : BitVec 4) (s : State) : Host.Outcome State Fault Refusal :=
  s.arx (0x0001101F + put g 8)

end Sys2Proof.Machine
end

