-- ==== Sys2Proof/Machine/Control.lean ====
section
/-! DEFINITION. Control flow and the system group (R87 to R91, R93, R95, R96, R100, R101, R133, R156, R378, R379), and the short control words (R54, R55). -/

namespace Sys2Proof.Machine

/-- BR (R87). Unconditional branch to a block header; leaves the current block. -/
def execBr (o : BitVec 14) (g : BitVec 4) (s : State) : Host.Outcome State Fault Refusal :=
  s.branch (0x00000003 + put o 12 + put g 8) o [] onAll .pin (fun _ _ _ _ => true)

/-- BZ (R87). Branches to a header when the scalar is zero. -/
def execBz (c : BitVec 6) (o : BitVec 14) (g : BitVec 4) (s : State) : Host.Outcome State Fault Refusal :=
  s.branch (0x00000007 + put c 26 + put o 12 + put g 8) o [c.toNat] onAll .test (fun _ _ sv _ => sval sv 0 == 0)

/-- BNZ (R87). Branches to a header when the scalar is not zero. -/
def execBnz (c : BitVec 6) (o : BitVec 14) (g : BitVec 4) (s : State) : Host.Outcome State Fault Refusal :=
  s.branch (0x0000000B + put c 26 + put o 12 + put g 8) o [c.toNat] onAll .test (fun _ _ sv _ => sval sv 0 != 0)

/-- BP (R87). Branches when the predicate is set (some lane on tile VE, own lane on vision). -/
def execBp (p : BitVec 3) (o : BitVec 14) (g : BitVec 4) (s : State) : Host.Outcome State Fault Refusal :=
  s.branch (0x0000000F + put p 26 + put o 12 + put g 8) o [] onLanes .pin (fun is s _ l => s.predTaken is p.toNat l)

/-- BNP (R87). Branches when the predicate is clear (every lane on tile VE, own lane on vision). -/
def execBnp (p : BitVec 3) (o : BitVec 14) (g : BitVec 4) (s : State) : Host.Outcome State Fault Refusal :=
  s.branch (0x00000013 + put p 26 + put o 12 + put g 8) o [] onLanes .pin (fun is s _ l => !s.predTaken is p.toNat l)

/-- LOOP (R88). Decrements the counter modulo 2^64 and branches while it is not zero. -/
def execLoop (c : BitVec 6) (o : BitVec 14) (g : BitVec 4) (s : State) : Host.Outcome State Fault Refusal :=
  s.issue { word := (0x00000017 + put c 26 + put o 12 + put g 8), legal := onAll, ssrc := [c.toNat], sdst := [c.toNat], sread := [c.toNat], region := some .pin }
    fun is s sv _ =>
      let v := sval sv 0 - 1
      { st := s.sput is.key c.toNat v,
        jumps := if v = 0 then [] else is.threads.map fun l => (l, s.branchTarget is.key l o) }

/-- CALL (R89). Writes the next header's address to the link scalar and branches. -/
def execCall (c : BitVec 6) (o : BitVec 14) (g : BitVec 4) (s : State) : Host.Outcome State Fault Refusal :=
  s.issue { word := (0x0000001B + put c 26 + put o 12 + put g 8), legal := onAll, sdst := [c.toNat], sread := [c.toNat], region := some .pin }
    fun is s _ _ =>
      let x := s.ctlAt is.key (is.threads.headD 0)
      { st := s.sput is.key c.toNat (x.hdr + BitVec.ofNat 64 (4 + 2 * x.len)),
        jumps := is.threads.map fun l => (l, s.branchTarget is.key l o) }

/-- NOP (R91). Does nothing but its token pops and pushes. -/
def execNop (g : BitVec 4) (s : State) : Host.Outcome State Fault Refusal :=
  s.issue { word := (0x0000001F + put g 8), legal := onAll, region := some .pin } fun _ s _ _ => done s

/-- HALT (R93). Stops the tile stream for good without rendezvous. -/
def execHalt (g : BitVec 4) (s : State) : Host.Outcome State Fault Refusal :=
  s.issue { word := (0x0000101F + put g 8), legal := onTile, deliver := true, unstamped := true } fun is s _ _ =>
    { st := s.modCtl is.key 0 Ctl.halt, held := [0] }

/-- YIELD (R91). A switch point ceding the engine to another ready stream; on vision ends the issue turn. -/
def execYield (g : BitVec 4) (s : State) : Host.Outcome State Fault Refusal :=
  s.issue { word := (0x0000301F + put g 8), legal := onAll } fun is s _ _ =>
    done (if isWave is.key then s else s.modCtl is.key 0 fun c => { c with sw := 2 })

/-- JR (R89). Branches to the header address in a scalar. -/
def execJr (a : BitVec 6) (g : BitVec 4) (s : State) : Host.Outcome State Fault Refusal :=
  s.jumpTo (0x0000501F + put a 20 + put g 8) a.toNat

/-- TRAP (R378). Raises trap cause 0x40 + N of class 1 after retiring. -/
def execTrap (n : BitVec 6) (g : BitVec 4) (s : State) : Host.Outcome State Fault Refusal :=
  s.issue { word := (0x0000601F + put n 26 + put g 8), legal := onAll } fun is s _ _ =>
    { st := s, traps := is.threads.map fun l => (l, 0x40 + n.toNat, 0) }

/-- ERET (R379). Checks the trap record and leaves the handler, resuming at RETADDR with the recorded passes. -/
def execEret (g : BitVec 4) (s : State) : Host.Outcome State Fault Refusal :=
  s.eret (0x0000701F + put g 8)

/-- HOLD (R95). Opens or shortens a hold region of N tile cycles. -/
def execHold (n : BitVec 12) (g : BitVec 4) (s : State) : Host.Outcome State Fault Refusal :=
  s.issue { word := (0x0000801F + put n 20 + put g 8), legal := onTile } fun is s _ _ =>
    done (s.modCtl is.key 0 fun c => { c with retire := some { hold := some n.toNat } })

/-- UNHOLD (R95). Closes the hold region; deferred events are delivered at the next boundary. -/
def execUnhold (g : BitVec 4) (s : State) : Host.Outcome State Fault Refusal :=
  s.issue { word := (0x0000901F + put g 8), legal := onTile } fun is s _ _ =>
    done (s.modCtl is.key 0 fun c => { c with holdEnd := none })

/-- SRD (R96). Reads a special register into a scalar. -/
def execSrd (d : BitVec 6) (r : BitVec 6) (g : BitVec 4) (s : State) : Host.Outcome State Fault Refusal :=
  s.readSpecial (0x0000A01F + put d 26 + put r 20 + put g 8) d.toNat r.toNat

/-- SWR (R96). Writes a special register from a scalar. -/
def execSwr (r : BitVec 6) (a : BitVec 6) (g : BitVec 4) (s : State) : Host.Outcome State Fault Refusal :=
  s.writeSpecial (0x0000B01F + put r 26 + put a 20 + put g 8) r.toNat a.toNat

/-- PROF (R133). Writes a profiling marker record to the sillage ring when tracing is enabled. An empty queue that it reads stalls
it at issue (R84, log 27). -/
def execProf (k : BitVec 6) (a : BitVec 6) (g : BitVec 4) (s : State) : Host.Outcome State Fault Refusal :=
  s.issue { word := (0x0000C01F + put k 26 + put a 20 + put g 8), legal := onAll, ssrc := [a.toNat] } fun is s sv _ =>
    done (s.profile is.key is.threads k.toNat (sval sv 0))

/-- RDTIME (R100). Samples package time into a scalar. -/
def execRdtime (d : BitVec 6) (g : BitVec 4) (s : State) : Host.Outcome State Fault Refusal :=
  s.readClock (0x0000D01F + put d 26 + put g 8) d.toNat (fun s => BitVec.ofNat 64 s.ns)

/-- RDCYC (R100). Samples the deterministic cycle counter into a scalar. -/
def execRdcyc (d : BitVec 6) (g : BitVec 4) (s : State) : Host.Outcome State Fault Refusal :=
  s.readClock (0x0000E01F + put d 26 + put g 8) d.toNat (fun s => BitVec.ofNat 64 s.cyc)

/-- EXIT (R156). Makes each executing vision thread Exited, abandoning any open region. -/
def execExit (g : BitVec 4) (s : State) : Host.Outcome State Fault Refusal :=
  s.issue { word := (0x0000F01F + put g 8), legal := 0x20, region := some .own } fun is s _ _ =>
    { st := s.exitThreads is.key is.threads, held := is.threads }

/-- RET (R89). Branches to the return address in a scalar. -/
def execRet (a : BitVec 6) (g : BitVec 4) (s : State) : Host.Outcome State Fault Refusal :=
  s.jumpTo (0x0001201F + put a 20 + put g 8) a.toNat

/-- NOP_SHORT (R54). Short nop carrying token bits. -/
def execNopShort (g : BitVec 4) (s : State) : Host.Outcome State Fault Refusal :=
  s.issue { word := (0x0002 + put g 4), half := 1, legal := onAll, region := some .pin } fun _ s _ _ => done s

/-- YIELD_SHORT (R54). Short yield. -/
def execYieldShort (s : State) : Host.Outcome State Fault Refusal :=
  s.issue { word := (0x0006), half := 1, legal := onAll } fun is s _ _ =>
    done (if isWave is.key then s else s.modCtl is.key 0 fun c => { c with sw := 2 })

/-- STAMP (R101). Arms the next ME instruction to issue at %sbase + S. -/
def execStamp (s1 : BitVec 12) (s : State) : Host.Outcome State Fault Refusal :=
  s.issue { word := (0x000A + put s1 4), half := 1, legal := 0x04, unstamped := true } fun is s _ _ =>
    done (s.modCtl is.key 0 fun c => { c with armed := some (c.sbase + s1.setWidth 64) })

/-- AMOD (R55). Gives ordering, scope and placement to the following atomic or fence. -/
def execAmod (c : BitVec 1) (p : BitVec 2) (s1 : BitVec 2) (o : BitVec 2) (s : State) : Host.Outcome State Fault Refusal :=
  s.issue { word := (0x000E + put c 10 + put p 8 + put s1 6 + put o 4), half := 1, legal := onAll, notLast := true } fun is s _ _ =>
    { st := is.threads.foldl (fun s l => s.modCtl is.key l fun x =>
        { x.advance 1 with amod := some { sc := c == 1, place := p.toNat, scope := s1.toNat, ord := o.toNat, addr := x.pc,
                                          hdr := x.hdr } }) s,
      held := is.threads }

end Sys2Proof.Machine
end

