-- ==== Sys2Proof/Machine/Copies.lean ====
section
/-! DEFINITION. Copy commands and trec (R199 to R219). -/

namespace Sys2Proof.Machine

/-- LDT (R207). Issues a copy of a tensor box into the dense scratchpad side. -/
def execLdt (x : BitVec 6) (y : BitVec 6) (z : BitVec 6) (g : BitVec 4) (s : State) : Host.Outcome State Fault Refusal :=
  s.copyWord (0x000000D3 + put x 26 + put y 20 + put z 14 + put g 8) 0x34 0 x.toNat y.toNat z.toNat

/-- STT (R207). Issues a copy of the dense side into a tensor box. -/
def execStt (x : BitVec 6) (y : BitVec 6) (z : BitVec 6) (g : BitVec 4) (s : State) : Host.Outcome State Fault Refusal :=
  s.copyWord (0x000010D3 + put x 26 + put y 20 + put z 14 + put g 8) 0x34 1 x.toNat y.toNat z.toNat

/-- COPY (R209). Issues a linear copy of LEN bytes. -/
def execCopy (x : BitVec 6) (y : BitVec 6) (z : BitVec 6) (g : BitVec 4) (s : State) : Host.Outcome State Fault Refusal :=
  s.copyWord (0x000020D3 + put x 26 + put y 20 + put z 14 + put g 8) 0x34 2 x.toNat y.toNat z.toNat

/-- COPY_RESUME (R214). Issues the remainder of a faulted copy from its fault record. -/
def execCopyResume (x : BitVec 6) (g : BitVec 4) (s : State) : Host.Outcome State Fault Refusal :=
  s.copyResume (0x000030D3 + put x 26 + put g 8) x.toNat

/-- COPY_CK (R216). Issues a linear copy with a running checksum. -/
def execCopyCk (x : BitVec 6) (y : BitVec 6) (z : BitVec 6) (g : BitVec 4) (s : State) : Host.Outcome State Fault Refusal :=
  s.copyWord (0x000000D7 + put x 26 + put y 20 + put z 14 + put g 8) 0x35 0 x.toNat y.toNat z.toNat

/-- COPY_CKV (R216). Issues a checksummed copy compared with an expected value. -/
def execCopyCkv (x : BitVec 6) (y : BitVec 6) (z : BitVec 6) (g : BitVec 4) (s : State) : Host.Outcome State Fault Refusal :=
  s.copyWord (0x000010D7 + put x 26 + put y 20 + put z 14 + put g 8) 0x35 1 x.toNat y.toNat z.toNat

/-- COPY_RED (R217). Issues an element-wise reduction into memory, including the BFX phases. -/
def execCopyRed (x : BitVec 6) (y : BitVec 6) (z : BitVec 6) (g : BitVec 4) (s : State) : Host.Outcome State Fault Refusal :=
  s.copyWord (0x000020D7 + put x 26 + put y 20 + put z 14 + put g 8) 0x35 2 x.toNat y.toNat z.toNat

/-- COPY_MC (R219). Issues a multicast copy to the gang scratchpads named by a mask. -/
def execCopyMc (x : BitVec 6) (y : BitVec 6) (z : BitVec 6) (g : BitVec 4) (s : State) : Host.Outcome State Fault Refusal :=
  s.copyWord (0x000030D7 + put x 26 + put y 20 + put z 14 + put g 8) 0x35 3 x.toNat y.toNat z.toNat

/-- TREC (R208). Checks a tensor record and box and writes their byte count. -/
def execTrec (d : BitVec 6) (r : BitVec 6) (b : BitVec 6) (g : BitVec 4) (s : State) : Host.Outcome State Fault Refusal :=
  s.tensorCount (0x000030FB + put d 26 + put r 20 + put b 14 + put g 8) d.toNat r.toNat b.toNat

end Sys2Proof.Machine
end

