-- ==== Sys2Proof/Machine/Cross.lean ====
section
/-! DEFINITION. The cross-lane, lane-to-scalar and reduction instructions (R176 to R178). -/

namespace Sys2Proof.Machine

/-- XL_GET (R176). Reads the lane chosen per lane by b. -/
def execXlGet (d : BitVec 6) (a : BitVec 6) (b : BitVec 6) (g : BitVec 4) (s : State) : Host.Outcome State Fault Refusal :=
  s.cross (0x0000008B + put d 26 + put a 20 + put b 14 + put g 8) d.toNat a.toNat (some b.toNat) 0 0

/-- XL_SH (R176). Reads a lane shifted by a signed per-lane amount. -/
def execXlSh (d : BitVec 6) (a : BitVec 6) (b : BitVec 6) (g : BitVec 4) (s : State) : Host.Outcome State Fault Refusal :=
  s.cross (0x0000108B + put d 26 + put a 20 + put b 14 + put g 8) d.toNat a.toNat (some b.toNat) 0 1

/-- XL_ROT (R176). Reads a lane rotated by a per-lane amount. -/
def execXlRot (d : BitVec 6) (a : BitVec 6) (b : BitVec 6) (g : BitVec 4) (s : State) : Host.Outcome State Fault Refusal :=
  s.cross (0x0000208B + put d 26 + put a 20 + put b 14 + put g 8) d.toNat a.toNat (some b.toNat) 0 2

/-- XL_XOR (R176). Reads the lane whose number is xored with a per-lane amount. -/
def execXlXor (d : BitVec 6) (a : BitVec 6) (b : BitVec 6) (g : BitVec 4) (s : State) : Host.Outcome State Fault Refusal :=
  s.cross (0x0000308B + put d 26 + put a 20 + put b 14 + put g 8) d.toNat a.toNat (some b.toNat) 0 3

/-- XLI_GET (R176). Reads the lane given by an immediate. -/
def execXliGet (d : BitVec 6) (a : BitVec 6) (im : BitVec 6) (g : BitVec 4) (s : State) : Host.Outcome State Fault Refusal :=
  s.cross (0x0000008F + put d 26 + put a 20 + put im 14 + put g 8) d.toNat a.toNat none im.toNat 0

/-- XLI_SH (R176). Reads a lane shifted by a signed immediate. -/
def execXliSh (d : BitVec 6) (a : BitVec 6) (im : BitVec 6) (g : BitVec 4) (s : State) : Host.Outcome State Fault Refusal :=
  s.cross (0x0000108F + put d 26 + put a 20 + put im 14 + put g 8) d.toNat a.toNat none im.toInt 1

/-- XLI_ROT (R176). Reads a lane rotated by an immediate. -/
def execXliRot (d : BitVec 6) (a : BitVec 6) (im : BitVec 6) (g : BitVec 4) (s : State) : Host.Outcome State Fault Refusal :=
  s.cross (0x0000208F + put d 26 + put a 20 + put im 14 + put g 8) d.toNat a.toNat none im.toNat 2

/-- XLI_XOR (R176). Reads the lane xored with an immediate. -/
def execXliXor (d : BitVec 6) (a : BitVec 6) (im : BitVec 6) (g : BitVec 4) (s : State) : Host.Outcome State Fault Refusal :=
  s.cross (0x0000308F + put d 26 + put a 20 + put im 14 + put g 8) d.toNat a.toNat none im.toNat 3

/-- RFAL (R177). Copies the lowest active lane's value to a scalar. -/
def execRfal (d : BitVec 6) (a : BitVec 6) (g : BitVec 4) (s : State) : Host.Outcome State Fault Refusal :=
  s.firstLane (0x00000093 + put d 26 + put a 20 + put g 8) d.toNat a.toNat

/-- BALLOT (R177). Gathers a predicate's active lanes into a scalar mask. -/
def execBallot (d : BitVec 6) (p : BitVec 3) (g : BitVec 4) (s : State) : Host.Outcome State Fault Refusal :=
  s.predScalar (0x00001093 + put d 26 + put p 20 + put g 8) d.toNat p.toNat ballotBits

/-- VANY (R177). 1 if any active predicate lane is set. -/
def execVany (d : BitVec 6) (p : BitVec 3) (g : BitVec 4) (s : State) : Host.Outcome State Fault Refusal :=
  s.predScalar (0x00002093 + put d 26 + put p 20 + put g 8) d.toNat p.toNat (fun ps => flagW (ps.any (·.2)))

/-- VALL (R177). 1 if every active predicate lane is set. -/
def execVall (d : BitVec 6) (p : BitVec 3) (g : BitVec 4) (s : State) : Host.Outcome State Fault Refusal :=
  s.predScalar (0x00003093 + put d 26 + put p 20 + put g 8) d.toNat p.toNat (fun ps => flagW (ps.all (·.2)))

/-- PCOUNT (R177). Counts active set predicate lanes. -/
def execPcount (d : BitVec 6) (p : BitVec 3) (g : BitVec 4) (s : State) : Host.Outcome State Fault Refusal :=
  s.predScalar (0x00004093 + put d 26 + put p 20 + put g 8) d.toNat p.toNat (fun ps => BitVec.ofNat 64 (countTrue ps))

/-- MOVS (R177). Broadcasts a scalar's low word to every active lane. -/
def execMovs (d : BitVec 6) (a : BitVec 6) (g : BitVec 4) (s : State) : Host.Outcome State Fault Refusal :=
  s.scalarToLanes (0x00005093 + put d 26 + put a 20 + put g 8) d.toNat a.toNat

/-- MOV (R177). Lane move. -/
def execMov (d : BitVec 6) (a : BitVec 6) (g : BitVec 4) (s : State) : Host.Outcome State Fault Refusal :=
  s.lane1 (0x00006093 + put d 26 + put a 20 + put g 8) 2 d.toNat a.toNat .move (fun x => x)

/-- LANEID (R177). Writes each lane's number. -/
def execLaneid (d : BitVec 6) (g : BitVec 4) (s : State) : Host.Outcome State Fault Refusal :=
  s.laneNumber (0x00007093 + put d 26 + put g 8) d.toNat

/-- VREDADD (R177). Exact signed sum of active lanes to a scalar. -/
def execVredadd (d : BitVec 6) (a : BitVec 6) (g : BitVec 4) (s : State) : Host.Outcome State Fault Refusal :=
  s.laneScalar (0x00008093 + put d 26 + put a 20 + put g 8) d.toNat a.toNat sumLanes

/-- VREDMIN (R177). Signed minimum of active lanes to a scalar. -/
def execVredmin (d : BitVec 6) (a : BitVec 6) (g : BitVec 4) (s : State) : Host.Outcome State Fault Refusal :=
  s.laneScalar (0x00009093 + put d 26 + put a 20 + put g 8) d.toNat a.toNat (fun ws => (leastLane ws).signExtend 64)

/-- VREDMAX (R177). Signed maximum of active lanes to a scalar. -/
def execVredmax (d : BitVec 6) (a : BitVec 6) (g : BitVec 4) (s : State) : Host.Outcome State Fault Refusal :=
  s.laneScalar (0x0000A093 + put d 26 + put a 20 + put g 8) d.toNat a.toNat (fun ws => (greatestLane ws).signExtend 64)

/-- FREDADD (R178). FP32 sum of active lanes in ascending order, rounding each addition. -/
def execFredadd (d : BitVec 6) (a : BitVec 6) (g : BitVec 4) (s : State) : Host.Outcome State Fault Refusal :=
  s.floatSum (0x0000B093 + put d 26 + put a 20 + put g 8) d.toNat a.toNat

end Sys2Proof.Machine
end

