-- ==== Sys2Proof/Machine/FloatLane.lean ====
section
/-! DEFINITION. The float and conversion instructions (R171 to R175). -/

namespace Sys2Proof.Machine

/-- FADD (R172). Float add in FP32 or packed FP16/BF16, rounded once. -/
def execFadd (d : BitVec 6) (a : BitVec 6) (b : BitVec 6) (f : BitVec 2) (g : BitVec 4) (s : State) : Host.Outcome State Fault Refusal :=
  s.float2 (0x00000067 + put d 26 + put a 20 + put b 14 + put f 12 + put g 8) 2 d.toNat a.toNat b.toNat f.toNat .fadd

/-- FSUB (R172). Float subtract. -/
def execFsub (d : BitVec 6) (a : BitVec 6) (b : BitVec 6) (f : BitVec 2) (g : BitVec 4) (s : State) : Host.Outcome State Fault Refusal :=
  s.float2 (0x0000006B + put d 26 + put a 20 + put b 14 + put f 12 + put g 8) 2 d.toNat a.toNat b.toNat f.toNat .fsub

/-- FMUL (R172). Float multiply. -/
def execFmul (d : BitVec 6) (a : BitVec 6) (b : BitVec 6) (f : BitVec 2) (g : BitVec 4) (s : State) : Host.Outcome State Fault Refusal :=
  s.float2 (0x0000006F + put d 26 + put a 20 + put b 14 + put f 12 + put g 8) 2 d.toNat a.toNat b.toNat f.toNat .fmul

/-- FMIN (R172). Float minimum under R31. -/
def execFmin (d : BitVec 6) (a : BitVec 6) (b : BitVec 6) (f : BitVec 2) (g : BitVec 4) (s : State) : Host.Outcome State Fault Refusal :=
  s.float2 (0x00000077 + put d 26 + put a 20 + put b 14 + put f 12 + put g 8) 2 d.toNat a.toNat b.toNat f.toNat .fmin

/-- FMAX (R172). Float maximum under R31. -/
def execFmax (d : BitVec 6) (a : BitVec 6) (b : BitVec 6) (f : BitVec 2) (g : BitVec 4) (s : State) : Host.Outcome State Fault Refusal :=
  s.float2 (0x0000007B + put d 26 + put a 20 + put b 14 + put f 12 + put g 8) 2 d.toNat a.toNat b.toNat f.toNat .fmax

/-- FFMA (R172). Fused multiply-add into the destination with one rounding. -/
def execFfma (d : BitVec 6) (a : BitVec 6) (b : BitVec 6) (f : BitVec 2) (g : BitVec 4) (s : State) : Host.Outcome State Fault Refusal :=
  s.float3 (0x00000073 + put d 26 + put a 20 + put b 14 + put f 12 + put g 8) 2 d.toNat a.toNat b.toNat f.toNat

/-- FCMP (R173). Float comparison under one of eight conditions into a predicate. -/
def execFcmp (c : BitVec 3) (p : BitVec 3) (a : BitVec 6) (b : BitVec 6) (f : BitVec 2) (g : BitVec 4) (s : State) : Host.Outcome State Fault Refusal :=
  s.floatCmp (0x0000007F + put c 29 + put p 26 + put a 20 + put b 14 + put f 12 + put g 8) c.toNat p.toNat a.toNat b.toNat f.toNat

/-- FSQRT (R174). Correctly rounded square root. -/
def execFsqrt (d : BitVec 6) (a : BitVec 6) (f : BitVec 2) (g : BitVec 4) (s : State) : Host.Outcome State Fault Refusal :=
  s.float1 (0x00000083 + put d 26 + put a 20 + put f 12 + put g 8) 2 d.toNat a.toNat f.toNat .fsqrt

/-- FRCP (R174). Correctly rounded reciprocal. -/
def execFrcp (d : BitVec 6) (a : BitVec 6) (f : BitVec 2) (g : BitVec 4) (s : State) : Host.Outcome State Fault Refusal :=
  s.float1 (0x00004083 + put d 26 + put a 20 + put f 12 + put g 8) 2 d.toNat a.toNat f.toNat .frcp

/-- FRSQ (R174). Correctly rounded reciprocal square root. -/
def execFrsq (d : BitVec 6) (a : BitVec 6) (f : BitVec 2) (g : BitVec 4) (s : State) : Host.Outcome State Fault Refusal :=
  s.float1 (0x00008083 + put d 26 + put a 20 + put f 12 + put g 8) 2 d.toNat a.toNat f.toNat .frsq

/-- FEXP2 (R174). Correctly rounded base-2 exponential. -/
def execFexp2 (d : BitVec 6) (a : BitVec 6) (f : BitVec 2) (g : BitVec 4) (s : State) : Host.Outcome State Fault Refusal :=
  s.float1 (0x0000C083 + put d 26 + put a 20 + put f 12 + put g 8) 2 d.toNat a.toNat f.toNat .fexp2

/-- FLOG2 (R174). Correctly rounded base-2 logarithm. -/
def execFlog2 (d : BitVec 6) (a : BitVec 6) (f : BitVec 2) (g : BitVec 4) (s : State) : Host.Outcome State Fault Refusal :=
  s.float1 (0x00010083 + put d 26 + put a 20 + put f 12 + put g 8) 2 d.toNat a.toNat f.toNat .flog2

/-- FSIN (R174). Correctly rounded sine. -/
def execFsin (d : BitVec 6) (a : BitVec 6) (f : BitVec 2) (g : BitVec 4) (s : State) : Host.Outcome State Fault Refusal :=
  s.float1 (0x00014083 + put d 26 + put a 20 + put f 12 + put g 8) 2 d.toNat a.toNat f.toNat .fsin

/-- FCOS (R174). Correctly rounded cosine. -/
def execFcos (d : BitVec 6) (a : BitVec 6) (f : BitVec 2) (g : BitVec 4) (s : State) : Host.Outcome State Fault Refusal :=
  s.float1 (0x00018083 + put d 26 + put a 20 + put f 12 + put g 8) 2 d.toNat a.toNat f.toNat .fcos

/-- FABS (R174). Clears the sign. -/
def execFabs (d : BitVec 6) (a : BitVec 6) (f : BitVec 2) (g : BitVec 4) (s : State) : Host.Outcome State Fault Refusal :=
  s.float1 (0x0001C083 + put d 26 + put a 20 + put f 12 + put g 8) 2 d.toNat a.toNat f.toNat .fabs

/-- FNEG (R174). Inverts the sign. -/
def execFneg (d : BitVec 6) (a : BitVec 6) (f : BitVec 2) (g : BitVec 4) (s : State) : Host.Outcome State Fault Refusal :=
  s.float1 (0x00020083 + put d 26 + put a 20 + put f 12 + put g 8) 2 d.toNat a.toNat f.toNat .fneg

/-- FFLOOR (R174). Rounds to an integral value toward minus infinity. -/
def execFfloor (d : BitVec 6) (a : BitVec 6) (f : BitVec 2) (g : BitVec 4) (s : State) : Host.Outcome State Fault Refusal :=
  s.float1 (0x00024083 + put d 26 + put a 20 + put f 12 + put g 8) 2 d.toNat a.toNat f.toNat .ffloor

/-- FCEIL (R174). Rounds to an integral value toward plus infinity. -/
def execFceil (d : BitVec 6) (a : BitVec 6) (f : BitVec 2) (g : BitVec 4) (s : State) : Host.Outcome State Fault Refusal :=
  s.float1 (0x00028083 + put d 26 + put a 20 + put f 12 + put g 8) 2 d.toNat a.toNat f.toNat .fceil

/-- FTRUNC (R174). Rounds to an integral value toward zero. -/
def execFtrunc (d : BitVec 6) (a : BitVec 6) (f : BitVec 2) (g : BitVec 4) (s : State) : Host.Outcome State Fault Refusal :=
  s.float1 (0x0002C083 + put d 26 + put a 20 + put f 12 + put g 8) 2 d.toNat a.toNat f.toNat .ftrunc

/-- FROUND (R174). Rounds to an integral value in the %fmode mode. -/
def execFround (d : BitVec 6) (a : BitVec 6) (f : BitVec 2) (g : BitVec 4) (s : State) : Host.Outcome State Fault Refusal :=
  s.float1 (0x00030083 + put d 26 + put a 20 + put f 12 + put g 8) 2 d.toNat a.toNat f.toNat .fround

/-- FCLASS (R174). Writes the class mask of each element. -/
def execFclass (d : BitVec 6) (a : BitVec 6) (f : BitVec 2) (g : BitVec 4) (s : State) : Host.Outcome State Fault Refusal :=
  s.float1 (0x00034083 + put d 26 + put a 20 + put f 12 + put g 8) 2 d.toNat a.toNat f.toNat .fclass

/-- CVT (R175). Converts lanes by the pair table index in the named rounding mode. -/
def execCvt (d : BitVec 6) (a : BitVec 6) (n : BitVec 6) (r : BitVec 2) (g : BitVec 4) (s : State) : Host.Outcome State Fault Refusal :=
  s.convert (0x00000087 + put d 26 + put a 20 + put n 14 + put r 12 + put g 8) d.toNat a.toNat n.toNat r.toNat

end Sys2Proof.Machine
end

