-- ==== Sys2Proof/Machine/Lane.lean ====
section
/-! DEFINITION. The lane integer, comparison and predicate instructions (R167 to R170). -/

namespace Sys2Proof.Machine

/-- ADD_LANE (R167). Lane add modulo 2^32. -/
def execAddLane (d : BitVec 6) (a : BitVec 6) (b : BitVec 6) (g : BitVec 4) (s : State) : Host.Outcome State Fault Refusal :=
  s.lane2 (0x0000004B + put d 26 + put a 20 + put b 14 + put g 8) 2 d.toNat a.toNat b.toNat .add (fun x y => x + y)

/-- SUB_LANE (R167). Lane subtract. -/
def execSubLane (d : BitVec 6) (a : BitVec 6) (b : BitVec 6) (g : BitVec 4) (s : State) : Host.Outcome State Fault Refusal :=
  s.lane2 (0x0000104B + put d 26 + put a 20 + put b 14 + put g 8) 2 d.toNat a.toNat b.toNat .sub (fun x y => x - y)

/-- AND_LANE (R167). Lane bitwise and. -/
def execAndLane (d : BitVec 6) (a : BitVec 6) (b : BitVec 6) (g : BitVec 4) (s : State) : Host.Outcome State Fault Refusal :=
  s.lane2 (0x0000204B + put d 26 + put a 20 + put b 14 + put g 8) 2 d.toNat a.toNat b.toNat .pin (fun x y => x &&& y)

/-- OR_LANE (R167). Lane bitwise or. -/
def execOrLane (d : BitVec 6) (a : BitVec 6) (b : BitVec 6) (g : BitVec 4) (s : State) : Host.Outcome State Fault Refusal :=
  s.lane2 (0x0000304B + put d 26 + put a 20 + put b 14 + put g 8) 2 d.toNat a.toNat b.toNat .pin (fun x y => x ||| y)

/-- XOR_LANE (R167). Lane bitwise xor. -/
def execXorLane (d : BitVec 6) (a : BitVec 6) (b : BitVec 6) (g : BitVec 4) (s : State) : Host.Outcome State Fault Refusal :=
  s.lane2 (0x0000004F + put d 26 + put a 20 + put b 14 + put g 8) 2 d.toNat a.toNat b.toNat .pin (fun x y => x ^^^ y)

/-- SHL_LANE (R167). Lane shift left. -/
def execShlLane (d : BitVec 6) (a : BitVec 6) (b : BitVec 6) (g : BitVec 4) (s : State) : Host.Outcome State Fault Refusal :=
  s.lane2 (0x0000104F + put d 26 + put a 20 + put b 14 + put g 8) 2 d.toNat a.toNat b.toNat .pin (shlV)

/-- SHR_LANE (R167). Lane logical shift right. -/
def execShrLane (d : BitVec 6) (a : BitVec 6) (b : BitVec 6) (g : BitVec 4) (s : State) : Host.Outcome State Fault Refusal :=
  s.lane2 (0x0000204F + put d 26 + put a 20 + put b 14 + put g 8) 2 d.toNat a.toNat b.toNat .pin (shrV)

/-- SRA_LANE (R167). Lane arithmetic shift right. -/
def execSraLane (d : BitVec 6) (a : BitVec 6) (b : BitVec 6) (g : BitVec 4) (s : State) : Host.Outcome State Fault Refusal :=
  s.lane2 (0x0000304F + put d 26 + put a 20 + put b 14 + put g 8) 2 d.toNat a.toNat b.toNat .pin (sraV)

/-- MUL_LANE (R167). Lane multiply, low 32 bits. -/
def execMulLane (d : BitVec 6) (a : BitVec 6) (b : BitVec 6) (g : BitVec 4) (s : State) : Host.Outcome State Fault Refusal :=
  s.lane2 (0x00000053 + put d 26 + put a 20 + put b 14 + put g 8) 2 d.toNat a.toNat b.toNat .pin (fun x y => x * y)

/-- MULH_LANE (R167). Lane signed multiply, high 32 bits. -/
def execMulhLane (d : BitVec 6) (a : BitVec 6) (b : BitVec 6) (g : BitVec 4) (s : State) : Host.Outcome State Fault Refusal :=
  s.lane2 (0x00001053 + put d 26 + put a 20 + put b 14 + put g 8) 2 d.toNat a.toNat b.toNat .pin (mulHS)

/-- MULHU_LANE (R167). Lane unsigned multiply, high 32 bits. -/
def execMulhuLane (d : BitVec 6) (a : BitVec 6) (b : BitVec 6) (g : BitVec 4) (s : State) : Host.Outcome State Fault Refusal :=
  s.lane2 (0x00002053 + put d 26 + put a 20 + put b 14 + put g 8) 2 d.toNat a.toNat b.toNat .pin (mulHU)

/-- MAD_LANE (R167). Lane multiply-add into the destination. -/
def execMadLane (d : BitVec 6) (a : BitVec 6) (b : BitVec 6) (g : BitVec 4) (s : State) : Host.Outcome State Fault Refusal :=
  s.lane3 (0x00003053 + put d 26 + put a 20 + put b 14 + put g 8) 2 d.toNat a.toNat b.toNat (fun x y z => x * y + z)

/-- MIN_LANE (R167). Lane signed minimum. -/
def execMinLane (d : BitVec 6) (a : BitVec 6) (b : BitVec 6) (g : BitVec 4) (s : State) : Host.Outcome State Fault Refusal :=
  s.lane2 (0x00000057 + put d 26 + put a 20 + put b 14 + put g 8) 2 d.toNat a.toNat b.toNat .pin (minS)

/-- MAX_LANE (R167). Lane signed maximum. -/
def execMaxLane (d : BitVec 6) (a : BitVec 6) (b : BitVec 6) (g : BitVec 4) (s : State) : Host.Outcome State Fault Refusal :=
  s.lane2 (0x00001057 + put d 26 + put a 20 + put b 14 + put g 8) 2 d.toNat a.toNat b.toNat .pin (maxS)

/-- MINU_LANE (R167). Lane unsigned minimum. -/
def execMinuLane (d : BitVec 6) (a : BitVec 6) (b : BitVec 6) (g : BitVec 4) (s : State) : Host.Outcome State Fault Refusal :=
  s.lane2 (0x00002057 + put d 26 + put a 20 + put b 14 + put g 8) 2 d.toNat a.toNat b.toNat .pin (minU)

/-- MAXU_LANE (R167). Lane unsigned maximum. -/
def execMaxuLane (d : BitVec 6) (a : BitVec 6) (b : BitVec 6) (g : BitVec 4) (s : State) : Host.Outcome State Fault Refusal :=
  s.lane2 (0x00003057 + put d 26 + put a 20 + put b 14 + put g 8) 2 d.toNat a.toNat b.toNat .pin (maxU)

/-- ADDI_LANE (R167). Lane add of a signed immediate. -/
def execAddiLane (d : BitVec 6) (a : BitVec 6) (im : BitVec 6) (g : BitVec 4) (s : State) : Host.Outcome State Fault Refusal :=
  s.lane1 (0x0000005B + put d 26 + put a 20 + put im 14 + put g 8) 2 d.toNat a.toNat (.addI (im.signExtend 32).toNat) (fun x => x + im.signExtend 32)

/-- ANDI_LANE (R167). Lane and with a signed immediate. -/
def execAndiLane (d : BitVec 6) (a : BitVec 6) (im : BitVec 6) (g : BitVec 4) (s : State) : Host.Outcome State Fault Refusal :=
  s.lane1 (0x0000105B + put d 26 + put a 20 + put im 14 + put g 8) 2 d.toNat a.toNat .pin (fun x => x &&& im.signExtend 32)

/-- SHLI_LANE (R167). Lane shift left by an immediate 0-31. -/
def execShliLane (d : BitVec 6) (a : BitVec 6) (im : BitVec 5) (g : BitVec 4) (s : State) : Host.Outcome State Fault Refusal :=
  s.lane1 (0x0000205B + put d 26 + put a 20 + put im 14 + put g 8) 2 d.toNat a.toNat .pin (fun x => x <<< im.toNat)

/-- SHRI_LANE (R167). Lane logical shift right by an immediate 0-31. -/
def execShriLane (d : BitVec 6) (a : BitVec 6) (im : BitVec 5) (g : BitVec 4) (s : State) : Host.Outcome State Fault Refusal :=
  s.lane1 (0x0000305B + put d 26 + put a 20 + put im 14 + put g 8) 2 d.toNat a.toNat .pin (fun x => x >>> im.toNat)

/-- CLZ_LANE (R168). Lane count of leading zeros. -/
def execClzLane (d : BitVec 6) (a : BitVec 6) (g : BitVec 4) (s : State) : Host.Outcome State Fault Refusal :=
  s.lane1 (0x0000005F + put d 26 + put a 20 + put g 8) 2 d.toNat a.toNat .pin (fun x => BitVec.ofNat 32 (clzN 32 x.toNat))

/-- POPC_LANE (R168). Lane population count. -/
def execPopcLane (d : BitVec 6) (a : BitVec 6) (g : BitVec 4) (s : State) : Host.Outcome State Fault Refusal :=
  s.lane1 (0x0000105F + put d 26 + put a 20 + put g 8) 2 d.toNat a.toNat .pin (fun x => BitVec.ofNat 32 (popN 32 x.toNat))

/-- NOT_LANE (R168). Lane bitwise not. -/
def execNotLane (d : BitVec 6) (a : BitVec 6) (g : BitVec 4) (s : State) : Host.Outcome State Fault Refusal :=
  s.lane1 (0x0000205F + put d 26 + put a 20 + put g 8) 2 d.toNat a.toNat .pin (fun x => ~~~x)

/-- NEG_LANE (R168). Lane negate. -/
def execNegLane (d : BitVec 6) (a : BitVec 6) (g : BitVec 4) (s : State) : Host.Outcome State Fault Refusal :=
  s.lane1 (0x0000305F + put d 26 + put a 20 + put g 8) 2 d.toNat a.toNat .pin (fun x => 0 - x)

/-- ABS (R168). Lane absolute value. -/
def execAbs (d : BitVec 6) (a : BitVec 6) (g : BitVec 4) (s : State) : Host.Outcome State Fault Refusal :=
  s.lane1 (0x0000405F + put d 26 + put a 20 + put g 8) 2 d.toNat a.toNat .pin (absW)

/-- SEXT8_LANE (R168). Lane sign-extend from 8 bits. -/
def execSext8Lane (d : BitVec 6) (a : BitVec 6) (g : BitVec 4) (s : State) : Host.Outcome State Fault Refusal :=
  s.lane1 (0x0000505F + put d 26 + put a 20 + put g 8) 2 d.toNat a.toNat .pin (sextLow 8)

/-- SEXT16_LANE (R168). Lane sign-extend from 16 bits. -/
def execSext16Lane (d : BitVec 6) (a : BitVec 6) (g : BitVec 4) (s : State) : Host.Outcome State Fault Refusal :=
  s.lane1 (0x0000605F + put d 26 + put a 20 + put g 8) 2 d.toNat a.toNat .pin (sextLow 16)

/-- ZEXT8_LANE (R168). Lane zero-extend from 8 bits. -/
def execZext8Lane (d : BitVec 6) (a : BitVec 6) (g : BitVec 4) (s : State) : Host.Outcome State Fault Refusal :=
  s.lane1 (0x0000705F + put d 26 + put a 20 + put g 8) 2 d.toNat a.toNat .pin (zextLow 8)

/-- ZEXT16_LANE (R168). Lane zero-extend from 16 bits. -/
def execZext16Lane (d : BitVec 6) (a : BitVec 6) (g : BitVec 4) (s : State) : Host.Outcome State Fault Refusal :=
  s.lane1 (0x0000805F + put d 26 + put a 20 + put g 8) 2 d.toNat a.toNat .pin (zextLow 16)

/-- BSWAP_LANE (R168). Lane byte reversal. -/
def execBswapLane (d : BitVec 6) (a : BitVec 6) (g : BitVec 4) (s : State) : Host.Outcome State Fault Refusal :=
  s.lane1 (0x0000905F + put d 26 + put a 20 + put g 8) 2 d.toNat a.toNat .pin (fun x => BitVec.ofNat 32 (bswapN 4 x.toNat))

/-- CMP_EQ (R169). Writes predicate lanes where a equals b. -/
def execCmpEq (d : BitVec 3) (a : BitVec 6) (b : BitVec 6) (g : BitVec 4) (s : State) : Host.Outcome State Fault Refusal :=
  s.laneCmp (0x00000063 + put d 26 + put a 20 + put b 14 + put g 8) d.toNat a.toNat b.toNat 0 (fun x y => x == y)

/-- CMP_LT (R169). Writes predicate lanes where a is less than b, signed. -/
def execCmpLt (d : BitVec 3) (a : BitVec 6) (b : BitVec 6) (g : BitVec 4) (s : State) : Host.Outcome State Fault Refusal :=
  s.laneCmp (0x00001063 + put d 26 + put a 20 + put b 14 + put g 8) d.toNat a.toNat b.toNat 2 (fun x y => x.slt y)

/-- CMP_LTU (R169). Writes predicate lanes where a is less than b, unsigned. -/
def execCmpLtu (d : BitVec 3) (a : BitVec 6) (b : BitVec 6) (g : BitVec 4) (s : State) : Host.Outcome State Fault Refusal :=
  s.laneCmp (0x00002063 + put d 26 + put a 20 + put b 14 + put g 8) d.toNat a.toNat b.toNat 3 (fun x y => x.ult y)

/-- CMP_NE (R169). Writes predicate lanes where a differs from b. -/
def execCmpNe (d : BitVec 3) (a : BitVec 6) (b : BitVec 6) (g : BitVec 4) (s : State) : Host.Outcome State Fault Refusal :=
  s.laneCmp (0x00003063 + put d 26 + put a 20 + put b 14 + put g 8) d.toNat a.toNat b.toNat 1 (fun x y => x != y)

/-- PAND (R170). Predicate and. -/
def execPand (d : BitVec 3) (a : BitVec 3) (b : BitVec 3) (g : BitVec 4) (s : State) : Host.Outcome State Fault Refusal :=
  s.pred2 (0x00000097 + put d 26 + put a 20 + put b 14 + put g 8) d.toNat a.toNat b.toNat (fun x y => x && y)

/-- POR (R170). Predicate or. -/
def execPor (d : BitVec 3) (a : BitVec 3) (b : BitVec 3) (g : BitVec 4) (s : State) : Host.Outcome State Fault Refusal :=
  s.pred2 (0x00001097 + put d 26 + put a 20 + put b 14 + put g 8) d.toNat a.toNat b.toNat (fun x y => x || y)

/-- PXOR (R170). Predicate xor. -/
def execPxor (d : BitVec 3) (a : BitVec 3) (b : BitVec 3) (g : BitVec 4) (s : State) : Host.Outcome State Fault Refusal :=
  s.pred2 (0x00002097 + put d 26 + put a 20 + put b 14 + put g 8) d.toNat a.toNat b.toNat (fun x y => x != y)

/-- PANDN (R170). Predicate and-not. -/
def execPandn (d : BitVec 3) (a : BitVec 3) (b : BitVec 3) (g : BitVec 4) (s : State) : Host.Outcome State Fault Refusal :=
  s.pred2 (0x00003097 + put d 26 + put a 20 + put b 14 + put g 8) d.toNat a.toNat b.toNat (fun x y => x && !y)

end Sys2Proof.Machine
end

