-- ==== Sys2Proof/Machine/Algebra.lean ====
section
/-! DEFINITION. Accord tables (R224, R225), shape records (R228, R229), the exact sums of the algebra array (R34 to R36)
and compress (R243), apart from any state. -/

namespace Sys2Proof.Machine

/-! ### Accord tables -/

/-- Byte of an image. -/
def imgByte (img : List Byte) (i : Nat) : Nat := ((img[i]?).getD 0).toNat

/-- D, CONJ and the T2 codes of NORM and GAMMA of an accord image (R224). -/
def accD (img : List Byte) : Nat := imgByte img 0
def accConj (img : List Byte) (i : Nat) : Bool := bitN (imgByte img 1) i
def accNorm (img : List Byte) (i : Nat) : Nat := bitsN (imgByte img 2 + 256 * imgByte img 3) (2 * i) 2
def accGammaCode (img : List Byte) (n : Nat) : Nat := bitsN (imgByte img (0x10 + n / 4)) (2 * (n % 4)) 2

/-- Structure constant γ(i,j,k). -/
def accGamma (img : List Byte) (i j k : Nat) : Int :=
  let d := accD img
  t2Val (accGammaCode img ((i * d + j) * d + k))

/-- Whether D is one of the four dimensions. -/
def dimOk (d : Nat) : Bool := d == 1 || d == 2 || d == 4 || d == 8

/-- The defect of an accord image as its fault's reason (R224, R244). -/
def accordDefect (img : List Byte) : Option Nat :=
  let d := accD img
  if !dimOk d then some 1
  else if imgByte img 1 / 2 ^ d != 0 || ((upTo 8).any fun i => d ≤ i && accNorm img i != 0) ||
      ((upTo 12).any fun i => imgByte img (4 + i) != 0) ||
      ((upTo 512).any fun n => d * d * d ≤ n && accGammaCode img n != 0) ||
      ((upTo 112).any fun i => imgByte img (0x90 + i) != 0) then some 2
  else none

/-- Whether an image holds a code 0b10 (R21, R224). -/
def accordInvalidCode (img : List Byte) : Bool :=
  let d := accD img
  ((upTo d).any fun i => accNorm img i == 2) || ((upTo (d * d * d)).any fun n => accGammaCode img n == 2)

/-- A value times -1, 0 or 1. -/
def signV (g : Int) (v : FVal) : FVal := if g < 0 then negV v else v

/-- Exact sum of terms with their flags; the sign of a zero sum is R25's, and an empty sum is +0. Where a quiet NaN stands
among the terms together with both infinities, NV is set only if the infinities meet before the NaN in the order of the
terms (log 35). -/
def sumV (rm : Rm) : List (FVal × Fl) → FVal × Fl
  | [] => (.num false 0 0, 0)
  | t :: ts => ts.foldl (fun acc x =>
      let (v, f) := addV rm acc.1 x.1
      (v, acc.2 ||| x.2 ||| f)) t

/-- Component `k` of alg_mul on float values (R225, R35). -/
def algMulF (img : List Byte) (rm : Rm) (a b : List FVal) (k : Nat) : FVal × Fl :=
  let d := accD img
  sumV rm ((upTo d).flatMap fun i => (upTo d).filterMap fun j =>
    let g := accGamma img i j k
    if g == 0 then none
    else
      let (p, f) := mulV (a.getD i (.num false 0 0)) (b.getD j (.num false 0 0))
      some (signV g p, f))

/-- Component `k` of alg_mul on integers. -/
def algMulI (img : List Byte) (a b : List Int) (k : Nat) : Int :=
  let d := accD img
  (upTo d).foldl (fun s i => (upTo d).foldl (fun s j => s + accGamma img i j k * (a.getD i 0) * (b.getD j 0)) s) 0

/-- conj on float values: a NaN stays itself (R225). -/
def conjF (img : List Byte) (a : List FVal) : List FVal := a.zipIdx.map fun x => if accConj img x.2 then negV x.1 else x.1

/-- conj on integers. -/
def conjI (img : List Byte) (a : List Int) : List Int := a.zipIdx.map fun x => if accConj img x.2 then -x.1 else x.1

/-- norm on float values (R225): every component counts, one whose NORM is 0 with a zero factor. -/
def normF (img : List Byte) (rm : Rm) (a : List FVal) : FVal × Fl :=
  sumV rm ((upTo (accD img)).map fun i =>
    let g := t2Val (accNorm img i)
    let x := a.getD i (.num false 0 0)
    let (p, f) := mulV x x
    if g == 0 then
      let (q, h) := mulV (.num false 0 0) p
      (q, f ||| h)
    else (signV g p, f))

/-! ### Shape records -/

/-- A shape record's fields (R228). -/
structure Shape where
  base : Nat
  rows : Nat
  cols : Nat
  rpitch : Nat
  cpitch : Nat
  accord : Nat
  planar : Bool
  ofmt : Nat
  meta_ : Nat
deriving DecidableEq, Repr

/-- Fields of a 64-byte record. -/
def shapeOf (b : List Byte) : Shape :=
  let f (o n : Nat) : Nat := leNat ((b.drop o).take n)
  { base := f 0 4, rows := f 4 2, cols := f 6 2, rpitch := f 8 4, cpitch := f 0x0C 4, accord := f 0x10 1,
    planar := f 0x11 1 == 1, ofmt := f 0x12 1, meta_ := f 0x14 4 }

/-- The defect of a record as its fault's reason (R228, R244). -/
def shapeDefect (b : List Byte) : Option Nat :=
  let f (o n : Nat) : Nat := leNat ((b.drop o).take n)
  if f 0x13 1 != 0 || ((b.drop 0x18).any (· != 0)) || (f 0x11 1 == 0 && f 0x0C 4 != 0) then some 1
  else if 3 < f 0x10 1 then some 2
  else if 1 < f 0x11 1 then some 3
  else if f 4 2 == 0 || f 6 2 == 0 then some 4
  else if f 0 4 % 8 != 0 || f 8 4 % 8 != 0 || f 0x0C 4 % 8 != 0 || f 0x14 4 % 8 != 0 then some 5
  else if 7 < f 0x12 1 then some 6
  else none

/-- Aperture offset of component `i` of element (m, n), of a dimension and an element size (R229). -/
def Shape.at_ (x : Shape) (d e m n i : Nat) : Nat :=
  if x.planar then x.base + i * x.cpitch + m * x.rpitch + n * e else x.base + m * x.rpitch + (n * d + i) * e

/-- The footprint of a block of elements as spans of bytes (R229). -/
def Shape.spans (x : Shape) (rows cols d e : Nat) : List (Nat × Nat) :=
  if x.planar then
    (upTo d).flatMap fun i => (upTo rows).map fun m => (x.base + i * x.cpitch + m * x.rpitch, cols * e)
  else (upTo rows).map fun m => (x.base + m * x.rpitch, cols * d * e)

/-- The lowest byte of some spans outside a range. -/
def outsideOf (lo hi : Nat) (spans : List (Nat × Nat)) : Option Nat :=
  spans.foldl (fun best s =>
    let first : Option Nat :=
      if s.2 == 0 then none else if s.1 < lo then some s.1 else if hi < s.1 + s.2 then some (maxN s.1 hi) else none
    match first, best with
    | none, b => b
    | some x, none => some x
    | some x, some b => some (minN x b)) none

/-! ### Element formats -/

/-- Bytes of an element of A and B (R233). -/
def elemBytes (fmt : Nat) : Nat := if fmt == 0 then 4 else if fmt < 3 then 2 else 1

/-- Float format of codes 0 to 4 (R233). -/
def elemFmt (fmt : Nat) : Fmt :=
  if fmt == 0 then .fp32 else if fmt == 1 then .fp16 else if fmt == 2 then .bf16 else if fmt == 3 then .e4m3 else .e5m2

/-- Bytes of a readout element (R228 OFMT). -/
def ofmtBytes (o : Nat) : Nat := if o == 0 || o == 6 then 4 else if o < 3 then 2 else if o == 7 then 8 else 1

/-- A value read out to OFMT (R29, R30, R37): bits and flags. -/
def readValue (o : Nat) (rm : Rm) (v : FVal) : Nat × Fl :=
  if o == 5 then let (x, f) := floatToInt rm (-128) 127 v; (wrapN 8 x, f)
  else if o == 6 then let (x, f) := floatToInt rm (-(2 ^ 31)) (2 ^ 31 - 1) v; (wrapN 32 x, f)
  else if o == 7 then roundConv .fp64 rm v
  else roundConv (elemFmt o) rm v

/-- A scaled value read out to OFMT (R23, R37). A poisoned scale sets SPOISON alone, whatever the value (log 35). -/
def readScaled (o : Nat) (rm : Rm) (v : FVal) (scales : List S20) : Nat × Fl :=
  match scaleV v scales with
  | none =>
    (if o == 5 then 0x80 else if o == 6 then 0x80000000 else if o == 7 then Fmt.fp64.nan else (elemFmt o).nan, flSPOISON)
  | some (x, f) => let (r, g) := readValue o rm x; (r, f ||| g)

/-! ### compress (R243) -/

/-- Magnitude of the element in the low bytes of a lane, as an ordered number. -/
def magOf (fmt : Nat) (w : Word) : Nat :=
  if fmt == 5 then (signedN 8 w.toNat).natAbs
  else
    let f := elemFmt fmt
    let m := w.toNat % 2 ^ (f.width - 1)
    if (unpackF f (w.toNat % 2 ^ f.width)).isNan then 2 ^ 32 else m

/-- Position of the largest of some magnitudes, the lowest among equals, leaving one position out. -/
def argMax (mags : List Nat) (skip : Option Nat) : Nat :=
  (mags.zipIdx.foldl (fun (best : Option (Nat × Nat)) x =>
    if skip == some x.2 then best
    else match best with
      | none => some x
      | some b => if b.1 < x.1 then some x else some b) none).elim 0 (·.2)

/-- The two positions that a group of four keeps, in ascending order. -/
def keptOf (fmt : Nat) (ws : List Word) : Nat × Nat :=
  let mags := ws.map (magOf fmt)
  let first := argMax mags none
  let second := argMax mags (some first)
  (minN first second, maxN first second)

/-- The 64 lanes of compress. -/
def compressLanes (fmt : Nat) (ws : List Word) : List Word :=
  let groups := (upTo 16).map fun g => keptOf fmt ((ws.drop (4 * g)).take 4)
  let kept := groups.zipIdx.flatMap fun x => [ws.getD (4 * x.2 + x.1.1) 0, ws.getD (4 * x.2 + x.1.2) 0]
  let mask (k : Nat × Nat) : Nat := 2 ^ k.1 + 2 ^ k.2
  let half (gs : List (Nat × Nat)) : Word := BitVec.ofNat 32 (gs.zipIdx.foldl (fun a x => a + mask x.1 * 16 ^ x.2) 0)
  kept ++ [half (groups.take 8), half (groups.drop 8)] ++ List.replicate 30 0

/-- Positions that a keep mask uses: its two lowest set bits (R236). -/
def maskPositions (m : Nat) : List Nat := ((upTo 4).filter fun j => bitN m j).take 2

end Sys2Proof.Machine
end

