-- ==== Sys2Proof/Machine/ArrayOps.lean ====
section
/-! DEFINITION. The algebra array, its tables, shapes and accumulators (R222 to R240), and the algebra on lanes (R241 to
R243). -/

namespace Sys2Proof.Machine

/-- Where the matrix engine alone is legal (R49). -/
def onMe : Nat := 0x04

/-- Shape register of a context (R228). -/
def State.shape (s : State) (key n : Nat) : Shape := shapeOf (s.shapes.get [] (16 * keyCtxKey key + n))

/-- Accord table of a context (R224). -/
def State.accord (s : State) (key n : Nat) : List Byte := s.accords.get realAccord (4 * keyCtxKey key + n)

/-- Key of an accumulator element (R231). -/
def accKey (core tile row col : Nat) : Nat := 1024 * (8 * core + tile) + 32 * row + col

/-- ACC_MASK of the job of a stream. -/
def State.accMask (s : State) (key : Nat) : Nat := cardAcc (s.cardOf key 0)

/-- The accumulator-claim fault (R244). -/
def State.claimFault (s : State) (key tile : Nat) : Flt := fltOf 0x14 (tile + s.accMask key * 256)

/-- The aperture fault of a footprint outside the region (R229). -/
def State.footprint (s : State) (key : Nat) (spans : List (Nat × Nat)) : Option Flt :=
  let (lo, hi, _) := s.apertureOf key 0
  (outsideOf lo hi spans).map fun a => fltOf 0x07 a

/-- The poison fault of a footprint that is read: the address of its first poisoned byte (R372). -/
def State.footprintPoison (s : State) (key : Nat) (spans : List (Nat × Nat)) : Option Flt :=
  let core := keyCore key
  let bad := spans.filterMap fun p =>
    if p.2 == 0 || !s.placePoisoned (.loc (locKey core p.1)) p.2 then none
    else ((upTo p.2).find? fun i => s.placePoisoned (.loc (locKey core (p.1 + i))) 1).map fun i => p.1 + i
  match bad with
  | [] => none
  | a :: as => some (fltOf 0x0B (0xFFFFFFFFFF000000 + as.foldl minN a))

/-! ### accld, shp, acczero (R227, R230, R232) -/

/-- A record of a context read from an aligned aperture address. -/
def State.alignedRecord (s : State) (key addr n : Nat) : Except Flt (List Byte) :=
  if addr % 64 != 0 then .error (fltOf 0x08 addr) else s.apertureBytes key 0 addr n

/-- accld. -/
def State.accordLoad (s : State) (word n y : Nat) : Host.Outcome State Fault Refusal :=
  s.issue { word := word, legal := onMe, ssrc := [y], bad := 4 ≤ n } fun is s0 sv _ =>
    let s := s0.finishReadouts is.key
    match s.alignedRecord is.key (sval sv 0).toNat 256 with
    | .error f => faultAll s is f
    | .ok b =>
      match accordDefect b with
      | some r => faultAll s is (fltOf 0x15 (r + n * 256))
      | none =>
        let s1 := s.orFlags is.key 0 (flIf (accordInvalidCode b) flTINV)
        done { s1 with accords := s1.accords.put (4 * keyCtxKey is.key + n) b }

/-- shp. -/
def State.shapeLoad (s : State) (word n y : Nat) : Host.Outcome State Fault Refusal :=
  s.issue { word := word, legal := onMe, ssrc := [y], bad := 16 ≤ n } fun is s0 sv _ =>
    let s := s0.finishReadouts is.key
    match s.alignedRecord is.key (sval sv 0).toNat 64 with
    | .error f => faultAll s is f
    | .ok b =>
      match shapeDefect b with
      | some r => faultAll s is (fltOf 0x16 (r + n * 256))
      | none => done { s with shapes := s.shapes.put (16 * keyCtxKey is.key + n) b }

/-- acczero. -/
def State.accZero (s : State) (word n : Nat) : Host.Outcome State Fault Refusal :=
  s.issue { word := word, legal := onMe, bad := 8 ≤ n, units := [16 + n, 24 + n] } fun is s _ _ =>
    if !bitN (s.accMask is.key) n then faultAll s is (s.claimFault is.key n)
    else done ((s.clearTiles (keyCore is.key) (2 ^ n)).occupy (keyCore is.key) [16 + n] 4)

/-! ### mma and mmar (R233 to R237) -/

/-- The fields of an mma word (R233). -/
structure Mma where
  fmt : Nat
  acc : Nat
  eo : Bool
  ca : Bool
  sa : Nat
  z : Bool
  cb : Bool
  sb : Nat
  pruned : Bool
  readout : Bool
deriving DecidableEq, Repr

/-- T of R223. -/
def mmaCycles (fmt m k d : Nat) (pruned : Bool) : Nat :=
  let c := 32 / d
  let chunks := if pruned then (k + 2 * c - 1) / (2 * c) else (k + c - 1) / c
  if fmt == 0 then 4 * m * chunks else if fmt < 3 then m * chunks else (m + 1) / 2 * chunks

/-- Spans that an mma reads (R229, R236). -/
def mmaReads (w : Mma) (a b : Shape) (d : Nat) : List (Nat × Nat) :=
  let e := elemBytes w.fmt
  a.spans a.rows a.cols d e ++ b.spans (if w.pruned then a.cols / 2 else a.cols) b.cols d e ++
  (if w.pruned then [(b.meta_, 2 * ((a.cols + 15) / 16 * b.cols))] else [])

/-- The checks of R234 in their order. -/
def State.mmaCheck (s : State) (key : Nat) (w : Mma) : Option Flt :=
  let a := s.shape key w.sa
  let b := s.shape key w.sb
  let t := s.shape key ((w.sb + 1) % 16)
  let d := accD (s.accord key a.accord)
  let inner (r : Nat) : Flt := fltOf 0x17 (r + w.sa * 256 + w.sb * 4096)
  let cycles := mmaCycles w.fmt a.rows a.cols d w.pruned
  if !bitN (s.accMask key) w.acc then some (s.claimFault key w.acc)
  else if a.cols != b.rows then some (inner 1)
  else if a.accord != b.accord || (w.readout && t.accord != a.accord) then some (inner 2)
  else if w.pruned && (d != 1 || a.cols % 4 != 0) then some (inner 3)
  else if w.readout && (t.rows != a.rows || t.cols != b.cols) then some (inner 4)
  else if a.rows == 0 || a.cols == 0 || b.rows == 0 || b.cols == 0 || 32 < a.rows || 32 < b.cols * d then
    some (fltOf 0x18 1)
  else if 2048 < cycles then some (fltOf 0x18 (2 + cycles * 65536))
  else
    s.footprint key (mmaReads w a b d ++
      (if w.readout then t.spans t.rows t.cols d (ofmtBytes t.ofmt) else []))

/-- Bits of the components of an element of a shape. -/
def State.elemBits (s : State) (key : Nat) (x : Shape) (d e m n : Nat) : List Nat :=
  (upTo d).map fun i => s.locRead (locKey (keyCore key) (x.at_ d e m n i)) e

/-- The terms that an output cell adds: positions in K and rows of B, ascending (R235, R236). -/
def State.mmaTerms (s : State) (key : Nat) (w : Mma) (a b : Shape) (n : Nat) : List (Nat × Nat) :=
  if !w.pruned then (upTo a.cols).map fun k => (k, k)
  else
    (upTo (a.cols / 4)).flatMap fun g =>
      let word := s.locRead (locKey (keyCore key) (b.meta_ + 2 * (g / 4 * b.cols + n))) 2
      (maskPositions (bitsN word (4 * (g % 4)) 4)).zipIdx.map fun x => (4 * g + x.1, 2 * g + x.2)

/-- One component of one output cell: its new bits and flags (R34, R35). -/
def State.mmaCell (s : State) (key : Nat) (w : Mma) (a b : Shape) (img : List Byte) (rm : Rm) (m n i : Nat) : Nat × Fl :=
  let d := accD img
  let e := elemBytes w.fmt
  let old := (s.acc.get 0 (accKey (keyCore key) w.acc m (n * d + i))).toNat
  let terms := (s.mmaTerms key w a b n).map fun t => (s.elemBits key a d e m t.1, s.elemBits key b d e t.2 n)
  if w.fmt == 5 then
    let int (l : List Nat) (c : Bool) : List Int := let v := l.map (signedN 8); if c then conjI img v else v
    let r := terms.foldl (fun (acc : Int × Fl) t =>
      let x := int t.1 w.ca
      let y := int t.2 w.cb
      let v := acc.1 + (if w.eo then algMulI img y x i else algMulI img x y i)
      (signedN 64 (wrapN 64 v), acc.2 ||| flIf (v < -(2 ^ 63) || 2 ^ 63 - 1 < v) flOF))
      (if w.z then 0 else signedN 64 old, 0)
    (wrapN 64 r.1, r.2)
  else
    let val (l : List Nat) (c : Bool) : List FVal := let v := l.map (unpackF (elemFmt w.fmt)); if c then conjF img v else v
    terms.foldl (fun (acc : Nat × Fl) t =>
      let x := val t.1 w.ca
      let y := val t.2 w.cb
      let (p, f0) := if w.eo then algMulF img rm y x i else algMulF img rm x y i
      let (v, f1) := addV rm (unpackF .fp64 acc.1) p
      let (r, f2) := roundArith .fp64 rm v
      (r, acc.2 ||| f0 ||| f1 ||| f2)) (if w.z then 0 else old, 0)

/-- Positions (m, n, i) of a block in ascending order. -/
def blockPositions (rows cols d : Nat) : List (Nat × Nat × Nat) :=
  (upTo rows).flatMap fun m => (upTo cols).flatMap fun n => (upTo d).map fun i => (m, n, i)

/-- Bytes of a readout in ascending (m, n, i) order, and its flags (R37, R229). -/
def readoutBytes (core : Nat) (t : Shape) (d o : Nat) (vals : List ((Nat × Nat × Nat) × Nat × Fl)) :
    List (Nat × Byte) × Fl :=
  let e := ofmtBytes o
  (vals.flatMap fun v => (leBytes e v.2.1).zipIdx.map fun b =>
      (locKey core (t.at_ d e v.1.1 v.1.2.1 v.1.2.2 + b.2), b.1),
   vals.foldl (fun f v => f ||| v.2.2) 0)

/-- Value of an accumulator element as it is read out (R37). -/
def accValue (int : Bool) (w : Nat) : FVal := if int then intVal (signedN 64 w) else unpackF .fp64 w

/-- Tile cycles for which a readout occupies what it reads (R245). -/
def readoutCycles (bytes : Nat) : Nat := 16 + (bytes + 255) / 256

/-- The path and the tile of an array instruction occupied while it issues, and the tile while it is being retired and read out
(R239, R245, log 42). -/
def State.occupyTile (s : State) (core acc cycles : Nat) (out : Option Nat) : State :=
  (s.occupy core [8, 16 + acc] cycles).occupy core [24 + acc]
    (cycles + 40 + match out with | some n => readoutCycles n | none => 0)

/-- An mma or mmar: its results are held until it retires (R235, R238). -/
def State.mmaOp (s : State) (word : Nat) (w : Mma) : Host.Outcome State Fault Refusal :=
  s.issue { word := word, legal := onMe, completes := w.readout, units := [8, 16 + w.acc] } fun is s0 _ _ =>
    let s := s0.finishReadouts is.key
    let key := is.key
    let core := keyCore key
    match s.mmaCheck key w with
    | some f => faultAll s is f
    | none =>
      let a := s.shape key w.sa
      let b := s.shape key w.sb
      let t := s.shape key ((w.sb + 1) % 16)
      let img := s.accord key a.accord
      let d := accD img
      let rm := s.rmOf_ key 0
      let cells := blockPositions a.rows b.cols d
      match s.footprintPoison key (mmaReads w a b d) with
      | some f => faultAll s is f
      | none =>
        if !w.z && cells.any (fun c => s.poisonAcc.has (accKey core w.acc c.1 (c.2.1 * d + c.2.2))) then
          faultAll s is (fltOf 0x0B 0)
        else
          let vals := cells.map fun c => (c, s.mmaCell key w a b img rm c.1 c.2.1 c.2.2)
          let writes := vals.map fun v => (accKey core w.acc v.1.1 (v.1.2.1 * d + v.1.2.2), BitVec.ofNat 64 v.2.1)
          let fl := vals.foldl (fun f v => f ||| v.2.2) 0
          let out := readoutBytes core t d t.ofmt
            (vals.map fun v => (v.1, readValue t.ofmt rm (accValue (w.fmt == 5) v.2.1)))
          let late : Late := .array writes (fl ||| (if w.readout then out.2 else 0)).toNat (if w.readout then some out.1 else none)
          let s1 := s.occupyTile core w.acc (mmaCycles w.fmt a.rows a.cols d w.pruned)
            (if w.readout then some out.1.length else none)
          { st := s1.modCtl key 0 fun c => { c with late := some late }, pending := true }

/-! ### accrd (R240) -/

/-- accrd: the tile is read and the instruction retires; its destination bytes are performed later. -/
def State.accRead (s : State) (word : Nat) (int : Bool) (tile sd : Nat) (sc : Bool) (sreg : Nat) :
    Host.Outcome State Fault Refusal :=
  s.issue { word := word, legal := onMe, completes := true, ssrc := if sc then [sreg] else [], units := [16 + tile, 24 + tile] }
      fun is s0 sv _ =>
    let s := s0.finishReadouts is.key
    let key := is.key
    let core := keyCore key
    let t := s.shape key sd
    let d := accD (s.accord key t.accord)
    if !bitN (s.accMask key) tile then faultAll s is (s.claimFault key tile)
    else if t.rows == 0 || 32 < t.rows || t.cols == 0 || 32 < t.cols * d then faultAll s is (fltOf 0x18 3)
    else
      match s.footprint key (t.spans t.rows t.cols d (ofmtBytes t.ofmt)) with
      | some f => faultAll s is f
      | none =>
        let cells := blockPositions t.rows t.cols d
        let at_ (c : Nat × Nat × Nat) : Nat := accKey core tile c.1 (c.2.1 * d + c.2.2)
        if cells.any fun c => s.poisonAcc.has (at_ c) then faultAll s is (fltOf 0x0B 0)
        else
          let rm := s.rmOf_ key 0
          let vals := cells.map fun c =>
            let v := accValue int (s.acc.get 0 (at_ c)).toNat
            (c, if sc then readScaled t.ofmt rm v [s20Of (sval sv 0).toNat] else readValue t.ofmt rm v)
          let out := readoutBytes core t d t.ofmt vals
          done (((s.occupy core [16 + tile] (readoutCycles out.1.length)).orFlags key 0 out.2).launch
            (.readout { key := key, job := s.jobOf key 0, bytes := out.1, g := bitsN word 8 4 }))

/-! ### Algebra on lanes (R241, R242) -/

/-- Whether a specifier may name a group of `d` registers (R241); for d = 1 R47 alone applies. -/
def regGroupOk (d spec : Nat) : Bool :=
  d ≤ 1 || spec == 0x3C || (spec < 48 && spec % d == 0 && spec + d ≤ 48) ||
  (48 ≤ spec && spec < 56 && (spec - 48) % d == 0 && spec + d ≤ 56)

/-- Registers of a group. -/
def regGroup (d spec : Nat) : List Nat := if spec == 0x3C then List.replicate d 0x3C else (upTo d).map (spec + ·)

/-- Scalars that hold the table of an algebra instruction of dimension d (R241). -/
def tableScalars (d : Nat) : List Nat := 15 :: ((upTo ((d * d * d + 31) / 32)).map (16 + ·))

/-- The accord image that those scalars hold. -/
def tableImage (sv : List DWord) : List Byte :=
  leBytes 4 (bits (sval sv 0) 0 32) ++ List.replicate 12 0 ++
  ((sv.drop 1).flatMap fun v => leBytes 8 v.toNat) ++ List.replicate (256 - 16 - 8 * (sv.length - 1)) 0

/-- Dimension that the issuer's s15 gives; 1 where it gives none. -/
def State.issuerDim (s : State) : Nat :=
  match s.cur with
  | none => 1
  | some c => let d := bits (s.sget c.key 15) 0 8; if dimOk d then d else 1

/-- An algebra instruction: `wide` tells whether the result has d components, `two` whether it has a second source. -/
def State.laneAlgebra (s : State) (word d a b : Nat) (wide two : Bool)
    (f : List Byte → Rm → List Nat → List Nat → Nat → Nat × Fl) : Host.Outcome State Fault Refusal :=
  let n := s.issuerDim
  let src := (if two then regGroup n b else []) ++ regGroup n a
  let dst := if wide then regGroup n d else [d]
  s.issue { word := word, legal := 0x28, ssrc := tableScalars n, lsrc := src, ldst := dst,
            bad := !regGroupOk n a || (two && !regGroupOk n b) || (wide && !regGroupOk n d) }
    fun is s sv lv =>
      let img := tableImage sv
      match accordDefect img with
      | some r => faultAll s is (fltOf 0x15 r)
      | none =>
        let x (l : Nat) : List Nat := (upTo n).map fun i => (lval lv ((if two then n else 0) + i) l).toNat
        let y (l : Nat) : List Nat := (upTo n).map fun i => (lval lv i l).toNat
        let tinv := flIf (accordInvalidCode img) flTINV
        let s1 := s.orLaneFlags is.key (is.lanes.map fun l => (l, tinv))
        done (dst.zipIdx.foldl (fun s r =>
          s.fput is r.1 (is.lanes.map fun l =>
            let (v, fl) := f img (s.laneRm is l) (x l) (y l) r.2
            (l, BitVec.ofNat 32 v, fl))) s1)

/-- Component `k` of amul (R242). -/
def amulF (img : List Byte) (rm : Rm) (x y : List Nat) (k : Nat) : Nat × Fl :=
  let (v, f) := algMulF img rm (x.map (unpackF .fp32)) (y.map (unpackF .fp32)) k
  let (r, g) := roundArith .fp32 rm v
  (r, f ||| g)

/-- Component `k` of aconj (R242). -/
def aconjF (img : List Byte) (rm : Rm) (x _y : List Nat) (k : Nat) : Nat × Fl :=
  if accConj img k then fop1 .fneg .fp32 rm (x.getD k 0) else (x.getD k 0, 0)

/-- anorm (R242). -/
def anormF (img : List Byte) (rm : Rm) (x _y : List Nat) (_k : Nat) : Nat × Fl :=
  let (v, f) := normF img rm (x.map (unpackF .fp32))
  let (r, g) := roundArith .fp32 rm v
  (r, f ||| g)

/-- compress (R243). -/
def State.compressOp (s : State) (word d a fmt : Nat) : Host.Outcome State Fault Refusal :=
  s.issue { word := word, legal := 0x08, lsrc := [a], ldst := [d] } fun is s _ lv =>
    done (s.lput is d ((compressLanes fmt (lv.getD 0 [])).zipIdx.map fun x => (x.2, x.1)))

end Sys2Proof.Machine
end

