-- ==== Sys2Proof/Machine/MacroOps.lean ====
section
/-! DEFINITION. Weight macro pages and column accumulators (R246 to R258), and the retirement of the instructions that
retire later (R235, R251, R254). -/

namespace Sys2Proof.Machine

/-- MACRO_PAGES of the job of a stream. -/
def State.pageMask (s : State) (key : Nat) : Nat := cardPages (s.cardOf key 0)

/-- Key of a page of a macro, and of a byte in it (R246). -/
def pageKey (core macro_ page : Nat) : Nat := 8 * (32 * core + macro_) + page

/-- Key of a column-accumulator element (R249). -/
def caKey (core macro_ row col : Nat) : Nat := 64 * (32 * (32 * core + macro_) + row) + col

/-- The page-claim and macro-operand faults (R259). -/
def State.pageFault (s : State) (key page : Nat) : Flt := fltOf 0x19 (page + s.pageMask key * 256)
def macroFault (reason n : Nat) : Flt := fltOf 0x1A (reason + n * 256)

/-- Depth of a page of a format (R246). -/
def pageDepth (tag : Nat) : Nat := if tag == 1 then 128 else 256

/-! ### wload (R251) -/

/-- A byte of a T2 image with its invalid codes read as 0, and whether it held one (R21, R251). -/
def cleanT2 (b : Byte) : Byte × Bool :=
  let codes := (upTo 4).map fun i => bitsN b.toNat (2 * i) 2
  (BitVec.ofNat 8 (codes.zipIdx.foldl (fun a x => a + (if x.1 == 2 then 0 else x.1) * 4 ^ x.2) 0), codes.contains 2)

/-- wload: its pages are written when it retires. -/
def State.pageLoad (s : State) (word p a c : Nat) : Host.Outcome State Fault Refusal :=
  s.issue { word := word, legal := onMe, ssrc := [c, a], bad := 8 ≤ p, units := [p] } fun is s0 sv _ =>
    let s := s0.finishReadouts is.key
    let key := is.key
    let w := sval sv 0
    let addr := (sval sv 1).toNat
    let t2 := !bit w 11
    let n := bits w 6 5 + 1
    let first := bits w 0 5
    if !bitN (s.pageMask key) p then faultAll s is (s.pageFault key p)
    else if bits w 12 52 != 0 || bit w 5 || 32 < first + n || addr % 64 != 0 then faultAll s is (macroFault 1 p)
    else
      match s.apertureBytes key 0 addr (4096 * n) with
      | .error f => faultAll s is f
      | .ok img =>
        let clean := img.map fun b => if t2 then cleanT2 b else (b, false)
        let bytes := clean.zipIdx.map fun x => (4096 * pageKey (keyCore key) (first + x.2 / 4096) p + x.2 % 4096, x.1.1)
        let tags := (upTo n).map fun j => (pageKey (keyCore key) (first + j) p, if t2 then 0 else 1)
        let fl := flIf (clean.any (·.2)) flTINV
        let s1 := s.occupy (keyCore key) [p] (8 + 16 * n)
        { st := s1.modCtl key 0 fun x => { x with late := some (.wload bytes tags fl.toNat) }, pending := true }

/-! ### tma (R253, R254) -/

/-- State of a context's claim on the column accumulators. -/
def State.caOf (s : State) (key : Nat) : CaCtx := s.caCtx.get {} (keyCtxKey key)

/-- Format tag of a page of a macro. -/
def State.pageTag (s : State) (core macro_ page : Nat) : Nat := s.pageTags.get 0 (pageKey core macro_ page)

/-- A weight of a page: row `k`, column `c` (R247); a row beyond the page's depth is weight 0 (R253). -/
def State.weight (s : State) (core macro_ page k c : Nat) : Int :=
  let at_ (o : Nat) : Nat := (s.pages.get 0 (4096 * pageKey core macro_ page + o)).toNat
  if s.pageTag core macro_ page == 1 then
    if 128 ≤ k then 0 else signedN 4 (bitsN (at_ (32 * k + c / 2)) (4 * (c % 2)) 4)
  else if 256 ≤ k then 0 else t2Val (bitsN (at_ (16 * k + c / 4)) (2 * (c % 4)) 2)

/-- The pages of a chain with the first input of each and its depth (R253). -/
def State.chain (s : State) (core p0 np : Nat) : List (Nat × Nat × Nat) :=
  ((upTo np).foldl (fun (acc : List (Nat × Nat × Nat) × Nat) i =>
    let d := pageDepth (s.pageTag core 0 (p0 + i))
    (acc.1 ++ [(p0 + i, acc.2, d)], acc.2 + d)) ([], 0)).1

/-- Input depth of a chain. -/
def State.chainDepth (s : State) (core p0 np : Nat) : Nat :=
  (upTo np).foldl (fun k i => k + pageDepth (s.pageTag core 0 (p0 + i))) 0

/-- The exact sum that tma adds to one element (R254). -/
def State.tmaSum (s : State) (core macro_ : Nat) (pages : List (Nat × Nat × Nat)) (row : Nat → Int) (c : Nat) : Int :=
  pages.foldl (fun acc p =>
    (upTo p.2.2).foldl (fun acc k => acc + row (p.2.1 + k) * s.weight core macro_ p.1 k c) acc) 0

/-- tma: its sums are held until it retires. -/
def State.tmaOp (s : State) (word p0 np : Nat) (z u : Bool) (sa : Nat) : Host.Outcome State Fault Refusal :=
  s.issue { word := word, legal := onMe, units := 8 :: 10 :: (upTo np).map (p0 + ·) } fun is s0 _ _ =>
    let s := s0.finishReadouts is.key
    let key := is.key
    let core := keyCore key
    let x := s.shape key sa
    let missing := (upTo np).find? fun i => p0 + i < 8 && !bitN (s.pageMask key) (p0 + i)
    match missing with
    | some i => faultAll s is (s.pageFault key (p0 + i))
    | none =>
      if 8 < p0 + np then faultAll s is (macroFault 2 sa)
      else
        let k := s.chainDepth core p0 np
        let spans := (upTo x.rows).map fun m => (x.base + m * x.rpitch, k)
        if x.rows == 0 || 32 < x.rows || x.cols != k then faultAll s is (macroFault 3 sa)
        else if !z && !(s.caOf key).claimed then faultAll s is (macroFault 6 sa)
        else
          match s.footprint key spans, s.footprintPoison key spans with
          | some f, _ => faultAll s is f
          | none, some f => faultAll s is f
          | none, none =>
            let cells := (upTo 32).flatMap fun j => (upTo x.rows).flatMap fun m => (upTo 64).map fun c => (j, m, c)
            let poisoned := ((upTo 32).any fun j => (upTo np).any fun i => s.poisonPage.has (pageKey core j (p0 + i))) ||
              (!z && cells.any fun c => s.poisonCa.has (caKey core c.1 c.2.1 c.2.2))
            if poisoned then faultAll s is (fltOf 0x0B 0)
            else
              let act (m i : Nat) : Int :=
                let b := s.locRead (locKey core (x.base + m * x.rpitch + i)) 1
                if u then (b : Int) else signedN 8 b
              let pages := s.chain core p0 np
              let vals := cells.map fun c =>
                let start : Int := if z then 0 else signedN 32 (s.colAcc.get 0 (caKey core c.1 c.2.1 c.2.2)).toNat
                (caKey core c.1 c.2.1 c.2.2, start + s.tmaSum core c.1 pages (act c.2.1) c.2.2)
              let beyond := vals.any fun v => v.2 < -(2 ^ 31) || 2 ^ 31 - 1 < v.2
              let late : Late := .tma (vals.map fun v => (v.1, BitVec.ofNat 32 (wrapN 32 v.2))) z x.rows (flIf beyond flOF).toNat
              let s1 := s.occupy core (8 :: 10 :: (upTo np).map (p0 + ·)) (8 * x.rows * np)
              { st := s1.modCtl key 0 fun c => { c with late := some late }, pending := true }

/-! ### tmard (R256, R257) -/

/-- Scale of a lane of a register pair of the VE stream of the same context (R256). -/
def State.pairScale (s : State) (key half ss lane : Nat) : S20 :=
  let ve := streamKey (keyCore key) (keyCtx key) 3
  let w := (s.lget ve (2 * half + 1) lane).toNat * 2 ^ 32 + (s.lget ve (2 * half) lane).toNat
  s20Of (bitsN w (20 * ss) 20)

/-- OFMT code of an OF field (R250). -/
def tmardFmt (o : Nat) : Nat := if o == 0 then 0 else if o == 1 then 2 else if o == 2 then 1 else 5

/-- tmard: the column accumulators are read and the instruction retires. -/
def State.tmardOp (s : State) (word o ss ws as_ sd : Nat) : Host.Outcome State Fault Refusal :=
  s.issue { word := word, legal := onMe, completes := true, bad := 24 ≤ ws || 24 ≤ as_, units := [10] } fun is s0 _ _ =>
    let s := s0.finishReadouts is.key
    let key := is.key
    let core := keyCore key
    let ve := streamKey core (keyCtx key) 3
    let t := s.shape key sd
    let fmt := tmardFmt o
    let e := ofmtBytes fmt
    let spans := (upTo t.rows).map fun m => (t.base + m * t.rpitch, t.cols * e)
    if !(s.caOf key).claimed then faultAll s is (macroFault 6 sd)
    else if t.rows == 0 || 32 < t.rows || t.cols == 0 || 2048 < t.cols then faultAll s is (macroFault 4 sd)
    else if (s.caOf key).mlast < t.rows then faultAll s is (macroFault 5 sd)
    else
      match s.footprint key spans with
      | some f => faultAll s is f
      | none =>
        let cells := (upTo t.rows).flatMap fun m => (upTo t.cols).map fun n => (m, n)
        let at_ (c : Nat × Nat) : Nat := caKey core (c.2 / 64) c.1 (c.2 % 64)
        let pair (x n : Nat) : List Nat := (upTo n).flatMap fun l => [laneKey ve (2 * x) l, laneKey ve (2 * x + 1) l]
        let lanes := pair as_ t.rows ++ pair ws ((t.cols + 63) / 64)
        if (cells.any fun c => s.poisonCa.has (at_ c)) || lanes.any (s.poisonLane.has ·) then faultAll s is (fltOf 0x0B 0)
        else
          let rm := s.rmOf_ key 0
          let vals := cells.map fun c =>
            (c, readScaled fmt rm (intVal (signedN 32 (s.colAcc.get 0 (at_ c)).toNat))
                  [s.pairScale key as_ ss c.1, s.pairScale key ws ss (c.2 / 64)])
          let bytes := vals.flatMap fun v => (leBytes e v.2.1).zipIdx.map fun b =>
            (locKey core (t.base + v.1.1 * t.rpitch + v.1.2 * e + b.2), b.1)
          let fl := vals.foldl (fun f v => f ||| v.2.2) 0
          let s1 := s.occupy core [10] (16 + (t.rows * t.cols * e + 255) / 256)
          done ((s1.orFlags key 0 fl).launch (.readout { key := key, job := s.jobOf key 0, bytes := bytes, g := bitsN word 8 4 }))

/-! ### wstat (R258) -/

/-- wstat. -/
def State.macroStatus (s : State) (word d sel : Nat) : Host.Outcome State Fault Refusal :=
  s.issue { word := word, legal := onMe, sdst := [d], bad := 9 ≤ sel, units := [if sel < 8 then sel else 10] } fun is s _ _ =>
    let core := keyCore is.key
    let c := s.caOf is.key
    if sel < 8 then
      if !bitN (s.pageMask is.key) sel then faultAll s is (s.pageFault is.key sel)
      else done (s.sput is.key d (BitVec.ofNat 64 ((upTo 32).foldl (fun a j => a + s.pageTag core j sel % 2 * 2 ^ j) 0)))
    else done (s.sput is.key d (BitVec.ofNat 64 (b2n c.claimed + 2 * b2n c.lost + 256 * (c.mlast % 64))))

/-! ### Retirement (R235, R251, R254) -/

/-- Ownership of the column accumulators after a tma (R249). -/
def State.claimColumns (s : State) (key : Nat) (zero : Bool) (rows : Nat) : State :=
  let ck := keyCtxKey key
  let core := keyCore key
  let mine := (s.caCtx.get {} ck)
  if !zero then { s with caCtx := s.caCtx.put ck { mine with mlast := rows } }
  else
    let others := (upTo 4).foldl (fun t c =>
      let k := ctxKey core c
      if k == ck then t
      else
        let x : CaCtx := Tab.get {} t k
        if x.claimed then Tab.put t k { x with claimed := false, lost := true } else t) s.caCtx
    { s with caCtx := Tab.put others ck { claimed := true, mlast := rows, lost := false }
             caOwner := s.caOwner.put core (4 * s.jobOf key 0 + keyCtx key) }

/-- What an array or macro instruction writes at its retirement. -/
def State.lateWrites (s : State) (key : Nat) : Late → State
  | .array writes fl readout =>
    let s1 := writes.foldl (fun s w => { s with acc := s.acc.set 0 w.1 w.2, poisonAcc := s.poisonAcc.del w.1 }) s
    let s2 := s1.orFlags key 0 (BitVec.ofNat 7 fl)
    match readout with
    | none => s2
    | some bytes =>
      let g := (s2.ctlAt key 0).waitG
      (s2.launch (.readout { key := key, job := s2.jobOf key 0, bytes := bytes, g := g })).modCtl key 0
        fun c => { c with waitG := 0 }
  | .wload bytes tags fl =>
    let s1 := bytes.foldl (fun s b => { s with pages := s.pages.set 0 b.1 b.2 }) s
    let s2 := tags.foldl (fun s t => { s with pageTags := s.pageTags.set 0 t.1 t.2, poisonPage := s.poisonPage.del t.1 }) s1
    s2.orFlags key 0 (BitVec.ofNat 7 fl)
  | .tma writes zero rows fl =>
    let s1 := writes.foldl (fun s w => { s with colAcc := s.colAcc.set 0 w.1 w.2, poisonCa := s.poisonCa.del w.1 }) s
    (s1.claimColumns key zero rows).orFlags key 0 (BitVec.ofNat 7 fl)
  | _ => s

/-- An array or macro instruction of a matrix-engine stream retires (R78). -/
def State.retireArray (s : State) (key : Nat) : State :=
  match (s.ctlAt key 0).late with
  | some (.array w f r) => ((s.lateWrites key (.array w f r)).modCtl key 0 fun c => { c with late := none }).completeLate key 0
  | some (.wload b t f) => ((s.lateWrites key (.wload b t f)).modCtl key 0 fun c => { c with late := none }).completeLate key 0
  | some (.tma w z r f) => ((s.lateWrites key (.tma w z r f)).modCtl key 0 fun c => { c with late := none }).completeLate key 0
  | _ => s

end Sys2Proof.Machine
end

