-- ==== Sys2Proof/Machine/Matrix.lean ====
section
/-! DEFINITION. The algebra array, algebra on lanes and the weight macros (R222 to R258). -/

namespace Sys2Proof.Machine

/-- MMA (R235). Algebra matrix multiply-accumulate into an accumulator tile. -/
def execMma (m : BitVec 3) (a : BitVec 3) (e : BitVec 1) (c : BitVec 1) (s1 : BitVec 4) (z : BitVec 1) (b : BitVec 1) (t : BitVec 4) (g : BitVec 4) (s : State) : Host.Outcome State Fault Refusal :=
  s.mmaOp (0x000000E3 + put m 29 + put a 26 + put e 25 + put c 24 + put s1 20 + put z 19 + put b 18 + put t 14 + put g 8) { fmt := m.toNat, acc := a.toNat, eo := e == 1, ca := c == 1, sa := s1.toNat, z := z == 1, cb := b == 1, sb := t.toNat, pruned := false, readout := false }

/-- MMA_P24 (R236). Pruned 2-of-4 multiply-accumulate. -/
def execMmaP24 (m : BitVec 3) (a : BitVec 3) (e : BitVec 1) (c : BitVec 1) (s1 : BitVec 4) (z : BitVec 1) (b : BitVec 1) (t : BitVec 4) (g : BitVec 4) (s : State) : Host.Outcome State Fault Refusal :=
  s.mmaOp (0x000010E3 + put m 29 + put a 26 + put e 25 + put c 24 + put s1 20 + put z 19 + put b 18 + put t 14 + put g 8) { fmt := m.toNat, acc := a.toNat, eo := e == 1, ca := c == 1, sa := s1.toNat, z := z == 1, cb := b == 1, sb := t.toNat, pruned := true, readout := false }

/-- MMAR (R237). Multiply-accumulate and read out into the following shape. -/
def execMmar (m : BitVec 3) (a : BitVec 3) (e : BitVec 1) (c : BitVec 1) (s1 : BitVec 4) (z : BitVec 1) (b : BitVec 1) (t : BitVec 4) (g : BitVec 4) (s : State) : Host.Outcome State Fault Refusal :=
  s.mmaOp (0x000020E3 + put m 29 + put a 26 + put e 25 + put c 24 + put s1 20 + put z 19 + put b 18 + put t 14 + put g 8) { fmt := m.toNat, acc := a.toNat, eo := e == 1, ca := c == 1, sa := s1.toNat, z := z == 1, cb := b == 1, sb := t.toNat, pruned := false, readout := true }

/-- MMAR_P24 (R237). Pruned multiply-accumulate with readout. -/
def execMmarP24 (m : BitVec 3) (a : BitVec 3) (e : BitVec 1) (c : BitVec 1) (s1 : BitVec 4) (z : BitVec 1) (b : BitVec 1) (t : BitVec 4) (g : BitVec 4) (s : State) : Host.Outcome State Fault Refusal :=
  s.mmaOp (0x000030E3 + put m 29 + put a 26 + put e 25 + put c 24 + put s1 20 + put z 19 + put b 18 + put t 14 + put g 8) { fmt := m.toNat, acc := a.toNat, eo := e == 1, ca := c == 1, sa := s1.toNat, z := z == 1, cb := b == 1, sb := t.toNat, pruned := true, readout := true }

/-- SHP (R230). Loads a shape record into a shape register. -/
def execShp (n : BitVec 6) (y : BitVec 6) (g : BitVec 4) (s : State) : Host.Outcome State Fault Refusal :=
  s.shapeLoad (0x000000E7 + put n 26 + put y 20 + put g 8) n.toNat y.toNat

/-- ACCLD (R227). Loads an accord table image. -/
def execAccld (n : BitVec 6) (y : BitVec 6) (g : BitVec 4) (s : State) : Host.Outcome State Fault Refusal :=
  s.accordLoad (0x000010E7 + put n 26 + put y 20 + put g 8) n.toNat y.toNat

/-- ACCZERO (R232). Zeroes an accumulator tile. -/
def execAcczero (n : BitVec 6) (g : BitVec 4) (s : State) : Host.Outcome State Fault Refusal :=
  s.accZero (0x000020E7 + put n 26 + put g 8) n.toNat

/-- ACCRD (R240). Reads an accumulator tile out into a shape, optionally scaled. -/
def execAccrd (im : BitVec 1) (a : BitVec 3) (d : BitVec 4) (c : BitVec 1) (r : BitVec 5) (g : BitVec 4) (s : State) : Host.Outcome State Fault Refusal :=
  s.accRead (0x000030E7 + put im 29 + put a 26 + put d 20 + put c 19 + put r 14 + put g 8) (im == 1) a.toNat d.toNat (c == 1) r.toNat

/-- AMUL (R242). Algebra multiply on lanes under a scalar-held table. -/
def execAmul (d : BitVec 6) (a : BitVec 6) (b : BitVec 6) (g : BitVec 4) (s : State) : Host.Outcome State Fault Refusal :=
  s.laneAlgebra (0x000000EB + put d 26 + put a 20 + put b 14 + put g 8) d.toNat a.toNat b.toNat true true amulF

/-- ACONJ (R242). Algebra conjugate on lanes. -/
def execAconj (d : BitVec 6) (a : BitVec 6) (g : BitVec 4) (s : State) : Host.Outcome State Fault Refusal :=
  s.laneAlgebra (0x000010EB + put d 26 + put a 20 + put g 8) d.toNat a.toNat 0 true false aconjF

/-- ANORM (R242). Algebra norm on lanes. -/
def execAnorm (d : BitVec 6) (a : BitVec 6) (g : BitVec 4) (s : State) : Host.Outcome State Fault Refusal :=
  s.laneAlgebra (0x000020EB + put d 26 + put a 20 + put g 8) d.toNat a.toNat 0 false false anormF

/-- COMPRESS (R243). Keeps the two largest of every four lanes and writes keep masks. -/
def execCompress (d : BitVec 6) (a : BitVec 6) (f : BitVec 3) (g : BitVec 4) (s : State) : Host.Outcome State Fault Refusal :=
  s.compressOp (0x000030EB + put d 26 + put a 20 + put f 14 + put g 8) d.toNat a.toNat f.toNat

/-- WLOAD (R251). Writes page images into a page of a run of weight macros. -/
def execWload (p : BitVec 6) (a : BitVec 6) (c : BitVec 6) (g : BitVec 4) (s : State) : Host.Outcome State Fault Refusal :=
  s.pageLoad (0x000000EF + put p 26 + put a 20 + put c 14 + put g 8) p.toNat a.toNat c.toNat

/-- TMA (R254). Applies an INT8 activation tile to a chain of macro pages into column accumulators. -/
def execTma (p : BitVec 3) (n : BitVec 3) (z : BitVec 1) (u : BitVec 1) (s1 : BitVec 4) (g : BitVec 4) (s : State) : Host.Outcome State Fault Refusal :=
  s.tmaOp (0x000010EF + put p 29 + put n 26 + put z 25 + put u 24 + put s1 18 + put g 8) p.toNat (n.toNat + 1) (z == 1) (u == 1) s1.toNat

/-- TMARD (R257). Reads column accumulators out with activation and weight scales. -/
def execTmard (o : BitVec 2) (s1 : BitVec 2) (w : BitVec 5) (a : BitVec 5) (d : BitVec 4) (g : BitVec 4) (s : State) : Host.Outcome State Fault Refusal :=
  s.tmardOp (0x000020EF + put o 30 + put s1 28 + put w 23 + put a 18 + put d 14 + put g 8) o.toNat s1.toNat w.toNat a.toNat d.toNat

/-- WSTAT (R258). Returns page format tags or column-accumulator ownership status. -/
def execWstat (d : BitVec 6) (s1 : BitVec 6) (g : BitVec 4) (s : State) : Host.Outcome State Fault Refusal :=
  s.macroStatus (0x000030EF + put d 26 + put s1 20 + put g 8) d.toNat s1.toNat

end Sys2Proof.Machine
end

