-- ==== Sys2Proof/Machine/MemAcc.lean ====
section
/-! DEFINITION. Lane and scalar loads and stores (R285 to R288). -/

namespace Sys2Proof.Machine

/-- LD (R285). Contiguous per-lane load from a scalar base. -/
def execLd (d : BitVec 6) (s1 : BitVec 6) (o : BitVec 6) (z : BitVec 2) (g : BitVec 4) (s : State) : Host.Outcome State Fault Refusal :=
  s.laneLoad (0x0000009B + put d 26 + put s1 20 + put o 14 + put z 12 + put g 8) d.toNat s1.toNat o z.toNat

/-- ST (R285). Contiguous per-lane store to a scalar base. -/
def execSt (d : BitVec 6) (s1 : BitVec 6) (o : BitVec 6) (z : BitVec 2) (g : BitVec 4) (s : State) : Host.Outcome State Fault Refusal :=
  s.laneStore (0x0000009F + put d 26 + put s1 20 + put o 14 + put z 12 + put g 8) d.toNat s1.toNat o z.toNat

/-- LDG (R286). Per-lane 32-bit gather. -/
def execLdg (d : BitVec 6) (a : BitVec 6) (b : BitVec 6) (g : BitVec 4) (s : State) : Host.Outcome State Fault Refusal :=
  s.gather (0x000000A3 + put d 26 + put a 20 + put b 14 + put g 8) d.toNat a.toNat b.toNat 4

/-- STG (R286). Per-lane 32-bit scatter. -/
def execStg (d : BitVec 6) (a : BitVec 6) (b : BitVec 6) (g : BitVec 4) (s : State) : Host.Outcome State Fault Refusal :=
  s.scatter (0x000010A3 + put d 26 + put a 20 + put b 14 + put g 8) d.toNat a.toNat b.toNat 4

/-- LDG16 (R286). Per-lane 16-bit gather. -/
def execLdg16 (d : BitVec 6) (a : BitVec 6) (b : BitVec 6) (g : BitVec 4) (s : State) : Host.Outcome State Fault Refusal :=
  s.gather (0x000020A3 + put d 26 + put a 20 + put b 14 + put g 8) d.toNat a.toNat b.toNat 2

/-- STG16 (R286). Per-lane 16-bit scatter. -/
def execStg16 (d : BitVec 6) (a : BitVec 6) (b : BitVec 6) (g : BitVec 4) (s : State) : Host.Outcome State Fault Refusal :=
  s.scatter (0x000030A3 + put d 26 + put a 20 + put b 14 + put g 8) d.toNat a.toNat b.toNat 2

/-- LDS (R287). Scalar load. -/
def execLds (d : BitVec 6) (s1 : BitVec 6) (o : BitVec 6) (z : BitVec 2) (g : BitVec 4) (s : State) : Host.Outcome State Fault Refusal :=
  s.scalarLoad (0x000000A7 + put d 26 + put s1 20 + put o 14 + put z 12 + put g 8) d.toNat s1.toNat o (2 ^ z.toNat) (some .memory)

/-- STS (R287). Scalar store. -/
def execSts (d : BitVec 6) (s1 : BitVec 6) (o : BitVec 6) (z : BitVec 2) (g : BitVec 4) (s : State) : Host.Outcome State Fault Refusal :=
  s.scalarStore (0x000000AB + put d 26 + put s1 20 + put o 14 + put z 12 + put g 8) d.toNat s1.toNat o (2 ^ z.toNat) (some .memory)

/-- LDS_ACQ (R288). 64-bit scalar load with acquire at dom scope. -/
def execLdsAcq (d : BitVec 6) (s1 : BitVec 6) (o : BitVec 6) (g : BitVec 4) (s : State) : Host.Outcome State Fault Refusal :=
  s.scalarLoad (0x000000AF + put d 26 + put s1 20 + put o 14 + put g 8) d.toNat s1.toNat o 8 none

/-- STS_REL (R288). 64-bit scalar store with release at dom scope. -/
def execStsRel (d : BitVec 6) (s1 : BitVec 6) (o : BitVec 6) (g : BitVec 4) (s : State) : Host.Outcome State Fault Refusal :=
  s.scalarStore (0x000010AF + put d 26 + put s1 20 + put o 14 + put g 8) d.toNat s1.toNat o 8 none

end Sys2Proof.Machine
end

