-- ==== Sys2Proof/Machine/MemOrder.lean ====
section
/-! DEFINITION. Fences (R283, R290) and cache maintenance (R317 to R319). -/

namespace Sys2Proof.Machine

/-! ### Fences -/

/-- A fence, qsync or afence. Every access of this model but a readout is performed when its instruction issues, in one
order (log 5), so the ordering is complete once the stream's readouts are performed. -/
def State.fence (s : State) (word : Nat) (amodOk : Bool) : Host.Outcome State Fault Refusal :=
  s.issue { word := word, legal := 0x3F, atomic := amodOk, noPlace := amodOk } fun is s _ _ => done (s.finishReadouts is.key)

/-- afence (R294). -/
def State.aliasFence (s : State) (word : Nat) : Host.Outcome State Fault Refusal :=
  s.issue { word := word, legal := 0x3F } fun is s _ _ =>
    done (is.threads.foldl (fun s l => s.dropAliases (ctlKey is.key l)) (s.finishReadouts is.key))

/-! ### Cache maintenance -/

/-- Start of the page that holds an address, as the fault of a maintenance instruction names it (R318): of a page with no
leaf, of its 4 KiB granule. -/
def State.pageStart (s : State) (part va : Nat) (path : List Nat) : Nat :=
  let lg := match s.tlbLookup part va path with
    | some (_, e) => e.lg
    | none => match s.walk part va with
      | .ok e => e.lg
      | .error _ => 12
  va / 2 ^ lg * 2 ^ lg

/-- Bytes from an address to the end of its page or, where that comes first, of the translated space: the aperture begins there
(R181, R351). -/
def TlbEnt.bytesLeft (e : TlbEnt) (va : Nat) : Nat := minN (2 ^ e.lg - va % 2 ^ e.lg) (0xFFFFFFFFFF000000 - va)

/-- Where the walk of a maintenance instruction has come to: its end, a unit that is not done yet, with the bytes after it or
from it on, or a fault. -/
inductive MaintEnd where
  | done (s : State)
  | wait (s : State) (va n : Nat) (busy : Option Nat)
  | fault (s : State) (f : Flt)
deriving DecidableEq, Repr

/-- The walk of a maintenance instruction from a byte of its range on, page by page and unit by unit (R318): cinv flushes a unit
that lies only partly in the range. Aperture addresses and pages that are not normal cached are skipped (R317). What a turn
leaves, the next goes on with. -/
def State.maintWalk (s : State) (op : HomeKind) (part : Nat) (path : Nat → List Nat) : Nat → Nat → Nat → MaintEnd
  | 0, va, n => .wait s va n none
  | fuel + 1, va, n =>
    if n == 0 then .done s
    else if inAperture va then s.maintWalk op part path fuel 0 (n - (2 ^ 64 - va))
    else
      match s.reach part (path va) true (if op = .inv then .write else .read) va with
      | .error f => .fault (s.walkKept part (path va) va) { f with info := BitVec.ofNat 64 (s.pageStart part va (path va)) }
      | .ok (s1, e) =>
        let k := minN n (e.bytesLeft va)
        let grain := bitsN e.bits 8 2
        let u := unitBytes grain
        let pa := e.ppage * 2 ^ e.lg + va % 2 ^ e.lg
        match (if bitsN e.bits 10 2 != 0 then none else s1.nextUnit (pa / u * u) (pa + k - pa / u * u) grain) with
        | none => s1.maintWalk op part path fuel ((va + k) % 2 ^ 64) (n - k)
        | some a =>
          let skip := a - pa
          let left := n - skip
          let whole := a == pa + skip && u ≤ left
          let len := minN left (a + u - (pa + skip))
          match s1.maintUnit (if op = .inv && !whole then .flush else op) part a grain with
          | .done s2 => s2.maintWalk op part path fuel ((va + skip + len) % 2 ^ 64) (left - len)
          | .wait s2 => .wait s2 (va + skip) left none
          | .begun s2 id => .wait s2 ((va + skip + len) % 2 ^ 64) (left - len) (some id)

/-- Steps of a walk that one turn makes. -/
def walkSteps : Nat := 256

/-- The walk of a stream's or thread's instruction. -/
def State.maintOf (s : State) (key lane : Nat) (op : HomeKind) (va n : Nat) : MaintEnd :=
  s.maintWalk op (s.partOf key lane) (tlbPath key false) walkSteps va n

/-- cclean, cflush and cinv (R318): units that are not done when the walk has been begun stall the stream or the issuing threads
at retirement. -/
def State.maintenance (s : State) (word n a : Nat) (op : HomeKind) : Host.Outcome State Fault Refusal :=
  s.issue { word := word, legal := 0x3F, ssrc := [n, a] } fun is s sv _ =>
    let len := (sval sv 0).toNat
    let l0 := is.threads.headD 0
    if 2 ^ 38 ≤ len then { st := s, faults := is.threads.map (·, fltOf 0x0D 1) }
    else
      match s.maintOf is.key l0 op (sval sv 1).toNat len with
      | .done s1 => done s1
      | .fault s1 f => { st := s1, faults := is.threads.map (·, f), keep := true }
      | .wait s1 va left busy =>
        { st := is.threads.foldl (fun s l => s.modCtl is.key l fun c =>
            { c with late := some (if l == l0 then .maint op va left busy else .follow l0), ceded := true }) s1,
          held := is.threads, pending := true }

/-- The threads that an instruction of a lane stalls at retirement: its own, and those that issued with it. -/
def State.withLead (s : State) (key lane : Nat) : List Nat :=
  if isWave key then (upTo 32).filter fun l => l == lane || (s.ctlAt key l).late == some (.follow lane) else [0]

/-- The instruction that stalls a stream or threads at retirement is done: they move on (R318). -/
def State.maintDone (s : State) (key lane : Nat) : State :=
  (s.withLead key lane).foldl (fun s l => (s.modCtl key l fun c => { c with late := none }).completeLate key l) s

/-- A fault of the walk: precise, whatever units are done (R318). What the instruction popped goes back. -/
def State.maintFault (s : State) (key lane : Nat) (f : Flt) : State :=
  (s.withLead key lane).foldl (fun s l => s.takeFault key l f) (if isWave key then s else s.unpop key)

/-- A stream or thread stalled at the retirement of a maintenance instruction goes on with it, where the unit that it waits for is
done (R318). -/
def State.maintTurn (s : State) (key lane : Nat) : State :=
  match (s.ctlAt key lane).late with
  | some (.maint op va n busy) =>
    if busy.any s.flights.has then s
    else
      match s.maintOf key lane op va n with
      | .done s1 => s1.maintDone key lane
      | .fault s1 f => s1.maintFault key lane f
      | .wait s1 va1 n1 b => s1.modCtl key lane fun c => { c with late := some (.maint op va1 n1 b) }
  | _ => s

/-- The units of a stretch requested by a prefetch: shared copies for a caching agent, slice fills for the others
(R318). -/
def State.prefetchUnits (s : State) (agent grain part : Nat) (slot : Option Nat) : Nat → Nat → Nat → State
  | 0, _, _ => s
  | fuel + 1, pa, n =>
    let u := unitBytes grain
    let k := minN n (u - pa % u)
    if n == 0 then s
    else
      let s1 := if agent < 31 then s.cacheAccess agent pa grain part slot false none
                else s.unitFromSlice part slot (unitOf grain pa) grain
      s1.prefetchUnits agent grain part slot fuel (pa + k) (n - k)

/-- The walk of a prefetch, which skips what it may not read (R318). -/
def State.prefetchRange (s : State) (agent part : Nat) (slot : Option Nat) (path : Nat → List Nat) : Nat → Nat → Nat → State
  | 0, _, _ => s
  | fuel + 1, va, n =>
    if n == 0 then s
    else if inAperture va then s.prefetchRange agent part slot path fuel 0 (n - (2 ^ 64 - va))
    else
      match s.reach part (path va) true .read va with
      | .error _ =>
        let k := minN n (4096 - va % 4096)
        (s.walkKept part (path va) va).prefetchRange agent part slot path fuel ((va + k) % 2 ^ 64) (n - k)
      | .ok (s1, e) =>
        let k := minN n (e.bytesLeft va)
        let s2 :=
          if bitsN e.bits 10 2 != 0 then s1
          else s1.prefetchUnits agent (bitsN e.bits 8 2) part slot 1025 (e.ppage * 2 ^ e.lg + va % 2 ^ e.lg) k
        s2.prefetchRange agent part slot path fuel ((va + k) % 2 ^ 64) (n - k)

/-- prefetch (R318): at most the first 64 KiB. -/
def State.prefetch (s : State) (word n a : Nat) : Host.Outcome State Fault Refusal :=
  s.issue { word := word, legal := 0x3F, ssrc := [n, a] } fun is s sv _ =>
    let l0 := is.threads.headD 0
    done (s.prefetchRange (agentOfKey is.key) (s.partOf is.key l0) (some (s.jobOf is.key l0)) (tlbPath is.key false) 20
      (sval sv 1).toNat (minN (sval sv 0).toNat 65536))

end Sys2Proof.Machine
end

