-- ==== Sys2Proof/Machine/Order.lean ====
section
/-! DEFINITION. Fences and cache maintenance (R282, R283, R290, R294, R317, R318). -/

namespace Sys2Proof.Machine

/-- FENCE_ACQ (R283). Acquire fence at the named scope. -/
def execFenceAcq (s1 : BitVec 2) (g : BitVec 4) (s : State) : Host.Outcome State Fault Refusal :=
  s.fence (0x000000B3 + put s1 12 + put g 8) true

/-- FENCE_REL (R283). Release fence at the named scope. -/
def execFenceRel (s1 : BitVec 2) (g : BitVec 4) (s : State) : Host.Outcome State Fault Refusal :=
  s.fence (0x000040B3 + put s1 12 + put g 8) true

/-- FENCE_AR (R283). Acquire-release fence at the named scope. -/
def execFenceAr (s1 : BitVec 2) (g : BitVec 4) (s : State) : Host.Outcome State Fault Refusal :=
  s.fence (0x000080B3 + put s1 12 + put g 8) true

/-- FENCE_SC (R283). Sequentially consistent fence at the named scope. -/
def execFenceSc (s1 : BitVec 2) (g : BitVec 4) (s : State) : Host.Outcome State Fault Refusal :=
  s.fence (0x0000C0B3 + put s1 12 + put g 8) true

/-- QSYNC (R282). Orders every pair of the agent's plain accesses and atomics, without scope. -/
def execQsync (g : BitVec 4) (s : State) : Host.Outcome State Fault Refusal :=
  s.fence (0x000100B3 + put g 8) false

/-- AFENCE (R294). Orders accesses across aliases of the agent. -/
def execAfence (g : BitVec 4) (s : State) : Host.Outcome State Fault Refusal :=
  s.aliasFence (0x000110B3 + put g 8)

/-- CCLEAN (R318). Writes dirty data of a range back to memory unit by unit. -/
def execCclean (n : BitVec 6) (a : BitVec 6) (g : BitVec 4) (s : State) : Host.Outcome State Fault Refusal :=
  s.maintenance (0x000120B3 + put n 26 + put a 20 + put g 8) n.toNat a.toNat .clean

/-- CFLUSH (R318). Cleans and invalidates every copy of a range. -/
def execCflush (n : BitVec 6) (a : BitVec 6) (g : BitVec 4) (s : State) : Host.Outcome State Fault Refusal :=
  s.maintenance (0x000130B3 + put n 26 + put a 20 + put g 8) n.toNat a.toNat .flush

/-- CINV (R318). Invalidates a range, discarding dirty data of whole units. -/
def execCinv (n : BitVec 6) (a : BitVec 6) (g : BitVec 4) (s : State) : Host.Outcome State Fault Refusal :=
  s.maintenance (0x000140B3 + put n 26 + put a 20 + put g 8) n.toNat a.toNat .inv

/-- PREFETCH (R318). Requests shared copies or slice fills for up to 64 KiB of a range. -/
def execPrefetch (n : BitVec 6) (a : BitVec 6) (g : BitVec 4) (s : State) : Host.Outcome State Fault Refusal :=
  s.prefetch (0x000150B3 + put n 26 + put a 20 + put g 8) n.toNat a.toNat

end Sys2Proof.Machine
end

