-- ==== Sys2Proof/Machine/Rings.lean ====
section
/-! DEFINITION. Ring instructions (R187 to R197). -/

namespace Sys2Proof.Machine

/-- RCLAIM (R189). Claims the next free slot of a tile-class ring. -/
def execRclaim (x : BitVec 6) (n : BitVec 6) (g : BitVec 4) (s : State) : Host.Outcome State Fault Refusal :=
  s.ringClaim (0x000000DB + put x 26 + put n 20 + put g 8) x.toNat n.toNat

/-- RFILL (R189). Marks a filling slot FULL as a release. -/
def execRfill (x : BitVec 6) (n : BitVec 6) (g : BitVec 4) (s : State) : Host.Outcome State Fault Refusal :=
  s.ringFill (0x000010DB + put x 26 + put n 20 + put g 8) x.toNat n.toNat

/-- RWAITF (R191). Blocking wait for the next slot in order to be FULL, then takes it. -/
def execRwaitf (x : BitVec 6) (n : BitVec 6) (g : BitVec 4) (s : State) : Host.Outcome State Fault Refusal :=
  s.ringTake (0x000020DB + put x 26 + put n 20 + put g 8) x.toNat n.toNat

/-- RWAITE (R189). Blocking wait until the ring has a free slot. -/
def execRwaite (n : BitVec 6) (g : BitVec 4) (s : State) : Host.Outcome State Fault Refusal :=
  s.ringRoom (0x000030DB + put n 20 + put g 8) n.toNat

/-- RFREE (R191). Frees a draining slot and advances the head over freed slots. -/
def execRfree (x : BitVec 6) (n : BitVec 6) (g : BitVec 4) (s : State) : Host.Outcome State Fault Refusal :=
  s.ringFree (0x000000DF + put x 26 + put n 20 + put g 8) x.toNat n.toNat

/-- RBIND (R193). Binds a VE ring-stream register to a ring. -/
def execRbind (k : BitVec 6) (a : BitVec 6) (g : BitVec 4) (s : State) : Host.Outcome State Fault Refusal :=
  s.ringBind (0x000010DF + put k 26 + put a 20 + put g 8) k.toNat a.toNat

/-- RPUSH (R195). Sends bytes to up to 16 rings on this or other cores. -/
def execRpush (s1 : BitVec 6) (p : BitVec 6) (g : BitVec 4) (s : State) : Host.Outcome State Fault Refusal :=
  s.ringPush (0x000020DF + put s1 26 + put p 20 + put g 8) s1.toNat p.toNat

/-- RINIT (R192). Claims, replaces or yields a ring from a control block. -/
def execRinit (a : BitVec 6) (n : BitVec 6) (g : BitVec 4) (s : State) : Host.Outcome State Fault Refusal :=
  s.ringInit (0x000030DF + put a 26 + put n 20 + put g 8) a.toNat n.toNat

end Sys2Proof.Machine
end

