-- ==== Sys2Proof/Machine/RouteOps.lean ====
section
/-! DEFINITION. Route ports, route, rret and rasm (R261 to R277). -/

namespace Sys2Proof.Machine

/-- Where the route instructions are legal: CE, LE and SE (R49). -/
def onRoute : Nat := 0x13

/-! ### Ports and the keyway (R261 to R263) -/

/-- A registered port of the gang of a stream. -/
def State.portAt (s : State) (key p : Nat) : Option Port := (s.slotAt (s.jobOf key 0)).ports.find p

/-- An instruction that has issued and retires when every core's table holds the new value (R263). -/
def State.portLate (s : State) (key : Nat) (l : Late) : Eff :=
  { st := s.modCtl key 0 fun c => { c with late := some l }, pending := true }

/-- Whether a port descriptor is valid (R263). -/
def portDescOk (b : List Byte) : Bool :=
  let f (o n : Nat) : Nat := leNat ((b.drop o).take n)
  f 1 1 < 32 && f 2 1 < 4 && 1 ≤ f 4 2 && f 4 2 ≤ 256 && (b.drop 6).all (· == 0)

/-- rport. -/
def State.portSet (s : State) (word y : Nat) : Host.Outcome State Fault Refusal :=
  s.issue { word := word, legal := onRoute, ssrc := [y] } fun is s0 sv _ =>
    let s := s0.finishReadouts is.key
    let core := keyCore is.key
    let slot := s.jobOf is.key 0
    let addr := (sval sv 0).toNat
    if addr % 64 != 0 then faultAll s is (routeFault is.key 7 0 0 0)
    else
      match s.apertureBytes is.key 0 addr 64 with
      | .error f => faultAll s is f
      | .ok b =>
        let f (o n : Nat) : Nat := leNat ((b.drop o).take n)
        let p := f 0 1
        let ring := s.ringAt core (f 1 1)
        if !portDescOk b || ring.holder != some slot then faultAll s is (routeFault is.key 7 p 0 0)
        else if (s.portAt is.key p).any fun x => x.core != core then faultAll s is (routeFault is.key 8 p 0 0)
        else
          let policy := if f 2 1 == 3 then bitsN (cardPolicy (s.slotAt slot).card) 4 2 else f 2 1
          s.portLate is.key (.port p (some
            { core := core, ring := f 1 1, gen := ring.gen, cap := f 4 2, policy := policy, spill := f 3 1 }))

/-- rport.key. -/
def State.portKeyway (s : State) (word y : Nat) : Host.Outcome State Fault Refusal :=
  s.issue { word := word, legal := onRoute, ssrc := [y] } fun is s0 sv _ =>
    let s := s0.finishReadouts is.key
    match s.apertureBytes is.key 0 (sval sv 0).toNat 512 with
    | .error f => faultAll s is f
    | .ok b =>
      let image := (upTo 256).map fun v => leNat ((b.drop (2 * v)).take 2)
      if image.any fun w => bitsN w 8 7 != 0 then faultAll s is (routeFault is.key 9 0 0 0)
      else s.portLate is.key (.keyway image)

/-- rport.rel. -/
def State.portRelease (s : State) (word y : Nat) : Host.Outcome State Fault Refusal :=
  s.issue { word := word, legal := onRoute, ssrc := [y] } fun is s sv _ =>
    let v := sval sv 0
    let p := bits v 0 8
    if bits v 8 56 != 0 || !((s.portAt is.key p).any fun x => x.core == keyCore is.key) then
      faultAll s is (routeFault is.key 8 p 0 0)
    else s.portLate is.key (.port p none)

/-- An rport, rport.key or rport.rel retires: the gang's table holds the new value (R263). -/
def State.retirePort (s : State) (key : Nat) : State :=
  let slot := s.jobOf key 0
  let retired (s : State) : State := (s.modCtl key 0 fun c => { c with late := none }).completeLate key 0
  match (s.ctlAt key 0).late with
  | some (.port n (some p)) => retired (s.modSlot slot fun x => { x with ports := x.ports.put n p })
  | some (.port n none) => retired (s.modSlot slot fun x => { x with ports := x.ports.del n })
  | some (.keyway image) =>
    retired (s.modSlot slot fun x => { x with keyway := (image.zipIdx.filter (·.1 != 0)).map fun e => (e.2, e.1) })
  | _ => s

/-! ### route (R264 to R267) -/

/-- The state of an assignment: units used of each port, each row-choice's fate with the port and whether it was spilled,
in assignment order, and the first failure: reason, port, row and choice. -/
structure Assign where
  used : Tab Nat := []
  sent : List (Nat × Nat × Nat × Bool) := []
  dropped : List (Nat × Nat) := []
  fail : Option (Nat × Nat × Nat × Nat) := none
deriving DecidableEq, Repr

/-- The port that a vector entry leads to, or the port number of reason 3 (R265 order 6). -/
def routePort (keyway : Tab Nat) (ports : Tab Port) (entry : Nat) : Except Nat (Nat × Port) :=
  if bitsN entry 8 24 != 0 then .error 0
  else
    let k := keyway.get 0 (entry % 256)
    if !bitN k 15 then .error 0
    else
      match ports.find (k % 256) with
      | none => .error (k % 256)
      | some p => .ok (k % 256, p)

/-- One row-choice assigned (R266). -/
def Assign.step (keyway : Tab Nat) (ports : Tab Port) (vec : List Nat) (k : Nat) (a : Assign) (rc : Nat × Nat) : Assign :=
  let (r, c) := rc
  if a.fail.isSome then a
  else
    match routePort keyway ports (vec.getD (r * k + c) 0) with
    | .error _ => a
    | .ok (n, p) =>
      let send (n : Nat) (spilled : Bool) : Assign :=
        { a with used := a.used.put n (a.used.get 0 n + 1), sent := a.sent ++ [(r, c, n, spilled)] }
      let drop : Assign := { a with dropped := a.dropped ++ [(r, c)] }
      if a.used.get 0 n < p.cap then send n false
      else if p.policy == 1 then
        match ports.find p.spill with
        | some q => if a.used.get 0 p.spill < q.cap then send p.spill true else drop
        | none => drop
      else if p.policy == 2 then { a with fail := some (4, n, r, c) }
      else drop

/-- Row-choices in the order of R266: choice outer, row inner. -/
def routeOrder (rows k : Nat) : List (Nat × Nat) := (upTo k).flatMap fun c => (upTo rows).map fun r => (r, c)

/-- The first vector entry that leads nowhere, in assignment order: port, row and choice (R265 order 6). -/
def routeStray (keyway : Tab Nat) (ports : Tab Port) (vec : List Nat) (rows k : Nat) : Option (Nat × Nat × Nat) :=
  (routeOrder rows k).findSome? fun rc =>
    match routePort keyway ports (vec.getD (rc.1 * k + rc.2) 0) with
    | .error p => some (p, rc.1, rc.2)
    | .ok _ => none

/-- The assignment of a whole route (R266). -/
def routeAssign (keyway : Tab Nat) (ports : Tab Port) (vec : List Nat) (rows k : Nat) : Assign :=
  (routeOrder rows k).foldl (Assign.step keyway ports vec k) {}

/-- The header of a delivered element (R267). -/
def routeHeader (origin : Nat) (d : RouteDesc) (seq row choice port weight : Nat) (spilled : Bool) : List Byte :=
  [BitVec.ofNat 8 origin, BitVec.ofNat 8 d.rte, BitVec.ofNat 8 row, BitVec.ofNat 8 (choice + b2n spilled * 128)] ++
  leBytes 2 seq ++ [BitVec.ofNat 8 port, 0] ++ leBytes 4 weight ++ leBytes 2 d.inlen ++ leBytes 2 d.outlen

/-- Offsets and lengths of the ranges of a route (R265 order 4). -/
def RouteDesc.spans (d : RouteDesc) : List (Nat × Nat) :=
  ((upTo d.rows).map fun r => (d.src + r * d.spitch, d.inlen)) ++ [(d.rvec, d.rows * d.k * 8)] ++
  ((upTo d.rows).flatMap fun r => (upTo d.k).map fun c => (d.slotOff r c, d.outlen)) ++
  ((upTo d.rows).map fun r => (d.out + r * d.opitch, d.outlen)) ++ [(d.dmap, (d.rows + 1) / 2)]

/-- A route that has passed every check: its entry becomes ACTIVE and its deliveries leave in assignment order (R266,
R267). -/
def State.startRoute (s : State) (key variant g : Nat) (b : List Byte) (vec : List Nat) (a : Assign) : State :=
  let core := keyCore key
  let slot := s.jobOf key 0
  let d := routeDesc b
  let seq := ((s.rteAt core d.rte).seq + 1) % 2 ^ 16
  let fate := (upTo (d.rows * d.k)).map fun i => if a.dropped.contains (i / d.k, i % d.k) then 3 else 1
  let s1 := s.setRte core d.rte
    { state := 1, job := slot, seq := seq, deadline := s.ns + d.timeout, key := key, desc := b, vec := vec,
      variant := variant, rm := bits (s.ctlAt key 0).fmode 0 2, g := g, fate := fate,
      rowsDone := List.replicate d.rows false, spilled := (a.sent.filter fun x => x.2.2.2).length }
  let s2 := a.sent.foldl (fun (s : State) x =>
    let (r, c, n, spilled) := x
    match (s.slotAt slot).ports.find n with
    | none => s
    | some p =>
      let bytes := s.locBytes (locKey core (d.src + r * d.spitch)) d.inlen
      s.launch (.delivery
        { key := key, job := slot, source := .route core d.rte seq r c, core := p.core, ring := p.ring, gen := p.gen,
          head := routeHeader core d seq r c n (bitsN (vec.getD (r * d.k + c) 0) 32 32) spilled ++ bytes })) s1
  s2.progressRte core d.rte

/-- route. Its source bytes are read at issue (log 21). -/
def State.routeOp (s : State) (word variant y : Nat) : Host.Outcome State Fault Refusal :=
  s.issue { word := word, legal := onRoute, ssrc := [y], completes := true, bad := 3 ≤ variant } fun is s0 sv _ =>
    let s := s0.finishReadouts is.key
    let key := is.key
    let core := keyCore key
    let addr := (sval sv 0).toNat
    if addr % 64 != 0 then faultAll s is (routeFault key 1 0 0 0)
    else
      match s.apertureBytes key 0 addr 64 with
      | .error f => faultAll s is f
      | .ok b =>
        let d := routeDesc b
        if !routeDescOk variant b then faultAll s is (routeFault key 1 0 0 0)
        else
          match s.footprint key d.spans with
          | some f => faultAll s is f
          | none =>
            if (s.rteAt core d.rte).state != 0 then faultAll s is (routeFault key 2 d.rte 0 0)
            else
              match s.footprintPoison key
                (((upTo d.rows).map fun r => (d.src + r * d.spitch, d.inlen)) ++ [(d.rvec, d.rows * d.k * 8)]) with
              | some f => faultAll s is f
              | none =>
                let x := s.slotAt (s.jobOf key 0)
                let vec := (upTo (d.rows * d.k)).map fun i => s.locRead (locKey core (d.rvec + 8 * i)) 8
                match routeStray x.keyway x.ports vec d.rows d.k with
                | some (p, r, c) => faultAll s is (routeFault key 3 p r c)
                | none =>
                  let a := routeAssign x.keyway x.ports vec d.rows d.k
                  match a.fail with
                  | some (reason, p, r, c) => faultAll s is (routeFault key reason p r c)
                  | none =>
                    if 32 ≤ s.commandsOut key then { st := s, needs := [.copySlot] }
                    else done (s.startRoute key variant (if keyEng key == 0 then 0 else bitsN word 8 4) b vec a)

/-! ### rret and rasm (R268, R273) -/

/-- Whether a delivered header is one that rret takes (R268). -/
def routeHeaderOk (cores : List Nat) (b : List Byte) : Bool :=
  let f (o n : Nat) : Nat := leNat ((b.drop o).take n)
  cores.contains (f 0 1) && f 1 1 < 64 && bitsN (f 3 1) 2 5 == 0 && 1 ≤ f 0x0E 2 && f 0x0E 2 ≤ 4096

/-- rret. The returned bytes are read at issue (log 21). -/
def State.routeReturn (s : State) (word x y : Nat) : Host.Outcome State Fault Refusal :=
  s.issue { word := word, legal := onRoute, ssrc := [y, x], completes := true } fun is s0 sv _ =>
    let s := s0.finishReadouts is.key
    let key := is.key
    let slot := s.jobOf key 0
    let head := (sval sv 0).toNat
    if head % 16 != 0 then faultAll s is (routeFault key 6 0 0 0)
    else
      match s.apertureBytes key 0 head 16 with
      | .error f => faultAll s is f
      | .ok b =>
        let f (o n : Nat) : Nat := leNat ((b.drop o).take n)
        if !routeHeaderOk (s.slotAt slot).cores b then faultAll s is (routeFault key 6 0 0 0)
        else
          match s.apertureBytes key 0 (sval sv 1).toNat (f 0x0E 2) with
          | .error e => faultAll s is e
          | .ok bytes =>
            if 32 ≤ s.commandsOut key then { st := s, needs := [.copySlot] }
            else
              done (s.launch (.ret
                { key := key, job := slot, origin := f 0 1, rte := f 1 1, seq := f 4 2, row := f 2 1,
                  choice := bitsN (f 3 1) 0 2, bytes := bytes, g := if keyEng key == 0 then 0 else bitsN word 8 4 }))

/-- rasm. -/
def State.routeWait (s : State) (word d n : Nat) : Host.Outcome State Fault Refusal :=
  s.issue { waitOp word onRoute with sdst := [d] } fun is s _ _ =>
    let r := s.rteAt (keyCore is.key) n
    if r.state == 0 || r.job != s.jobOf is.key 0 then faultAll s is (routeFault is.key 5 n 0 0)
    else s.block is fun _ => .rasm n d

end Sys2Proof.Machine
end

