-- ==== Sys2Proof/Machine/Routes.lean ====
section
/-! DEFINITION. Route instructions (R261 to R273). -/

namespace Sys2Proof.Machine

/-- ROUTE (R266). Assigns row-choices to ports under capacity and sends deliveries, claiming a reassembly entry. -/
def execRoute (v : BitVec 6) (y : BitVec 6) (g : BitVec 4) (s : State) : Host.Outcome State Fault Refusal :=
  s.routeOp (0x000000F3 + put v 26 + put y 20 + put g 8) v.toNat y.toNat

/-- RRET (R268). Returns data for a delivered row-choice to its origin. -/
def execRret (s1 : BitVec 6) (h : BitVec 6) (g : BitVec 4) (s : State) : Host.Outcome State Fault Refusal :=
  s.routeReturn (0x000010F3 + put s1 26 + put h 20 + put g 8) s1.toNat h.toNat

/-- RASM (R273). Blocking wait for a reassembly entry to be DONE, then takes its status and frees it. -/
def execRasm (d : BitVec 6) (n : BitVec 6) (g : BitVec 4) (s : State) : Host.Outcome State Fault Refusal :=
  s.routeWait (0x000020F3 + put d 26 + put n 20 + put g 8) d.toNat n.toNat

/-- RPORT (R263). Registers a port from a descriptor. -/
def execRport (y : BitVec 6) (g : BitVec 4) (s : State) : Host.Outcome State Fault Refusal :=
  s.portSet (0x000030F3 + put y 20 + put g 8) y.toNat

/-- RPORT_KEY (R263). Loads the gang keyway from an image. -/
def execRportKey (y : BitVec 6) (g : BitVec 4) (s : State) : Host.Outcome State Fault Refusal :=
  s.portKeyway (0x040030F3 + put y 20 + put g 8) y.toNat

/-- RPORT_REL (R263). Unregisters a port registered from this core. -/
def execRportRel (y : BitVec 6) (g : BitVec 4) (s : State) : Host.Outcome State Fault Refusal :=
  s.portRelease (0x080030F3 + put y 20 + put g 8) y.toNat

end Sys2Proof.Machine
end

