-- ==== Sys2Proof/Machine/Scalar.lean ====
section
/-! DEFINITION. The scalar integer instructions (R161 to R165). -/

namespace Sys2Proof.Machine

/-- ADD (R161). Scalar add modulo 2^64. -/
def execAdd (d : BitVec 6) (a : BitVec 6) (b : BitVec 6) (g : BitVec 4) (s : State) : Host.Outcome State Fault Refusal :=
  s.scalar2 (0x00000023 + put d 26 + put a 20 + put b 14 + put g 8) 2 d.toNat a.toNat b.toNat .add (fun x y => x + y)

/-- SUB (R161). Scalar subtract. -/
def execSub (d : BitVec 6) (a : BitVec 6) (b : BitVec 6) (g : BitVec 4) (s : State) : Host.Outcome State Fault Refusal :=
  s.scalar2 (0x00001023 + put d 26 + put a 20 + put b 14 + put g 8) 2 d.toNat a.toNat b.toNat .sub (fun x y => x - y)

/-- AND (R161). Scalar bitwise and. -/
def execAnd (d : BitVec 6) (a : BitVec 6) (b : BitVec 6) (g : BitVec 4) (s : State) : Host.Outcome State Fault Refusal :=
  s.scalar2 (0x00002023 + put d 26 + put a 20 + put b 14 + put g 8) 2 d.toNat a.toNat b.toNat .pin (fun x y => x &&& y)

/-- OR (R161). Scalar bitwise or. -/
def execOr (d : BitVec 6) (a : BitVec 6) (b : BitVec 6) (g : BitVec 4) (s : State) : Host.Outcome State Fault Refusal :=
  s.scalar2 (0x00003023 + put d 26 + put a 20 + put b 14 + put g 8) 2 d.toNat a.toNat b.toNat .pin (fun x y => x ||| y)

/-- XOR (R161). Scalar bitwise xor. -/
def execXor (d : BitVec 6) (a : BitVec 6) (b : BitVec 6) (g : BitVec 4) (s : State) : Host.Outcome State Fault Refusal :=
  s.scalar2 (0x00000027 + put d 26 + put a 20 + put b 14 + put g 8) 2 d.toNat a.toNat b.toNat .pin (fun x y => x ^^^ y)

/-- SHL (R161). Scalar shift left. -/
def execShl (d : BitVec 6) (a : BitVec 6) (b : BitVec 6) (g : BitVec 4) (s : State) : Host.Outcome State Fault Refusal :=
  s.scalar2 (0x00001027 + put d 26 + put a 20 + put b 14 + put g 8) 2 d.toNat a.toNat b.toNat .pin shlV

/-- SHR (R161). Scalar logical shift right. -/
def execShr (d : BitVec 6) (a : BitVec 6) (b : BitVec 6) (g : BitVec 4) (s : State) : Host.Outcome State Fault Refusal :=
  s.scalar2 (0x00002027 + put d 26 + put a 20 + put b 14 + put g 8) 2 d.toNat a.toNat b.toNat .pin shrV

/-- SRA (R161). Scalar arithmetic shift right. -/
def execSra (d : BitVec 6) (a : BitVec 6) (b : BitVec 6) (g : BitVec 4) (s : State) : Host.Outcome State Fault Refusal :=
  s.scalar2 (0x00003027 + put d 26 + put a 20 + put b 14 + put g 8) 2 d.toNat a.toNat b.toNat .pin sraV

/-- MUL (R161). Scalar multiply, low 64 bits. -/
def execMul (d : BitVec 6) (a : BitVec 6) (b : BitVec 6) (g : BitVec 4) (s : State) : Host.Outcome State Fault Refusal :=
  s.scalar2 (0x0000002B + put d 26 + put a 20 + put b 14 + put g 8) 2 d.toNat a.toNat b.toNat .pin (fun x y => x * y)

/-- MULH (R161). Scalar signed multiply, high 64 bits. -/
def execMulh (d : BitVec 6) (a : BitVec 6) (b : BitVec 6) (g : BitVec 4) (s : State) : Host.Outcome State Fault Refusal :=
  s.scalar2 (0x0000102B + put d 26 + put a 20 + put b 14 + put g 8) 2 d.toNat a.toNat b.toNat .pin mulHS

/-- MULHU (R161). Scalar unsigned multiply, high 64 bits. -/
def execMulhu (d : BitVec 6) (a : BitVec 6) (b : BitVec 6) (g : BitVec 4) (s : State) : Host.Outcome State Fault Refusal :=
  s.scalar2 (0x0000202B + put d 26 + put a 20 + put b 14 + put g 8) 2 d.toNat a.toNat b.toNat .pin mulHU

/-- MAD (R161). Scalar multiply-add into the destination. -/
def execMad (d : BitVec 6) (a : BitVec 6) (b : BitVec 6) (g : BitVec 4) (s : State) : Host.Outcome State Fault Refusal :=
  s.scalar3 (0x0000302B + put d 26 + put a 20 + put b 14 + put g 8) 2 d.toNat a.toNat b.toNat (fun x y z => x * y + z)

/-- MIN (R161). Scalar signed minimum. -/
def execMin (d : BitVec 6) (a : BitVec 6) (b : BitVec 6) (g : BitVec 4) (s : State) : Host.Outcome State Fault Refusal :=
  s.scalar2 (0x0000002F + put d 26 + put a 20 + put b 14 + put g 8) 2 d.toNat a.toNat b.toNat .pin minS

/-- MAX (R161). Scalar signed maximum. -/
def execMax (d : BitVec 6) (a : BitVec 6) (b : BitVec 6) (g : BitVec 4) (s : State) : Host.Outcome State Fault Refusal :=
  s.scalar2 (0x0000102F + put d 26 + put a 20 + put b 14 + put g 8) 2 d.toNat a.toNat b.toNat .pin maxS

/-- MINU (R161). Scalar unsigned minimum. -/
def execMinu (d : BitVec 6) (a : BitVec 6) (b : BitVec 6) (g : BitVec 4) (s : State) : Host.Outcome State Fault Refusal :=
  s.scalar2 (0x0000202F + put d 26 + put a 20 + put b 14 + put g 8) 2 d.toNat a.toNat b.toNat .pin minU

/-- MAXU (R161). Scalar unsigned maximum. -/
def execMaxu (d : BitVec 6) (a : BitVec 6) (b : BitVec 6) (g : BitVec 4) (s : State) : Host.Outcome State Fault Refusal :=
  s.scalar2 (0x0000302F + put d 26 + put a 20 + put b 14 + put g 8) 2 d.toNat a.toNat b.toNat .pin maxU

/-- DIV (R162). Scalar signed division, never faulting. -/
def execDiv (d : BitVec 6) (a : BitVec 6) (b : BitVec 6) (g : BitVec 4) (s : State) : Host.Outcome State Fault Refusal :=
  s.scalar2 (0x00000033 + put d 26 + put a 20 + put b 14 + put g 8) 2 d.toNat a.toNat b.toNat .pin divS

/-- DIVU (R162). Scalar unsigned division. -/
def execDivu (d : BitVec 6) (a : BitVec 6) (b : BitVec 6) (g : BitVec 4) (s : State) : Host.Outcome State Fault Refusal :=
  s.scalar2 (0x00001033 + put d 26 + put a 20 + put b 14 + put g 8) 2 d.toNat a.toNat b.toNat .pin divU

/-- REM (R162). Scalar signed remainder. -/
def execRem (d : BitVec 6) (a : BitVec 6) (b : BitVec 6) (g : BitVec 4) (s : State) : Host.Outcome State Fault Refusal :=
  s.scalar2 (0x00002033 + put d 26 + put a 20 + put b 14 + put g 8) 2 d.toNat a.toNat b.toNat .pin remS

/-- REMU (R162). Scalar unsigned remainder. -/
def execRemu (d : BitVec 6) (a : BitVec 6) (b : BitVec 6) (g : BitVec 4) (s : State) : Host.Outcome State Fault Refusal :=
  s.scalar2 (0x00003033 + put d 26 + put a 20 + put b 14 + put g 8) 2 d.toNat a.toNat b.toNat .pin remU

/-- SEQ (R161). Sets 1 when the scalars are equal. -/
def execSeq (d : BitVec 6) (a : BitVec 6) (b : BitVec 6) (g : BitVec 4) (s : State) : Host.Outcome State Fault Refusal :=
  s.scalar2 (0x00000037 + put d 26 + put a 20 + put b 14 + put g 8) 2 d.toNat a.toNat b.toNat (.cmp 0) (fun x y => flagW (x == y))

/-- SLT (R161). Sets 1 when less than, signed. -/
def execSlt (d : BitVec 6) (a : BitVec 6) (b : BitVec 6) (g : BitVec 4) (s : State) : Host.Outcome State Fault Refusal :=
  s.scalar2 (0x00001037 + put d 26 + put a 20 + put b 14 + put g 8) 2 d.toNat a.toNat b.toNat (.cmp 2) (fun x y => flagW (x.slt y))

/-- SLTU (R161). Sets 1 when less than, unsigned. -/
def execSltu (d : BitVec 6) (a : BitVec 6) (b : BitVec 6) (g : BitVec 4) (s : State) : Host.Outcome State Fault Refusal :=
  s.scalar2 (0x00002037 + put d 26 + put a 20 + put b 14 + put g 8) 2 d.toNat a.toNat b.toNat (.cmp 3) (fun x y => flagW (x.ult y))

/-- SEL (R161). Selects a or b by the destination's old value. -/
def execSel (d : BitVec 6) (a : BitVec 6) (b : BitVec 6) (g : BitVec 4) (s : State) : Host.Outcome State Fault Refusal :=
  s.scalar3 (0x00003037 + put d 26 + put a 20 + put b 14 + put g 8) 2 d.toNat a.toNat b.toNat (fun x y z => if z = 0 then y else x)

/-- ADDI (R163). Scalar add of a signed 6-bit immediate. -/
def execAddi (d : BitVec 6) (a : BitVec 6) (im : BitVec 6) (g : BitVec 4) (s : State) : Host.Outcome State Fault Refusal :=
  s.scalar1 (0x0000003B + put d 26 + put a 20 + put im 14 + put g 8) 2 d.toNat a.toNat (.addI (im.signExtend 64).toNat) (fun x => x + im.signExtend 64)

/-- ANDI (R163). Scalar and with a signed 6-bit immediate. -/
def execAndi (d : BitVec 6) (a : BitVec 6) (im : BitVec 6) (g : BitVec 4) (s : State) : Host.Outcome State Fault Refusal :=
  s.scalar1 (0x0000103B + put d 26 + put a 20 + put im 14 + put g 8) 2 d.toNat a.toNat .pin (fun x => x &&& im.signExtend 64)

/-- SHLI (R163). Scalar shift left by an immediate. -/
def execShli (d : BitVec 6) (a : BitVec 6) (im : BitVec 6) (g : BitVec 4) (s : State) : Host.Outcome State Fault Refusal :=
  s.scalar1 (0x0000203B + put d 26 + put a 20 + put im 14 + put g 8) 2 d.toNat a.toNat .pin (fun x => x <<< im.toNat)

/-- SHRI (R163). Scalar logical shift right by an immediate. -/
def execShri (d : BitVec 6) (a : BitVec 6) (im : BitVec 6) (g : BitVec 4) (s : State) : Host.Outcome State Fault Refusal :=
  s.scalar1 (0x0000303B + put d 26 + put a 20 + put im 14 + put g 8) 2 d.toNat a.toNat .pin (fun x => x >>> im.toNat)

/-- LI (R164). Loads a sign-extended 14-bit immediate. -/
def execLi (d : BitVec 6) (k : BitVec 14) (g : BitVec 4) (s : State) : Host.Outcome State Fault Refusal :=
  s.scalar0 (0x0000003F + put d 26 + put k 12 + put g 8) 2 d.toNat (k.signExtend 64)

/-- LSI (R164). Shifts the scalar left 14 and inserts an immediate. -/
def execLsi (d : BitVec 6) (k : BitVec 14) (g : BitVec 4) (s : State) : Host.Outcome State Fault Refusal :=
  s.scalarInsert (0x00000043 + put d 26 + put k 12 + put g 8) d.toNat (fun z => (z <<< 14) ||| k.setWidth 64)

/-- CLZ (R165). Scalar count of leading zeros. -/
def execClz (d : BitVec 6) (a : BitVec 6) (g : BitVec 4) (s : State) : Host.Outcome State Fault Refusal :=
  s.scalar1 (0x00000047 + put d 26 + put a 20 + put g 8) 2 d.toNat a.toNat .pin (fun x => BitVec.ofNat 64 (clzN 64 x.toNat))

/-- CTZ (R165). Scalar count of trailing zeros. -/
def execCtz (d : BitVec 6) (a : BitVec 6) (g : BitVec 4) (s : State) : Host.Outcome State Fault Refusal :=
  s.scalar1 (0x00001047 + put d 26 + put a 20 + put g 8) 2 d.toNat a.toNat .pin (fun x => BitVec.ofNat 64 (ctzN 64 x.toNat))

/-- POPC (R165). Scalar population count. -/
def execPopc (d : BitVec 6) (a : BitVec 6) (g : BitVec 4) (s : State) : Host.Outcome State Fault Refusal :=
  s.scalar1 (0x00002047 + put d 26 + put a 20 + put g 8) 2 d.toNat a.toNat .pin (fun x => BitVec.ofNat 64 (popN 64 x.toNat))

/-- NOT (R165). Scalar bitwise not. -/
def execNot (d : BitVec 6) (a : BitVec 6) (g : BitVec 4) (s : State) : Host.Outcome State Fault Refusal :=
  s.scalar1 (0x00003047 + put d 26 + put a 20 + put g 8) 2 d.toNat a.toNat .pin (fun x => ~~~x)

/-- NEG (R165). Scalar negate. -/
def execNeg (d : BitVec 6) (a : BitVec 6) (g : BitVec 4) (s : State) : Host.Outcome State Fault Refusal :=
  s.scalar1 (0x00004047 + put d 26 + put a 20 + put g 8) 2 d.toNat a.toNat .pin (fun x => 0 - x)

/-- SEXT8 (R165). Scalar sign-extend from 8 bits. -/
def execSext8 (d : BitVec 6) (a : BitVec 6) (g : BitVec 4) (s : State) : Host.Outcome State Fault Refusal :=
  s.scalar1 (0x00005047 + put d 26 + put a 20 + put g 8) 2 d.toNat a.toNat .pin (sextLow 8)

/-- SEXT16 (R165). Scalar sign-extend from 16 bits. -/
def execSext16 (d : BitVec 6) (a : BitVec 6) (g : BitVec 4) (s : State) : Host.Outcome State Fault Refusal :=
  s.scalar1 (0x00006047 + put d 26 + put a 20 + put g 8) 2 d.toNat a.toNat .pin (sextLow 16)

/-- SEXT32 (R165). Scalar sign-extend from 32 bits. -/
def execSext32 (d : BitVec 6) (a : BitVec 6) (g : BitVec 4) (s : State) : Host.Outcome State Fault Refusal :=
  s.scalar1 (0x00007047 + put d 26 + put a 20 + put g 8) 2 d.toNat a.toNat .pin (sextLow 32)

/-- ZEXT8 (R165). Scalar zero-extend from 8 bits. -/
def execZext8 (d : BitVec 6) (a : BitVec 6) (g : BitVec 4) (s : State) : Host.Outcome State Fault Refusal :=
  s.scalar1 (0x00008047 + put d 26 + put a 20 + put g 8) 2 d.toNat a.toNat .pin (zextLow 8)

/-- ZEXT16 (R165). Scalar zero-extend from 16 bits. -/
def execZext16 (d : BitVec 6) (a : BitVec 6) (g : BitVec 4) (s : State) : Host.Outcome State Fault Refusal :=
  s.scalar1 (0x00009047 + put d 26 + put a 20 + put g 8) 2 d.toNat a.toNat .pin (zextLow 16)

/-- ZEXT32 (R165). Scalar zero-extend from 32 bits. -/
def execZext32 (d : BitVec 6) (a : BitVec 6) (g : BitVec 4) (s : State) : Host.Outcome State Fault Refusal :=
  s.scalar1 (0x0000A047 + put d 26 + put a 20 + put g 8) 2 d.toNat a.toNat .pin (zextLow 32)

/-- BSWAP (R165). Scalar byte reversal. -/
def execBswap (d : BitVec 6) (a : BitVec 6) (g : BitVec 4) (s : State) : Host.Outcome State Fault Refusal :=
  s.scalar1 (0x0000B047 + put d 26 + put a 20 + put g 8) 2 d.toNat a.toNat .pin (fun x => BitVec.ofNat 64 (bswapN 8 x.toNat))

end Sys2Proof.Machine
end

