-- ==== Sys2Proof/Machine/Short.lean ====
section
/-! DEFINITION. The short words of families 00 and 01 (R52, R53). Each is its long word with G = 0. -/

namespace Sys2Proof.Machine

/-- Lane specifier of a 4-bit code of family 00 (R52). -/
def shortLane (c : Nat) : Nat := if c == 10 then 0x3C else 0x30 + c

/-- ADD_LANE_SHORT (R52). Short family-00 lane add. -/
def execAddLaneShort (d : BitVec 4) (a : BitVec 4) (s1 : BitVec 1) (s : State) : Host.Outcome State Fault Refusal :=
  s.lane2 (0x0000 + put d 7 + put a 3 + put s1 2) 1 (shortLane d.toNat) (if s1 == 1 then 0x38 else shortLane d.toNat) (shortLane a.toNat) .add (fun x y => x + y)

/-- SUB_LANE_SHORT (R52). Short lane subtract. -/
def execSubLaneShort (d : BitVec 4) (a : BitVec 4) (s1 : BitVec 1) (s : State) : Host.Outcome State Fault Refusal :=
  s.lane2 (0x0800 + put d 7 + put a 3 + put s1 2) 1 (shortLane d.toNat) (if s1 == 1 then 0x38 else shortLane d.toNat) (shortLane a.toNat) .sub (fun x y => x - y)

/-- AND_LANE_SHORT (R52). Short lane and. -/
def execAndLaneShort (d : BitVec 4) (a : BitVec 4) (s1 : BitVec 1) (s : State) : Host.Outcome State Fault Refusal :=
  s.lane2 (0x1000 + put d 7 + put a 3 + put s1 2) 1 (shortLane d.toNat) (if s1 == 1 then 0x38 else shortLane d.toNat) (shortLane a.toNat) .pin (fun x y => x &&& y)

/-- OR_LANE_SHORT (R52). Short lane or. -/
def execOrLaneShort (d : BitVec 4) (a : BitVec 4) (s1 : BitVec 1) (s : State) : Host.Outcome State Fault Refusal :=
  s.lane2 (0x1800 + put d 7 + put a 3 + put s1 2) 1 (shortLane d.toNat) (if s1 == 1 then 0x38 else shortLane d.toNat) (shortLane a.toNat) .pin (fun x y => x ||| y)

/-- XOR_LANE_SHORT (R52). Short lane xor. -/
def execXorLaneShort (d : BitVec 4) (a : BitVec 4) (s1 : BitVec 1) (s : State) : Host.Outcome State Fault Refusal :=
  s.lane2 (0x2000 + put d 7 + put a 3 + put s1 2) 1 (shortLane d.toNat) (if s1 == 1 then 0x38 else shortLane d.toNat) (shortLane a.toNat) .pin (fun x y => x ^^^ y)

/-- SHL_LANE_SHORT (R52). Short lane shift left. -/
def execShlLaneShort (d : BitVec 4) (a : BitVec 4) (s1 : BitVec 1) (s : State) : Host.Outcome State Fault Refusal :=
  s.lane2 (0x2800 + put d 7 + put a 3 + put s1 2) 1 (shortLane d.toNat) (if s1 == 1 then 0x38 else shortLane d.toNat) (shortLane a.toNat) .pin (shlV)

/-- SHR_LANE_SHORT (R52). Short lane logical shift right. -/
def execShrLaneShort (d : BitVec 4) (a : BitVec 4) (s1 : BitVec 1) (s : State) : Host.Outcome State Fault Refusal :=
  s.lane2 (0x3000 + put d 7 + put a 3 + put s1 2) 1 (shortLane d.toNat) (if s1 == 1 then 0x38 else shortLane d.toNat) (shortLane a.toNat) .pin (shrV)

/-- SRA_LANE_SHORT (R52). Short lane arithmetic shift right. -/
def execSraLaneShort (d : BitVec 4) (a : BitVec 4) (s1 : BitVec 1) (s : State) : Host.Outcome State Fault Refusal :=
  s.lane2 (0x3800 + put d 7 + put a 3 + put s1 2) 1 (shortLane d.toNat) (if s1 == 1 then 0x38 else shortLane d.toNat) (shortLane a.toNat) .pin (sraV)

/-- MUL_LANE_SHORT (R52). Short lane multiply. -/
def execMulLaneShort (d : BitVec 4) (a : BitVec 4) (s1 : BitVec 1) (s : State) : Host.Outcome State Fault Refusal :=
  s.lane2 (0x4000 + put d 7 + put a 3 + put s1 2) 1 (shortLane d.toNat) (if s1 == 1 then 0x38 else shortLane d.toNat) (shortLane a.toNat) .pin (fun x y => x * y)

/-- MIN_LANE_SHORT (R52). Short lane signed minimum. -/
def execMinLaneShort (d : BitVec 4) (a : BitVec 4) (s1 : BitVec 1) (s : State) : Host.Outcome State Fault Refusal :=
  s.lane2 (0x4800 + put d 7 + put a 3 + put s1 2) 1 (shortLane d.toNat) (if s1 == 1 then 0x38 else shortLane d.toNat) (shortLane a.toNat) .pin (minS)

/-- MAX_LANE_SHORT (R52). Short lane signed maximum. -/
def execMaxLaneShort (d : BitVec 4) (a : BitVec 4) (s1 : BitVec 1) (s : State) : Host.Outcome State Fault Refusal :=
  s.lane2 (0x5000 + put d 7 + put a 3 + put s1 2) 1 (shortLane d.toNat) (if s1 == 1 then 0x38 else shortLane d.toNat) (shortLane a.toNat) .pin (maxS)

/-- MINU_LANE_SHORT (R52). Short lane unsigned minimum. -/
def execMinuLaneShort (d : BitVec 4) (a : BitVec 4) (s1 : BitVec 1) (s : State) : Host.Outcome State Fault Refusal :=
  s.lane2 (0x5800 + put d 7 + put a 3 + put s1 2) 1 (shortLane d.toNat) (if s1 == 1 then 0x38 else shortLane d.toNat) (shortLane a.toNat) .pin (minU)

/-- MAXU_LANE_SHORT (R52). Short lane unsigned maximum. -/
def execMaxuLaneShort (d : BitVec 4) (a : BitVec 4) (s1 : BitVec 1) (s : State) : Host.Outcome State Fault Refusal :=
  s.lane2 (0x6000 + put d 7 + put a 3 + put s1 2) 1 (shortLane d.toNat) (if s1 == 1 then 0x38 else shortLane d.toNat) (shortLane a.toNat) .pin (maxU)

/-- FADD_F32_SHORT (R52). Short FP32 add. -/
def execFaddF32Short (d : BitVec 4) (a : BitVec 4) (s1 : BitVec 1) (s : State) : Host.Outcome State Fault Refusal :=
  s.float2 (0x6800 + put d 7 + put a 3 + put s1 2) 1 (shortLane d.toNat) (if s1 == 1 then 0x38 else shortLane d.toNat) (shortLane a.toNat) 0 .fadd

/-- FSUB_F32_SHORT (R52). Short FP32 subtract. -/
def execFsubF32Short (d : BitVec 4) (a : BitVec 4) (s1 : BitVec 1) (s : State) : Host.Outcome State Fault Refusal :=
  s.float2 (0x7000 + put d 7 + put a 3 + put s1 2) 1 (shortLane d.toNat) (if s1 == 1 then 0x38 else shortLane d.toNat) (shortLane a.toNat) 0 .fsub

/-- FMUL_F32_SHORT (R52). Short FP32 multiply. -/
def execFmulF32Short (d : BitVec 4) (a : BitVec 4) (s1 : BitVec 1) (s : State) : Host.Outcome State Fault Refusal :=
  s.float2 (0x7800 + put d 7 + put a 3 + put s1 2) 1 (shortLane d.toNat) (if s1 == 1 then 0x38 else shortLane d.toNat) (shortLane a.toNat) 0 .fmul

/-- FFMA_F32_SHORT (R52). Short FP32 fused multiply-add. -/
def execFfmaF32Short (d : BitVec 4) (a : BitVec 4) (s1 : BitVec 1) (s : State) : Host.Outcome State Fault Refusal :=
  s.float3 (0x8000 + put d 7 + put a 3 + put s1 2) 1 (shortLane d.toNat) (if s1 == 1 then 0x38 else shortLane d.toNat) (shortLane a.toNat) 0

/-- FMIN_F32_SHORT (R52). Short FP32 minimum. -/
def execFminF32Short (d : BitVec 4) (a : BitVec 4) (s1 : BitVec 1) (s : State) : Host.Outcome State Fault Refusal :=
  s.float2 (0x8800 + put d 7 + put a 3 + put s1 2) 1 (shortLane d.toNat) (if s1 == 1 then 0x38 else shortLane d.toNat) (shortLane a.toNat) 0 .fmin

/-- FMAX_F32_SHORT (R52). Short FP32 maximum. -/
def execFmaxF32Short (d : BitVec 4) (a : BitVec 4) (s1 : BitVec 1) (s : State) : Host.Outcome State Fault Refusal :=
  s.float2 (0x9000 + put d 7 + put a 3 + put s1 2) 1 (shortLane d.toNat) (if s1 == 1 then 0x38 else shortLane d.toNat) (shortLane a.toNat) 0 .fmax

/-- FADD_F16_SHORT (R52). Short packed FP16 add. -/
def execFaddF16Short (d : BitVec 4) (a : BitVec 4) (s1 : BitVec 1) (s : State) : Host.Outcome State Fault Refusal :=
  s.float2 (0x9800 + put d 7 + put a 3 + put s1 2) 1 (shortLane d.toNat) (if s1 == 1 then 0x38 else shortLane d.toNat) (shortLane a.toNat) 1 .fadd

/-- FMUL_F16_SHORT (R52). Short packed FP16 multiply. -/
def execFmulF16Short (d : BitVec 4) (a : BitVec 4) (s1 : BitVec 1) (s : State) : Host.Outcome State Fault Refusal :=
  s.float2 (0xA000 + put d 7 + put a 3 + put s1 2) 1 (shortLane d.toNat) (if s1 == 1 then 0x38 else shortLane d.toNat) (shortLane a.toNat) 1 .fmul

/-- FFMA_F16_SHORT (R52). Short packed FP16 fused multiply-add. -/
def execFfmaF16Short (d : BitVec 4) (a : BitVec 4) (s1 : BitVec 1) (s : State) : Host.Outcome State Fault Refusal :=
  s.float3 (0xA800 + put d 7 + put a 3 + put s1 2) 1 (shortLane d.toNat) (if s1 == 1 then 0x38 else shortLane d.toNat) (shortLane a.toNat) 1

/-- FADD_BF16_SHORT (R52). Short packed BF16 add. -/
def execFaddBf16Short (d : BitVec 4) (a : BitVec 4) (s1 : BitVec 1) (s : State) : Host.Outcome State Fault Refusal :=
  s.float2 (0xB000 + put d 7 + put a 3 + put s1 2) 1 (shortLane d.toNat) (if s1 == 1 then 0x38 else shortLane d.toNat) (shortLane a.toNat) 2 .fadd

/-- FMUL_BF16_SHORT (R52). Short packed BF16 multiply. -/
def execFmulBf16Short (d : BitVec 4) (a : BitVec 4) (s1 : BitVec 1) (s : State) : Host.Outcome State Fault Refusal :=
  s.float2 (0xB800 + put d 7 + put a 3 + put s1 2) 1 (shortLane d.toNat) (if s1 == 1 then 0x38 else shortLane d.toNat) (shortLane a.toNat) 2 .fmul

/-- FFMA_BF16_SHORT (R52). Short packed BF16 fused multiply-add. -/
def execFfmaBf16Short (d : BitVec 4) (a : BitVec 4) (s1 : BitVec 1) (s : State) : Host.Outcome State Fault Refusal :=
  s.float3 (0xC000 + put d 7 + put a 3 + put s1 2) 1 (shortLane d.toNat) (if s1 == 1 then 0x38 else shortLane d.toNat) (shortLane a.toNat) 2

/-- MOV_SHORT (R52). Short lane move. -/
def execMovShort (d : BitVec 4) (a : BitVec 4) (s : State) : Host.Outcome State Fault Refusal :=
  s.lane1 (0xC800 + put d 7 + put a 3) 1 (shortLane d.toNat) (shortLane a.toNat) .move (fun x => x)

/-- NEG_LANE_SHORT (R52). Short lane negate. -/
def execNegLaneShort (d : BitVec 4) (a : BitVec 4) (s : State) : Host.Outcome State Fault Refusal :=
  s.lane1 (0xD000 + put d 7 + put a 3) 1 (shortLane d.toNat) (shortLane a.toNat) .pin (fun x => 0 - x)

/-- NOT_LANE_SHORT (R52). Short lane not. -/
def execNotLaneShort (d : BitVec 4) (a : BitVec 4) (s : State) : Host.Outcome State Fault Refusal :=
  s.lane1 (0xD800 + put d 7 + put a 3) 1 (shortLane d.toNat) (shortLane a.toNat) .pin (fun x => ~~~x)

/-- ABS_SHORT (R52). Short lane absolute value. -/
def execAbsShort (d : BitVec 4) (a : BitVec 4) (s : State) : Host.Outcome State Fault Refusal :=
  s.lane1 (0xE000 + put d 7 + put a 3) 1 (shortLane d.toNat) (shortLane a.toNat) .pin absW

/-- FNEG_F32_SHORT (R52). Short FP32 negate. -/
def execFnegF32Short (d : BitVec 4) (a : BitVec 4) (s : State) : Host.Outcome State Fault Refusal :=
  s.float1 (0xE800 + put d 7 + put a 3) 1 (shortLane d.toNat) (shortLane a.toNat) 0 .fneg

/-- FABS_F32_SHORT (R52). Short FP32 absolute value. -/
def execFabsF32Short (d : BitVec 4) (a : BitVec 4) (s : State) : Host.Outcome State Fault Refusal :=
  s.float1 (0xF000 + put d 7 + put a 3) 1 (shortLane d.toNat) (shortLane a.toNat) 0 .fabs

/-- ADD_SHORT (R53). Short scalar add. -/
def execAddShort (d : BitVec 4) (x : BitVec 6) (s : State) : Host.Outcome State Fault Refusal :=
  s.scalar2 (0x0001 + put d 8 + put x 2) 1 d.toNat d.toNat x.toNat .add (fun x y => x + y)

/-- SUB_SHORT (R53). Short scalar subtract. -/
def execSubShort (d : BitVec 4) (x : BitVec 6) (s : State) : Host.Outcome State Fault Refusal :=
  s.scalar2 (0x1001 + put d 8 + put x 2) 1 d.toNat d.toNat x.toNat .sub (fun x y => x - y)

/-- AND_SHORT (R53). Short scalar and. -/
def execAndShort (d : BitVec 4) (x : BitVec 6) (s : State) : Host.Outcome State Fault Refusal :=
  s.scalar2 (0x2001 + put d 8 + put x 2) 1 d.toNat d.toNat x.toNat .pin (fun x y => x &&& y)

/-- OR_SHORT (R53). Short scalar or. -/
def execOrShort (d : BitVec 4) (x : BitVec 6) (s : State) : Host.Outcome State Fault Refusal :=
  s.scalar2 (0x3001 + put d 8 + put x 2) 1 d.toNat d.toNat x.toNat .pin (fun x y => x ||| y)

/-- XOR_SHORT (R53). Short scalar xor. -/
def execXorShort (d : BitVec 4) (x : BitVec 6) (s : State) : Host.Outcome State Fault Refusal :=
  s.scalar2 (0x4001 + put d 8 + put x 2) 1 d.toNat d.toNat x.toNat .pin (fun x y => x ^^^ y)

/-- SHL_SHORT (R53). Short scalar shift left. -/
def execShlShort (d : BitVec 4) (x : BitVec 6) (s : State) : Host.Outcome State Fault Refusal :=
  s.scalar2 (0x5001 + put d 8 + put x 2) 1 d.toNat d.toNat x.toNat .pin (shlV)

/-- SHR_SHORT (R53). Short scalar logical shift right. -/
def execShrShort (d : BitVec 4) (x : BitVec 6) (s : State) : Host.Outcome State Fault Refusal :=
  s.scalar2 (0x6001 + put d 8 + put x 2) 1 d.toNat d.toNat x.toNat .pin (shrV)

/-- SRA_SHORT (R53). Short scalar arithmetic shift right. -/
def execSraShort (d : BitVec 4) (x : BitVec 6) (s : State) : Host.Outcome State Fault Refusal :=
  s.scalar2 (0x7001 + put d 8 + put x 2) 1 d.toNat d.toNat x.toNat .pin (sraV)

/-- MV (R53). Short scalar move, equal to addi with 0. -/
def execMv (d : BitVec 4) (x : BitVec 6) (s : State) : Host.Outcome State Fault Refusal :=
  s.scalar1 (0x8001 + put d 8 + put x 2) 1 d.toNat x.toNat .move (fun x => x)

/-- ADDI_SHORT (R53). Short scalar add immediate. -/
def execAddiShort (d : BitVec 4) (im : BitVec 6) (s : State) : Host.Outcome State Fault Refusal :=
  s.scalar1 (0x9001 + put d 8 + put im 2) 1 d.toNat d.toNat (.addI (im.signExtend 64).toNat) (fun x => x + im.signExtend 64)

/-- LI_SHORT (R53). Short load of a sign-extended 6-bit immediate. -/
def execLiShort (d : BitVec 4) (im : BitVec 6) (s : State) : Host.Outcome State Fault Refusal :=
  s.scalar0 (0xA001 + put d 8 + put im 2) 1 d.toNat (im.signExtend 64)

/-- SHLI_SHORT (R53). Short scalar shift left immediate. -/
def execShliShort (d : BitVec 4) (im : BitVec 6) (s : State) : Host.Outcome State Fault Refusal :=
  s.scalar1 (0xB001 + put d 8 + put im 2) 1 d.toNat d.toNat .pin (fun x => x <<< im.toNat)

/-- SHRI_SHORT (R53). Short scalar shift right immediate. -/
def execShriShort (d : BitVec 4) (im : BitVec 6) (s : State) : Host.Outcome State Fault Refusal :=
  s.scalar1 (0xC001 + put d 8 + put im 2) 1 d.toNat d.toNat .pin (fun x => x >>> im.toNat)

/-- ANDI_SHORT (R53). Short scalar and immediate. -/
def execAndiShort (d : BitVec 4) (im : BitVec 6) (s : State) : Host.Outcome State Fault Refusal :=
  s.scalar1 (0xD001 + put d 8 + put im 2) 1 d.toNat d.toNat .pin (fun x => x &&& im.signExtend 64)

/-- NEG_SHORT (R53). Short scalar negate. -/
def execNegShort (d : BitVec 4) (x : BitVec 6) (s : State) : Host.Outcome State Fault Refusal :=
  s.scalar1 (0xE001 + put d 8 + put x 2) 1 d.toNat x.toNat .pin (fun x => 0 - x)

/-- NOT_SHORT (R53). Short scalar not. -/
def execNotShort (d : BitVec 4) (x : BitVec 6) (s : State) : Host.Outcome State Fault Refusal :=
  s.scalar1 (0xF001 + put d 8 + put x 2) 1 d.toNat x.toNat .pin (fun x => ~~~x)

end Sys2Proof.Machine
end

