-- ==== Sys2Proof/Machine/StreamEvents.lean ====
section
/-! DEFINITION. The events of streams and of what they have issued: retirements, waits, stalls, hold regions, copies,
deliveries, readouts and routes. An event whose time has not come leaves the state as it is (log 1). -/

namespace Sys2Proof.Machine

/-! ### Retirements, stalls, waits -/

/-- QBIND_TAKES_EFFECT (R85). -/
def execQbindTakesEffect (core ctx eng : Nat) (s : State) : Host.Outcome State Fault Refusal :=
  let key := streamKey core ctx eng
  match (s.ctlAt key 0).late with
  | some (.qbind q _ _) => .next (s.applyBinding key q)
  | _ => .next s

/-- RPORT_RETIREMENT (R263). -/
def execRportRetirement (core ctx eng : Nat) (s : State) : Host.Outcome State Fault Refusal :=
  .next (s.retirePort (streamKey core ctx eng))

/-- ACCUMULATOR_RETIREMENT (R235). -/
def execAccumulatorRetirement (core ctx : Nat) (s : State) : Host.Outcome State Fault Refusal :=
  match (s.ctlAt (streamKey core ctx 2) 0).late with
  | some (.array _ _ _) => .next (s.retireArray (streamKey core ctx 2))
  | _ => .next s

/-- WLOAD_RETIREMENT (R251). -/
def execWloadRetirement (core ctx : Nat) (s : State) : Host.Outcome State Fault Refusal :=
  match (s.ctlAt (streamKey core ctx 2) 0).late with
  | some (.wload _ _ _) => .next (s.retireArray (streamKey core ctx 2))
  | _ => .next s

/-- COLUMN_ACCUMULATOR_RETIREMENT (R254). -/
def execColumnAccumulatorRetirement (core ctx : Nat) (s : State) : Host.Outcome State Fault Refusal :=
  match (s.ctlAt (streamKey core ctx 2) 0).late with
  | some (.tma _ _ _ _) => .next (s.retireArray (streamKey core ctx 2))
  | _ => .next s

/-- READOUT_COMPLETION (R237). -/
def execReadoutCompletion (id : Nat) (s : State) : Host.Outcome State Fault Refusal :=
  match s.flights.find id with
  | some (.readout r) => .next (s.finishReadout id r)
  | _ => .next s

/-- STAMPED_ISSUE (R101): the counter has reached the target of a stamp that its instruction waits for; the matrix engine
issues next. -/
def execStampedIssue (core ctx : Nat) (s : State) : Host.Outcome State Fault Refusal :=
  let c := s.ctlAt (streamKey core ctx 2) 0
  match c.armed with
  | some t =>
    if c.stall.contains (.stamp t.toNat) && t.toNat ≤ s.cyc then
      .next { s with agenda := { cyc := 0, ns := 0, turn := .tile core 2 } :: s.agenda }
    else .next s
  | none => .next s

/-- A stalled stream whose needs are met: at retirement it makes its pushes, at issue it may issue again, unless it is to
take a deferred fault there (R80, R84, R212). On a frozen core it stands as it is (R384). -/
def State.releaseStall (s : State) (key : Nat) : State :=
  let c := s.ctlAt key 0
  if c.frozenAt.isSome || c.stopAt.isSome || c.resumed then s
  else if c.retire.isSome then s.settle key
  else if c.stall != [] && c.stall.all (s.needMet key) && !s.hasDeferred key 0 true then
    s.modCtl key 0 fun c => { c with stall := [] }
  else s

/-- STALL_RELEASE (R80). -/
def execStallRelease (core ctx eng : Nat) (s : State) : Host.Outcome State Fault Refusal :=
  .next (s.releaseStall (streamKey core ctx eng))

/-- A waiting stream or thread: what it is owed comes first, but for a fault of the wait itself (R92, R377). -/
def State.waitTurn (s : State) (key lane : Nat) (w : Wait) : State :=
  match s.waitState key lane w false with
  | .fault _ _ => s.resumeWait key lane
  | _ => (s.takeOwed key lane).getD (s.resumeWait key lane)

/-- Whoever waits takes its turn, where it runs. -/
def State.waitAgain (s : State) (key lane : Nat) : State :=
  match (s.ctlAt key lane).waiting with
  | some w => if s.running key lane then s.waitTurn key lane w else s
  | none => s

/-- BLOCKING_WAIT_END (R92). -/
def execBlockingWaitEnd (who : Agent) (s : State) : Host.Outcome State Fault Refusal :=
  .next (s.waitAgain (agentKey who).1 (agentKey who).2)

/-- WAITL_TIMEOUT (R348): 1,500,000 tile cycles after it began. -/
def execWaitlTimeout (who : Agent) (s : State) : Host.Outcome State Fault Refusal :=
  match (s.ctlAt (agentKey who).1 (agentKey who).2).waiting with
  | some (.waitl _ _ _ start) =>
    .next (if start + 1500000 ≤ s.cyc then s.waitAgain (agentKey who).1 (agentKey who).2 else s)
  | _ => .next s

/-- WAITL_WATCH_LOST (R348): the copy or the watch entry is evicted. -/
def execWaitlWatchLost (who : Agent) (s : State) : Host.Outcome State Fault Refusal :=
  match (s.ctlAt (agentKey who).1 (agentKey who).2).waiting with
  | some (.waitl _ _ _ _) =>
    .next ((s.modCtl (agentKey who).1 (agentKey who).2 fun c => { c with waitLost := true }).waitAgain
      (agentKey who).1 (agentKey who).2)
  | _ => .next s

/-- PENDING_PUSH_DRAIN (R81); on a frozen core the record stands as it is (R384). -/
def execPendingPushDrain (core ctx eng : Nat) (s : State) : Host.Outcome State Fault Refusal :=
  let c := s.ctlAt (streamKey core ctx eng) 0
  .next (if c.frozenAt.isSome || c.stopAt.isSome then s else s.drainPending (streamKey core ctx eng))

/-- HOLD_REGION_EXPIRY (R95). -/
def execHoldRegionExpiry (core ctx eng : Nat) (s : State) : Host.Outcome State Fault Refusal :=
  .next (s.expireHold (streamKey core ctx eng))

/-! ### Interruptions owed -/

/-- The turn of the agent that a stream or thread issues from. -/
def agentTurn (key : Nat) : Turn :=
  if isWave key then .vision (keyCore key - 64) (keySlot key / 12) else .tile (keyCore key) (keyEng key)

/-- An interruption that a stream or thread is owed at its boundary, given as the state after it where it is due. One that is
stopped takes it now, after a fault of its wait; for one that would issue, whose instruction's own fault would come first
(R377), its agent takes its turn next. -/
def State.interruptAt (s : State) (key lane : Nat) (taken : Option State) : State :=
  let c := s.ctlAt key lane
  match taken with
  | none => s
  | some t =>
    match c.waiting with
    | some w =>
      match s.waitState key lane w false with
      | .fault _ _ => s.resumeWait key lane
      | _ => t
    | none => if c.stall != [] then t else { s with agenda := { cyc := 0, ns := 0, turn := agentTurn key } :: s.agenda }

/-- HOLD_OVERRUN (R95). -/
def execHoldOverrun (core ctx eng : Nat) (s : State) : Host.Outcome State Fault Refusal :=
  let key := streamKey core ctx eng
  .next (if s.atBoundary key 0 then s.interruptAt key 0 (s.takeOverrun key 0) else (s.stalledOverrun key).getD s)

/-- DEADLINE_MISS_EXCEPTION (R130). -/
def execDeadlineMissException (who : Agent) (s : State) : Host.Outcome State Fault Refusal :=
  let (key, lane) := agentKey who
  .next (if s.atBoundary key lane && !s.trapDue key lane then s.interruptAt key lane (s.takeMiss key lane) else s)

/-- BUDGET_OVERRUN_EXCEPTION (R367). -/
def execBudgetOverrunException (who : Agent) (s : State) : Host.Outcome State Fault Refusal :=
  let (key, lane) := agentKey who
  .next (if s.atBoundary key lane && !s.trapDue key lane && (s.ctlAt key lane).owed.miss.isNone then
    s.interruptAt key lane (s.takeBudget key lane) else s)

/-- ROUTE_TIMEOUT_NOTIFICATION (R272). -/
def execRouteTimeoutNotification (core ctx eng : Nat) (s : State) : Host.Outcome State Fault Refusal :=
  let key := streamKey core ctx eng
  let o := (s.ctlAt key 0).owed
  .next (if s.atBoundary key 0 && !s.trapDue key 0 && o.miss.isNone && o.overrun.isNone then
    s.interruptAt key 0 (s.takeRouteNote key 0) else s)

/-- DEFERRED_FAULT_DELIVERY (R212): to a stream in a blocking wait, in rdv or stalled. -/
def execDeferredFaultDelivery (core ctx eng : Nat) (s : State) : Host.Outcome State Fault Refusal :=
  let key := streamKey core ctx eng
  .next (if s.running key 0 && (s.ctlAt key 0).stopped then s.interruptAt key 0 (s.takeDeferred key 0 true) else s)

/-! ### Flags and copies -/

/-- FLAG_UPDATE (R341): the updates of one stream reach the flag home in issue order. -/
def execFlagUpdate (id : Nat) (s : State) : Host.Outcome State Fault Refusal :=
  match s.flights.find id with
  | some (.flag u) =>
    let earlier := s.flights.any fun e => e.1 < id && (match e.2 with
      | .flag v => v.key == u.key && v.job == u.job
      | _ => false)
    .next (if earlier then s else s.performFlag id u)
  | _ => .next s

/-- The remaining elements of a command performed, where it may run: the state and how far it came (R210). -/
def State.runCopy (s : State) (id : Nat) : Option (State × Cmd × Option (Nat × Nat)) :=
  match s.flights.find id with
  | some (.copy c) => if c.runs then some (s.copyRun c (c.count - c.pos)) else none
  | _ => none

/-- COPY_COMPLETION (R204). -/
def execCopyCompletion (id : Nat) (s : State) : Host.Outcome State Fault Refusal :=
  match s.runCopy id with
  | some (s1, c, none) => .next ((s1.setFlight id (.copy c)).finishCopy id c)
  | _ => .next s

/-- COPY_ELEMENT_FAULT (R211). -/
def execCopyElementFault (id : Nat) (s : State) : Host.Outcome State Fault Refusal :=
  match s.runCopy id with
  | some (s1, c, some (reason, faddr)) => .next (s1.failCopy id c reason faddr)
  | _ => .next s

/-! ### Deliveries into rings (R194 to R197, R267) -/

/-- Whether an earlier delivery of the same stream to the same ring has not arrived yet: they arrive, and so are accepted, in
issue order (R196, R267). -/
def State.deliveryBehind (s : State) (id : Nat) (d : Delivery) : Bool :=
  s.flights.any fun e => e.1 < id && (match e.2 with
    | .delivery x => !x.arrived && x.key == d.key && x.job == d.job && x.core == d.core && x.ring == d.ring
    | _ => false)

/-- Whether a stream's element waits at a ring of a core with a number of arrival below another (R188, R194). -/
def State.elementBefore (s : State) (core ring order : Nat) : Bool :=
  s.ctl.any fun (e : Nat × Ctl) => match e.2.retire with
    | some r => r.arrived.any fun a => a.2 < order &&
        (let b := e.2.ringIn.get 0 a.1; bits b 8 8 == core && bits b 0 5 == ring) && r.elems.any fun x => x.1 == a.1
    | none => false

/-- Whether a delivery or an element that arrived before waits at a ring of a core (R188). -/
def State.arrivedBefore (s : State) (core ring order : Nat) : Bool :=
  (s.flights.any fun e => match e.2 with
    | .delivery x => x.arrived && x.core == core && x.ring == ring && x.order < order
    | _ => false) || s.elementBefore core ring order

/-- A target of a push has accepted its delivery (R197). -/
def State.targetAccepted (s : State) (src : Source) : State :=
  match src with
  | .push p j =>
    match s.flights.find p with
    | some (.push x) =>
      s.setFlight p (.push { x with status := x.status.zipIdx.map fun y => if y.2 == j then 1 else y.1 })
    | _ => s
  | .route _ _ _ _ _ => s

/-- The deadline of the entry that a delivery belongs to takes effect first, where it has come (R272). -/
def State.deliveryDue (s : State) (id : Nat) : State :=
  match s.flights.find id with
  | some (.delivery d) => s.sourceDue d.source
  | _ => s

/-- RPUSH_DELIVERY_ARRIVAL (R196, R267). -/
def execRpushDeliveryArrival (id : Nat) (s0 : State) : Host.Outcome State Fault Refusal :=
  let s := s0.deliveryDue id
  match s.flights.find id with
  | some (.delivery d) =>
    if d.arrived || s.deliveryBehind id d then .next s
    else if s.ringAccepts d.core d.ring d.gen (keyCore d.key) (cardPart (s.slotAt d.job).card) d.head.length then
      .next { s.setFlight id (.delivery { d with arrived := true, order := s.nextId }) with nextId := s.nextId + 1 }
    else .next (s.dropDelivery id d)
  | _ => .next s

/-- RPUSH_DELIVERY_ACCEPT (R196, R267): the ring has room. -/
def execRpushDeliveryAccept (id : Nat) (s0 : State) : Host.Outcome State Fault Refusal :=
  let s := s0.deliveryDue id
  match s.flights.find id with
  | some (.delivery d) =>
    let r := s.ringAt d.core d.ring
    if d.arrived && r.used < r.count && !s.arrivedBefore d.core d.ring d.order then
      .next (((s.land id).ringAppend d.core d.ring d.head).targetAccepted d.source)
    else .next s
  | _ => .next s

/-- A push all of whose targets have answered completes: STATUS, tokens, and the trap of an undelivered target (R197). -/
def State.finishPush (s : State) (id : Nat) (p : Push) : State :=
  let lost := (p.status.zipIdx.filter (·.1 == 2)).map (·.2)
  let status := 0x80000000 + lost.length * 2 ^ 16 + lost.foldl (fun a j => a + 2 ^ j) 0
  let s1 := (s.land id).locWrite (p.desc + 0x48) (leBytes 4 status)
  let s2 := (s1.pushCompletion p.job p.key p.g).noteOutstanding p.job p.key
  match p.fou, lost with
  | true, j :: _ =>
    s2.owe p.job p.key
      { ord := id, cause := 0x10, cls := 1, info := (ringFault p.key (p.ringsOf.getD j 0) 11).info, atDelivery := false,
        byHandler := p.byHandler, iaddr := some p.iaddr }
  | _, _ => s2

/-- RPUSH_COMPLETION (R197). -/
def execRpushCompletion (id : Nat) (s : State) : Host.Outcome State Fault Refusal :=
  match s.flights.find id with
  | some (.push p) => .next (if p.status.all (· != 0) then s.finishPush id p else s)
  | _ => .next s

/-- The first pending element of a stream for register `k` delivered to the ring of the other core that it is bound to, or
dropped there: it waits while that ring is full, in the order of arrival (R188, R194, R196). A frozen core sends none
(R384). -/
def State.deliverElement (s : State) (key k : Nat) : State :=
  let b := s.ringBinding key k
  let core := bits b 8 8
  let n := bits b 0 5
  let ring := s.ringAt core n
  match (s.ctlAt key 0).retire with
  | none => s
  | some r =>
    match r.elems.find? fun e => e.1 == k with
    | none => s
    | some e =>
      let others := (s.retireNeeds key r).filter fun x => match x with | .remote _ => false | _ => true
      let order := r.arrived.get s.nextId k
      if s.pushesHere key k || others != [] || (s.ctlAt key 0).frozenAt.isSome then s
      else if !s.pushAccepted key k core then
        let trap := r.trap.or (some (0x10, (ringFault key n 13).info, r.iaddr))
        (s.modCtl key 0 fun c => { c with retire := some { r with elems := r.elems.erase e, trap := trap } }).settle key
      else if ring.count ≤ ring.used || s.arrivedBefore core n order then
        if r.arrived.has k then s
        else { s.modCtl key 0 fun c => { c with retire := some { r with arrived := r.arrived.put k order } } with
                 nextId := s.nextId + 1 }
      else
        ((s.ringAppend core n (laneBytes e.2 ring.slotSize)).modCtl key 0 fun c =>
          { c with retire := some { r with elems := r.elems.erase e, arrived := r.arrived.del k } }).settle key

/-- RING_ELEMENT_DELIVERY (R194): `id` is twice the stream's key, plus 1 for ex1. -/
def execRingElementDelivery (id : Nat) (s : State) : Host.Outcome State Fault Refusal :=
  .next (s.deliverElement (id / 2) (2 + id % 2))

/-! ### Routes -/

/-- ROUTE_RETURN_ARRIVAL (R269). -/
def execRouteReturnArrival (id : Nat) (s : State) : Host.Outcome State Fault Refusal :=
  match s.flights.find id with
  | some (.ret r) =>
    .next (if r.answered then s
      else (s.setFlight id (.ret { r with answered := true })).acceptReturn r.origin r.rte r.seq r.row r.choice r.bytes)
  | _ => .next s

/-- ROUTE_DEADLINE (R272). -/
def execRouteDeadline (core entry : Nat) (s : State) : Host.Outcome State Fault Refusal := .next (s.routeDue core entry)

/-- RRET_COMPLETION (R268): its tokens are pushed, unless its job has left its slot (R114). -/
def execRretCompletion (id : Nat) (s : State) : Host.Outcome State Fault Refusal :=
  match s.flights.find id with
  | some (.ret r) =>
    .next (if r.answered && r.job == endedSlot then s.land id
      else if r.answered then ((s.land id).pushCompletion r.job r.key r.g).noteOutstanding r.job r.key else s)
  | _ => .next s

end Sys2Proof.Machine
end

