-- ==== Sys2Proof/Machine/SampleOps.lean ====
section
/-! DEFINITION. Image sampling (R154, R155). -/

namespace Sys2Proof.Machine

/-- A sample descriptor (R154). -/
structure Image where
  base : Nat
  width : Nat
  height : Nat
  pitch : Nat
  fmt : Nat
  border : Bool
  value : Nat
deriving DecidableEq, Repr

/-- Bytes of a texel of a format. -/
def texelBytes (fmt : Nat) : Nat := if fmt == 0 then 4 else if fmt == 3 then 1 else 2

/-- A descriptor from its 32 bytes, and whether it keeps the rules (R154). -/
def imageOf (b : List Byte) : Option Image :=
  let f (o n : Nat) : Nat := leNat ((b.drop o).take n)
  let z := texelBytes (f 0x10 1)
  if f 0x10 1 ≤ 3 && f 0x11 1 ≤ 1 && f 0x12 2 == 0 && f 0x18 8 == 0 && f 0x08 2 != 0 && f 0x0A 2 != 0 &&
      f 0 8 % z == 0 && f 0x0C 4 % z == 0 then
    some { base := f 0 8, width := f 0x08 2, height := f 0x0A 2, pitch := f 0x0C 4, fmt := f 0x10 1,
           border := f 0x11 1 == 1, value := f 0x14 4 }
  else none

/-- Value of a texel's bytes, converted exactly (R155). -/
def texelVal (fmt v : Nat) : FVal :=
  if fmt == 0 then unpackF .fp32 v else if fmt == 1 then unpackF .fp16 v else if fmt == 2 then unpackF .bf16 v
  else intVal (v : Int)

/-- Floor of a dyadic number and what is left above it. -/
def floorV (neg : Bool) (m : Nat) (e : Int) : Int × FVal :=
  if 0 ≤ e then ((if neg then -((m * 2 ^ e.toNat : Nat) : Int) else ((m * 2 ^ e.toNat : Nat) : Int)), .num false 0 0)
  else
    let v : Int := if neg then -(m : Int) else (m : Int)
    let d : Int := (2 ^ (-e).toNat : Nat)
    (v / d, .num false (v % d).toNat e)

/-- One axis of a sample: texel index, weight and flags (R155). -/
def axisOf (c : Nat) : Int × FVal × Fl :=
  match unpackF .fp32 c with
  | .nan _ => (0, .num false 0 0, flNV)
  | .inf neg => ((if neg then -(2 ^ 31 : Int) else 2 ^ 31), .num false 0 0, 0)
  | .num neg m e =>
    let (d, f0) := addV .rne (.num neg m e) (.num true 1 (-1))
    let (r, f1) := roundArith .fp32 .rne d
    match unpackF .fp32 r with
    | .num n k q => let (i, f) := floorV n k q; (i, f, f0 ||| f1)
    | _ => (0, .num false 0 0, f0 ||| f1)

/-- An index kept inside an axis. -/
def clampTo (n : Nat) (i : Int) : Int := if i < 0 then 0 else if (n : Int) ≤ i then (n : Int) - 1 else i

/-- One texel read as a load of the thread (R155). -/
def State.texel (s : State) (key lane : Nat) (im : Image) (i0 j0 : Int) : Except Flt (State × FVal) :=
  let i := if im.border then i0 else clampTo im.width i0
  let j := if im.border then j0 else clampTo im.height j0
  if 0 ≤ i && i < im.width && 0 ≤ j && j < im.height then
    let n := texelBytes im.fmt
    match s.memRead key lane ((im.base + j.toNat * im.pitch + i.toNat * n) % 2 ^ 64) n with
    | .error f => .error f
    | .ok (s1, v) => .ok (s1, texelVal im.fmt v)
  else .ok (s, unpackF .fp32 im.value)

/-- `round(FP32, RNE, a + exact_prod(w, round(FP32, RNE, b - a)))` with its flags. -/
def lerp (w a b : FVal) : Nat × Fl :=
  let (d, f0) := addV .rne b (negV a)
  let (r, f1) := roundArith .fp32 .rne d
  let (p, f2) := mulV w (unpackF .fp32 r)
  let (t, f3) := addV .rne a p
  let (v, f4) := roundArith .fp32 .rne t
  (v, f0 ||| f1 ||| f2 ||| f3 ||| f4)

/-- The sample of a thread: bits and flags (R155). -/
def State.sampleAt (s : State) (key lane : Nat) (im : Image) (u v : Nat) : Except Flt (State × Word × Fl) :=
  let (i, fx, f0) := axisOf u
  let (j, fy, f1) := axisOf v
  match s.texel key lane im i j with
  | .error e => .error e
  | .ok (s1, a) =>
    match s1.texel key lane im (i + 1) j with
    | .error e => .error e
    | .ok (s2, b) =>
      match s2.texel key lane im i (j + 1) with
      | .error e => .error e
      | .ok (s3, c) =>
        match s3.texel key lane im (i + 1) (j + 1) with
        | .error e => .error e
        | .ok (s4, d) =>
          let (top, f2) := lerp fx a b
          let (bot, f3) := lerp fx c d
          let (r, f4) := lerp fy (unpackF .fp32 top) (unpackF .fp32 bot)
          .ok (s4, BitVec.ofNat 32 r, f0 ||| f1 ||| f2 ||| f3 ||| f4)

/-- sample (R154). -/
def State.sampleOp (s : State) (word d c i : Nat) : Host.Outcome State Fault Refusal :=
  s.issue { word := word, legal := 0x20, ssrc := [i], lsrc := [c, pairHi c], ldst := [d], pairs := [c] } fun is s sv lv =>
    let addr := (sval sv 0).toNat
    let bad : Eff := { st := s, faults := is.threads.map (·, fltOf 0x20 addr) }
    if addr % 32 != 0 then bad
    else
      match s.memRead is.key (is.threads.headD 0) addr 32 with
      | .error f => { st := s, faults := is.threads.map (·, f) }
      | .ok (s1, b) =>
        match imageOf (leBytes 32 b) with
        | none => bad
        | some im =>
          let r := eachLane s1 is.lanes fun s l =>
            match s.sampleAt is.key l im (lval lv 0 l).toNat (lval lv 1 l).toNat with
            | .error f => .error (.fault f)
            | .ok (s1, w, fl) => .ok (s1, (w, fl))
          stopped (r.1.fput is d r.2.1) is.key r.2.2

end Sys2Proof.Machine
end

