-- ==== Sys2Proof/Machine/Sync.lean ====
section
/-! DEFINITION. Waits, flags, barriers, futures, queue bindings and the vision workgroup instructions (R85, R92, R94, R147 to R155, R340 to R348). -/

namespace Sys2Proof.Machine

/-- RDV (R94). Waits for the stream's operations, then counts its arrival; the last arrival ends the job. -/
def execRdv (g : BitVec 4) (s : State) : Host.Outcome State Fault Refusal :=
  s.rendezvous (0x0000201F + put g 8) g

/-- WAIT (R92). Blocking wait on a clock, copy count, token count or queue condition. -/
def execWait (k : BitVec 3) (a : BitVec 6) (g : BitVec 4) (s : State) : Host.Outcome State Fault Refusal :=
  s.waitClass (0x0000401F + put k 26 + put a 20 + put g 8) k.toNat a.toNat

/-- QBIND (R85). Binds queue q8-q15 to a producer and consumer engine. -/
def execQbind (d : BitVec 6) (a : BitVec 6) (g : BitVec 4) (s : State) : Host.Outcome State Fault Refusal :=
  s.bindQueue (0x0001301F + put d 26 + put a 20 + put g 8) d.toNat a.toNat

/-- FINC (R341). Adds to a gang flag at the flag home. -/
def execFinc (x : BitVec 6) (y : BitVec 6) (g : BitVec 4) (s : State) : Host.Outcome State Fault Refusal :=
  s.flagSet (0x000000C7 + put x 26 + put y 20 + put g 8) x.toNat y.toNat true

/-- FSET (R341). Sets a gang flag at the flag home. -/
def execFset (x : BitVec 6) (y : BitVec 6) (g : BitVec 4) (s : State) : Host.Outcome State Fault Refusal :=
  s.flagSet (0x000010C7 + put x 26 + put y 20 + put g 8) x.toNat y.toNat false

/-- FWAIT (R341). Blocking wait until a flag reaches a threshold. -/
def execFwait (x : BitVec 6) (y : BitVec 6) (g : BitVec 4) (s : State) : Host.Outcome State Fault Refusal :=
  s.flagWait (0x000020C7 + put x 26 + put y 20 + put g 8) x.toNat y.toNat

/-- FREAD (R341). Reads a gang flag with acquire. -/
def execFread (x : BitVec 6) (y : BitVec 6) (g : BitVec 4) (s : State) : Host.Outcome State Fault Refusal :=
  s.flagGet (0x000030C7 + put x 26 + put y 20 + put g 8) x.toNat y.toNat

/-- BAR_INIT (R343). Initialises a barrier object. -/
def execBarInit (x : BitVec 6) (y : BitVec 6) (g : BitVec 4) (s : State) : Host.Outcome State Fault Refusal :=
  s.barrierOp (0x000000CB + put x 26 + put y 20 + put g 8) x.toNat y.toNat .write [x.toNat] [] barInit

/-- BAR_ARRIVE (R343). Arrives at a barrier phase and returns the phase. -/
def execBarArrive (x : BitVec 6) (y : BitVec 6) (g : BitVec 4) (s : State) : Host.Outcome State Fault Refusal :=
  s.barrierOp (0x000010CB + put x 26 + put y 20 + put g 8) x.toNat y.toNat .rmw [] [x.toNat] barArrive

/-- BAR_EXPECT (R343). Adds expected bytes to a barrier's pending count. -/
def execBarExpect (x : BitVec 6) (y : BitVec 6) (g : BitVec 4) (s : State) : Host.Outcome State Fault Refusal :=
  s.barrierOp (0x000020CB + put x 26 + put y 20 + put g 8) x.toNat y.toNat .rmw [x.toNat] [] barExpect

/-- BAR_WAIT (R343). Blocking wait until the barrier phase differs from the given one. -/
def execBarWait (x : BitVec 6) (y : BitVec 6) (g : BitVec 4) (s : State) : Host.Outcome State Fault Refusal :=
  s.barrierWait (0x000030CB + put x 26 + put y 20 + put g 8) x.toNat y.toNat

/-- FUT_RES (R346). Resolves a pending future and decrements any registered continuation. -/
def execFutRes (x : BitVec 6) (y : BitVec 6) (g : BitVec 4) (s : State) : Host.Outcome State Fault Refusal :=
  s.futureEnd (0x000000CF + put x 26 + put y 20 + put g 8) x.toNat y.toNat 1

/-- FUT_REG (R346). Registers a continuation card slot on a future. -/
def execFutReg (x : BitVec 6) (y : BitVec 6) (g : BitVec 4) (s : State) : Host.Outcome State Fault Refusal :=
  s.futureReg (0x000010CF + put x 26 + put y 20 + put g 8) x.toNat y.toNat

/-- FUT_FAIL (R346). Fails a pending future. -/
def execFutFail (x : BitVec 6) (y : BitVec 6) (g : BitVec 4) (s : State) : Host.Outcome State Fault Refusal :=
  s.futureEnd (0x000020CF + put x 26 + put y 20 + put g 8) x.toNat y.toNat 2

/-- FUT_GET (R346). Reads a future, optionally waiting until it is not pending. -/
def execFutGet (x : BitVec 6) (y : BitVec 6) (w : BitVec 1) (g : BitVec 4) (s : State) : Host.Outcome State Fault Refusal :=
  s.futureGet (0x000030CF + put x 26 + put y 20 + put w 14 + put g 8) x.toNat y.toNat (w == 1)

/-- WAITL (R348). Blocking wait until a location's value differs. -/
def execWaitl (v : BitVec 6) (a : BitVec 6) (z : BitVec 2) (g : BitVec 4) (s : State) : Host.Outcome State Fault Refusal :=
  s.waitLocation (0x000020FB + put v 26 + put a 20 + put z 14 + put g 8) v.toNat a.toNat z.toNat

/-- FETCHWG (R149). Asks the distributor to withdraw the next unplaced workgroup into a mailbox. -/
def execFetchwg (x : BitVec 6) (g : BitVec 4) (s : State) : Host.Outcome State Fault Refusal :=
  s.fetchGroup (0x000000F7 + put x 26 + put g 8) x.toNat

/-- XACQ (R147). Claims an extended register block for the wave, or queues for one. -/
def execXacq (g : BitVec 4) (s : State) : Host.Outcome State Fault Refusal :=
  s.acquireBlock (0x000010F7 + put g 8)

/-- XREL (R147). Returns the wave's extended block to the pool. -/
def execXrel (g : BitVec 4) (s : State) : Host.Outcome State Fault Refusal :=
  s.releaseBlock (0x000020F7 + put g 8)

/-- GBAR (R151). Grid-wide barrier at pkg scope. -/
def execGbar (g : BitVec 4) (s : State) : Host.Outcome State Fault Refusal :=
  s.gridBarrier (0x000030F7 + put g 8)

/-- WBAR (R150). Workgroup barrier. -/
def execWbar (g : BitVec 4) (s : State) : Host.Outcome State Fault Refusal :=
  s.groupBarrier (0x000000FB + put g 8)

/-- SAMPLE (R155). Bilinear image sample from a descriptor. -/
def execSample (d : BitVec 6) (c : BitVec 6) (im : BitVec 6) (g : BitVec 4) (s : State) : Host.Outcome State Fault Refusal :=
  s.sampleOp (0x000010FB + put d 26 + put c 20 + put im 14 + put g 8) d.toNat c.toNat im.toNat

end Sys2Proof.Machine
end

