-- ==== Sys2Proof/Machine/Dispatch.lean ====
section
/-! DEFINITION. The dispatch of an instruction to its meaning: one arm for each constructor of Instr. -/

namespace Sys2Proof.Machine

def exec (i : Instr) (s : State) : Host.Outcome State Fault Refusal :=
  match i with
  | .br o g => Sys2Proof.Machine.execBr o g s
  | .bz c o g => Sys2Proof.Machine.execBz c o g s
  | .bnz c o g => Sys2Proof.Machine.execBnz c o g s
  | .bp p o g => Sys2Proof.Machine.execBp p o g s
  | .bnp p o g => Sys2Proof.Machine.execBnp p o g s
  | .loop c o g => Sys2Proof.Machine.execLoop c o g s
  | .call c o g => Sys2Proof.Machine.execCall c o g s
  | .nop g => Sys2Proof.Machine.execNop g s
  | .halt g => Sys2Proof.Machine.execHalt g s
  | .rdv g => Sys2Proof.Machine.execRdv g s
  | .yield g => Sys2Proof.Machine.execYield g s
  | .wait k a g => Sys2Proof.Machine.execWait k a g s
  | .jr a g => Sys2Proof.Machine.execJr a g s
  | .trap n g => Sys2Proof.Machine.execTrap n g s
  | .eret g => Sys2Proof.Machine.execEret g s
  | .hold n g => Sys2Proof.Machine.execHold n g s
  | .unhold g => Sys2Proof.Machine.execUnhold g s
  | .srd d r g => Sys2Proof.Machine.execSrd d r g s
  | .swr r a g => Sys2Proof.Machine.execSwr r a g s
  | .prof k a g => Sys2Proof.Machine.execProf k a g s
  | .rdtime d g => Sys2Proof.Machine.execRdtime d g s
  | .rdcyc d g => Sys2Proof.Machine.execRdcyc d g s
  | .exit g => Sys2Proof.Machine.execExit g s
  | .are g => Sys2Proof.Machine.execAre g s
  | .arx g => Sys2Proof.Machine.execArx g s
  | .ret a g => Sys2Proof.Machine.execRet a g s
  | .qbind d a g => Sys2Proof.Machine.execQbind d a g s
  | .qbindTakesEffect core ctx eng => Sys2Proof.Machine.execQbindTakesEffect core ctx eng s
  | .add d a b g => Sys2Proof.Machine.execAdd d a b g s
  | .sub d a b g => Sys2Proof.Machine.execSub d a b g s
  | .and d a b g => Sys2Proof.Machine.execAnd d a b g s
  | .or d a b g => Sys2Proof.Machine.execOr d a b g s
  | .xor d a b g => Sys2Proof.Machine.execXor d a b g s
  | .shl d a b g => Sys2Proof.Machine.execShl d a b g s
  | .shr d a b g => Sys2Proof.Machine.execShr d a b g s
  | .sra d a b g => Sys2Proof.Machine.execSra d a b g s
  | .mul d a b g => Sys2Proof.Machine.execMul d a b g s
  | .mulh d a b g => Sys2Proof.Machine.execMulh d a b g s
  | .mulhu d a b g => Sys2Proof.Machine.execMulhu d a b g s
  | .mad d a b g => Sys2Proof.Machine.execMad d a b g s
  | .min d a b g => Sys2Proof.Machine.execMin d a b g s
  | .max d a b g => Sys2Proof.Machine.execMax d a b g s
  | .minu d a b g => Sys2Proof.Machine.execMinu d a b g s
  | .maxu d a b g => Sys2Proof.Machine.execMaxu d a b g s
  | .div d a b g => Sys2Proof.Machine.execDiv d a b g s
  | .divu d a b g => Sys2Proof.Machine.execDivu d a b g s
  | .rem d a b g => Sys2Proof.Machine.execRem d a b g s
  | .remu d a b g => Sys2Proof.Machine.execRemu d a b g s
  | .seq d a b g => Sys2Proof.Machine.execSeq d a b g s
  | .slt d a b g => Sys2Proof.Machine.execSlt d a b g s
  | .sltu d a b g => Sys2Proof.Machine.execSltu d a b g s
  | .sel d a b g => Sys2Proof.Machine.execSel d a b g s
  | .addi d a im g => Sys2Proof.Machine.execAddi d a im g s
  | .andi d a im g => Sys2Proof.Machine.execAndi d a im g s
  | .shli d a im g => Sys2Proof.Machine.execShli d a im g s
  | .shri d a im g => Sys2Proof.Machine.execShri d a im g s
  | .li d k g => Sys2Proof.Machine.execLi d k g s
  | .lsi d k g => Sys2Proof.Machine.execLsi d k g s
  | .clz d a g => Sys2Proof.Machine.execClz d a g s
  | .ctz d a g => Sys2Proof.Machine.execCtz d a g s
  | .popc d a g => Sys2Proof.Machine.execPopc d a g s
  | .not d a g => Sys2Proof.Machine.execNot d a g s
  | .neg d a g => Sys2Proof.Machine.execNeg d a g s
  | .sext8 d a g => Sys2Proof.Machine.execSext8 d a g s
  | .sext16 d a g => Sys2Proof.Machine.execSext16 d a g s
  | .sext32 d a g => Sys2Proof.Machine.execSext32 d a g s
  | .zext8 d a g => Sys2Proof.Machine.execZext8 d a g s
  | .zext16 d a g => Sys2Proof.Machine.execZext16 d a g s
  | .zext32 d a g => Sys2Proof.Machine.execZext32 d a g s
  | .bswap d a g => Sys2Proof.Machine.execBswap d a g s
  | .addLane d a b g => Sys2Proof.Machine.execAddLane d a b g s
  | .subLane d a b g => Sys2Proof.Machine.execSubLane d a b g s
  | .andLane d a b g => Sys2Proof.Machine.execAndLane d a b g s
  | .orLane d a b g => Sys2Proof.Machine.execOrLane d a b g s
  | .xorLane d a b g => Sys2Proof.Machine.execXorLane d a b g s
  | .shlLane d a b g => Sys2Proof.Machine.execShlLane d a b g s
  | .shrLane d a b g => Sys2Proof.Machine.execShrLane d a b g s
  | .sraLane d a b g => Sys2Proof.Machine.execSraLane d a b g s
  | .mulLane d a b g => Sys2Proof.Machine.execMulLane d a b g s
  | .mulhLane d a b g => Sys2Proof.Machine.execMulhLane d a b g s
  | .mulhuLane d a b g => Sys2Proof.Machine.execMulhuLane d a b g s
  | .madLane d a b g => Sys2Proof.Machine.execMadLane d a b g s
  | .minLane d a b g => Sys2Proof.Machine.execMinLane d a b g s
  | .maxLane d a b g => Sys2Proof.Machine.execMaxLane d a b g s
  | .minuLane d a b g => Sys2Proof.Machine.execMinuLane d a b g s
  | .maxuLane d a b g => Sys2Proof.Machine.execMaxuLane d a b g s
  | .addiLane d a im g => Sys2Proof.Machine.execAddiLane d a im g s
  | .andiLane d a im g => Sys2Proof.Machine.execAndiLane d a im g s
  | .shliLane d a im g => Sys2Proof.Machine.execShliLane d a im g s
  | .shriLane d a im g => Sys2Proof.Machine.execShriLane d a im g s
  | .clzLane d a g => Sys2Proof.Machine.execClzLane d a g s
  | .popcLane d a g => Sys2Proof.Machine.execPopcLane d a g s
  | .notLane d a g => Sys2Proof.Machine.execNotLane d a g s
  | .negLane d a g => Sys2Proof.Machine.execNegLane d a g s
  | .abs d a g => Sys2Proof.Machine.execAbs d a g s
  | .sext8Lane d a g => Sys2Proof.Machine.execSext8Lane d a g s
  | .sext16Lane d a g => Sys2Proof.Machine.execSext16Lane d a g s
  | .zext8Lane d a g => Sys2Proof.Machine.execZext8Lane d a g s
  | .zext16Lane d a g => Sys2Proof.Machine.execZext16Lane d a g s
  | .bswapLane d a g => Sys2Proof.Machine.execBswapLane d a g s
  | .cmpEq d a b g => Sys2Proof.Machine.execCmpEq d a b g s
  | .cmpLt d a b g => Sys2Proof.Machine.execCmpLt d a b g s
  | .cmpLtu d a b g => Sys2Proof.Machine.execCmpLtu d a b g s
  | .cmpNe d a b g => Sys2Proof.Machine.execCmpNe d a b g s
  | .fadd d a b f g => Sys2Proof.Machine.execFadd d a b f g s
  | .fsub d a b f g => Sys2Proof.Machine.execFsub d a b f g s
  | .fmul d a b f g => Sys2Proof.Machine.execFmul d a b f g s
  | .ffma d a b f g => Sys2Proof.Machine.execFfma d a b f g s
  | .fmin d a b f g => Sys2Proof.Machine.execFmin d a b f g s
  | .fmax d a b f g => Sys2Proof.Machine.execFmax d a b f g s
  | .fcmp c p a b f g => Sys2Proof.Machine.execFcmp c p a b f g s
  | .fsqrt d a f g => Sys2Proof.Machine.execFsqrt d a f g s
  | .frcp d a f g => Sys2Proof.Machine.execFrcp d a f g s
  | .frsq d a f g => Sys2Proof.Machine.execFrsq d a f g s
  | .fexp2 d a f g => Sys2Proof.Machine.execFexp2 d a f g s
  | .flog2 d a f g => Sys2Proof.Machine.execFlog2 d a f g s
  | .fsin d a f g => Sys2Proof.Machine.execFsin d a f g s
  | .fcos d a f g => Sys2Proof.Machine.execFcos d a f g s
  | .fabs d a f g => Sys2Proof.Machine.execFabs d a f g s
  | .fneg d a f g => Sys2Proof.Machine.execFneg d a f g s
  | .ffloor d a f g => Sys2Proof.Machine.execFfloor d a f g s
  | .fceil d a f g => Sys2Proof.Machine.execFceil d a f g s
  | .ftrunc d a f g => Sys2Proof.Machine.execFtrunc d a f g s
  | .fround d a f g => Sys2Proof.Machine.execFround d a f g s
  | .fclass d a f g => Sys2Proof.Machine.execFclass d a f g s
  | .cvt d a n r g => Sys2Proof.Machine.execCvt d a n r g s
  | .xlGet d a b g => Sys2Proof.Machine.execXlGet d a b g s
  | .xlSh d a b g => Sys2Proof.Machine.execXlSh d a b g s
  | .xlRot d a b g => Sys2Proof.Machine.execXlRot d a b g s
  | .xlXor d a b g => Sys2Proof.Machine.execXlXor d a b g s
  | .xliGet d a im g => Sys2Proof.Machine.execXliGet d a im g s
  | .xliSh d a im g => Sys2Proof.Machine.execXliSh d a im g s
  | .xliRot d a im g => Sys2Proof.Machine.execXliRot d a im g s
  | .xliXor d a im g => Sys2Proof.Machine.execXliXor d a im g s
  | .rfal d a g => Sys2Proof.Machine.execRfal d a g s
  | .ballot d p g => Sys2Proof.Machine.execBallot d p g s
  | .vany d p g => Sys2Proof.Machine.execVany d p g s
  | .vall d p g => Sys2Proof.Machine.execVall d p g s
  | .pcount d p g => Sys2Proof.Machine.execPcount d p g s
  | .movs d a g => Sys2Proof.Machine.execMovs d a g s
  | .mov d a g => Sys2Proof.Machine.execMov d a g s
  | .laneid d g => Sys2Proof.Machine.execLaneid d g s
  | .vredadd d a g => Sys2Proof.Machine.execVredadd d a g s
  | .vredmin d a g => Sys2Proof.Machine.execVredmin d a g s
  | .vredmax d a g => Sys2Proof.Machine.execVredmax d a g s
  | .fredadd d a g => Sys2Proof.Machine.execFredadd d a g s
  | .pand d a b g => Sys2Proof.Machine.execPand d a b g s
  | .por d a b g => Sys2Proof.Machine.execPor d a b g s
  | .pxor d a b g => Sys2Proof.Machine.execPxor d a b g s
  | .pandn d a b g => Sys2Proof.Machine.execPandn d a b g s
  | .ld d s1 o z g => Sys2Proof.Machine.execLd d s1 o z g s
  | .st d s1 o z g => Sys2Proof.Machine.execSt d s1 o z g s
  | .ldg d a b g => Sys2Proof.Machine.execLdg d a b g s
  | .stg d a b g => Sys2Proof.Machine.execStg d a b g s
  | .ldg16 d a b g => Sys2Proof.Machine.execLdg16 d a b g s
  | .stg16 d a b g => Sys2Proof.Machine.execStg16 d a b g s
  | .lds d s1 o z g => Sys2Proof.Machine.execLds d s1 o z g s
  | .sts d s1 o z g => Sys2Proof.Machine.execSts d s1 o z g s
  | .ldsAcq d s1 o g => Sys2Proof.Machine.execLdsAcq d s1 o g s
  | .stsRel d s1 o g => Sys2Proof.Machine.execStsRel d s1 o g s
  | .fenceAcq s1 g => Sys2Proof.Machine.execFenceAcq s1 g s
  | .fenceRel s1 g => Sys2Proof.Machine.execFenceRel s1 g s
  | .fenceAr s1 g => Sys2Proof.Machine.execFenceAr s1 g s
  | .fenceSc s1 g => Sys2Proof.Machine.execFenceSc s1 g s
  | .qsync g => Sys2Proof.Machine.execQsync g s
  | .afence g => Sys2Proof.Machine.execAfence g s
  | .cclean n a g => Sys2Proof.Machine.execCclean n a g s
  | .cflush n a g => Sys2Proof.Machine.execCflush n a g s
  | .cinv n a g => Sys2Proof.Machine.execCinv n a g s
  | .prefetch n a g => Sys2Proof.Machine.execPrefetch n a g s
  | .atomAdd d a b g => Sys2Proof.Machine.execAtomAdd d a b g s
  | .atomAnd d a b g => Sys2Proof.Machine.execAtomAnd d a b g s
  | .atomOr d a b g => Sys2Proof.Machine.execAtomOr d a b g s
  | .atomXor d a b g => Sys2Proof.Machine.execAtomXor d a b g s
  | .atomMin d a b g => Sys2Proof.Machine.execAtomMin d a b g s
  | .atomMax d a b g => Sys2Proof.Machine.execAtomMax d a b g s
  | .atomMinu d a b g => Sys2Proof.Machine.execAtomMinu d a b g s
  | .atomMaxu d a b g => Sys2Proof.Machine.execAtomMaxu d a b g s
  | .atomXchg d a b g => Sys2Proof.Machine.execAtomXchg d a b g s
  | .atomCas d a b g => Sys2Proof.Machine.execAtomCas d a b g s
  | .atomFaddF32 d a b g => Sys2Proof.Machine.execAtomFaddF32 d a b g s
  | .atomFaddBf16x2 d a b g => Sys2Proof.Machine.execAtomFaddBf16x2 d a b g s
  | .redAdd a b g => Sys2Proof.Machine.execRedAdd a b g s
  | .redAnd a b g => Sys2Proof.Machine.execRedAnd a b g s
  | .redOr a b g => Sys2Proof.Machine.execRedOr a b g s
  | .redXor a b g => Sys2Proof.Machine.execRedXor a b g s
  | .redMin a b g => Sys2Proof.Machine.execRedMin a b g s
  | .redMax a b g => Sys2Proof.Machine.execRedMax a b g s
  | .redMinu a b g => Sys2Proof.Machine.execRedMinu a b g s
  | .redMaxu a b g => Sys2Proof.Machine.execRedMaxu a b g s
  | .redXchg a b g => Sys2Proof.Machine.execRedXchg a b g s
  | .redCas a b g => Sys2Proof.Machine.execRedCas a b g s
  | .redFaddF32 a b g => Sys2Proof.Machine.execRedFaddF32 a b g s
  | .redFaddBf16x2 a b g => Sys2Proof.Machine.execRedFaddBf16x2 a b g s
  | .arb o g => Sys2Proof.Machine.execArb o g s
  | .finc x y g => Sys2Proof.Machine.execFinc x y g s
  | .fset x y g => Sys2Proof.Machine.execFset x y g s
  | .fwait x y g => Sys2Proof.Machine.execFwait x y g s
  | .fread x y g => Sys2Proof.Machine.execFread x y g s
  | .flagUpdate id => Sys2Proof.Machine.execFlagUpdate id s
  | .barInit x y g => Sys2Proof.Machine.execBarInit x y g s
  | .barArrive x y g => Sys2Proof.Machine.execBarArrive x y g s
  | .barExpect x y g => Sys2Proof.Machine.execBarExpect x y g s
  | .barWait x y g => Sys2Proof.Machine.execBarWait x y g s
  | .futRes x y g => Sys2Proof.Machine.execFutRes x y g s
  | .futReg x y g => Sys2Proof.Machine.execFutReg x y g s
  | .futFail x y g => Sys2Proof.Machine.execFutFail x y g s
  | .futGet x y w g => Sys2Proof.Machine.execFutGet x y w g s
  | .ldt x y z g => Sys2Proof.Machine.execLdt x y z g s
  | .stt x y z g => Sys2Proof.Machine.execStt x y z g s
  | .copy x y z g => Sys2Proof.Machine.execCopy x y z g s
  | .copyResume x g => Sys2Proof.Machine.execCopyResume x g s
  | .copyCk x y z g => Sys2Proof.Machine.execCopyCk x y z g s
  | .copyCkv x y z g => Sys2Proof.Machine.execCopyCkv x y z g s
  | .copyRed x y z g => Sys2Proof.Machine.execCopyRed x y z g s
  | .copyMc x y z g => Sys2Proof.Machine.execCopyMc x y z g s
  | .trec d r b g => Sys2Proof.Machine.execTrec d r b g s
  | .copyCompletion id => Sys2Proof.Machine.execCopyCompletion id s
  | .copyElementFault id => Sys2Proof.Machine.execCopyElementFault id s
  | .deferredFaultDelivery core ctx eng => Sys2Proof.Machine.execDeferredFaultDelivery core ctx eng s
  | .rclaim x n g => Sys2Proof.Machine.execRclaim x n g s
  | .rfill x n g => Sys2Proof.Machine.execRfill x n g s
  | .rwaitf x n g => Sys2Proof.Machine.execRwaitf x n g s
  | .rwaite n g => Sys2Proof.Machine.execRwaite n g s
  | .rfree x n g => Sys2Proof.Machine.execRfree x n g s
  | .rbind k a g => Sys2Proof.Machine.execRbind k a g s
  | .rpush s1 p g => Sys2Proof.Machine.execRpush s1 p g s
  | .rinit a n g => Sys2Proof.Machine.execRinit a n g s
  | .rpushDeliveryArrival id => Sys2Proof.Machine.execRpushDeliveryArrival id s
  | .rpushDeliveryAccept id => Sys2Proof.Machine.execRpushDeliveryAccept id s
  | .rpushCompletion id => Sys2Proof.Machine.execRpushCompletion id s
  | .ringElementDelivery id => Sys2Proof.Machine.execRingElementDelivery id s
  | .mma m a e c s1 z b t g => Sys2Proof.Machine.execMma m a e c s1 z b t g s
  | .mmaP24 m a e c s1 z b t g => Sys2Proof.Machine.execMmaP24 m a e c s1 z b t g s
  | .mmar m a e c s1 z b t g => Sys2Proof.Machine.execMmar m a e c s1 z b t g s
  | .mmarP24 m a e c s1 z b t g => Sys2Proof.Machine.execMmarP24 m a e c s1 z b t g s
  | .shp n y g => Sys2Proof.Machine.execShp n y g s
  | .accld n y g => Sys2Proof.Machine.execAccld n y g s
  | .acczero n g => Sys2Proof.Machine.execAcczero n g s
  | .accrd im a d c r g => Sys2Proof.Machine.execAccrd im a d c r g s
  | .amul d a b g => Sys2Proof.Machine.execAmul d a b g s
  | .aconj d a g => Sys2Proof.Machine.execAconj d a g s
  | .anorm d a g => Sys2Proof.Machine.execAnorm d a g s
  | .compress d a f g => Sys2Proof.Machine.execCompress d a f g s
  | .accumulatorRetirement core ctx => Sys2Proof.Machine.execAccumulatorRetirement core ctx s
  | .readoutCompletion id => Sys2Proof.Machine.execReadoutCompletion id s
  | .wload p a c g => Sys2Proof.Machine.execWload p a c g s
  | .tma p n z u s1 g => Sys2Proof.Machine.execTma p n z u s1 g s
  | .tmard o s1 w a d g => Sys2Proof.Machine.execTmard o s1 w a d g s
  | .wstat d s1 g => Sys2Proof.Machine.execWstat d s1 g s
  | .wloadRetirement core ctx => Sys2Proof.Machine.execWloadRetirement core ctx s
  | .columnAccumulatorRetirement core ctx => Sys2Proof.Machine.execColumnAccumulatorRetirement core ctx s
  | .route v y g => Sys2Proof.Machine.execRoute v y g s
  | .rret s1 h g => Sys2Proof.Machine.execRret s1 h g s
  | .rasm d n g => Sys2Proof.Machine.execRasm d n g s
  | .rport y g => Sys2Proof.Machine.execRport y g s
  | .rportKey y g => Sys2Proof.Machine.execRportKey y g s
  | .rportRel y g => Sys2Proof.Machine.execRportRel y g s
  | .rportRetirement core ctx eng => Sys2Proof.Machine.execRportRetirement core ctx eng s
  | .routeReturnArrival id => Sys2Proof.Machine.execRouteReturnArrival id s
  | .routeDeadline core entry => Sys2Proof.Machine.execRouteDeadline core entry s
  | .routeTimeoutNotification core ctx eng => Sys2Proof.Machine.execRouteTimeoutNotification core ctx eng s
  | .rretCompletion id => Sys2Proof.Machine.execRretCompletion id s
  | .fetchwg x g => Sys2Proof.Machine.execFetchwg x g s
  | .xacq g => Sys2Proof.Machine.execXacq g s
  | .xrel g => Sys2Proof.Machine.execXrel g s
  | .gbar g => Sys2Proof.Machine.execGbar g s
  | .wbar g => Sys2Proof.Machine.execWbar g s
  | .sample d c im g => Sys2Proof.Machine.execSample d c im g s
  | .waitl v a z g => Sys2Proof.Machine.execWaitl v a z g s
  | .waitlTimeout who => Sys2Proof.Machine.execWaitlTimeout who s
  | .waitlWatchLost who => Sys2Proof.Machine.execWaitlWatchLost who s
  | .addLaneShort d a s1 => Sys2Proof.Machine.execAddLaneShort d a s1 s
  | .subLaneShort d a s1 => Sys2Proof.Machine.execSubLaneShort d a s1 s
  | .andLaneShort d a s1 => Sys2Proof.Machine.execAndLaneShort d a s1 s
  | .orLaneShort d a s1 => Sys2Proof.Machine.execOrLaneShort d a s1 s
  | .xorLaneShort d a s1 => Sys2Proof.Machine.execXorLaneShort d a s1 s
  | .shlLaneShort d a s1 => Sys2Proof.Machine.execShlLaneShort d a s1 s
  | .shrLaneShort d a s1 => Sys2Proof.Machine.execShrLaneShort d a s1 s
  | .sraLaneShort d a s1 => Sys2Proof.Machine.execSraLaneShort d a s1 s
  | .mulLaneShort d a s1 => Sys2Proof.Machine.execMulLaneShort d a s1 s
  | .minLaneShort d a s1 => Sys2Proof.Machine.execMinLaneShort d a s1 s
  | .maxLaneShort d a s1 => Sys2Proof.Machine.execMaxLaneShort d a s1 s
  | .minuLaneShort d a s1 => Sys2Proof.Machine.execMinuLaneShort d a s1 s
  | .maxuLaneShort d a s1 => Sys2Proof.Machine.execMaxuLaneShort d a s1 s
  | .faddF32Short d a s1 => Sys2Proof.Machine.execFaddF32Short d a s1 s
  | .fsubF32Short d a s1 => Sys2Proof.Machine.execFsubF32Short d a s1 s
  | .fmulF32Short d a s1 => Sys2Proof.Machine.execFmulF32Short d a s1 s
  | .ffmaF32Short d a s1 => Sys2Proof.Machine.execFfmaF32Short d a s1 s
  | .fminF32Short d a s1 => Sys2Proof.Machine.execFminF32Short d a s1 s
  | .fmaxF32Short d a s1 => Sys2Proof.Machine.execFmaxF32Short d a s1 s
  | .faddF16Short d a s1 => Sys2Proof.Machine.execFaddF16Short d a s1 s
  | .fmulF16Short d a s1 => Sys2Proof.Machine.execFmulF16Short d a s1 s
  | .ffmaF16Short d a s1 => Sys2Proof.Machine.execFfmaF16Short d a s1 s
  | .faddBf16Short d a s1 => Sys2Proof.Machine.execFaddBf16Short d a s1 s
  | .fmulBf16Short d a s1 => Sys2Proof.Machine.execFmulBf16Short d a s1 s
  | .ffmaBf16Short d a s1 => Sys2Proof.Machine.execFfmaBf16Short d a s1 s
  | .movShort d a => Sys2Proof.Machine.execMovShort d a s
  | .negLaneShort d a => Sys2Proof.Machine.execNegLaneShort d a s
  | .notLaneShort d a => Sys2Proof.Machine.execNotLaneShort d a s
  | .absShort d a => Sys2Proof.Machine.execAbsShort d a s
  | .fnegF32Short d a => Sys2Proof.Machine.execFnegF32Short d a s
  | .fabsF32Short d a => Sys2Proof.Machine.execFabsF32Short d a s
  | .addShort d x => Sys2Proof.Machine.execAddShort d x s
  | .subShort d x => Sys2Proof.Machine.execSubShort d x s
  | .andShort d x => Sys2Proof.Machine.execAndShort d x s
  | .orShort d x => Sys2Proof.Machine.execOrShort d x s
  | .xorShort d x => Sys2Proof.Machine.execXorShort d x s
  | .shlShort d x => Sys2Proof.Machine.execShlShort d x s
  | .shrShort d x => Sys2Proof.Machine.execShrShort d x s
  | .sraShort d x => Sys2Proof.Machine.execSraShort d x s
  | .mv d x => Sys2Proof.Machine.execMv d x s
  | .addiShort d im => Sys2Proof.Machine.execAddiShort d im s
  | .liShort d im => Sys2Proof.Machine.execLiShort d im s
  | .shliShort d im => Sys2Proof.Machine.execShliShort d im s
  | .shriShort d im => Sys2Proof.Machine.execShriShort d im s
  | .andiShort d im => Sys2Proof.Machine.execAndiShort d im s
  | .negShort d x => Sys2Proof.Machine.execNegShort d x s
  | .notShort d x => Sys2Proof.Machine.execNotShort d x s
  | .nopShort g => Sys2Proof.Machine.execNopShort g s
  | .yieldShort => Sys2Proof.Machine.execYieldShort s
  | .stamp s1 => Sys2Proof.Machine.execStamp s1 s
  | .amod c p s1 o => Sys2Proof.Machine.execAmod c p s1 o s
  | .stampedIssue core ctx => Sys2Proof.Machine.execStampedIssue core ctx s
  | .stallRelease core ctx eng => Sys2Proof.Machine.execStallRelease core ctx eng s
  | .blockingWaitEnd who => Sys2Proof.Machine.execBlockingWaitEnd who s
  | .pendingPushDrain core ctx eng => Sys2Proof.Machine.execPendingPushDrain core ctx eng s
  | .holdRegionExpiry core ctx eng => Sys2Proof.Machine.execHoldRegionExpiry core ctx eng s
  | .holdOverrun core ctx eng => Sys2Proof.Machine.execHoldOverrun core ctx eng s
  | .dspSubmitSv addr => Sys2Proof.Machine.execDspSubmitSv addr s
  | .dspSubmitSi addr => Sys2Proof.Machine.execDspSubmitSi addr s
  | .dspWithdraw value => Sys2Proof.Machine.execDspWithdraw value s
  | .dspTimeSet value => Sys2Proof.Machine.execDspTimeSet value s
  | .dspTpairNsRead agent => Sys2Proof.Machine.execDspTpairNsRead agent s
  | .timePairCapture => Sys2Proof.Machine.execTimePairCapture s
  | .ptpDiscipline rate => Sys2Proof.Machine.execPtpDiscipline rate s
  | .cardQueueScan => Sys2Proof.Machine.execCardQueueScan s
  | .jobRelease slot => Sys2Proof.Machine.execJobRelease slot s
  | .dispatcherEvaluation => Sys2Proof.Machine.execDispatcherEvaluation s
  | .evictionSaveComplete slot => Sys2Proof.Machine.execEvictionSaveComplete slot s
  | .hingeFallback core ctx eng => Sys2Proof.Machine.execHingeFallback core ctx eng s
  | .jobRestore slot => Sys2Proof.Machine.execJobRestore slot s
  | .deadlineMiss slot => Sys2Proof.Machine.execDeadlineMiss slot s
  | .deadlineMissException who => Sys2Proof.Machine.execDeadlineMissException who s
  | .regionClearDone id => Sys2Proof.Machine.execRegionClearDone id s
  | .pageClearDone id => Sys2Proof.Machine.execPageClearDone id s
  | .workgroupPlacement slot => Sys2Proof.Machine.execWorkgroupPlacement slot s
  | .kernelClassification slot => Sys2Proof.Machine.execKernelClassification slot s
  | .fetchwgAnswer id => Sys2Proof.Machine.execFetchwgAnswer id s
  | .gets id => Sys2Proof.Machine.execGets id s
  | .getm id => Sys2Proof.Machine.execGetm id s
  | .upg id => Sys2Proof.Machine.execUpg id s
  | .puts id => Sys2Proof.Machine.execPuts id s
  | .putm id => Sys2Proof.Machine.execPutm id s
  | .puto id => Sys2Proof.Machine.execPuto id s
  | .atomFar id => Sys2Proof.Machine.execAtomFar id s
  | .homeRead id => Sys2Proof.Machine.execHomeRead id s
  | .homeWrite id => Sys2Proof.Machine.execHomeWrite id s
  | .recalledData id => Sys2Proof.Machine.execRecalledData id s
  | .inv id => Sys2Proof.Machine.execInv id s
  | .fwdGets id => Sys2Proof.Machine.execFwdGets id s
  | .fwdGetm id => Sys2Proof.Machine.execFwdGetm id s
  | .data id => Sys2Proof.Machine.execData id s
  | .grant id => Sys2Proof.Machine.execGrant id s
  | .putAck id => Sys2Proof.Machine.execPutAck id s
  | .nackMoved id => Sys2Proof.Machine.execNackMoved id s
  | .atomResp id => Sys2Proof.Machine.execAtomResp id s
  | .invAck id => Sys2Proof.Machine.execInvAck id s
  | .probeMiss id => Sys2Proof.Machine.execProbeMiss id s
  | .sliceFill id => Sys2Proof.Machine.execSliceFill id s
  | .kolteLinkFailure peer => Sys2Proof.Machine.execKolteLinkFailure peer s
  | .migrationStart entry => Sys2Proof.Machine.execMigrationStart entry s
  | .migrationUnitCopy entry => Sys2Proof.Machine.execMigrationUnitCopy entry s
  | .translationWalk who va => Sys2Proof.Machine.execTranslationWalk who va s
  | .xltInvPage value => Sys2Proof.Machine.execXltInvPage value s
  | .xltInvPartition value => Sys2Proof.Machine.execXltInvPartition value s
  | .xltInvAll value => Sys2Proof.Machine.execXltInvAll value s
  | .xltInvDone => Sys2Proof.Machine.execXltInvDone s
  | .sectorRequest id => Sys2Proof.Machine.execSectorRequest id s
  | .regulatorWindowStart partition => Sys2Proof.Machine.execRegulatorWindowStart partition s
  | .budgetOverrunException who => Sys2Proof.Machine.execBudgetOverrunException who s
  | .escCmdResume value => Sys2Proof.Machine.execEscCmdResume value s
  | .escCmdEnd value => Sys2Proof.Machine.execEscCmdEnd value s
  | .escFreezeTile value => Sys2Proof.Machine.execEscFreezeTile value s
  | .escFreezeVis value => Sys2Proof.Machine.execEscFreezeVis value s
  | .freezeComplete core => Sys2Proof.Machine.execFreezeComplete core s
  | .siCmdRestart value => Sys2Proof.Machine.execSiCmdRestart value s
  | .domainRestartStart => Sys2Proof.Machine.execDomainRestartStart s
  | .domainRestartDone => Sys2Proof.Machine.execDomainRestartDone s
  | .siPlimitWrite value => Sys2Proof.Machine.execSiPlimitWrite value s
  | .siAttestWrite value => Sys2Proof.Machine.execSiAttestWrite value s
  | .attestationReport => Sys2Proof.Machine.execAttestationReport s
  | .siErrclr value => Sys2Proof.Machine.execSiErrclr value s
  | .lockstepMismatch => Sys2Proof.Machine.execLockstepMismatch s
  | .islandRestartDone => Sys2Proof.Machine.execIslandRestartDone s
  | .resetNRelease => Sys2Proof.Machine.execResetNRelease s
  | .bringupStageDone ok => Sys2Proof.Machine.execBringupStageDone ok s
  | .thermtrip => Sys2Proof.Machine.execThermtrip s
  | .monitorCrossing monitor reading => Sys2Proof.Machine.execMonitorCrossing monitor reading s
  | .correctableError unit => Sys2Proof.Machine.execCorrectableError unit s
  | .uncorrectableError id => Sys2Proof.Machine.execUncorrectableError id s
  | .ingestFrame id => Sys2Proof.Machine.execIngestFrame id s
  | .registerWrite addr value => Sys2Proof.Machine.execRegisterWrite addr value s
  | .powerCycle => Sys2Proof.Machine.execPowerCycle s
  | .domainSelfCheckFailure domain => Sys2Proof.Machine.execDomainSelfCheckFailure domain s
  | .ingestStreamEnable stream => Sys2Proof.Machine.execIngestStreamEnable stream s

end Sys2Proof.Machine
end

