-- ==== Sys2Proof/Machine/Turns.lean ====
section
/-! DEFINITION. The turns of the agents: fetching and performing the word at a program counter (R40 to R43, R74), the choice
of a context by an engine (R76 to R78, R95, R101, R119), stops for eviction at a boundary (R120 to R123), and the turns of
waves (R141 to R143). -/

namespace Sys2Proof.Machine

noncomputable section

/-! ### The word at a program counter -/

/-- The word that a stream or thread stands at, and its halfwords; a long word cut off by the end of the body raises reason 5
(R40, R43). -/
def State.fetchWord (s : State) (key lane : Nat) : Except Flt (State × Nat × Nat) :=
  let c := s.ctlAt key lane
  match s.bodyHalf key lane c.pc with
  | .error f => .error f
  | .ok (s1, h0) =>
    if !isLong h0 then .ok (s1, h0.toNat, 1)
    else if c.lastInBody 1 then .error (fltOf 0x04 (framingInfo h0.toNat 5))
    else
      match s1.bodyHalf key lane (c.pc + 2) with
      | .error f => .error f
      | .ok (s2, h1) => .ok (s2, h0.toNat + 65536 * h1.toNat, 2)

/-- Whether the bits of a word name a blocking wait, whatever its other fields (R43, R49 to R51). -/
def waitWord (half w : Nat) : Bool :=
  let maj := bitsN w 2 6
  let f := bitsN w 12 2
  let m := bitsN w 12 8
  half == 2 && ((maj == 0x07 && m == 4) || (maj == 0x31 && f == 2) || (maj == 0x32 && f == 3) ||
    (maj == 0x33 && f == 3 && bitN w 14) || (maj == 0x36 && 2 ≤ f) || (maj == 0x3C && f == 2) ||
    (maj == 0x3D && (f == 1 || f == 3)) || (maj == 0x3E && (f == 0 || f == 2)))

/-- Whether the bits of a word name an atomic or a fence (R49, R51, R55). -/
def unitWord (half w : Nat) : Bool :=
  let maj := bitsN w 2 6
  half == 2 && ((0x2D ≤ maj && maj ≤ 0x2F) || (maj == 0x2C && bitsN w 12 8 < 16))

/-- A word that is no instruction raises its fault where it is issued: of its block framing what its bits name, and the
legality of rport where its port is none (R43, R49, R57, R58, R263). -/
def State.performBad (s : State) (e : DecodeError) (word half : Nat) : Host.Outcome State Fault Refusal :=
  let operand := e == .illegalOperand
  let port := half == 2 && bitsN word 2 6 == 0x3C
  s.issue { word := word, half := half, legal := if port then 0x13 else onAll, ill := !operand, bad := operand,
            wait := waitWord half word, notLast := half == 1 && bitsN word 0 4 == 0xE, atomic := unitWord half word,
            unstamped := half == 1 && bitsN word 0 4 == 0xA, region := some .own } fun _ s _ _ => done s

/-- Performs a fetched word for a stream, or for the issue set of a wave. -/
def State.perform (s : State) (key : Nat) (set : List Nat) (word half : Nat) : Host.Outcome State Fault Refusal :=
  let s1 := { s with cur := some { wave := isWave key, key := key, set := set } }
  match (if half == 2 then decodeLong word else decodeShort word) with
  | .ok i => exec i s1
  | .error e => s1.performBad e word half

/-- A stream fetches and issues the word at its program counter; at a header it enters the block first (R42, R43). -/
def State.issueAt (s : State) (key : Nat) : Host.Outcome State Fault Refusal :=
  let s1 := if (s.ctlAt key 0).atHeader then s.enterBlock key 0 else s
  if (s1.ctlAt key 0).atHeader then .next s1
  else
    match s1.fetchWord key 0 with
    | .error f => .next (s1.faultThread key 0 f)
    | .ok (s2, w, n) => s2.perform key [0] w n

/-- Whether a stream or thread took a precise fault between two states, or was escalated by one (R370 class 0). In a handler
%trapcause keeps the first interruption's value (R377): a fault, and no trap, leaves the program counter where it stood. -/
def State.faultedTo (s t : State) (key lane : Nat) : Bool :=
  let c := (if (s.ctlAt key lane).atHeader then s.enterBlock key lane else s).ctlAt key lane
  let d := t.ctlAt key lane
  let was := s.ctlAt key lane
  if was.handling then
    d.life == .escalated && was.life != .escalated && d.pc == c.pc && d.passes == c.passes && d.atHeader == c.atHeader
  else (d.handling || (d.life == .escalated && was.life != .escalated)) && bits d.trapcause 8 8 == 0

/-- Whether a deferred fault was delivered between two states. -/
def State.deliveredTo (s t : State) (key lane : Nat) : Bool :=
  (t.ctlAt key lane).owed.deferred.length < (s.ctlAt key lane).owed.deferred.length

/-- Issue at a boundary where an interruption may be owed: a fault of the instruction there comes first, then a deferred fault
for which the instruction is a delivery point, then what is owed, and only then the instruction's effect (R212, R377). -/
def State.boundaryIssue (s : State) (key : Nat) : Host.Outcome State Fault Refusal :=
  match s.takeOwed key 0 with
  | none => s.issueAt key
  | some owed =>
    match s.issueAt key with
    | .next t => .next (if s.faultedTo t key 0 || s.deliveredTo t key 0 then t else owed)
    | r => r

/-! ### A stream's turn -/

/-- An instruction that retires later retires (R78, R85, R235, R251, R254, R263), or goes on towards it (R318). -/
def State.retireLate (s : State) (key : Nat) : Late → State
  | .qbind q _ _ => s.applyBinding key q
  | .port _ _ => s.retirePort key
  | .keyway _ => s.retirePort key
  | .array _ _ _ => s.retireArray key
  | .wload _ _ _ => s.retireArray key
  | .tma _ _ _ _ => s.retireArray key
  | .maint _ _ _ _ => (s.stalledOverrun key).getD (s.maintTurn key 0)
  | .follow _ => s

/-- A stream's turn: it retires, empties its record where it was restored, settles its pushes, looks at its wait or stall
again, or issues (R81). An overrun is taken at a stall for retirement too, but for an instruction that raises a trap of its
own (R95). -/
def State.streamTurn (s0 : State) (key : Nat) : Host.Outcome State Fault Refusal :=
  let s := s0.expireHold key
  let c := s.ctlAt key 0
  if !s.running key 0 then .next s
  else
    match c.late with
    | some l => .next (s.retireLate key l)
    | none =>
      if c.resumed then .next (if c.pp == [] then s.modCtl key 0 fun x => { x with resumed := false } else s)
      else if c.retire.isSome then .next ((s.stalledOverrun key).getD (s.settle key))
      else
        match c.waiting with
        | some w => .next (s.waitTurn key 0 w)
        | none =>
          if c.stall != [] && (!c.stall.all (s.needMet key) || s.hasDeferred key 0 true) then .next ((s.takeOwed key 0).getD s)
          else s.boundaryIssue key

/-- Whether a wait has come to anything. -/
def WaitStep.ended : WaitStep → Bool
  | .stay _ => false
  | _ => true

/-- Whether a stream is ready (R76): its turn would do something. One in rdv is not (R94). -/
def State.ready (s0 : State) (key : Nat) : Bool :=
  let s := s0.expireHold key
  let c := s.ctlAt key 0
  s.running key 0 &&
  ((match c.late with
    | some (.maint _ _ _ busy) => !busy.any s.flights.has || (s.stalledOverrun key).isSome
    | l => l.isSome) ||
    (if c.late.isSome then false else if c.resumed then c.pp == []
     else
      match c.retire with
      | some r => s.retireNeeds key r == [] || (s.stalledOverrun key).isSome
      | none =>
        match c.waiting with
        | some .rdv => false
        | some w => (s.waitState key 0 w false).ended || (s.takeOwed key 0).isSome
        | none => c.stall.all (s.needMet key) || (s.takeOwed key 0).isSome))

/-- What a stream of an engine does whether or not the engine issues from it: its hold region ends, its pending pushes are
made, and those of its halt; in rdv it takes a fault or arrives (R81, R93, R94, R95). -/
def State.aside (s0 : State) (key : Nat) : State :=
  let s := s0.expireHold key
  let c := s.ctlAt key 0
  if (s.slotAt c.job).state != 3 || c.stopAt.isSome || c.frozenAt.isSome || c.life == .off then s
  else
    let s1 := if c.pp == [] then s else s.drainPending key
    let s2 := if c.life == .halted && c.retire.isSome then s1.settle key else s1
    if c.waiting == some .rdv && s2.running key 0 then s2.waitTurn key 0 .rdv else s2

/-! ### Stops for eviction (R120, R122, R123) -/

/-- The major of the long word that a stream would issue next: at a header, the first of its body (R123). -/
def State.nextMajor (s0 : State) (key : Nat) : Option Nat :=
  let s := if (s0.ctlAt key 0).atHeader then s0.enterBlock key 0 else s0
  if (s.ctlAt key 0).atHeader then none
  else
    match s.fetchWord key 0 with
    | .ok (_, w, 2) => some (bitsN w 2 6)
    | _ => none

/-- Whether an ME array or macro instruction would issue next inside an open hold region (R123). -/
def State.arrayInHold (s : State) (key : Nat) : Bool :=
  keyEng key == 2 && (s.ctlAt key 0).holdEnd.isSome && (match s.nextMajor key with
    | some m => m == 0x38 || m == 0x3B
    | none => false)

/-- Whether a stream stands at a good header with H = 1 (R122). -/
def State.atHinge (s : State) (key : Nat) : Bool :=
  (s.ctlAt key 0).atHeader &&
  match s.fetchHeader key 0 (s.ctlAt key 0).pc with
  | .ok (_, w) => (headerDefect w).isNone && bitN w 5
  | .error _ => false

/-- A stream of a job under a stop order stops, where it stands at a boundary at which it must (R120, R122, R123). -/
def State.stopHere (s0 : State) (key : Nat) : State :=
  let s := s0.expireHold key
  let c := s.ctlAt key 0
  if !(s.slotAt c.job).stopping || c.stopAt.isSome || c.life == .off then s
  else if c.stopsAtOnce then s.orderStream key (s.slotAt c.job).hingeMode
  else
    let hinge := s.atHinge key
    let array := s.arrayInHold key
    if s.atBoundary key 0 && s.mustStop key array hinge then
      let byHinge := (s.slotAt c.job).hingeMode && !c.fellBack && (keyEng key == 2 || keyEng key == 3)
      (s.modCtl key 0 fun x => { x with holdEnd := none }).stopStream key (byHinge && hinge)
    else s

/-! ### An engine's turn -/

/-- The one of higher precedence of two contexts of an engine (R76). -/
def State.better (s : State) (core eng : Nat) (best : Option Nat) (ctx : Nat) : Option Nat :=
  match best with
  | none => some ctx
  | some b =>
    if s.precedes (s.jobOf (streamKey core ctx eng) 0) (s.jobOf (streamKey core b eng) 0) then some ctx else some b

/-- The ready stream of highest precedence of an engine, leaving out the context `x` (R77). -/
def State.bestOther (s : State) (core eng x : Nat) : Option Nat :=
  ((upTo 4).filter fun ctx => ctx != x && s.ready (streamKey core ctx eng)).foldl (s.better core eng) none

/-- The context that an engine issues from next: R77 at the switch point where its stream X stands, or the displacement of
R119; 4 is none. A pre-emption order that finds no other ready stream first in precedence stays pending (log 22). -/
def State.chooseCtx (s : State) (core eng : Nat) : Nat :=
  let x := s.engCtx.get 4 (5 * core + eng)
  let other := s.bestOther core eng x
  let key := streamKey core x eng
  let c := s.ctlAt key 0
  let first (y : Nat) : Bool := s.precedes (s.jobOf (streamKey core y eng) 0) (s.jobOf key 0)
  let before : Option Nat := match other with | some y => if first y then some y else none | none => none
  if 4 ≤ x || !s.running key 0 then other.getD 4
  else if (c.late.isSome && !c.maintaining) || c.amod.isSome then x
  else if c.ceded && c.armed.isNone then other.getD (if s.ready key then x else 4)
  else if c.preempt && c.holdEnd.isNone && before.isSome then before.getD x
  else if c.armed.isSome then x
  else if c.waiting.isSome || c.stall != [] || c.retire.isSome || c.resumed || c.maintaining then
    other.getD (if s.ready key then x else 4)
  else if c.holdEnd.isSome then x
  else if c.sw == 2 then other.getD x
  else if c.sw == 1 then before.getD x
  else x

/-- An engine takes up a context; a stall or stop of the stream it had is answered, the switch point there is used once the
instruction has retired, a pre-emption order once it is displaced, and a region open on a displaced control engine then aborts with cause 9 (R77, R119,
R338). -/
def State.switchTo (s : State) (core eng y : Nat) : State :=
  let x := s.engCtx.get 4 (5 * core + eng)
  let key := streamKey core x eng
  let c := s.ctlAt key 0
  let kept := c.sw == 0 || c.late.isSome || c.amod.isSome || c.retire.isSome
  let s1 := if 4 ≤ x || (kept && !c.ceded) then s
    else s.modCtl key 0 fun c => { c with sw := if kept then c.sw else 0, ceded := false }
  if x == y then s1
  else
    let s2 := if x < 4 && c.preempt && c.holdEnd.isNone then
        (s1.modCtl key 0 fun c => { c with preempt := false }).regionAbort key 0 9 0
      else s1
    { s2 with engCtx := s2.engCtx.put (5 * core + eng) y }

/-- A hold region closes before an array or macro instruction that would issue in it while a pre-emption order is pending
(R123). -/
def State.closeHold (s : State) (core eng : Nat) : State :=
  let key := streamKey core (s.engCtx.get 4 (5 * core + eng)) eng
  let c := s.ctlAt key 0
  if s.engCtx.get 4 (5 * core + eng) < 4 && c.preempt && s.atBoundary key 0 && s.arrayInHold key then s.modCtl key 0 fun c => { c with holdEnd := none } else s

/-- Streams of a context that came to retire in this tile cycle and whose pushes have room now, as what fills a FIFO or queue
and what pops from it in one cycle both take place (R80, R84): they were not stalled. -/
def State.passOn (s : State) (core ctx : Nat) : State :=
  (upTo 5).foldl (fun s e =>
    let key := streamKey core ctx e
    match (s.ctlAt key 0).retire with
    | some r =>
      if r.since == s.cyc && s.running key 0 && s.retireNeeds key r == [] then
        (s.settle key).modCtl key 0 fun c => { c with ceded := false }
      else s
    | none => s) s

/-- An engine's turn: its streams under a stop order stop where they must, it chooses a context (R77), and that stream takes
its turn. A core that freezes finishes only what is short of a boundary (R381). -/
def State.engineTurn (s0 : State) (core eng : Nat) : Host.Outcome State Fault Refusal :=
  if s0.freezing core then
    match (upTo 4).find? fun ctx => !(s0.ctlAt (streamKey core ctx eng) 0).freezable && s0.running (streamKey core ctx eng) 0 with
    | some ctx => s0.streamTurn (streamKey core ctx eng)
    | none => .next (s0.freezeCore core)
  else
    let s1 := (upTo 4).foldl (fun s ctx => (s.stopHere (streamKey core ctx eng)).aside (streamKey core ctx eng)) s0
    let s := s1.closeHold core eng
    let y := s.chooseCtx core eng
    let s2 := s.switchTo core eng y
    if 4 ≤ y then .next s2
    else
      match s2.streamTurn (streamKey core y eng) with
      | .next t => .next (t.passOn core y)
      | r => r

/-! ### Waves (R140 to R143) -/

/-- Whether a thread can issue: it runs, stops at no wait (R140) and is not stalled at retirement (R318). -/
def State.threadReady (s : State) (key lane : Nat) : Bool :=
  s.running key lane && (s.ctlAt key lane).waiting.isNone && (s.ctlAt key lane).late.isNone

/-- The Running threads of a wave at the lowest program counter, among those above `a` where there are any (R142, R143). -/
def State.mainSet (s : State) (key : Nat) : List Nat :=
  let run := (upTo 32).filter fun l => s.threadReady key l && !(s.ctlAt key l).handling
  let pc (l : Nat) : Nat := (s.ctlAt key l).pc.toNat
  let above := match (s.ctlAt key 0).yieldAbove with
    | some a => run.filter fun l => a.toNat < pc l
    | none => []
  let pool := if above.isEmpty then run else above
  pool.filter fun l => pool.all fun m => pc l ≤ pc m

/-- The issue set at a place of the cyclic order: the main set, or one Handling thread (R142). -/
def State.issueSet (s : State) (key : Nat) : Nat → List Nat
  | 0 => s.mainSet key
  | k + 1 => if s.threadReady key k && (s.ctlAt key k).handling then [k] else []

/-- The word, and its halfwords, at which a thread stands inside a block, where it can be fetched. -/
def State.waveWord (s : State) (key lane : Nat) : Option (Nat × Nat) :=
  if (s.ctlAt key lane).atHeader then none
  else
    match s.fetchWord key lane with
    | .ok (_, w, n) => some (n, w)
    | .error _ => none

/-- Whether a set stands at a fetchwg that waits while four requests of its workgroup are outstanding (R149). -/
def State.boxesFull (s : State) (key : Nat) (set : List Nat) : Bool :=
  match s.groupOf key with
  | none => false
  | some g =>
    4 ≤ g.requests &&
    match s.waveWord key (set.headD 0) with
    | some (2, w) =>
      let off := (s.sget key (bitsN w 26 6)).toNat
      bitsN w 2 6 == 0x3D && bitsN w 12 8 == 0 && off % 16 == 0 && off + 16 ≤ g.units * 4096 &&
        set.any fun l => bitN w 11 != s.pget key (bitsN w 8 3) l
    | _ => false

/-- The place of a wave's next issue set that is ready, from its place in the cyclic order on (R141, R142). -/
def State.nextSet (s : State) (key : Nat) : Option Nat :=
  let start := ((s.waves.find key).map (·.rot)).getD 0
  ((upTo 33).map fun i => (start + i) % 33).find? fun k => s.issueSet key k != [] && !s.boxesFull key (s.issueSet key k)

/-- A wave's threads that are stalled at retirement go on with their instruction (R318). -/
def State.waveMaint (s : State) (key : Nat) : State :=
  (upTo 32).foldl (fun s l => if s.running key l then s.maintTurn key l else s) s

/-- The waiting threads of a wave look at their waits. -/
def State.waveWaits (s : State) (key : Nat) : State :=
  (upTo 32).foldl (fun s l =>
    match (s.ctlAt key l).waiting with
    | some w => if s.running key l then s.waitTurn key l w else s
    | none => s) s

/-- The headers at which threads of a wave's next issue set stand are fetched, which takes no turn (R142). -/
def State.waveHeaders (s : State) (key : Nat) : Nat → State
  | 0 => s
  | n + 1 =>
    match s.nextSet key with
    | none => s
    | some k =>
      match (s.issueSet key k).filter fun l => (s.ctlAt key l).atHeader with
      | [] => s
      | ls => State.waveHeaders (ls.foldl (fun s l => s.enterBlock key l) s) key n

/-- A wave's issue performed for some of its threads, which stand at one word: each whose body cuts the word off takes
reason 5 (R43). -/
def State.waveIssue (s : State) (key : Nat) (set : List Nat) : Host.Outcome State Fault Refusal :=
  let lead := set.headD 0
  match s.bodyHalf key lead (s.ctlAt key lead).pc with
  | .error f => .next (s.faultThreads key (set.map (·, f)))
  | .ok (s1, h0) =>
    if !isLong h0 then s1.perform key set h0.toNat 1
    else
      let cut := set.filter fun l => (s1.ctlAt key l).lastInBody 1
      let whole := set.filter fun l => !(s1.ctlAt key l).lastInBody 1
      let s2 := s1.faultThreads key (cut.map (·, fltOf 0x04 (framingInfo h0.toNat 5)))
      match whole with
      | [] => .next s2
      | l :: _ =>
        match s2.bodyHalf key l ((s2.ctlAt key l).pc + 2) with
        | .error f => .next (s2.faultThreads key (whole.map (·, f)))
        | .ok (s3, h1) => s3.perform key whole (h0.toNat + 65536 * h1.toNat) 2

/-- Threads of a set that are owed an interruption take it, unless the instruction would fault for them (R377): the state
and the threads that issue. -/
def State.waveOwed (s : State) (key : Nat) (set : List Nat) : State × List Nat :=
  set.foldl (fun (acc : State × List Nat) l =>
    match acc.1.takeOwed key l with
    | none => (acc.1, acc.2 ++ [l])
    | some owed =>
      match acc.1.waveIssue key [l] with
      | .next t => if acc.1.faultedTo t key l then (acc.1, acc.2 ++ [l]) else (owed, acc.2)
      | _ => (acc.1, acc.2 ++ [l])) (s, [])

/-- A wave's turn: its next issue set issues (R142), and a main set that follows a backward branch is used (R143). The waves
that issue in one step issue in one cycle (R141). -/
def State.waveTurn (s : State) (key : Nat) : Host.Outcome State Fault Refusal :=
  match s.nextSet key with
  | none => .next s
  | some k =>
    let set := s.issueSet key k
    let s1 := { s with
      waves := match s.waves.find key with
        | some w => s.waves.put key { w with lastIssue := s.turns, rot := (k + 1) % 33 }
        | none => s.waves }
    let s2 := if k == 0 && (s1.ctlAt key 0).yieldAbove.isSome then s1.modCtl key 0 fun c => { c with yieldAbove := none } else s1
    let (s3, go) := s2.waveOwed key set
    if go == [] then .next s3 else s3.waveIssue key go

/-- Whether wave `a` takes its turn before wave `b` (R141). -/
def State.waveBefore (s : State) (a b : Nat) : Bool :=
  match s.waves.find a, s.waves.find b with
  | some x, some y =>
    if s.precedes x.job y.job then true
    else if s.precedes y.job x.job then false
    else if x.lastIssue != y.lastIssue then x.lastIssue < y.lastIssue
    else a < b
  | _, _ => false

/-- The waves of a scheduler partition: twelve slots (R135). -/
def State.partWaves (s : State) (core part : Nat) : List Nat :=
  ((upTo 12).map fun i => waveKey core (12 * part + i)).filter s.waves.has

/-- The wave among some whose turn it is: the first that has an issue set ready (R141). -/
def State.pickWave (s : State) (keys : List Nat) : Option Nat :=
  (keys.filter fun k => (s.nextSet k).isSome).foldl (fun (best : Option Nat) k => match best with
    | none => some k
    | some b => if s.waveBefore k b then some k else some b) none

/-- Whether the next word of a wave is one of those of which a partition issues one in a cycle (R141). -/
def State.lanesNext (s : State) (key : Nat) : Bool :=
  match s.nextSet key with
  | none => false
  | some k =>
    match s.waveWord key ((s.issueSet key k).headD 0) with
    | some (n, w) => laneWord n w
    | none => false

/-- The requests for extended blocks that were made since a state, in one cycle, stand in ascending slot order (R147). -/
def State.sortRequests (s : State) (before : State) (core part : Nat) : State :=
  let old := before.xqueue.get [] (4 * core + part)
  let now := s.xqueue.get [] (4 * core + part)
  let new := (before.partWaves core part).filter fun k => now.contains k && !old.contains k
  if new.length < 2 then s
  else { s with xqueue := s.xqueue.put (4 * core + part) (now.filter (old.contains ·) ++ new) }

/-- A scheduler partition issues an instruction of the wave whose turn it is, and one of another wave: of the lane group at
most one of the two (R141). -/
def State.visionTurn (s0 : State) (core part : Nat) : Host.Outcome State Fault Refusal :=
  let keys := s0.partWaves core part
  let s1 := keys.foldl State.waveMaint s0
  if s1.freezing (64 + core) then .next (s1.freezeCore (64 + core))
  else
    let s := keys.foldl (fun s k => (s.waveWaits k).waveHeaders k 100) s1
    match s.pickWave keys with
    | none => .next s
    | some k =>
      let lanes := s.lanesNext k
      match s.waveTurn k with
      | .next t =>
        match t.pickWave (keys.filter fun j => j != k && !(lanes && s.lanesNext j)) with
        | none => .next t
        | some j => match t.waveTurn j with
          | .next u => .next (u.sortRequests s core part)
          | r => r
      | r => r

/-! ### Application clusters (R1, R297, R330, R331, R391) -/

/-- The bytes of an application core's store: the cluster holds them until they are written back (R300); to an uncached or
device page they reach memory (R401), that of a peer over a Kolte port (R397). -/
def State.appStore (s : State) (a : AppTurn) (bs0 : List Byte) : State :=
  let s0 := (s.recallFor a.pa a.mtype a.grain).markStale none a.pa a.grain
  let (s1, bs) := if a.mtype != 0 && s.remote a.pa then s0.errInject a.pa bs0 else (s0, bs0)
  let s2 := if bs.length == 64 && a.pa % 64 == 0 then s1.cleanSector (24 + a.cluster) (.phys a.pa a.mtype a.grain a.part) else s1
  if a.mtype == 0 then s2.physWrite a.pa bs else s2.extWrite a.pa bs

/-- An application cluster that is out of reset acts. Toward the part it is one caching agent, 24 to 27 (R297); its
atomics go near or far as its predictor says (R331). An access outside installed memory reaches nothing. -/
def State.appTurn (s : State) (a : AppTurn) : State :=
  let agent := 24 + a.cluster
  let ep := s.agentEndpoint agent
  if 4 ≤ a.cluster || !bitN s.island.clusters a.cluster || s.island.isolated.contains (2, a.cluster) then s
  else
    match a.act with
    | .release k => if a.cluster == 0 && k < 4 then
        s.setIsland { s.island with clusters := Nat.lor s.island.clusters (2 ^ k) } else s
    | .load n =>
      if !s.backed a.pa then s
      else (s.recallFor a.pa a.mtype a.grain).noteAccess agent ep a.pa n a.mtype a.grain a.part none false
    | .store bs =>
      if !s.backed a.pa then s
      else (s.appStore a bs).noteAccess agent ep a.pa bs.length a.mtype a.grain a.part none true
    | .atomic bs =>
      if !s.backed a.pa then s
      else if a.mtype != 0 || s.predictFar agent a.pa then
        (s.appStore a bs).farAtomic agent ep a.pa bs.length a.mtype a.grain a.part none
      else (s.appStore a bs).nearAtomic agent a.pa a.grain a.part none

/-- Whether the PCIe root port works: the part is up and the port is not in reset (R391, R392). -/
def State.rootPortUp (s : State) : Bool := s.island.phase == 2 && !s.island.isolated.contains (4, 12)

/-- What comes from a PCIe device or a peer package (R323, R395): a device's access is translated in the root port's partition
and charged to it, and one that fails has no effect; nothing comes through a port in reset or over a link that has failed. -/
def State.outsideTurn (s : State) : Outside → State
  | .pcieRead va n =>
    if !s.rootPortUp then s
    else match s.virtBytes epPcie s.pciePart va n with
      | .ok (s1, _) => s1
      | .error (a, _) => s.walkKept s.pciePart [] a
  | .pcieWrite va bs => if s.rootPortUp then (s.virtWrite epPcie s.pciePart va bs).1 else s
  | .pciePart p => if p < 64 then { s with pciePart := p } else s
  | .link m => s.linkMessage m
  | .linkDone id => s.awayDone id

/-! ### Any turn -/

/-- A scheduled turn performed. -/
def State.takeTurn (s : State) : Turn → Host.Outcome State Fault Refusal
  | .tile core eng => s.engineTurn core eng
  | .vision core part => s.visionTurn core part
  | .copy id => .next (s.copyTurn id)
  | .app a => .next (s.appTurn a)
  | .outside o => .next (s.outsideTurn o)
  | .event e => exec e s

end

end Sys2Proof.Machine
end

