-- ==== Sys2Proof/Machine/Step.lean ====
section
/-! DEFINITION. One step of the part: the next turn of the schedule (log 1), and how a word is placed to run next (log 13). -/

namespace Sys2Proof.Machine

noncomputable section

/-! ### The schedule -/

/-- Time passes: both clocks advance, and so does the execution time of placed jobs (R97, R98, R110). At every multiple of
1000 ns that it reaches the hub captures a time pair, the count at that instant (R99). -/
def State.tick (s : State) (cyc ns : Nat) : State :=
  let at_ := (s.ns + ns) / 1000 * 1000
  let due := s.nextPair ≤ s.ns + ns && s.ns < at_
  { s with
    cyc := s.cyc + cyc
    ns := s.ns + ns
    pairNs := if due then at_ else s.pairNs
    pairCyc := if due then s.cyc + cyc * (at_ - s.ns) / ns else s.pairCyc
    nextPair := if due then at_ + 1000 else s.nextPair
    slots := if ns == 0 then s.slots
      else s.slots.map fun (e : Nat × Slot) => (e.1, if e.2.state == 3 then { e.2 with execNs := e.2.execNs + ns } else e.2) }

/-- The event that serves an operation under way. -/
def flightEvent (id : Nat) : Flight → List Instr
  | .copy _ => [.copyCompletion id, .copyElementFault id]
  | .push _ => [.rpushCompletion id]
  | .delivery _ => [.rpushDeliveryArrival id, .rpushDeliveryAccept id]
  | .ret _ => [.routeReturnArrival id, .rretCompletion id]
  | .flag _ => [.flagUpdate id]
  | .readout _ => [.readoutCompletion id]
  | .mailbox _ => [.fetchwgAnswer id]
  | .clearRegion _ _ _ => [.regionClearDone id]
  | .clearPage _ _ => [.pageClearDone id]
  | .home _ | .away _ _ _ => []
  | .sector _ => [.sectorRequest id]
  | .frame _ => [.ingestFrame id]
  | .upset _ _ => [.uncorrectableError id]
  | .msg m => match m.kind with
    | .getS => [.gets id]
    | .getM => [.getm id]
    | .upg => [.upg id]
    | .putS => [.puts id]
    | .putM => [.putm id]
    | .putO => [.puto id]
    | .atomFar => [.atomFar id]
    | .homeRead => [.homeRead id]
    | .homeWrite => [.homeWrite id]
    | .inv => [.inv id]
    | .fwdGetS => [.fwdGets id]
    | .fwdGetM => [.fwdGetm id]
    | .data => [.data id]
    | .grant => [.grant id]
    | .putAck => [.putAck id]
    | .nackMoved => [.nackMoved id]
    | .atomResp => [.atomResp id]
    | .invAck => [.invAck id]
    | .probeMiss => [.probeMiss id]
    | .recalled => [.recalledData id]
    | .fill => [.sliceFill id]

/-- Events of a card slot. -/
def slotEvents (k : Nat) : List Instr :=
  [.jobRelease k, .deadlineMiss k, .evictionSaveComplete k, .jobRestore k, .workgroupPlacement k, .kernelClassification k]

/-- Events that may be due: those of the operations under way, of the card slots, of the streams, entries and partitions,
and of the part as a whole. What only the outside decides is not among them. -/
def State.candidates (s : State) : List Instr :=
  s.rtes.keys.map (fun k => .routeDeadline (k / 64) (k % 64)) ++
  s.flights.flatMap (fun e => flightEvent e.1 e.2) ++
  (s.slots.keys).flatMap slotEvents ++ [.dispatcherEvaluation, .cardQueueScan, .timePairCapture] ++
  (s.ctl.keys.filter fun k => k < 32 * 2048).flatMap (fun k =>
    let key := k / 32
    [.stallRelease (keyCore key) (keyCtx key) (keyEng key), .ringElementDelivery (2 * key), .ringElementDelivery (2 * key + 1),
     .hingeFallback (keyCore key) (keyCtx key) (keyEng key)]) ++
  s.regulators.keys.map .regulatorWindowStart ++
  ((upTo 16).filter fun n => s.creg_ (migReg n 3) == 1).map .migrationStart ++ s.migrated.keys.map .migrationUnitCopy ++
  (upTo 88).map .freezeComplete ++ ((upTo 64).filter fun n => bit (s.ingCtl n) 0).map .ingestStreamEnable ++
  [.thermtrip, .xltInvDone, .domainRestartStart, .domainRestartDone, .islandRestartDone, .bringupStageDone true, .attestationReport]

/-- The first event that is due: one that changes the state. -/
def State.dueEvent (s : State) : Option Instr :=
  s.candidates.find? fun e => match exec e s with
    | .next t => decide (t ≠ s)
    | _ => false

/-- The engines and scheduler partitions that have streams or waves, as turns. -/
def State.agents (s : State) : List Turn :=
  (((s.ctl.keys.filter fun k => k < 32 * 2048).map fun k => 5 * keyCore (k / 32) + keyEng (k / 32)).eraseDups.map fun k =>
    .tile (k / 5) (k % 5)) ++
  ((s.waves.keys.map fun k => (k - 2048) / 12).eraseDups.map fun k => .vision (k / 4) (k % 4))

/-- What the model does with an empty schedule (log 1): an event that is due; else three tile cycles and 2 ns pass, and the
engines and partitions take turns in rotation. -/
def State.defaultTurn (s : State) : Sched :=
  match s.dueEvent with
  | some e => { cyc := 0, ns := 0, turn := .event e }
  | none => { cyc := 3, ns := 2, turn := (s.agents[s.turns % s.agents.length]?).getD (.event .dispatcherEvaluation) }

/-- Tile core of a turn and its rank among those of one tile cycle there, where it has one: engines by %corekind, then
deliveries (R85, R188). -/
def State.rankOf (s : State) : Turn → Option (Nat × Nat)
  | .tile core eng => some (core, eng + 1)
  | .event (.stallRelease core _ eng) | .event (.qbindTakesEffect core _ eng) => some (core, eng + 1)
  | .event (.blockingWaitEnd who) =>
    let key := (agentKey who).1
    if isWave key then none else some (keyCore key, keyEng key + 1)
  | .event (.rpushDeliveryArrival id) | .event (.rpushDeliveryAccept id) =>
    match s.flights.find id with
    | some (.delivery d) => some (d.core, 9)
    | _ => none
  | .event (.ringElementDelivery k) => some (bits (s.ringBinding (k / 2) (2 + k % 2)) 8 8, 9)
  | _ => none

/-- Tile cycles that pass before a turn: one that would come out of its order in the present cycle comes in the next. -/
def State.delay (s : State) (t : Sched) : Nat :=
  match s.rankOf t.turn with
  | some (core, r) => if t.cyc == 0 && r < s.rank.get 0 core then 1 else t.cyc
  | none => t.cyc

/-- What the FIFOs, queues and element rings received in the present tile cycle, where it lasts into the turn (R80, R194). -/
def State.freshAfter (s : State) (t : Sched) : List Nat := if s.delay t == 0 then s.fresh else []

/-- The ranks that a turn leaves. -/
def State.ranksAfter (s : State) (t : Sched) : Tab Nat :=
  let now := if s.delay t == 0 then s.rank else []
  match s.rankOf t.turn with
  | some (core, r) => now.put core r
  | none => now

/-- A scheduled step performed: its time passes, and its turn is taken. -/
def State.perform1 (s : State) (t : Sched) : Host.Outcome State Fault Refusal :=
  ({ s with rank := s.ranksAfter t, fresh := s.freshAfter t }.tick (s.delay t) t.ns).takeTurn t.turn

/-- The target of the stamp that a matrix-engine stream waits for, where its engine chooses that stream then (R77, R101). -/
def State.stampOf (s : State) (key : Nat) : Option Nat :=
  let c := s.ctlAt key 0
  if keyEng key == 2 && s.atBoundary key 0 && !c.resumed && !s.freezing (keyCore key) && !(s.slotAt c.job).stopping then
    ((c.stall.filterMap fun n => match n with | .stamp t => some t | _ => none).head?).filter fun t =>
      { s with cyc := maxN s.cyc t }.chooseCtx (keyCore key) 2 == keyCtx key
  else none

/-- The first target of a stamp that falls within the next `n` tile cycles, and its core (R101). -/
def State.stampDue (s : State) (n : Nat) : Option (Nat × Nat) :=
  (s.ctl.filterMap fun (e : Nat × Ctl) =>
    if e.1 < 32 * 2048 && e.2.stall != [] then
      match s.stampOf (e.1 / 32) with
      | some t => if s.cyc ≤ t && t ≤ s.cyc + n then some (t, keyCore (e.1 / 32)) else none
      | none => none
    else none).foldl (fun (best : Option (Nat × Nat)) x => match best with
      | none => some x
      | some b => if x.1 < b.1 then some x else some b) none

/-- The turn of a matrix engine at the target of a stamp, before a scheduled turn, and what is left of that one. -/
def Sched.cut (t : Sched) (now target core : Nat) : Sched × Sched :=
  let d := target - now
  let ns := t.ns * d / t.cyc
  ({ cyc := d, ns := ns, turn := .tile core 2 }, { t with cyc := t.cyc - d, ns := t.ns - ns })

/-- The stamped instruction that issues before a scheduled turn, which takes time: the step is its target's (R101). -/
def State.stampFirst (s : State) (t : Sched) : Option (Sched × Sched) :=
  if t.cyc == 0 then none else (s.stampDue t.cyc).map fun x => t.cut s.cyc x.1 x.2

/-- One step of the part. -/
def step (s : State) : Host.Outcome State Fault Refusal :=
  let s1 := { s with turns := s.turns + 1 }
  match s.agenda with
  | t :: rest =>
    match s.stampFirst t with
    | some (a, b) => { s1 with agenda := b :: rest }.perform1 a
    | none => { s1 with agenda := rest }.perform1 t
  | [] =>
    let t := s.defaultTurn
    match s.stampFirst t with
    | some (a, _) => s1.perform1 a
    | none => s1.perform1 t

/-! ### Placing a word to run next (log 13) -/

/-- An engine on which a word is legal, 5 for vision (R49, R50), by its halfwords. -/
def wordEngine (h0 h1 : Nat) : Nat :=
  let w := h0 + 65536 * h1
  let maj := bitsN w 2 6
  let f := bitsN w 12 2
  let m := bitsN w 12 8
  if bitsN h0 0 2 != 3 then (if bitsN h0 0 4 == 0xA then 2 else 3)
  else if maj == 0x07 then (if m == 0x0F then 5 else if m == 0x10 || m == 0x11 then 0 else 3)
  else if maj == 0x30 then 0
  else if maj == 0x34 || maj == 0x35 || maj == 0x3C then 1
  else if maj == 0x38 || maj == 0x39 || maj == 0x3B then 2
  else if maj == 0x3D then 5
  else if maj == 0x3E then (if f < 2 then 5 else if f == 3 then 1 else 3)
  else 3

/-- Halfwords of a body that holds a word: an amod may not stand last in it (R43), so two nops follow it. -/
def wordBody (v : Nat) : List Nat :=
  if bitsN v 0 2 == 3 then [v % 65536, v / 65536 % 65536]
  else if bitsN v 0 4 == 0xE then [v % 65536, 2, 2] else [v % 65536]

/-- The page tables and the block of one word: an identity page of 1 GiB through tables at 0x1000 to 0x3FFF, and a header and
the word at 0x4000 (R42, R353, R354). -/
def State.placeCode (s : State) (v : Nat) : State :=
  let body := wordBody v
  let s1 := { s with tlbs := [], poisonMem := [], poisonNew := [], failedLinks := [], migrated := [] }
  let s2 := s1.setCreg xltBase 0x1001
  let s3 := ((s2.extWrite 0x1000 (leBytes 8 0x28001)).extWrite 0x2000 (leBytes 8 0x38001)).extWrite 0x3000 (leBytes 8 0x60FF)
  s3.extWrite 0x4000 (leBytes 4 (0xA0000003 + body.length * 2 ^ 18) ++ body.flatMap fun h => leBytes 2 h)

/-- A running stream or thread that stands at the header of that block. -/
def placedCtl : Ctl := { life := .live, job := 0, pc := 0x4000, hdr := 0x4000 }

/-- A state in which the very next step fetches and runs a word: a job in card slot 0 with one stream or thread that stands
at a block holding the word alone, and that agent's turn at the head of the schedule (log 13). -/
def State.withFetchWord (s : State) (nbits w : Nat) : State :=
  let v := w % 2 ^ nbits
  let eng := wordEngine (v % 65536) (v / 65536 % 65536)
  let s1 := (s.placeCode v)
  let s2 := { s1 with
    creg := (s1.creg.del (escBase + 0x28)).del (escBase + 0x30)
    slots := s1.slots.put 0 { state := 3, card := (if eng == 5 then 2#8 else 1#8) :: List.replicate 127 0#8, started := true,
                              cores := [0] } }
  if eng == 5 then
    { s2 with
      ctl := s2.ctl.put (ctlKey (waveKey 0 0) 0) placedCtl
      waves := [(waveKey 0 0, { job := 0, wg := 0, num := 0 })]
      groups := s2.groups.put 0 { job := 0, x := 0, y := 0, z := 0, threads := 1, base := 0, units := 1, slots := [0] }
      agenda := { cyc := 0, ns := 0, turn := .vision 0 0 } :: s2.agenda }
  else
    { s2 with
      ctl := s2.ctl.put (ctlKey (streamKey 0 0 eng) 0) placedCtl
      engCtx := s2.engCtx.put eng 0
      ctxJob := s2.ctxJob.put 0 0
      agenda := { cyc := 0, ns := 0, turn := .tile 0 eng } :: s2.agenda }

end

end Sys2Proof.Machine
end

