-- ==== Sys2Proof/Safety.lean ====
section
/-! DEFINITION. What counts as a safe run, and the words in which claims speak of an instruction that issues with nothing in
its way: who issues it, what its operands must allow, and how it ends. -/

namespace Sys2Proof.Machine

/-! ### Safe runs -/

/-- A run of the machine is safe for `k` steps: no step stops with a fault or a refusal. -/
def State.safeFor (s : State) (k : Nat) : Prop := ∃ t, Sys2Proof.core.run k s = .next t

/-- A safe run: it never stops. -/
def State.safe (s : State) : Prop := ∀ k, s.safeFor k

/-! ### Who issues -/

/-- Nothing is pending for a stream or thread: no open region, armed stamp, amod (but where `unit` allows one, R55), stall or
retirement, and no deferred fault owed. -/
def Ctl.clear (c : Ctl) (unit : Bool := false) : Prop :=
  c.region = none ∧ c.armed = none ∧ (unit = false → c.amod = none) ∧ c.stall = [] ∧ c.retire = none ∧ c.owed.deferred = []

/-- The stream `key`, or the threads `set` of the wave `key`, issue an instruction with nothing pending. -/
def State.issuing (s : State) (key : Nat) (set : List Nat) (unit : Bool := false) : Prop :=
  s.cur = some { wave := isWave key, key := key, set := set } ∧ set ≠ [] ∧ (isWave key = false → set = [0]) ∧
  ∀ l ∈ set, (s.ctlAt key l).clear unit

/-- What the G field asks for is there (R45, R80): on a wave every thread of the set passes the guard of a long word, and a
short word has none; on a tile stream the tokens it pops are there and those it pushes have room, and the control engine's
G field is 0. A matrix-engine stream that pushes has no readout on its way, which would be performed first (R292). -/
def State.admits (s : State) (key : Nat) (set : List Nat) (g : BitVec 4) (half : Nat) : Prop :=
  if isWave key then (if half = 2 then ∀ l ∈ set, bit g 3 ≠ s.pget key (bits g 0 3) l else g = 0)
  else
    (keyEng key = 0 → g = 0) ∧ (∀ n ∈ s.popNeeds key g.toNat [] [], s.needMet key n = true) ∧
    (∀ f ∈ pushFifos key g.toNat, (s.popTokens key g.toNat).tok (keyCtxKey key) f < 32) ∧
    (keyEng key = 2 → pushFifos key g.toNat ≠ [] → s.readoutsOut key = 0)

/-- The scalar operands of an instruction may be used (R48, R84, R86, R371): sources, in the order they pop, and one
destination at most. A queue is bound, holds the entries and has room; a matrix-engine stream that pushes one has no
readout on its way (R292). -/
def State.scalarsReady (s : State) (key : Nat) (src dst : List Nat) : Prop :=
  (∀ x ∈ src ++ dst, scalarOk key x = true) ∧
  (∀ x ∈ src, s.queueCheck key x false = none ∧ (isQueue key x = false → s.poisonScalar.has (64 * key + x) = false)) ∧
  (∀ x ∈ dst, s.queueCheck key x true = none) ∧
  (∀ n ∈ s.popNeeds key 0 src [], s.needMet key n = true) ∧
  ∀ x ∈ dst, isQueue key x = true → (s.popScalars key src).1.needMet key (.queueRoom (x - 32)) = true ∧
    (keyEng key = 2 → s.readoutsOut key = 0)

/-- The lane operands of an instruction may be used (R47, R147, R188, R194, R371): an extended register needs the wave's
block, an input stream needs a binding and its elements, an output stream a binding to a ring of its own core that accepts
the element and has room, and no source lane and no element is poisoned. -/
def State.lanesReady (s : State) (key : Nat) (set src dst : List Nat) : Prop :=
  (isWave key = true ∨ keyEng key = 3) ∧
  (∀ x ∈ src ++ dst, laneSrcOk key x = true) ∧
  (∀ x ∈ src ++ dst, isWave key = true → 24 ≤ x → x < 48 → ∃ w, s.waves.find key = some w ∧ w.block.isSome = true) ∧
  (∀ x ∈ src, x = 0x3A ∨ x = 0x3B → s.ringCheck key (x - 0x3A) = none) ∧
  (∀ x ∈ dst, x = 0x3A ∨ x = 0x3B → s.ringCheck key (x - 0x38) = none ∧ s.pushesHere key (x - 0x38) = true ∧
    let t := (s.popLanes key src).1
    t.pushAccepted key (x - 0x38) (keyCore key) = true ∧
    t.needMet key (.elementRoom (bits (t.ringBinding key (x - 0x38)) 0 5)) = true) ∧
  (∀ n ∈ s.popNeeds key 0 [] src, s.needMet key n = true) ∧
  (∀ x ∈ src, x < 0x3A → ∀ l, (isWave key = true → l ∈ set) → s.poisonLane.has (laneKey key x l) = false) ∧
  (isWave key = false → s.elementPoison key src = none)

/-- The operands of an instruction may be used: scalar sources in the order they pop, lane sources likewise, and at most one
scalar and one lane destination (and its pair). No scalar register waits for a checksum, but one of `links` (R216). -/
def State.operandsReady (s : State) (key : Nat) (set ssrc sdst lsrc ldst : List Nat) (links : List Nat := []) : Prop :=
  s.scalarsReady key ssrc sdst ∧ ((lsrc = [] ∧ ldst = []) ∨ s.lanesReady key set lsrc ldst) ∧
  (isWave key = false → ∀ x ∈ ssrc ++ sdst, x < 32 → x ∉ links → x ∉ (s.ctlAt key 0).pendRegs)

/-! ### How an instruction begins and ends -/

/-- The lanes that an instruction acts on: those of the threads of a wave, or all of an engine's. -/
def issueLanes (key : Nat) (set : List Nat) : List Nat := if isWave key then set else upTo (laneCount key)

/-- An instruction begins: a stream pops the tokens of its G field (R80); the issue of a wave is counted (R138). -/
def State.begun (s : State) (key : Nat) (set : List Nat) (g : BitVec 4) (lane : Bool) : State :=
  if isWave key then s.countIssue key set.length lane else s.popTokens key g.toNat

/-- The state in which an instruction has its effect, and what it reads: scalar and lane sources popped in order. -/
def State.reads (s : State) (key : Nat) (set : List Nat) (g : BitVec 4) (lane : Bool) (ssrc lsrc : List Nat) :
    State × List DWord × List (List Word) :=
  let p := (s.begun key set g lane).popScalars key ssrc
  let q := p.1.popLanes key lsrc
  (q.1, p.2, q.2)

/-- The control state after an instruction of `half` halfwords that does not branch (R42, R75). -/
def Ctl.past (c : Ctl) (half : Nat) : Ctl := { c with amod := none }.advance half

/-- An instruction ends: a stream pushes tokens, and whoever issued it moves on as `move` says. -/
def State.concluded (s : State) (key : Nat) (set fifos : List Nat) (move : Nat → Ctl → Ctl) : State :=
  if isWave key then set.foldl (fun s l => s.modCtl key l (move l)) s
  else (fifos.foldl (fun s f => s.pushToken (keyCtxKey key) f) s).modCtl key 0 (move 0)

/-- An instruction ends without a branch: a stream pushes the tokens of its G field, and whoever issued it moves on
(R42, R80). -/
def State.finish (s : State) (key : Nat) (set : List Nat) (g : BitVec 4) (half : Nat) : State :=
  s.concluded key set (pushFifos key g.toNat) fun _ c => c.past half

/-- A scalar result where it goes in the end: a register, or the back of a queue (R48, R84). -/
def State.give (s : State) (key spec : Nat) (v : DWord) : State :=
  if isQueue key spec then s.pushQueue (keyCtxKey key) (spec - 32) v else s.sset key spec v

/-- An element that a ring of the stream's own core takes through ex0 or ex1 (R194). -/
def State.takes (s : State) (key : Nat) (e : Nat × List Word) : State :=
  let n := bits (s.ringBinding key e.1) 0 5
  s.ringAppend (keyCore key) n (laneBytes e.2 (s.ringAt (keyCore key) n).slotSize)

/-- Lane results where they go in the end: t0, t1 and a register (R160), or a ring (R194). -/
def State.giveLanes (s : State) (key d : Nat) (rs : List (Nat × Word)) : State :=
  let s1 := s.retireLanes key d rs
  if d = 0x3A ∨ d = 0x3B then s1.takes key (d - 0x38, rs.map (·.2)) else s1

/-! ### What an instruction does -/

/-- A backward branch of a thread that is not Handling changes the wave's next main set (R143). -/
def State.backwards (s : State) (key : Nat) (jumps : List (Nat × DWord)) (iaddr : DWord) : State :=
  if jumps.any fun j => j.2.toNat < iaddr.toNat && !(s.ctlAt key j.1).handling then
    s.modCtl key 0 fun c => { c with yieldAbove := some iaddr }
  else s

/-- How a stream or thread moves on past an instruction: to its branch target, or past the instruction (R42, R75). -/
def moveOn (half : Nat) (jumps : List (Nat × DWord)) (l : Nat) (c : Ctl) : Ctl :=
  match jumps.find? (·.1 == l) with
  | some j => { c with amod := none }.jump j.2
  | none => c.past half

/-- What the spec says of an instruction: where it is legal, its operands, when it can have its effect, and, from the values
it reads, that effect and who branches where. -/
structure Run where
  instr : Instr
  half : Nat := 2
  g : BitVec 4 := 0
  /-- Where it is legal (R49): bits 0 to 4 the engines CE to SE, bit 5 vision. -/
  legal : Nat := 0x3F
  /-- Whether R138 counts it as lane operations. -/
  lane : Bool := false
  /-- A blocking wait, which stands last in its body (R43). -/
  last : Bool := false
  /-- Not last in its body (R43, R55). -/
  inside : Bool := false
  /-- May follow an amod, and may not follow one that names a place (R55). -/
  unit : Bool := false
  unplaced : Bool := false
  /-- Its tokens are pushed later: at a completion point, for which a record must be free (R81, R83), or as it retires. -/
  later : Bool := false
  record : Bool := later
  ssrc : List Nat := []
  sdst : List Nat := []
  lsrc : List Nat := []
  ldst : List Nat := []
  /-- Lane sources read across lanes. -/
  crosses : List Nat := []
  /-- Scalar destinations that it also reads, which may not be queues (R159), and lane specifiers that must name pairs
  (R33). -/
  noQueue : List Nat := []
  pairs : List Nat := []
  /-- Scalar registers that may wait for a checksum, whose chain the instruction continues (R216). -/
  links : List Nat := []
  /-- What else must hold of the operands' values and the state for it to have its effect. -/
  ready : Iss → State → List DWord → List (List Word) → Prop := fun _ _ _ _ => True
  effect : Iss → State → List DWord → List (List Word) → State
  jumps : Iss → State → List DWord → List (List Word) → List (Nat × DWord) := fun _ _ _ _ => []
  /-- Whether R143 counts it among the branches that turn back. -/
  turns : Bool := false
  /-- Whether the effect itself says where those that issued it stand afterwards. -/
  stays : Bool := false

/-- Where the instruction may be issued and stands in its body, and its operands' further conditions. -/
structure Run.allowed (w : Run) (s : State) (key : Nat) (set : List Nat) : Prop where
  legal : bitN w.legal (if isWave key then 5 else keyEng key) = true
  last : w.last = true → ∀ l ∈ set, (s.ctlAt key l).lastInBody w.half = true
  inside : w.inside = true → ∀ l ∈ set, (s.ctlAt key l).lastInBody w.half = false
  unplaced : w.unplaced = true → ∀ l ∈ set, ∀ a, (s.ctlAt key l).amod = some a → a.place = 0
  record : w.record = true → (s.ctlAt key 0).pp.length < 64
  noQueue : ∀ x ∈ w.noQueue, scalarOk key x = true ∧ isQueue key x = false
  pairs : ∀ x ∈ w.pairs, pairOk x = true
  crosses : ∀ x ∈ w.crosses, x < 0x3A → ∀ l, s.poisonLane.has (laneKey key x l) = false

/-- The instruction completes: issued with nothing in its way and its operands ready, it has its effect, and nothing else
changes but the tokens it passes on, the count of the wave's issue, and the program counters of those that issue it. -/
def Run.completes (w : Run) : Prop :=
  ∀ (s : State) (key : Nat) (set : List Nat), s.issuing key set w.unit → s.admits key set w.g w.half → w.allowed s key set →
    s.operandsReady key set w.ssrc w.sdst w.lsrc w.ldst w.links →
    let r := s.reads key set w.g w.lane w.ssrc w.lsrc
    let is : Iss := { key := key, threads := set, lanes := issueLanes key set }
    w.ready is r.1 r.2.1 r.2.2 →
    exec w.instr s = .next (
      let e := w.effect is r.1 r.2.1 r.2.2
      let js := w.jumps is r.1 r.2.1 r.2.2
      let t := if w.turns && isWave key then e.backwards key js (s.ctlAt key (set.headD 0)).pc else e
      t.concluded key (if w.stays && isWave key then [] else set) (if w.later then [] else pushFifos key w.g.toNat)
        fun l c => if w.stays then c else moveOn w.half js l c)

/-- An instruction with one scalar result, from the values of its scalar sources in pop order. -/
def scalarRun (i : Instr) (half : Nat) (g : BitVec 4) (src : List Nat) (d : Nat) (f : List DWord → DWord) : Run :=
  { instr := i, half := half, g := g, ssrc := src, sdst := [d], effect := fun is s sv _ => s.give is.key d (f sv) }

/-- A lane instruction: in every lane it acts on, the result of the lane's sources in pop order enters the destination as
R160 retires it. -/
def laneRun (i : Instr) (half : Nat) (g : BitVec 4) (src : List Nat) (d : Nat) (f : List Word → Word) : Run :=
  { instr := i, half := half, g := g, legal := 0x28, lane := true, lsrc := src, ldst := [d]
    effect := fun is s _ lv => s.giveLanes is.key d (is.lanes.map fun l => (l, f (lv.map fun v => v.getD l 0))) }

/-- A float instruction: as a lane instruction, with the rounding mode of the stream or thread (R26), and its flags merged
(R27, R144). -/
def floatRun (i : Instr) (half : Nat) (g : BitVec 4) (src : List Nat) (d : Nat) (f : Rm → List Word → Word × Fl) : Run :=
  { instr := i, half := half, g := g, legal := 0x28, lane := true, lsrc := src, ldst := [d]
    effect := fun is s _ lv =>
      let rs := is.lanes.map fun l => (l, f (s.laneRm is l) (lv.map fun v => v.getD l 0))
      (s.orLaneFlags is.key (rs.map fun r => (r.1, r.2.2))).giveLanes is.key d (rs.map fun r => (r.1, r.2.1)) }

/-- An instruction with one predicate result, from the values of its lane sources in pop order. -/
def predRun (i : Instr) (g : BitVec 4) (src : List Nat) (p : Nat) (f : State → Nat → Nat → List Word → Bool) : Run :=
  { instr := i, g := g, legal := 0x28, lane := true, lsrc := src
    effect := fun is s _ lv => s.pput is p (is.lanes.map fun l => (l, f s is.key l (lv.map fun v => v.getD l 0))) }

/-- What a cross-lane read reads, lane by lane (R176): the amount of each lane, the lane it names, and the results. -/
def crossAmount (b : Option Nat) (imm : Int) (form : Nat) (lv : List (List Word)) (l : Nat) : Int :=
  match b with
  | none => imm
  | some _ => if form == 1 then (lval lv 0 l).toInt else ((lval lv 0 l).toNat : Int)

def crossResults (s : State) (key : Nat) (b : Option Nat) (imm : Int) (form : Nat) (lanes : List Nat) (lv : List (List Word)) :
    List (Nat × Word × Bool) :=
  lanes.map fun l =>
    match crossSource form (laneCount key) l (crossAmount b imm form lv l) with
    | none => (l, (0 : Word), false)
    | some x => (l, if s.laneLive key x then lval lv (if b.isSome then 1 else 0) x else 0, true)

/-- The registers it reads, each in the lane where it stands (R334). -/
def crossPins (key a : Nat) (b : Option Nat) (imm : Int) (form : Nat) (lanes : List Nat) (lv : List (List Word)) : List (Nat × Nat) :=
  lanes.flatMap fun l =>
    (match crossSource form (laneCount key) l (crossAmount b imm form lv l) with
     | some x => [(x, a)]
     | none => []) ++ b.toList.map fun y => (l, y)

end Sys2Proof.Machine
end

