-- ==== Sys2Proof/Certificates/Slice0/Obligations.lean ====
section
/-! DEFINITION. The statements for the provers. Each names an instruction's operands, when it can have its effect, and that
effect; `Run.completes` says that it then answers a next state with that effect, and what is left as it was. -/

open Sys2Proof Sys2Proof.Machine

noncomputable section

namespace Sys2Proof.Machine

/-! ### Scalar instructions -/

/-- Two scalar sources a and b into d. -/
def scalarPair (i : Instr) (half : Nat) (g : BitVec 4) (d a b : Nat) (f : DWord → DWord → DWord) : Run :=
  scalarRun i half g [b, a] d fun v => f (v.getD 1 0) (v.getD 0 0)

/-- One scalar source a into d. -/
def scalarOne (i : Instr) (half : Nat) (g : BitVec 4) (d a : Nat) (f : DWord → DWord) : Run :=
  scalarRun i half g [a] d fun v => f (v.getD 0 0)

/-- An instruction of R161 that reads its destination z as well (R159): it is read last, and may not be a queue. -/
def scalarThree (i : Instr) (g : BitVec 4) (d a b : Nat) (f : DWord → DWord → DWord → DWord) : Run :=
  { scalarRun i 2 g [b, a, d] d fun v => f (v.getD 1 0) (v.getD 0 0) (v.getD 2 0) with noQueue := [d] }

/-- The table of R161, with the boundary cases of division from R162. -/
def scalarTable (d a b : BitVec 6) (g : BitVec 4) : List Run :=
  [ scalarPair (.add d a b g) 2 g d.toNat a.toNat b.toNat fun x y => x + y,
    scalarPair (.sub d a b g) 2 g d.toNat a.toNat b.toNat fun x y => x - y,
    scalarPair (.and d a b g) 2 g d.toNat a.toNat b.toNat fun x y => x &&& y,
    scalarPair (.or d a b g) 2 g d.toNat a.toNat b.toNat fun x y => x ||| y,
    scalarPair (.xor d a b g) 2 g d.toNat a.toNat b.toNat fun x y => x ^^^ y,
    scalarPair (.shl d a b g) 2 g d.toNat a.toNat b.toNat fun x y => x <<< (y.toNat % 64),
    scalarPair (.shr d a b g) 2 g d.toNat a.toNat b.toNat fun x y => x >>> (y.toNat % 64),
    scalarPair (.sra d a b g) 2 g d.toNat a.toNat b.toNat fun x y => x.sshiftRight (y.toNat % 64),
    scalarPair (.mul d a b g) 2 g d.toNat a.toNat b.toNat fun x y => x * y,
    scalarPair (.mulh d a b g) 2 g d.toNat a.toNat b.toNat fun x y => BitVec.ofInt 64 (x.toInt * y.toInt / 2 ^ 64),
    scalarPair (.mulhu d a b g) 2 g d.toNat a.toNat b.toNat fun x y => BitVec.ofNat 64 (x.toNat * y.toNat / 2 ^ 64),
    scalarThree (.mad d a b g) g d.toNat a.toNat b.toNat fun x y z => x * y + z,
    scalarPair (.min d a b g) 2 g d.toNat a.toNat b.toNat fun x y => if x.toInt < y.toInt then x else y,
    scalarPair (.max d a b g) 2 g d.toNat a.toNat b.toNat fun x y => if x.toInt < y.toInt then y else x,
    scalarPair (.minu d a b g) 2 g d.toNat a.toNat b.toNat fun x y => if x.toNat < y.toNat then x else y,
    scalarPair (.maxu d a b g) 2 g d.toNat a.toNat b.toNat fun x y => if x.toNat < y.toNat then y else x,
    scalarPair (.div d a b g) 2 g d.toNat a.toNat b.toNat fun x y =>
      if y = 0 then -1 else BitVec.ofInt 64 (Int.tdiv x.toInt y.toInt),
    scalarPair (.divu d a b g) 2 g d.toNat a.toNat b.toNat fun x y =>
      if y = 0 then -1 else BitVec.ofNat 64 (x.toNat / y.toNat),
    scalarPair (.rem d a b g) 2 g d.toNat a.toNat b.toNat fun x y =>
      if y = 0 then x else BitVec.ofInt 64 (Int.tmod x.toInt y.toInt),
    scalarPair (.remu d a b g) 2 g d.toNat a.toNat b.toNat fun x y =>
      if y = 0 then x else BitVec.ofNat 64 (x.toNat % y.toNat),
    scalarPair (.seq d a b g) 2 g d.toNat a.toNat b.toNat fun x y => if x = y then 1 else 0,
    scalarPair (.slt d a b g) 2 g d.toNat a.toNat b.toNat fun x y => if x.toInt < y.toInt then 1 else 0,
    scalarPair (.sltu d a b g) 2 g d.toNat a.toNat b.toNat fun x y => if x.toNat < y.toNat then 1 else 0,
    scalarThree (.sel d a b g) g d.toNat a.toNat b.toNat fun x y z => if z = 0 then y else x ]

/-- The immediate and constant forms of R163 and R164. -/
def scalarImmediates (d a im : BitVec 6) (k : BitVec 14) (g : BitVec 4) : List Run :=
  [ scalarOne (.addi d a im g) 2 g d.toNat a.toNat fun x => x + im.signExtend 64,
    scalarOne (.andi d a im g) 2 g d.toNat a.toNat fun x => x &&& im.signExtend 64,
    scalarOne (.shli d a im g) 2 g d.toNat a.toNat fun x => x <<< im.toNat,
    scalarOne (.shri d a im g) 2 g d.toNat a.toNat fun x => x >>> im.toNat,
    scalarRun (.li d k g) 2 g [] d.toNat fun _ => k.signExtend 64,
    { scalarOne (.lsi d k g) 2 g d.toNat d.toNat fun z => (z <<< 14) ||| k.setWidth 64 with noQueue := [d.toNat] } ]

/-- Number of 1 bits of a number below 2^n. -/
def ones (n v : Nat) : Nat := ((List.range n).filter fun i => v / 2 ^ i % 2 == 1).length

/-- The n bytes of a number in reverse order. -/
def reversed (n v : Nat) : Nat := ((List.range n).map fun i => v / 256 ^ i % 256 * 256 ^ (n - 1 - i)).sum

/-- Leading and trailing zero bits of a number below 2^n. -/
def leading (n v : Nat) : Nat := if v = 0 then n else n - 1 - Nat.log2 v
def trailing (n v : Nat) : Nat := ((List.range n).takeWhile fun i => v / 2 ^ i % 2 == 0).length

/-- The unary instructions of R165. -/
def scalarUnary (d a : BitVec 6) (g : BitVec 4) : List Run :=
  [ scalarOne (.clz d a g) 2 g d.toNat a.toNat fun x => BitVec.ofNat 64 (leading 64 x.toNat),
    scalarOne (.ctz d a g) 2 g d.toNat a.toNat fun x => BitVec.ofNat 64 (trailing 64 x.toNat),
    scalarOne (.popc d a g) 2 g d.toNat a.toNat fun x => BitVec.ofNat 64 (ones 64 x.toNat),
    scalarOne (.not d a g) 2 g d.toNat a.toNat fun x => ~~~x,
    scalarOne (.neg d a g) 2 g d.toNat a.toNat fun x => 0 - x,
    scalarOne (.sext8 d a g) 2 g d.toNat a.toNat fun x => (x.setWidth 8).signExtend 64,
    scalarOne (.sext16 d a g) 2 g d.toNat a.toNat fun x => (x.setWidth 16).signExtend 64,
    scalarOne (.sext32 d a g) 2 g d.toNat a.toNat fun x => (x.setWidth 32).signExtend 64,
    scalarOne (.zext8 d a g) 2 g d.toNat a.toNat fun x => BitVec.ofNat 64 (x.toNat % 2 ^ 8),
    scalarOne (.zext16 d a g) 2 g d.toNat a.toNat fun x => BitVec.ofNat 64 (x.toNat % 2 ^ 16),
    scalarOne (.zext32 d a g) 2 g d.toNat a.toNat fun x => BitVec.ofNat 64 (x.toNat % 2 ^ 32),
    scalarOne (.bswap d a g) 2 g d.toNat a.toNat fun x => BitVec.ofNat 64 (reversed 8 x.toNat) ]

/-- The short scalar words of R53: of two sources, the first is the destination. -/
def scalarShorts (d : BitVec 4) (x im : BitVec 6) : List Run :=
  [ scalarPair (.addShort d x) 1 0 d.toNat d.toNat x.toNat fun x y => x + y,
    scalarPair (.subShort d x) 1 0 d.toNat d.toNat x.toNat fun x y => x - y,
    scalarPair (.andShort d x) 1 0 d.toNat d.toNat x.toNat fun x y => x &&& y,
    scalarPair (.orShort d x) 1 0 d.toNat d.toNat x.toNat fun x y => x ||| y,
    scalarPair (.xorShort d x) 1 0 d.toNat d.toNat x.toNat fun x y => x ^^^ y,
    scalarPair (.shlShort d x) 1 0 d.toNat d.toNat x.toNat fun x y => x <<< (y.toNat % 64),
    scalarPair (.shrShort d x) 1 0 d.toNat d.toNat x.toNat fun x y => x >>> (y.toNat % 64),
    scalarPair (.sraShort d x) 1 0 d.toNat d.toNat x.toNat fun x y => x.sshiftRight (y.toNat % 64),
    scalarOne (.mv d x) 1 0 d.toNat x.toNat fun x => x,
    scalarOne (.addiShort d im) 1 0 d.toNat d.toNat fun x => x + im.signExtend 64,
    scalarRun (.liShort d im) 1 0 [] d.toNat fun _ => im.signExtend 64,
    scalarOne (.shliShort d im) 1 0 d.toNat d.toNat fun x => x <<< im.toNat,
    scalarOne (.shriShort d im) 1 0 d.toNat d.toNat fun x => x >>> im.toNat,
    scalarOne (.andiShort d im) 1 0 d.toNat d.toNat fun x => x &&& im.signExtend 64,
    scalarOne (.negShort d x) 1 0 d.toNat x.toNat fun x => 0 - x,
    scalarOne (.notShort d x) 1 0 d.toNat x.toNat fun x => ~~~x ]

/-! ### Lane instructions -/

/-- Two lane sources a and b into d. -/
def lanePair (i : Instr) (half : Nat) (g : BitVec 4) (d a b : Nat) (f : Word → Word → Word) : Run :=
  laneRun i half g [b, a] d fun v => f (v.getD 1 0) (v.getD 0 0)

/-- One lane source a into d. -/
def laneOne (i : Instr) (half : Nat) (g : BitVec 4) (d a : Nat) (f : Word → Word) : Run :=
  laneRun i half g [a] d fun v => f (v.getD 0 0)

/-- A run that reads its lane destination: an output stream may not be named (R159). -/
def Run.readsDst (w : Run) (d : Nat) : Run := { w with ready := fun _ _ _ _ => d ≠ 0x3A ∧ d ≠ 0x3B }

/-- The lane instructions of two and three operands of R167, its immediate forms, and those of R168. -/
def laneTable (d a b im : BitVec 6) (k : BitVec 5) (g : BitVec 4) : List Run :=
  [ lanePair (.addLane d a b g) 2 g d.toNat a.toNat b.toNat fun x y => x + y,
    lanePair (.subLane d a b g) 2 g d.toNat a.toNat b.toNat fun x y => x - y,
    lanePair (.andLane d a b g) 2 g d.toNat a.toNat b.toNat fun x y => x &&& y,
    lanePair (.orLane d a b g) 2 g d.toNat a.toNat b.toNat fun x y => x ||| y,
    lanePair (.xorLane d a b g) 2 g d.toNat a.toNat b.toNat fun x y => x ^^^ y,
    lanePair (.shlLane d a b g) 2 g d.toNat a.toNat b.toNat fun x y => x <<< (y.toNat % 32),
    lanePair (.shrLane d a b g) 2 g d.toNat a.toNat b.toNat fun x y => x >>> (y.toNat % 32),
    lanePair (.sraLane d a b g) 2 g d.toNat a.toNat b.toNat fun x y => x.sshiftRight (y.toNat % 32),
    lanePair (.mulLane d a b g) 2 g d.toNat a.toNat b.toNat fun x y => x * y,
    lanePair (.mulhLane d a b g) 2 g d.toNat a.toNat b.toNat fun x y => BitVec.ofInt 32 (x.toInt * y.toInt / 2 ^ 32),
    lanePair (.mulhuLane d a b g) 2 g d.toNat a.toNat b.toNat fun x y => BitVec.ofNat 32 (x.toNat * y.toNat / 2 ^ 32),
    (laneRun (.madLane d a b g) 2 g [b.toNat, a.toNat, d.toNat] d.toNat fun v =>
      v.getD 1 0 * v.getD 0 0 + v.getD 2 0).readsDst d.toNat,
    lanePair (.minLane d a b g) 2 g d.toNat a.toNat b.toNat fun x y => if x.toInt < y.toInt then x else y,
    lanePair (.maxLane d a b g) 2 g d.toNat a.toNat b.toNat fun x y => if x.toInt < y.toInt then y else x,
    lanePair (.minuLane d a b g) 2 g d.toNat a.toNat b.toNat fun x y => if x.toNat < y.toNat then x else y,
    lanePair (.maxuLane d a b g) 2 g d.toNat a.toNat b.toNat fun x y => if x.toNat < y.toNat then y else x,
    laneOne (.addiLane d a im g) 2 g d.toNat a.toNat fun x => x + im.signExtend 32,
    laneOne (.andiLane d a im g) 2 g d.toNat a.toNat fun x => x &&& im.signExtend 32,
    laneOne (.shliLane d a k g) 2 g d.toNat a.toNat fun x => x <<< k.toNat,
    laneOne (.shriLane d a k g) 2 g d.toNat a.toNat fun x => x >>> k.toNat,
    laneOne (.clzLane d a g) 2 g d.toNat a.toNat fun x => BitVec.ofNat 32 (leading 32 x.toNat),
    laneOne (.popcLane d a g) 2 g d.toNat a.toNat fun x => BitVec.ofNat 32 (ones 32 x.toNat),
    laneOne (.notLane d a g) 2 g d.toNat a.toNat fun x => ~~~x,
    laneOne (.negLane d a g) 2 g d.toNat a.toNat fun x => 0 - x,
    laneOne (.abs d a g) 2 g d.toNat a.toNat fun x => if 0 ≤ x.toInt then x else 0 - x,
    laneOne (.sext8Lane d a g) 2 g d.toNat a.toNat fun x => (x.setWidth 8).signExtend 32,
    laneOne (.sext16Lane d a g) 2 g d.toNat a.toNat fun x => (x.setWidth 16).signExtend 32,
    laneOne (.zext8Lane d a g) 2 g d.toNat a.toNat fun x => BitVec.ofNat 32 (x.toNat % 2 ^ 8),
    laneOne (.zext16Lane d a g) 2 g d.toNat a.toNat fun x => BitVec.ofNat 32 (x.toNat % 2 ^ 16),
    laneOne (.bswapLane d a g) 2 g d.toNat a.toNat fun x => BitVec.ofNat 32 (reversed 4 x.toNat),
    laneOne (.mov d a g) 2 g d.toNat a.toNat fun x => x ]

/-- A register code of family 00 (R52): o0 to o7, t0, t1, and 10 for zero and discard. -/
def shortReg (c : BitVec 4) : Nat := if c = 10 then 0x3C else 0x30 + c.toNat

/-- First source of a family-00 word: the destination, or t0 where its S bit is set (R52). -/
def shortFirst (d : BitVec 4) (t : BitVec 1) : Nat := if t = 1 then 0x38 else shortReg d

/-- The short lane words of R52. -/
def laneShorts (d a : BitVec 4) (t : BitVec 1) : List Run :=
  let d' := shortReg d
  let x' := shortFirst d t
  let a' := shortReg a
  [ lanePair (.addLaneShort d a t) 1 0 d' x' a' fun x y => x + y,
    lanePair (.subLaneShort d a t) 1 0 d' x' a' fun x y => x - y,
    lanePair (.andLaneShort d a t) 1 0 d' x' a' fun x y => x &&& y,
    lanePair (.orLaneShort d a t) 1 0 d' x' a' fun x y => x ||| y,
    lanePair (.xorLaneShort d a t) 1 0 d' x' a' fun x y => x ^^^ y,
    lanePair (.shlLaneShort d a t) 1 0 d' x' a' fun x y => x <<< (y.toNat % 32),
    lanePair (.shrLaneShort d a t) 1 0 d' x' a' fun x y => x >>> (y.toNat % 32),
    lanePair (.sraLaneShort d a t) 1 0 d' x' a' fun x y => x.sshiftRight (y.toNat % 32),
    lanePair (.mulLaneShort d a t) 1 0 d' x' a' fun x y => x * y,
    lanePair (.minLaneShort d a t) 1 0 d' x' a' fun x y => if x.toInt < y.toInt then x else y,
    lanePair (.maxLaneShort d a t) 1 0 d' x' a' fun x y => if x.toInt < y.toInt then y else x,
    lanePair (.minuLaneShort d a t) 1 0 d' x' a' fun x y => if x.toNat < y.toNat then x else y,
    lanePair (.maxuLaneShort d a t) 1 0 d' x' a' fun x y => if x.toNat < y.toNat then y else x,
    laneOne (.movShort d a) 1 0 d' a' fun x => x,
    laneOne (.negLaneShort d a) 1 0 d' a' fun x => 0 - x,
    laneOne (.notLaneShort d a) 1 0 d' a' fun x => ~~~x,
    laneOne (.absShort d a) 1 0 d' a' fun x => if 0 ≤ x.toInt then x else 0 - x ]

/-! ### Comparisons, predicates and floats -/

/-- A comparison of lanes a and b into predicate p. -/
def comparison (i : Instr) (g : BitVec 4) (p : BitVec 3) (a b : BitVec 6) (f : Word → Word → Bool) : Run :=
  predRun i g [b.toNat, a.toNat] p.toNat fun _ _ _ v => f (v.getD 1 0) (v.getD 0 0)

/-- Predicate logic on predicates a and b into p. -/
def logic (i : Instr) (g : BitVec 4) (p a b : BitVec 3) (f : Bool → Bool → Bool) : Run :=
  predRun i g [] p.toNat fun s key l _ => f (s.pget key a.toNat l) (s.pget key b.toNat l)

/-- The comparisons of R169 and the predicate logic of R170. -/
def predicates (p pa pb : BitVec 3) (a b : BitVec 6) (g : BitVec 4) : List Run :=
  [ comparison (.cmpEq p a b g) g p a b fun x y => x == y,
    comparison (.cmpLt p a b g) g p a b fun x y => x.toInt < y.toInt,
    comparison (.cmpLtu p a b g) g p a b fun x y => x.toNat < y.toNat,
    comparison (.cmpNe p a b g) g p a b fun x y => x != y,
    logic (.pand p pa pb g) g p pa pb fun x y => x && y,
    logic (.por p pa pb g) g p pa pb fun x y => x || y,
    logic (.pxor p pa pb g) g p pa pb fun x y => x != y,
    logic (.pandn p pa pb g) g p pa pb fun x y => x && !y ]

/-- The format a float instruction's f field names (R171). -/
def formatOf (f : BitVec 2) : Fmt := if f = 0 then .fp32 else if f = 1 then .fp16 else .bf16

/-- A float instruction of two sources, on the elements of each lane (R171). -/
def floatPair (i : Instr) (half : Nat) (g : BitVec 4) (f : Fmt) (d a b : Nat) (op : Rm → Nat → Nat → Nat × Fl) : Run :=
  floatRun i half g [b, a] d fun rm v => perElem2 f (op rm) (v.getD 1 0) (v.getD 0 0)

/-- A float instruction of one source, on the elements of each lane (R171). -/
def floatOne (i : Instr) (half : Nat) (g : BitVec 4) (f : Fmt) (d a : Nat) (op : Rm → Nat → Nat × Fl) : Run :=
  floatRun i half g [a] d fun rm v => perElem1 f (op rm) (v.getD 0 0)

/-- ffma (R172): the destination is the third operand. -/
def floatThree (i : Instr) (half : Nat) (g : BitVec 4) (f : Fmt) (d a b : Nat) : Run :=
  (floatRun i half g [b, a, d] d fun rm v =>
    perElem3 f (fun x y z =>
      let p := mulV (unpackF f x) (unpackF f y)
      let q := addV rm p.1 (unpackF f z)
      let r := roundArith f rm q.1
      (r.1, p.2 ||| q.2 ||| r.2)) (v.getD 1 0) (v.getD 0 0) (v.getD 2 0)).readsDst d

/-- An exact sum or product rounded once (R172). -/
def roundedOf (f : Fmt) (op : Rm → FVal → FVal → FVal × Fl) (rm : Rm) (x y : Nat) : Nat × Fl :=
  let v := op rm (unpackF f x) (unpackF f y)
  let r := roundArith f rm v.1
  (r.1, v.2 ||| r.2)

/-- The lesser, or the greater, of two elements (R31, R172). -/
def choiceOf (f : Fmt) (pick : FVal → FVal → Bool) (x y : Nat) : Nat × Fl :=
  let u := unpackF f x
  let v := unpackF f y
  (if u.isNan && v.isNan then f.nan else if u.isNan then y else if v.isNan then x else if pick u v then y else x,
    sigFlag u ||| sigFlag v)

/-- The float instructions of R172, and their short words (R52). -/
def floatTable (d a b : BitVec 6) (f : BitVec 2) (g : BitVec 4) (d4 a4 : BitVec 4) (t : BitVec 1) : List Run :=
  let m := formatOf f
  let d' := shortReg d4
  let x' := shortFirst d4 t
  let a' := shortReg a4
  [ floatPair (.fadd d a b f g) 2 g m d.toNat a.toNat b.toNat (roundedOf m addV),
    floatPair (.fsub d a b f g) 2 g m d.toNat a.toNat b.toNat (roundedOf m fun rm x y => addV rm x (negV y)),
    floatPair (.fmul d a b f g) 2 g m d.toNat a.toNat b.toNat (roundedOf m fun _ x y => mulV x y),
    floatPair (.fmin d a b f g) 2 g m d.toNat a.toNat b.toNat fun _ => choiceOf m fun x y => ltV true y x,
    floatPair (.fmax d a b f g) 2 g m d.toNat a.toNat b.toNat fun _ => choiceOf m fun x y => ltV true x y,
    floatThree (.ffma d a b f g) 2 g m d.toNat a.toNat b.toNat,
    floatPair (.faddF32Short d4 a4 t) 1 0 .fp32 d' x' a' (roundedOf .fp32 addV),
    floatPair (.fsubF32Short d4 a4 t) 1 0 .fp32 d' x' a' (roundedOf .fp32 fun rm x y => addV rm x (negV y)),
    floatPair (.fmulF32Short d4 a4 t) 1 0 .fp32 d' x' a' (roundedOf .fp32 fun _ x y => mulV x y),
    floatThree (.ffmaF32Short d4 a4 t) 1 0 .fp32 d' x' a',
    floatPair (.fminF32Short d4 a4 t) 1 0 .fp32 d' x' a' fun _ => choiceOf .fp32 fun x y => ltV true y x,
    floatPair (.fmaxF32Short d4 a4 t) 1 0 .fp32 d' x' a' fun _ => choiceOf .fp32 fun x y => ltV true x y,
    floatPair (.faddF16Short d4 a4 t) 1 0 .fp16 d' x' a' (roundedOf .fp16 addV),
    floatPair (.fmulF16Short d4 a4 t) 1 0 .fp16 d' x' a' (roundedOf .fp16 fun _ x y => mulV x y),
    floatThree (.ffmaF16Short d4 a4 t) 1 0 .fp16 d' x' a',
    floatPair (.faddBf16Short d4 a4 t) 1 0 .bf16 d' x' a' (roundedOf .bf16 addV),
    floatPair (.fmulBf16Short d4 a4 t) 1 0 .bf16 d' x' a' (roundedOf .bf16 fun _ x y => mulV x y),
    floatThree (.ffmaBf16Short d4 a4 t) 1 0 .bf16 d' x' a' ]

/-- One element of an instruction of R174: a NaN gives the canonical one, and a signalling one sets NV. -/
def unaryOf (f : Fmt) (zero inf : Bool → Nat × Fl) (value : Bool → Nat → Int → Nat × Fl) (w : Nat) : Nat × Fl :=
  match unpackF f w with
  | .nan signalling => (f.nan, if signalling then flNV else 0)
  | .inf neg => inf neg
  | .num neg m e => if m = 0 then zero neg else value neg m e

/-- Zero and infinity of a sign. -/
def zeroF (f : Fmt) (neg : Bool) : Nat := if neg then 2 ^ (f.width - 1) else 0
def infF (f : Fmt) (neg : Bool) : Nat := zeroF f neg + f.maxFin + 1

/-- The square root of m × 2^e, from the whole root of m × 2^160 (of 2m where e is odd): one more bit says whether it is
exact, which settles every rounding. -/
def rootOf (m : Nat) (e : Int) : FVal :=
  let big := m * 2 ^ (e % 2).toNat * 2 ^ 160
  let r := Nat.sqrt big
  .num false (2 * r + if r * r = big then 0 else 1) ((e - e % 2) / 2 - 81)

/-- One over m × 2^e, and one over its square root, in the same way. -/
def inverseOf (neg : Bool) (m : Nat) (e : Int) : FVal :=
  let k := Nat.log2 m + 80
  .num neg (2 * (2 ^ k / m) + if 2 ^ k % m = 0 then 0 else 1) (-e - k - 1)

def inverseRootOf (m : Nat) (e : Int) : FVal :=
  let n := m * 2 ^ (e % 2).toNat
  let h := (Nat.log2 n + 161) / 2
  let r := Nat.sqrt (2 ^ (2 * h) / n)
  .num false (2 * r + if r * r * n = 2 ^ (2 * h) then 0 else 1) (-((e - e % 2) / 2) - h - 1)

/-- A value that is no integer made one: the magnitude q and a part r of h units, in a mode (R25, R174). -/
def wholeOf (rm : Rm) (neg : Bool) (q r h : Nat) : Nat :=
  let up : Bool := match rm with
    | .rne => h < 2 * r || (2 * r == h && q % 2 == 1)
    | .rz => false
    | .rdn => neg && r != 0
    | .rup => !neg && r != 0
  if up then q + 1 else q

/-- Integral value in a mode, with no NX: the operand where it is one. -/
def integralOf (f : Fmt) (rm : Rm) (w : Nat) : Nat × Fl :=
  unaryOf f (fun _ => (w, 0)) (fun _ => (w, 0))
    (fun neg m e => if 0 ≤ e then (w, 0)
      else ((roundArith f rm (.num neg (wholeOf rm neg (m / 2 ^ (-e).toNat) (m % 2 ^ (-e).toNat) (2 ^ (-e).toNat)) 0)).1, 0)) w

/-- fclass, from the sign, exponent and fraction fields. -/
def classOf (f : Fmt) (w : Nat) : Nat :=
  let neg := w / 2 ^ (f.width - 1) % 2 = 1
  let top := 2 ^ (f.width - 1 - f.frac) - 1
  let ex := w / 2 ^ f.frac % 2 ^ (f.width - 1 - f.frac)
  let fr := w % 2 ^ f.frac
  2 ^ (if ex = top then (if fr = 0 then (if neg then 0 else 7) else if fr / 2 ^ (f.frac - 1) = 0 then 8 else 9)
    else if ex = 0 then (if fr = 0 then (if neg then 3 else 4) else if neg then 2 else 5)
    else if neg then 1 else 6)

/-- fabs and fneg act on the sign bit alone, and on a NaN as the others. -/
def signOf (f : Fmt) (sign : Bool → Bool) (w : Nat) : Nat × Fl :=
  let r (neg : Bool) : Nat × Fl := (w % 2 ^ (f.width - 1) + zeroF f (sign neg), 0)
  unaryOf f r r (fun neg _ _ => r neg) w

/-- The float instructions of R174, and their short words (R52). Of an operand that is neither 0 nor an infinity, fexp2,
flog2, fsin and fcos round the fixed-point values of log entry 12. -/
def floatUnary (d a : BitVec 6) (f : BitVec 2) (g : BitVec 4) (d4 a4 : BitVec 4) : List Run :=
  let m := formatOf f
  let d' := shortReg d4
  let a' := shortReg a4
  let one (i : Instr) (op : Rm → Nat → Nat × Fl) : Run := floatOne i 2 g m d.toNat a.toNat op
  let bad : Nat × Fl := (m.nan, flNV)
  let unity : Nat × Fl := (m.bias * 2 ^ m.frac, 0)
  let noNegative (rm : Rm) (v : Nat → Int → FVal) (neg : Bool) (k : Nat) (e : Int) : Nat × Fl :=
    if neg then bad else roundArith m rm (v k e)
  [ one (.fsqrt d a f g) fun rm w =>
      unaryOf m (fun _ => (w, 0)) (fun neg => if neg then bad else (w, 0)) (noNegative rm rootOf) w,
    one (.frcp d a f g) fun rm =>
      unaryOf m (fun neg => (infF m neg, flDZ)) (fun neg => (zeroF m neg, 0)) fun neg k e => roundArith m rm (inverseOf neg k e),
    one (.frsq d a f g) fun rm =>
      unaryOf m (fun neg => (infF m neg, flDZ)) (fun neg => if neg then bad else (0, 0)) (noNegative rm inverseRootOf),
    one (.fexp2 d a f g) fun rm w =>
      unaryOf m (fun _ => unity) (fun neg => if neg then (0, 0) else (w, 0)) (fun neg k e => roundArith m rm (exp2V neg k e)) w,
    one (.flog2 d a f g) fun rm w =>
      unaryOf m (fun _ => (infF m true, flDZ)) (fun neg => if neg then bad else (w, 0))
        (fun neg k e => if neg = false ∧ w = unity.1 then (0, 0) else noNegative rm log2V neg k e) w,
    one (.fsin d a f g) fun rm w =>
      unaryOf m (fun _ => (w, 0)) (fun _ => bad) (fun neg k e => roundArith m rm (sinCosV false neg k e)) w,
    one (.fcos d a f g) fun rm =>
      unaryOf m (fun _ => unity) (fun _ => bad) fun neg k e => roundArith m rm (sinCosV true neg k e),
    one (.fabs d a f g) fun _ => signOf m fun _ => false,
    one (.fneg d a f g) fun _ => signOf m fun neg => !neg,
    one (.ffloor d a f g) fun _ => integralOf m .rdn,
    one (.fceil d a f g) fun _ => integralOf m .rup,
    one (.ftrunc d a f g) fun _ => integralOf m .rz,
    one (.fround d a f g) fun rm => integralOf m rm,
    one (.fclass d a f g) fun _ w => (classOf m w, 0),
    floatOne (.fnegF32Short d4 a4) 1 0 .fp32 d' a' fun _ => signOf .fp32 fun neg => !neg,
    floatOne (.fabsF32Short d4 a4) 1 0 .fp32 d' a' fun _ => signOf .fp32 fun _ => false ]

/-- Whether a condition of R173 holds of two values. -/
def condition (c : BitVec 3) (x y : FVal) : Bool :=
  let ordered := !x.isNan && !y.isNan
  if c = 0 then eqV x y else if c = 1 then ordered && ltV false x y
  else if c = 2 then ordered && (ltV false x y || eqV x y)
  else if c = 3 then ordered && ltV false y x else if c = 4 then ordered && (ltV false y x || eqV x y)
  else if c = 5 then !eqV x y else if c = 6 then ordered else !ordered

/-- One element compared (R173): a quiet NaN sets NV under conditions 1 to 4, a signalling one under any. -/
def compared (c : BitVec 3) (f : Fmt) (x y : Nat) : Bool × Fl :=
  let u := unpackF f x
  let v := unpackF f y
  let sig := sigFlag u ||| sigFlag v
  (condition c u v, if 1 ≤ c.toNat ∧ c.toNat ≤ 4 ∧ (u.isNan || v.isNan) = true then flNV else sig)

/-- A lane compared: both elements of a packed lane must hold (R173). -/
def comparedLane (c : BitVec 3) (f : Fmt) (x y : Word) : Bool × Fl :=
  if f = .fp32 then compared c f x.toNat y.toNat
  else
    let lo := compared c f (x.toNat % 65536) (y.toNat % 65536)
    let hi := compared c f (x.toNat / 65536) (y.toNat / 65536)
    (lo.1 && hi.1, lo.2 ||| hi.2)

/-- fcmp (R173). -/
def floatCompare (c p : BitVec 3) (a b : BitVec 6) (f : BitVec 2) (g : BitVec 4) : Run :=
  { instr := .fcmp c p a b f g, g := g, legal := 0x28, lane := true, lsrc := [b.toNat, a.toNat]
    effect := fun is s _ lv =>
      let rs := is.lanes.map fun l => (l, comparedLane c (formatOf f) (lval lv 1 l) (lval lv 0 l))
      (s.orLaneFlags is.key (rs.map fun r => (r.1, r.2.2))).pput is p.toNat (rs.map fun r => (r.1, r.2.1)) }

/-- cvt (R32, R33, R175): a pair source is read high register first, an entry that writes into a part of d reads d last, and a
pair result retires its low half and then its high half. -/
def conversion (d a n : BitVec 6) (r : BitVec 2) (g : BitVec 4) : Run :=
  let wide := cvtSrcPair n.toNat
  let double := cvtDstPair n.toNat
  let into := cvtInto n.toNat
  { instr := .cvt d a n r g, g := g, legal := 0x28, lane := true
    lsrc := (if wide then [pairHi a.toNat, a.toNat] else [a.toNat]) ++ (if into then [d.toNat] else [])
    ldst := if double then [d.toNat, pairHi d.toNat] else [d.toNat]
    pairs := (if wide then [a.toNat] else []) ++ (if double then [d.toNat] else [])
    ready := fun _ _ _ _ => into = true → d.toNat ≠ 0x3A ∧ d.toNat ≠ 0x3B
    effect := fun is s _ lv =>
      let rs := is.lanes.map fun l =>
        let x := if wide then (lval lv 1 l).toNat + 2 ^ 32 * (lval lv 0 l).toNat else (lval lv 0 l).toNat
        let old := if into then lval lv (if wide then 2 else 1) l else 0
        (l, cvtLane n.toNat (rmOf r.toNat) x old)
      let s1 := s.orLaneFlags is.key (rs.map fun r => (r.1, r.2.2))
      let s2 := s1.giveLanes is.key d.toNat (rs.map fun r => (r.1, BitVec.ofNat 32 r.2.1))
      if double then s2.giveLanes is.key (pairHi d.toNat) (rs.map fun r => (r.1, BitVec.ofNat 32 (r.2.1 / 2 ^ 32))) else s2 }

/-- A read across lanes (R176): `source` gives the source lane of a lane from its amount, which is b's value or `imm`. A
source out of range gives 0 and clears the lane's bit of p7; a lane whose thread has exited gives 0. The region of a thread whose
register is read, which need not be among those that issue, holds its slots from then on (R334). -/
def crossRead (i : Instr) (g : BitVec 4) (d a : Nat) (b : Option Nat) (imm : Int) (signed : Bool)
    (source : (lanes l : Nat) → Int → Int) : Run :=
  { instr := i, g := g, legal := 0x28, lane := true, lsrc := b.toList ++ [a], ldst := [d], crosses := [a]
    effect := fun is s _ lv =>
      let n := laneCount is.key
      let from_ (l : Nat) : Int :=
        let w := lval lv 0 l
        source n l (if b.isSome then (if signed then w.toInt else (w.toNat : Int)) else imm)
      let off (l : Nat) : Prop := from_ l < 0 ∨ (n : Int) ≤ from_ l
      let t := s.pinLanes is.key
        (is.lanes.flatMap fun l => (if off l then [] else [((from_ l).toNat, a)]) ++ b.toList.map fun y => (l, y)) d is.lanes
      let rs := is.lanes.map fun l =>
        if off l then (l, (0 : Word), false)
        else (l, (if isWave is.key = true ∧ (t.ctlAt is.key (from_ l).toNat).life = .exited then 0
          else lval lv (if b.isSome then 1 else 0) (from_ l).toNat), true)
      (t.pput is 7 (rs.map fun r => (r.1, r.2.2))).giveLanes is.key d (rs.map fun r => (r.1, r.2.1)) }

/-- The reads across lanes of R176. -/
def crossReads (d a b : BitVec 6) (g : BitVec 4) : List Run :=
  [ crossRead (.xlGet d a b g) g d.toNat a.toNat (some b.toNat) 0 false fun _ _ c => c,
    crossRead (.xlSh d a b g) g d.toNat a.toNat (some b.toNat) 0 true fun _ l c => l - c,
    crossRead (.xlRot d a b g) g d.toNat a.toNat (some b.toNat) 0 false fun n l c => (l - c) % n,
    crossRead (.xlXor d a b g) g d.toNat a.toNat (some b.toNat) 0 false fun _ l c => (l ^^^ c.toNat : Nat),
    crossRead (.xliGet d a b g) g d.toNat a.toNat none b.toNat false fun _ _ c => c,
    crossRead (.xliSh d a b g) g d.toNat a.toNat none b.toInt false fun _ l c => l - c,
    crossRead (.xliRot d a b g) g d.toNat a.toNat none b.toNat false fun n l c => (l - c) % n,
    crossRead (.xliXor d a b g) g d.toNat a.toNat none b.toNat false fun _ l c => (l ^^^ c.toNat : Nat) ]

/-- A scalar made of an active lane register (R177). -/
def ofLanes (i : Instr) (g : BitVec 4) (d a : BitVec 6) (f : List Word → DWord) : Run :=
  { instr := i, g := g, legal := 0x28, lane := true, lsrc := [a.toNat], sdst := [d.toNat]
    effect := fun is s _ lv => s.give is.key d.toNat (f (is.lanes.map fun l => lval lv 0 l)) }

/-- A scalar made of an active predicate (R177). -/
def ofPred (i : Instr) (g : BitVec 4) (d : BitVec 6) (p : BitVec 3) (f : List (Nat × Bool) → DWord) : Run :=
  { instr := i, g := g, legal := 0x28, lane := true, sdst := [d.toNat]
    effect := fun is s _ _ => s.give is.key d.toNat (f (is.lanes.map fun l => (l, s.pget is.key p.toNat l))) }

/-- The lane-to-scalar, scalar-to-lane and reduction instructions of R177. -/
def laneScalars (d a : BitVec 6) (p : BitVec 3) (g : BitVec 4) : List Run :=
  [ ofLanes (.rfal d a g) g d a fun ws => (ws.headD 0).setWidth 64,
    ofPred (.ballot d p g) g d p fun ps => BitVec.ofNat 64 (ps.map fun x => if x.2 then 2 ^ x.1 else 0).sum,
    ofPred (.vany d p g) g d p fun ps => if ∃ x ∈ ps, x.2 = true then 1 else 0,
    ofPred (.vall d p g) g d p fun ps => if ∀ x ∈ ps, x.2 = true then 1 else 0,
    ofPred (.pcount d p g) g d p fun ps => BitVec.ofNat 64 (ps.filter fun x => x.2).length,
    { instr := .movs d a g, g := g, legal := 0x28, lane := true, ssrc := [a.toNat], ldst := [d.toNat],
      effect := fun is s sv _ => s.giveLanes is.key d.toNat (is.lanes.map fun l => (l, (sv.getD 0 0).setWidth 32)) },
    { instr := .laneid d g, g := g, legal := 0x28, lane := true, ldst := [d.toNat],
      effect := fun is s _ _ => s.giveLanes is.key d.toNat (is.lanes.map fun l => (l, BitVec.ofNat 32 l)) },
    ofLanes (.vredadd d a g) g d a fun ws => BitVec.ofInt 64 (ws.map fun w => w.toInt).sum,
    ofLanes (.vredmin d a g) g d a fun ws =>
      (ws.foldl (fun m w => if w.toInt < m.toInt then w else m) (ws.headD 0)).signExtend 64,
    ofLanes (.vredmax d a g) g d a fun ws =>
      (ws.foldl (fun m w => if m.toInt < w.toInt then w else m) (ws.headD 0)).signExtend 64 ]

/-- The sum of R178: each addition rounds; a NaN ends canonical, and one that is signalling sets NV. -/
def orderedSum (rm : Rm) (ws : List Word) : Nat × Fl :=
  let r := (ws.drop 1).foldl (fun acc w =>
    let x := roundedOf .fp32 addV rm acc.1 w.toNat
    (x.1, acc.2 ||| x.2)) ((ws.headD 0).toNat, (0 : Fl))
  if (unpackF .fp32 r.1).isNan then (0x7FC00000, r.2 ||| sigFlag (unpackF .fp32 r.1)) else r

/-- fredadd (R178): the mode and the flags are the stream's, or those of the lowest thread. -/
def floatSum (d a : BitVec 6) (g : BitVec 4) : Run :=
  { instr := .fredadd d a g, g := g, legal := 0x28, lane := true, lsrc := [a.toNat], sdst := [d.toNat]
    effect := fun is s _ lv =>
      let l0 := is.threads.headD 0
      let r := orderedSum (s.rmOf_ is.key l0) (is.lanes.map fun l => lval lv 0 l)
      (s.orFlags is.key l0 r.2).give is.key d.toNat (BitVec.ofNat 64 r.1) }

/-! ### Control flow and the system group -/

/-- A branch of R87: the threads for which `taken` holds of the scalar's value go to the branch's address plus 2 × off14. -/
def branch (i : Instr) (g : BitVec 4) (legal : Nat) (src : List Nat) (o : BitVec 14)
    (taken : State → Nat → Nat → DWord → Bool) : Run :=
  { instr := i, g := g, legal := legal, ssrc := src, effect := fun _ s _ _ => s, turns := true
    jumps := fun is s sv _ => (is.threads.filter fun l => taken s is.key l (sv.getD 0 0)).map fun l =>
      (l, (s.ctlAt is.key l).pc + BitVec.ofInt 64 (2 * o.toInt)) }

/-- Whether predicate p sends a thread to its branch target: its own lane's bit, or on a tile core any lane's (R87). -/
def anySet (s : State) (key p l : Nat) : Bool :=
  if isWave key then s.pget key p l else (upTo 64).any fun l => s.pget key p l

/-- jr and ret (R89): a target with bit 0 clear. -/
def jumpRun (i : Instr) (a : BitVec 6) (g : BitVec 4) : Run :=
  { instr := i, g := g, ssrc := [a.toNat], ready := fun _ _ sv _ => bit (sv.getD 0 0) 0 = false
    effect := fun _ s _ _ => s, jumps := fun is _ sv _ => is.threads.map fun l => (l, sv.getD 0 0), turns := true }

/-- The branches of R87, loop (R88), and call, jr and ret (R89). -/
def branches (c a : BitVec 6) (p : BitVec 3) (o : BitVec 14) (g : BitVec 4) : List Run :=
  [ branch (.br o g) g 0x3F [] o fun _ _ _ _ => true,
    branch (.bz c o g) g 0x3F [c.toNat] o fun _ _ _ v => v = 0,
    branch (.bnz c o g) g 0x3F [c.toNat] o fun _ _ _ v => v ≠ 0,
    branch (.bp p o g) g 0x28 [] o fun s key l _ => anySet s key p.toNat l,
    branch (.bnp p o g) g 0x28 [] o fun s key l _ => !anySet s key p.toNat l,
    { branch (.loop c o g) g 0x3F [c.toNat] o (fun _ _ _ v => v - 1 ≠ 0) with
      sdst := [c.toNat], noQueue := [c.toNat], effect := fun is s sv _ => s.sset is.key c.toNat (sv.getD 0 0 - 1) },
    { branch (.call c o g) g 0x3F [] o (fun _ _ _ _ => true) with
      sdst := [c.toNat], noQueue := [c.toNat], turns := false
      effect := fun is s _ _ =>
        let x := s.ctlAt is.key (is.threads.headD 0)
        s.sset is.key c.toNat (x.hdr + BitVec.ofNat 64 (4 + 2 * x.len)) },
    jumpRun (.jr a g) a g,
    jumpRun (.ret a g) a g ]

/-- nop and yield (R91): nothing but tokens, and for yield a switch point of the stream. -/
def restRun (i : Instr) (half : Nat) (g : BitVec 4) (switch : Bool) : Run :=
  { instr := i, half := half, g := g
    effect := fun is s _ _ => if switch = true ∧ isWave is.key = false then s.modCtl is.key 0 fun c => { c with sw := 2 } else s }

/-- An instruction that changes the control state of the stream that issues it, and nothing else of its own. -/
def controlRun (i : Instr) (half : Nat) (g : BitVec 4) (legal : Nat) (f : State → Ctl → Ctl) : Run :=
  { instr := i, half := half, g := g, legal := legal, effect := fun is s _ _ => s.modCtl is.key 0 (f s) }

/-- nop, yield, halt, hold, unhold (R91, R93, R95), stamp (R101) and amod (R55). -/
def pauses (n s1 : BitVec 12) (c : BitVec 1) (p sc o : BitVec 2) (g : BitVec 4) : List Run :=
  [ restRun (.nop g) 2 g false,
    restRun (.nopShort g) 1 g false,
    restRun (.yield g) 2 g true,
    restRun .yieldShort 1 0 true,
    { controlRun (.halt g) 2 g 0x1F (fun _ c => { c with life := .halted, holdEnd := none, armed := none }) with
      stays := true },
    controlRun (.hold n g) 2 g 0x1F fun s c =>
      let e : DWord := BitVec.ofNat 64 (s.cyc + n.toNat)
      { c with holdEnd := some (match c.holdEnd with | none => e | some e0 => if e.toNat < e0.toNat then e else e0) },
    controlRun (.unhold g) 2 g 0x1F fun _ c => { c with holdEnd := none },
    controlRun (.stamp s1) 1 0 0x04 fun _ c => { c with armed := some (c.sbase + s1.setWidth 64) },
    { instr := .amod c p sc o, half := 1, inside := true, stays := true
      effect := fun is s _ _ => is.threads.foldl (fun s l => s.modCtl is.key l fun x =>
        { x.past 1 with amod := some { sc := c == 1, place := p.toNat, scope := sc.toNat, ord := o.toNat, addr := x.pc,
                                       hdr := x.hdr } }) s } ]

/-- Place of a gang member in level i of its job's loop table (R117). -/
def levelPlace (x : Slot) (core i : Nat) : Nat :=
  match x.levels[i]? with
  | none => 0
  | some l =>
    if l.kind = 0 then 0
    else x.cores.idxOf core / (((x.levels.drop (i + 1)).filter fun l => l.kind != 0).map fun l => l.trips).prod % l.trips

/-- The special registers of R56: number, where each exists, and its value on a stream or thread. -/
def specials : List (BitVec 6 × Nat × (State → Nat → Nat → DWord)) :=
  let nat (f : State → Nat → Nat → Nat) : State → Nat → Nat → DWord := fun s key l => BitVec.ofNat 64 (f s key l)
  let slot (s : State) (key l : Nat) : Slot := s.slotAt (s.ctlAt key l).job
  let group (f : Workgroup → Nat) (s : State) (key _ : Nat) : Nat := ((s.groupOf key).map f).getD 0
  let wave (s : State) (key : Nat) : Nat := ((s.waves.find key).map fun w => w.num).getD 0
  [ (0x00, 0x3F, nat fun _ key _ => if isWave key then 32 else if keyEng key = 3 then 64 else 0),
    (0x01, 0x3F, nat fun _ key _ => if isWave key then 8 else keyEng key + 1),
    (0x02, 0x3F, nat fun _ key _ => keyCore key),
    (0x03, 0x1F, nat fun _ key _ => keyCtx key),
    (0x04, 0x3F, nat fun s key l => (s.ctlAt key l).job),
    (0x05, 0x3F, nat fun s key l => cardF (slot s key l).card 0x02 1),
    (0x08, 0x1F, nat fun s key l => levelPlace (slot s key l) (keyCore key) 0),
    (0x09, 0x1F, nat fun s key l => levelPlace (slot s key l) (keyCore key) 1),
    (0x0A, 0x1F, nat fun s key l => levelPlace (slot s key l) (keyCore key) 2),
    (0x0B, 0x1F, nat fun s key l => levelPlace (slot s key l) (keyCore key) 3),
    (0x0C, 0x1F, nat fun s key l => ((slot s key l).levels.map fun l => l.trips).getD 0 1),
    (0x0D, 0x1F, nat fun s key l => ((slot s key l).levels.map fun l => l.trips).getD 1 1),
    (0x0E, 0x1F, nat fun s key l => ((slot s key l).levels.map fun l => l.trips).getD 2 1),
    (0x0F, 0x1F, nat fun s key l => ((slot s key l).levels.map fun l => l.trips).getD 3 1),
    (0x10, 0x20, nat fun s key _ => wave s key),
    (0x11, 0x20, nat (group fun g => g.x)),
    (0x12, 0x20, nat (group fun g => g.y)),
    (0x13, 0x20, nat (group fun g => g.z)),
    (0x14, 0x20, nat fun s key l => if isWave key then 32 * wave s key + l else 0),
    (0x15, 0x28, nat fun _ key l => if isWave key then l else 0),
    (0x18, 0x1F, fun s key l => (s.ctlAt key l).sbase),
    (0x19, 0x3F, fun s key l => (s.ctlAt key l).fmode),
    (0x1A, 0x3F, fun s key l => (s.ctlAt key l).fflags),
    (0x1B, 0x21, fun s key l => (s.ctlAt key l).arcause),
    (0x1C, 0x3F, fun s key l => (s.ctlAt key l).trapcause),
    (0x1D, 0x3F, fun s key l => (s.ctlAt key l).trapinfo) ]

/-- srd (R56, R96): a wave's scalar takes the value of its lowest thread. -/
def specialReads (d : BitVec 6) (g : BitVec 4) : List Run :=
  specials.map fun x =>
    { instr := .srd d x.1 g, g := g, legal := x.2.1, sdst := [d.toNat]
      effect := fun is s _ _ => s.give is.key d.toNat (x.2.2 s is.key (is.threads.headD 0)) }

/-- swr (R56, R96) of %sbase, %fmode (R26) and %fflags (R27), whose reserved bits stay 0. -/
def specialWrites (a : BitVec 6) (g : BitVec 4) : List Run :=
  let write (r : BitVec 6) (legal : Nat) (f : Ctl → DWord → Ctl) : Run :=
    { instr := .swr r a g, g := g, legal := legal, ssrc := [a.toNat]
      effect := fun is s sv _ => is.threads.foldl (fun s l => s.modCtl is.key l fun c => f c (sv.getD 0 0)) s }
  [ write 0x18 0x1F fun c v => { c with sbase := v },
    write 0x19 0x3F fun c v => { c with fmode := BitVec.ofNat 64 (v.toNat % 4) },
    write 0x1A 0x3F fun c v => { c with fflags := BitVec.ofNat 64 (v.toNat % 128) } ]

/-- rdtime and rdcyc (R100), and prof (R133). -/
def clocks (d a k : BitVec 6) (g : BitVec 4) : List Run :=
  [ { instr := .rdtime d g, g := g, sdst := [d.toNat]
      effect := fun is s _ _ => s.give is.key d.toNat (BitVec.ofNat 64 s.ns) },
    { instr := .rdcyc d g, g := g, sdst := [d.toNat]
      effect := fun is s _ _ => s.give is.key d.toNat (BitVec.ofNat 64 s.cyc) },
    { instr := .prof k a g, g := g, ssrc := [a.toNat]
      effect := fun is s sv _ => is.threads.foldl (fun s l =>
        s.sillage is.key l (0x40 + k.toNat) (sv.getD 0 0).toNat s.ns false) s } ]

/-! ### Loads and stores -/

/-- Control state that a lane's access belongs to: its thread, or the stream. -/
def accessor (key l : Nat) : Nat := if isWave key then l else 0

/-- The accesses of one lane's load, `m` bytes at each offset of `parts`; none where one faults. -/
def loadParts (key cl a m : Nat) : State → List Nat → Option (State × List Nat)
  | s, [] => some (s, [])
  | s, o :: os =>
    match s.memRead key cl (a + o) m with
    | .error _ => none
    | .ok (t, v) => (loadParts key cl a m t os).map fun r => (r.1, v :: r.2)

/-- The lanes' aligned loads in rising lane order (R285, R286): none where a lane's address is misaligned or faults. -/
def loadLanes (key : Nat) (addr : Nat → Nat) (align m : Nat) (parts : List Nat) :
    State → List Nat → Option (State × List (Nat × List Nat))
  | s, [] => some (s, [])
  | s, l :: ls =>
    if addr l % align ≠ 0 then none
    else
      match loadParts key (accessor key l) (addr l) m s parts with
      | none => none
      | some (t, vs) => (loadLanes key addr align m parts t ls).map fun r => (r.1, (l, vs) :: r.2)

/-- The lanes' aligned stores of `n` bytes in rising lane order (R285, R286). -/
def storeLanes (key : Nat) (addr value : Nat → Nat) (n : Nat) : State → List Nat → Option State
  | s, [] => some s
  | s, l :: ls =>
    if addr l % n ≠ 0 then none
    else
      match s.memWrite key (accessor key l) (addr l) n (value l) with
      | .error _ => none
      | .ok t => storeLanes key addr value n t ls

/-- A lane load: `addr` from the values read, one destination for each part. -/
def loadRun (i : Instr) (g : BitVec 4) (ssrc lsrc ds pairs : List Nat) (addr : List DWord → List (List Word) → Nat → Nat)
    (align m : Nat) (parts : List Nat) : Run :=
  { instr := i, g := g, legal := 0x28, ssrc := ssrc, lsrc := lsrc, ldst := ds, pairs := pairs
    ready := fun is s sv lv => (loadLanes is.key (addr sv lv) align m parts s is.lanes).isSome = true
    effect := fun is s sv lv =>
      match loadLanes is.key (addr sv lv) align m parts s is.lanes with
      | none => s
      | some (t, rs) => ds.zipIdx.foldl (fun s d =>
          s.giveLanes is.key d.1 (rs.map fun r => (r.1, BitVec.ofNat 32 (r.2.getD d.2 0)))) t }

/-- A lane store. -/
def storeRun (i : Instr) (g : BitVec 4) (ssrc lsrc pairs : List Nat) (addr : List DWord → List (List Word) → Nat → Nat)
    (value : List (List Word) → Nat → Nat) (n : Nat) : Run :=
  { instr := i, g := g, legal := 0x28, ssrc := ssrc, lsrc := lsrc, pairs := pairs
    ready := fun is s sv lv => (storeLanes is.key (addr sv lv) (value lv) n s is.lanes).isSome = true
    effect := fun is s sv lv => (storeLanes is.key (addr sv lv) (value lv) n s is.lanes).getD s }

/-- Address of a lane in ld and st: (s + off6 × e) + l × e (R285). -/
def contiguous (o : BitVec 6) (e : Nat) (sv : List DWord) (_ : List (List Word)) (l : Nat) : Nat :=
  (sv.getD 0 0 + BitVec.ofInt 64 (o.toInt * e) + BitVec.ofNat 64 (l * e)).toNat

/-- Address of a lane in the gathers and scatters: b × 2^32 + a (R286). -/
def gathered (_ : List DWord) (lv : List (List Word)) (l : Nat) : Nat := (lval lv 0 l).toNat * 2 ^ 32 + (lval lv 1 l).toNat

/-- The lane loads and stores of R285 and R286. -/
def laneAccesses (d a b : BitVec 6) (o : BitVec 6) (g : BitVec 4) : List Run :=
  let e (z : BitVec 2) : Nat := 2 ^ z.toNat
  let pair := pairHi d.toNat
  (([0, 1, 2] : List (BitVec 2)).map fun z =>
    loadRun (.ld d a o z g) g [a.toNat] [] [d.toNat] [] (contiguous o (e z)) (e z) (e z) [0]) ++
  [ loadRun (.ld d a o 3 g) g [a.toNat] [] [d.toNat, pair] [d.toNat] (contiguous o 8) 8 4 [0, 4] ] ++
  (([0, 1, 2] : List (BitVec 2)).map fun z =>
    storeRun (.st d a o z g) g [a.toNat] [d.toNat] [] (contiguous o (e z)) (fun lv l => (lval lv 0 l).toNat) (e z)) ++
  [ storeRun (.st d a o 3 g) g [a.toNat] [d.toNat, pair] [d.toNat] (contiguous o 8)
      (fun lv l => (lval lv 0 l).toNat + 2 ^ 32 * (lval lv 1 l).toNat) 8,
    loadRun (.ldg d a b g) g [] [b.toNat, a.toNat] [d.toNat] [] gathered 4 4 [0],
    loadRun (.ldg16 d a b g) g [] [b.toNat, a.toNat] [d.toNat] [] gathered 2 2 [0],
    storeRun (.stg d a b g) g [] [b.toNat, a.toNat, d.toNat] [] gathered (fun lv l => (lval lv 2 l).toNat) 4,
    storeRun (.stg16 d a b g) g [] [b.toNat, a.toNat, d.toNat] [] gathered (fun lv l => (lval lv 2 l).toNat % 2 ^ 16) 2 ]

/-- The readouts of a stream are performed before what may read them, and make no push now (R238). -/
def State.readoutsQuiet (s : State) (key : Nat) : Prop := (s.finishReadouts key).tokens = s.tokens

/-- Address of a scalar access (R287). -/
def scalarAt (o : BitVec 6) (e : Nat) (v : DWord) : Nat := (v + BitVec.ofInt 64 (o.toInt * e)).toNat

/-- A scalar load of e bytes, one access of the lowest thread (R287); what the stream's own readouts write is written first
(R238). -/
def scalarLoadRun (i : Instr) (g : BitVec 4) (d a : BitVec 6) (o : BitVec 6) (e : Nat) : Run :=
  let read (is : Iss) (s : State) (sv : List DWord) :=
    (s.finishReadouts is.key).memRead is.key (is.threads.headD 0) (scalarAt o e (sv.getD 0 0)) e
  { instr := i, g := g, ssrc := [a.toNat], sdst := [d.toNat]
    ready := fun is s sv _ => s.readoutsQuiet is.key ∧ scalarAt o e (sv.getD 0 0) % e = 0 ∧ ∃ r, read is s sv = .ok r
    effect := fun is s sv _ => match read is s sv with
      | .error _ => s
      | .ok (t, v) => t.give is.key d.toNat (BitVec.ofNat 64 v) }

/-- A scalar store of the low e bytes (R287). -/
def scalarStoreRun (i : Instr) (g : BitVec 4) (d a : BitVec 6) (o : BitVec 6) (e : Nat) : Run :=
  let write (is : Iss) (s : State) (sv : List DWord) :=
    (s.finishReadouts is.key).memWrite is.key (is.threads.headD 0) (scalarAt o e (sv.getD 0 0)) e
      ((sv.getD 1 0).toNat % 256 ^ e)
  { instr := i, g := g, ssrc := [a.toNat, d.toNat]
    ready := fun is s sv _ => s.readoutsQuiet is.key ∧ scalarAt o e (sv.getD 0 0) % e = 0 ∧ ∃ t, write is s sv = .ok t
    effect := fun is s sv _ => match write is s sv with
      | .error _ => s
      | .ok t => t }

/-- The scalar loads and stores of R287 and R288. -/
def scalarAccesses (d a : BitVec 6) (o : BitVec 6) (z : BitVec 2) (g : BitVec 4) : List Run :=
  [ scalarLoadRun (.lds d a o z g) g d a o (2 ^ z.toNat),
    scalarStoreRun (.sts d a o z g) g d a o (2 ^ z.toNat),
    scalarLoadRun (.ldsAcq d a o g) g d a o 8,
    scalarStoreRun (.stsRel d a o g) g d a o 8 ]

/-- Bytes of memory as data keep them in order, no page migrates, and no peer package injects an error (R397). -/
def State.steady (s : State) : Prop :=
  Memory.wf s.mem = true ∧ Memory.wf s.loc = true ∧ s.dirty.Pairwise (fun a b => a.1 < b.1) ∧ s.migrated = [] ∧
  ∀ p, p ≠ s.pkg → bit (s.creg_ (s.errReg p)) 63 = false

/-- An agent's own stores to bytes of a place, since its last afence, went through the same virtual addresses (R294). -/
def State.unaliased (s : State) (who va : Nat) (p : Place) (n : Nat) : Prop :=
  match p with
  | .loc _ => True
  | .phys pa _ _ _ => ∀ x ∈ s.aliases.get [] who, x.pa < pa + n → pa < x.pa + x.before.length → x.va + pa = va + x.pa

/-- Byte i of a place. -/
def placeByte (s : State) (p : Place) (i : Nat) : Byte :=
  match p with
  | .loc k => s.loc.get 0 (k + i)
  | .phys pa _ _ _ => s.byteAt (pa + i)

/-- Every byte of memory and of every scratchpad and local store stands as it did, but for n bytes at a place. -/
def State.sameBut (s t : State) (p : Place) (n : Nat) : Prop :=
  match p with
  | .loc k => (∀ a, t.byteAt a = s.byteAt a) ∧ ∀ j, (j < k ∨ k + n ≤ j) → t.loc.get 0 j = s.loc.get 0 j
  | .phys pa _ _ _ => (∀ a, (a < pa ∨ pa + n ≤ a) → t.byteAt a = s.byteAt a) ∧ ∀ j, t.loc.get 0 j = s.loc.get 0 j

/-! ### Fences and cache maintenance -/

/-- An ordering instruction: every access but a readout has been performed already (log 5), so the stream's readouts are
performed, and `after` follows. An amod before a fence has PLACE 00 (R55). -/
def fenceRun (i : Instr) (g : BitVec 4) (unit : Bool) (after : Iss → State → State) : Run :=
  { instr := i, g := g, unit := unit, unplaced := unit, ready := fun is s _ _ => s.readoutsQuiet is.key
    effect := fun is s _ _ => after is (s.finishReadouts is.key) }

/-- cclean, cflush and cinv over a range whose every page may be walked and no unit of which is to be waited for (R318): the
walk from its first byte on. -/
def maintRun (i : Instr) (g : BitVec 4) (n a : BitVec 6) (op : HomeKind) : Run :=
  let walk (is : Iss) (s : State) (sv : List DWord) :=
    s.maintWalk op (s.partOf is.key (is.threads.headD 0)) (tlbPath is.key false) walkSteps (sv.getD 1 0).toNat (sv.getD 0 0).toNat
  { instr := i, g := g, ssrc := [n.toNat, a.toNat]
    ready := fun is s sv _ => (sv.getD 0 0).toNat < 2 ^ 38 ∧ ∃ t, walk is s sv = .done t
    effect := fun is s sv _ => match walk is s sv with | .done t => t | _ => s }

/-- Fences, qsync and afence (R283, R290), and cache maintenance (R318). -/
def orderings (k : BitVec 2) (n a : BitVec 6) (g : BitVec 4) : List Run :=
  let plain (_ : Iss) (s : State) : State := s
  [ fenceRun (.fenceAcq k g) g true plain,
    fenceRun (.fenceRel k g) g true plain,
    fenceRun (.fenceAr k g) g true plain,
    fenceRun (.fenceSc k g) g true plain,
    fenceRun (.qsync g) g false plain,
    fenceRun (.afence g) g false fun is s => is.threads.foldl (fun s l => s.dropAliases (ctlKey is.key l)) s,
    maintRun (.cclean n a g) g n a .clean,
    maintRun (.cflush n a g) g n a .flush,
    maintRun (.cinv n a g) g n a .inv,
    { instr := .prefetch n a g, g := g, ssrc := [n.toNat, a.toNat]
      effect := fun is s sv _ =>
        let l := is.threads.headD 0
        s.prefetchRange (agentOfKey is.key) (s.partOf is.key l) (some (s.jobOf is.key l)) (tlbPath is.key false) 20
          (sv.getD 1 0).toNat (if (sv.getD 0 0).toNat < 65536 then (sv.getD 0 0).toNat else 65536) } ]

/-! ### Atomics -/

/-- A number below 2^w as a signed number. -/
def signedOf (w v : Nat) : Int := if v < 2 ^ (w - 1) then v else (v : Int) - 2 ^ w

/-- The operations of R327 at a width: the new value at a location that holds m, from the operand y and the compare value z,
and the flags; none where nothing is stored. -/
abbrev AtomRule := Nat → Rm → Nat → Nat → Nat → Option Nat × Fl

/-- An integer operation on m and y. -/
def integerAtom (f : Nat → Nat → Nat → Nat) : AtomRule := fun w _ m y _ => (some (f w m y), 0)

/-- A float operation: rounded in FP32, or in each BF16 half. -/
def floatAtom (packed : Bool) : AtomRule := fun _ rm m y _ =>
  if packed then
    let lo := roundedOf .bf16 addV rm (m % 65536) (y % 65536)
    let hi := roundedOf .bf16 addV rm (m / 65536) (y / 65536)
    (some (hi.1 * 65536 + lo.1), lo.2 ||| hi.2)
  else
    let r := roundedOf .fp32 addV rm m y
    (some r.1, r.2)

/-- One atomic at an address (R327, R328): the state after it, the old value and the flags; none where it faults. -/
def atomicAt (key cl : Nat) (rule : AtomRule) (w : Nat) (rm : Rm) (addr y z : Nat) (s : State) : Option (State × Nat × Fl) :=
  if addr % (w / 8) ≠ 0 then none
  else
    match s.locate key cl .rmw addr (w / 8) with
    | .error _ => none
    | .ok (t, p) =>
      let device := match p with | .phys _ 2 _ _ => true | _ => false
      if device || t.placePoisoned p (w / 8) then none
      else
        let u := match p with | .phys pa mtype grain _ => t.recallFor pa mtype grain | .loc _ => t
        let m := u.placeRead p (w / 8)
        let r := rule w rm m (y % 2 ^ w) (z % 2 ^ w)
        let v := match r.1 with
          | none => (u, [])
          | some x => ((u.ownWrite (ctlKey key cl) addr p (w / 8)).placeStore (some (ctlKey key cl)) p (leBytes (w / 8) x),
                       u.storeUndo (agentOfKey key) p (leBytes (w / 8) x))
        some (v.1.placeAtomic key cl p (w / 8) v.2, m, r.2)

/-- The lanes' atomics one after another in ascending order (R329). -/
def atomicLanes (key : Nat) (rule : AtomRule) (rm : Nat → Rm) (lv : List (List Word)) :
    State → List Nat → Option (State × List (Nat × Nat × Fl))
  | s, [] => some (s, [])
  | s, l :: ls =>
    match atomicAt key (accessor key l) rule 32 (rm l) ((lval lv 1 l).toNat * 2 ^ 32 + (lval lv 2 l).toNat)
        (lval lv 0 l).toNat (lval lv 3 l).toNat s with
    | none => none
    | some (t, r) => (atomicLanes key rule rm lv t ls).map fun x => (x.1, (l, r) :: x.2)

/-- An atom (d a destination) or red (none) on the control engine, of 64 bits, or 32 for the float forms. -/
def atomScalar (i : Instr) (g : BitVec 4) (d : Option Nat) (a b : Nat) (cas : Bool) (w : Nat) (rule : AtomRule) : Run :=
  let reads := if cas then d.toList else []
  let act (is : Iss) (s : State) (sv : List DWord) :=
    atomicAt is.key 0 rule w (s.rmOf_ is.key 0) (sv.getD 1 0).toNat (sv.getD 0 0).toNat (sv.getD 2 0).toNat s
  { instr := i, g := g, legal := 0x01, unit := true, ssrc := [b, a] ++ reads, sdst := d.toList, noQueue := reads
    ready := fun is s sv _ => (act is s sv).isSome = true
    effect := fun is s sv _ => match act is s sv with
      | none => s
      | some (t, old, fl) =>
        let u := t.orFlags is.key 0 fl
        match d with | none => u | some x => u.give is.key x (BitVec.ofNat 64 old) }

/-- The same in each lane of the vector engine or of a wave, on 32 bits. -/
def atomLanes (i : Instr) (g : BitVec 4) (d : Option Nat) (a b : Nat) (cas : Bool) (rule : AtomRule) : Run :=
  let reads := if cas then d.toList else []
  let act (is : Iss) (s : State) (lv : List (List Word)) :=
    atomicLanes is.key rule (fun l => s.rmOf_ is.key (accessor is.key l)) lv s is.lanes
  { instr := i, g := g, legal := 0x28, lane := false, unit := true, lsrc := [b, pairHi a, a] ++ reads, ldst := d.toList
    pairs := [a]
    ready := fun is s _ lv => (∀ x ∈ reads, x ≠ 0x3A ∧ x ≠ 0x3B) ∧ (act is s lv).isSome = true
    effect := fun is s _ lv => match act is s lv with
      | none => s
      | some (t, rs) =>
        let u := t.orLaneFlags is.key (rs.map fun r => (r.1, r.2.2))
        match d with | none => u | some x => u.giveLanes is.key x (rs.map fun r => (r.1, BitVec.ofNat 32 r.2.1)) }

/-- The table of R326 and R327: atom, red, whether it compares, its width on the control engine, and its operation. -/
def atomTable (d a b : BitVec 6) (g : BitVec 4) : List (Instr × Instr × Bool × Nat × AtomRule) :=
  [ (.atomAdd d a b g, .redAdd a b g, false, 64, integerAtom fun w m y => (m + y) % 2 ^ w),
    (.atomAnd d a b g, .redAnd a b g, false, 64, integerAtom fun _ m y => m &&& y),
    (.atomOr d a b g, .redOr a b g, false, 64, integerAtom fun _ m y => m ||| y),
    (.atomXor d a b g, .redXor a b g, false, 64, integerAtom fun _ m y => m ^^^ y),
    (.atomMin d a b g, .redMin a b g, false, 64, integerAtom fun w m y => if signedOf w m < signedOf w y then m else y),
    (.atomMax d a b g, .redMax a b g, false, 64, integerAtom fun w m y => if signedOf w m < signedOf w y then y else m),
    (.atomMinu d a b g, .redMinu a b g, false, 64, integerAtom fun _ m y => if m < y then m else y),
    (.atomMaxu d a b g, .redMaxu a b g, false, 64, integerAtom fun _ m y => if m < y then y else m),
    (.atomXchg d a b g, .redXchg a b g, false, 64, integerAtom fun _ _ y => y),
    (.atomCas d a b g, .redCas a b g, true, 64, fun _ _ m y z => (if m = z then some y else none, 0)),
    (.atomFaddF32 d a b g, .redFaddF32 a b g, false, 32, floatAtom false),
    (.atomFaddBf16x2 d a b g, .redFaddBf16x2 a b g, false, 32, floatAtom true) ]

/-- The atomics on the control engine. -/
def scalarAtomics (d a b : BitVec 6) (g : BitVec 4) : List Run :=
  (atomTable d a b g).flatMap fun x =>
    [ atomScalar x.1 g (some d.toNat) a.toNat b.toNat x.2.2.1 x.2.2.2.1 x.2.2.2.2,
      atomScalar x.2.1 g none a.toNat b.toNat x.2.2.1 x.2.2.2.1 x.2.2.2.2 ]

/-- The atomics in lanes. -/
def laneAtomics (d a b : BitVec 6) (g : BitVec 4) : List Run :=
  (atomTable d a b g).flatMap fun x =>
    [ atomLanes x.1 g (some d.toNat) a.toNat b.toNat x.2.2.1 x.2.2.2.2,
      atomLanes x.2.1 g none a.toNat b.toNat x.2.2.1 x.2.2.2.2 ]

/-! ### Atomic regions and handlers -/

/-- arb, are and arx with no region open (R332). A wave needs one of its partition's four buffers, which its first thread
claims. -/
def regions (o : BitVec 14) (g : BitVec 4) : List Run :=
  let part (key : Nat) : Nat := 4 * (keyCore key - 64) + keySlot key / 12
  [ { instr := .arb o g, g := g, legal := 0x21
      ready := fun is s _ _ =>
        let l := s.regionBufs.get [] (part is.key)
        isWave is.key = true → is.key ∈ l ∨ l.length < 4
      effect := fun is s _ _ =>
        let l := s.regionBufs.get [] (part is.key)
        let s1 := if isWave is.key = true ∧ is.key ∉ l then
            { s with regionBufs := s.regionBufs.put (part is.key) (l ++ [is.key]) } else s
        let opened (s : State) (l : Nat) (c : Ctl) : Region :=
          { fallback := c.pc + BitVec.ofInt 64 (2 * o.toInt), t0 := if isWave is.key then s.lget is.key 0x38 l else 0,
            t1 := if isWave is.key then s.lget is.key 0x39 l else 0
            poison0 := isWave is.key && s.poisonLane.has (laneKey is.key 0x38 l)
            poison1 := isWave is.key && s.poisonLane.has (laneKey is.key 0x39 l) }
        is.threads.foldl (fun s l => s.modCtl is.key l fun c => { c with region := some (opened s l c) }) s1 },
    { instr := .are g, g := g, legal := 0x21, effect := fun _ s _ _ => s },
    { instr := .arx g, g := g, legal := 0x21, effect := fun _ s _ _ => s } ]

/-- A thread of a wave that issues alone, or the control engine's stream, with a region open and nothing else in its way. -/
def State.inRegion (s : State) (key l : Nat) (r : Region) : Prop :=
  let c := s.ctlAt key l
  s.cur = some { wave := isWave key, key := key, set := [l] } ∧ (isWave key = false → l = 0 ∧ keyEng key = 0) ∧ l < 32 ∧
  c.region = some r ∧ c.armed = none ∧ c.amod = none ∧ c.stall = [] ∧ c.retire = none ∧ c.pendRegs = [] ∧
  c.owed.deferred = [] ∧ s.ctl.Pairwise fun a b => a.1 < b.1

/-- Where eret resumes (R379): the control state after it, from the trap record and the header word at HDR; none where a
check fails. At a header it ends a block as a taken branch does (R77), and what was held while the handler ran is due at the next
boundary (R377). -/
def resumed (c : Ctl) (t : TrapRec) (w : Nat) : Option Ctl :=
  let len := w / 2 ^ 18 % 2 ^ 10
  let rpt := w / 2 ^ 6 % 2 ^ 12
  let n := t.passes.toNat % 2 ^ 12
  let stop := t.hdr.toNat + 4 + 2 * len
  let due : Owed := { c.owed with deferred := c.owed.deferred.map fun d => { d with atDelivery := false } }
  let c0 := { c with handling := false, hdr := t.hdr, yBit := w / 2 ^ 4 % 2 == 1, sw := 0, loopBuf := [], amod := none, owed := due }
  if w / 2 ^ 28 % 16 ≠ 0xA ∨ w % 16 / 4 ≠ 0 ∨ w % 4 ≠ 3 ∨ len = 0 ∨ (rpt ≠ 0 ∧ 256 < len) then none
  else if t.ret = t.hdr then
    if n ≠ 0 then none
    else some { c0 with pc := t.hdr, atHeader := true, passes := 0, len := 0, rpt := 0, yBit := c.yBit, sw := if c.yBit then 2 else 1 }
  else if t.ret.toNat < t.hdr.toNat + 4 ∨ stop < t.ret.toNat ∨ rpt < n then none
  else if t.ret.toNat = stop then
    if n = 0 then some { c0 with len := len, rpt := rpt, pc := t.ret, atHeader := true, passes := 0 }
    else some { c0 with len := len, rpt := rpt, pc := t.hdr + 4, atHeader := false, passes := n - 1 }
  else some { c0 with len := len, rpt := rpt, pc := t.ret, atHeader := false, passes := n }

/-- eret of one stream or thread: in its handler, with a record that no error has poisoned (R372), even addresses and a good
header at HDR. -/
def eretOne (key : Nat) (s : State) (l : Nat) : Option State :=
  let t := s.trapRec key l
  if (s.ctlAt key l).handling = false ∨ (s.recordPoison key).isSome = true ∨ bit t.hdr 0 = true ∨ bit t.ret 0 = true then none
  else
    match s.fetchHeader key l t.hdr with
    | .error _ => none
    | .ok (u, w) => (resumed (u.ctlAt key l) t w).map fun c => u.setCtl key l c

/-- The threads' steps one after another; none where one fails. -/
def eachOf (f : State → Nat → Option State) : State → List Nat → Option State
  | s, [] => some s
  | s, l :: ls => match f s l with
    | none => none
    | some t => eachOf f t ls

/-- eret (R379). -/
def eretRun (g : BitVec 4) : Run :=
  { instr := .eret g, g := g, stays := true
    ready := fun is s _ _ => (eachOf (eretOne is.key) s is.threads).isSome = true
    effect := fun is s _ _ => (eachOf (eretOne is.key) s is.threads).getD s }

/-! ### Waits -/

/-- A blocking wait that need not wait: its word stands last in its body (R43). -/
def waitRun (i : Instr) (g : BitVec 4) (legal : Nat) (ssrc : List Nat) (ready : Iss → State → List DWord → Prop)
    (effect : Iss → State → List DWord → State) : Run :=
  { instr := i, g := g, legal := legal, last := true, ssrc := ssrc, ready := fun is s sv _ => ready is s sv
    effect := fun is s sv _ => effect is s sv }

/-- The wait classes of R92, where each is legal and when its condition holds of the value v. -/
def waitClasses : List (BitVec 3 × Nat × (State → Nat → DWord → Prop)) :=
  let ck := keyCtxKey
  [ (0, 0x3F, fun s _ v => v.toNat ≤ s.cyc),
    (1, 0x3F, fun s _ v => v.toNat ≤ s.ns),
    (2, 0x12, fun s key v => s.copiesOut key ≤ v.toNat),
    (3, 0x1E, fun s key v => (if v.toNat ≤ 32 then v.toNat else 32) ≤ s.tok (ck key) (fifoFromPrev (keyEng key))),
    (4, 0x1E, fun s key v => (if v.toNat ≤ 32 then v.toNat else 32) ≤ s.tok (ck key) (fifoFromNext (keyEng key))),
    (5, 0x1F, fun s key v => s.queueCheck key (32 + v.toNat % 16) false = none ∧ s.queue (ck key) (v.toNat % 16) ≠ []),
    (6, 0x1F, fun s key v =>
      s.queueCheck key (32 + v.toNat % 16) true = none ∧ (s.queue (ck key) (v.toNat % 16)).length < 16),
    (7, 0x1F, fun s key _ => s.allComplete key = true) ]

/-- wait K, sA whose condition holds (R92). -/
def waitRuns (a : BitVec 6) (g : BitVec 4) : List Run :=
  waitClasses.map fun x =>
    waitRun (.wait x.1 a g) g x.2.1 [a.toNat] (fun is s sv => x.2.2 s is.key (sv.getD 0 0)) fun _ s _ => s

/-- The waits of the threads one after another, each of which goes on; none where one stays or faults. -/
def goesOn (key : Nat) (w : Wait) : State → Nat → Option State :=
  fun s l => match s.waitState key l w true with
    | .go t => some t
    | _ => none

/-! ### Flags, barriers and futures -/

/-- The flag instructions (R340, R341): updates go to the flag home, after the stream's earlier accesses; its own updates
come before what it reads. -/
def flags (x y : BitVec 6) (g : BitVec 4) : List Run :=
  let update (add : Bool) (is : Iss) (s : State) (sv : List DWord) : State :=
    (s.finishReadouts is.key).launch
      (.flag { key := is.key, job := s.jobOf is.key 0, flag := x.toNat, add := add, value := sv.getD 0 0 })
  let value (s : State) (key : Nat) : DWord := (s.slotAt (s.jobOf key 0)).flags.get 0 x.toNat
  let quiet (is : Iss) (s : State) (_ : List DWord) (_ : List (List Word)) : Prop := s.readoutsQuiet is.key
  [ { instr := .finc x y g, g := g, legal := 0x1F, ssrc := [y.toNat], ready := quiet
      effect := fun is s sv _ => update true is s sv },
    { instr := .fset x y g, g := g, legal := 0x1F, ssrc := [y.toNat], ready := quiet
      effect := fun is s sv _ => update false is s sv },
    waitRun (.fwait x y g) g 0x1F [y.toNat]
      (fun is s sv => (sv.getD 0 0).toNat ≤ (value (s.finishFlags is.key) is.key).toNat) fun is s _ => s.finishFlags is.key,
    { instr := .fread x y g, g := g, legal := 0x1F, sdst := [y.toNat]
      effect := fun is s _ _ =>
        let t := s.finishFlags is.key
        t.give is.key y.toNat (value t is.key) } ]

/-- A barrier object (R342). -/
structure Barrier where
  expected : Nat
  arrived : Nat
  phase : Bool
  pending : Nat

/-- Its fields in its 16 bytes. -/
def Barrier.of (v : Nat) : Barrier :=
  { expected := v % 2 ^ 32, arrived := v / 2 ^ 32 % 2 ^ 31, phase := v / 2 ^ 63 % 2 == 1, pending := v / 2 ^ 64 % 2 ^ 64 }

def Barrier.bytes (b : Barrier) : Nat :=
  b.expected + b.arrived * 2 ^ 32 + (if b.phase then 2 ^ 63 else 0) + b.pending * 2 ^ 64

/-- complete() of R343. -/
def Barrier.complete (b : Barrier) : Barrier :=
  if b.arrived = b.expected ∧ b.pending = 0 then { b with arrived := 0, phase := !b.phase } else b

/-- An operation on the object whose address the first source holds (R343, R346): `rule` gives, from its 16 bytes and the
other source, its new bytes and a scalar result; none where it faults. -/
def objectRun (i : Instr) (g : BitVec 4) (acc : Acc) (ssrc sdst : List Nat) (rule : Nat → DWord → Option (Nat × DWord)) : Run :=
  let act (is : Iss) (s : State) (sv : List DWord) : Option (State × DWord) :=
    let l := is.threads.headD 0
    match (s.finishReadouts is.key).objectAt is.key l acc (sv.getD 0 0).toNat with
    | .error _ => none
    | .ok (t, p) => (rule (t.placeRead p 16) (sv.getD 1 0)).map fun r =>
        (t.objectWrite is.key l acc (sv.getD 0 0).toNat p (leBytes 16 r.1), r.2)
  { instr := i, g := g, ssrc := ssrc, sdst := sdst
    ready := fun is s sv _ => s.readoutsQuiet is.key ∧ (act is s sv).isSome = true
    effect := fun is s sv _ => match act is s sv with
      | none => s
      | some (t, v) => match sdst with
        | [] => t
        | d :: _ => t.give is.key d v }

/-- The barrier instructions of R343; bar.wait where the phase already differs. -/
def barriers (x y : BitVec 6) (g : BitVec 4) : List Run :=
  [ objectRun (.barInit x y g) g .write [y.toNat, x.toNat] [] fun _ n =>
      if 1 ≤ n.toNat ∧ n.toNat < 2 ^ 31 then
        some (Barrier.bytes { expected := n.toNat, arrived := 0, phase := false, pending := 0 }, 0) else none,
    objectRun (.barArrive x y g) g .rmw [y.toNat] [x.toNat] fun v _ =>
      let b := Barrier.of v
      if b.arrived < b.expected then
        some (Barrier.bytes (Barrier.complete { b with arrived := b.arrived + 1 }), if b.phase then 1 else 0) else none,
    objectRun (.barExpect x y g) g .rmw [y.toNat, x.toNat] [] fun v n =>
      let b := Barrier.of v
      some (Barrier.bytes (Barrier.complete { b with pending := (b.pending + n.toNat) % 2 ^ 64 }), 0),
    waitRun (.barWait x y g) g 0x3F [y.toNat, x.toNat]
      (fun is s sv => s.readoutsQuiet is.key ∧
        (eachOf (goesOn is.key (.barWait (sv.getD 0 0).toNat (bit (sv.getD 1 0) 0))) (s.finishReadouts is.key) is.threads).isSome
          = true)
      fun is s sv => (eachOf (goesOn is.key (.barWait (sv.getD 0 0).toNat (bit (sv.getD 1 0) 0))) (s.finishReadouts is.key)
        is.threads).getD s ]

/-- A future's state and value written, and the join count of its card decremented (R346). -/
def futureEnds (is : Iss) (s : State) (sv : List DWord) (state : Nat) : Option State :=
  let l := is.threads.headD 0
  match (s.finishReadouts is.key).objectAt is.key l .rmw (sv.getD 0 0).toNat with
  | .error _ => none
  | .ok (t, p) =>
    let v := t.placeRead p 8
    let card := v / 2 ^ 16 % 2 ^ 16
    if v % 4 ≠ 0 then none
    else
      let u := t.objectWrite is.key l .rmw (sv.getD 0 0).toNat p
        (leBytes 8 (state + card * 2 ^ 16 + (sv.getD 1 0).toNat % 2 ^ 32 * 2 ^ 32))
      some (if card = 0xFFFF then u else u.decrementJoin card)

/-- A card registered with a future (R346). -/
def futureRegisters (is : Iss) (s : State) (sv : List DWord) : Option State :=
  let l := is.threads.headD 0
  match (s.finishReadouts is.key).objectAt is.key l .rmw (sv.getD 0 0).toNat with
  | .error _ => none
  | .ok (t, p) =>
    let v := t.placeRead p 8
    let card := (sv.getD 1 0).toNat
    if v % 4 = 3 ∨ 256 ≤ card ∨ v / 2 ^ 16 % 2 ^ 16 ≠ 0xFFFF then none
    else
      let u := t.objectWrite is.key l .rmw (sv.getD 0 0).toNat p
        (leBytes 8 (v % 2 ^ 16 + card * 2 ^ 16 + v / 2 ^ 32 * 2 ^ 32))
      some (if v % 4 = 0 then u else u.decrementJoin card)

/-- The value fut.get reads, and the state after it; none where the future is invalid, or pending and waited for. -/
def futureReads (is : Iss) (s : State) (sv : List DWord) : Option (State × DWord) :=
  let l := is.threads.headD 0
  match (s.finishReadouts is.key).objectAt is.key l .read (sv.getD 0 0).toNat with
  | .error _ => none
  | .ok (t, p) =>
    let v := t.placeRead p 8
    if v % 4 = 3 then none else some (t.objectRead (keyCore is.key) (t.jobOf is.key l) p, BitVec.ofNat 64 v)

/-- The future instructions of R346 that do not wait. -/
def futures (x y : BitVec 6) (g : BitVec 4) : List Run :=
  let change (i : Instr) (f : Iss → State → List DWord → Option State) : Run :=
    { instr := i, g := g, ssrc := [y.toNat, x.toNat]
      ready := fun is s sv _ => s.readoutsQuiet is.key ∧ (f is s sv).isSome = true
      effect := fun is s sv _ => (f is s sv).getD s }
  [ change (.futRes x y g) fun is s sv => futureEnds is s sv 1,
    change (.futFail x y g) fun is s sv => futureEnds is s sv 2,
    change (.futReg x y g) futureRegisters,
    { instr := .futGet x y 0 g, g := g, ssrc := [y.toNat], sdst := [x.toNat]
      ready := fun is s sv _ => s.readoutsQuiet is.key ∧ (futureReads is s sv).isSome = true
      effect := fun is s sv _ => match futureReads is s sv with
        | none => s
        | some (t, v) => t.give is.key x.toNat v } ]

/-- fut.get with W = 1 of a stream whose future is not pending, and waitl of a location that differs already (R346, R348). -/
def watches (x y : BitVec 6) (z : BitVec 2) (g : BitVec 4) : List Run :=
  [ { instr := .futGet x y 1 g, g := g, legal := 0x1F, last := true, ssrc := [y.toNat], sdst := [x.toNat]
      ready := fun is s sv _ => s.readoutsQuiet is.key ∧
        ∃ r, futureReads is s sv = some r ∧ r.2.toNat % 4 ≠ 0
      effect := fun is s sv _ => match futureReads is s sv with
        | none => s
        | some (t, v) => t.give is.key x.toNat v },
    { instr := .futGet x y 1 g, g := g, legal := 0x20, last := true, ssrc := [y.toNat], sdst := [x.toNat]
      ready := fun is s sv _ =>
        (eachOf (goesOn is.key (.futGet (sv.getD 0 0).toNat x.toNat)) (s.finishReadouts is.key) is.threads).isSome = true
      effect := fun is s sv _ =>
        (eachOf (goesOn is.key (.futGet (sv.getD 0 0).toNat x.toNat)) (s.finishReadouts is.key) is.threads).getD s },
    let same (is : Iss) (s : State) (sv : List DWord) : Option State :=
      let t := s.finishReadouts is.key
      eachOf (goesOn is.key (.waitl (sv.getD 0 0).toNat z.toNat ((sv.getD 1 0).toNat % 2 ^ (8 * 2 ^ z.toNat)) t.cyc)) t is.threads
    waitRun (.waitl x y z g) g 0x3F [y.toNat, x.toNat]
      (fun is s sv => s.readoutsQuiet is.key ∧ (same is s sv).isSome = true) fun is s sv => (same is s sv).getD s ]

/-! ### Vision workgroups -/

/-- The workgroup of a wave. -/
def groupKey (s : State) (key : Nat) : Option Nat := (s.waves.find key).map fun w => 64 * (keyCore key - 64) + w.wg

/-- wbar by the threads that complete the phase (R150). -/
def groupBarrier (g : BitVec 4) : Run :=
  let all (is : Iss) (s : State) : Option (Nat × Workgroup) :=
    (groupKey s is.key).bind fun k => (s.groups.find k).bind fun x =>
      let n := x.arrived + is.threads.length
      let t := { s with groups := s.groups.put k { x with arrived := n } }
      if t.liveThreads (t.groupWaves (keyCore is.key - 64) (k % 64)) ≤ n then some (k, x) else none
  waitRun (.wbar g) g 0x20 [] (fun is s _ => (all is s).isSome = true ∧ ∀ w, s.waves.find is.key = some w → w.wg < 64)
    fun is s _ => match all is s with
      | none => s
      | some (k, x) => { s with groups := s.groups.put k { x with arrived := 0, phase := x.phase + 1 } }

/-- gbar by the threads that complete the phase of a grid whose card sets FLAGS bit 1 (R151). -/
def gridBarrier (g : BitVec 4) : Run :=
  let slot (is : Iss) (s : State) : Nat := s.jobOf is.key (is.threads.headD 0)
  waitRun (.gbar g) g 0x20 []
    (fun is s _ =>
      let x := s.slotAt (slot is s)
      bitN (cardFlags x.card) 1 = true ∧ (∀ l ∈ is.threads, s.jobOf is.key l = slot is s) ∧
      s.liveThreads (s.jobWaves (slot is s)) ≤ x.gbarCount + is.threads.length)
    fun is s _ => s.modSlot (slot is s) fun x => { x with gbarPhase := x.gbarPhase + 1, gbarCount := 0 }

/-- xacq by a wave that holds a block, or finds one free with no request before it (R147). -/
def blockAcquire (g : BitVec 4) : Run :=
  let held (is : Iss) (s : State) : Bool := match s.waves.find is.key with | some w => w.block.isSome | none => false
  let part (is : Iss) : Nat := keySlot is.key / 12
  let free (is : Iss) (s : State) : Option Nat := s.freeBlock (keyCore is.key - 64) (part is)
  waitRun (.xacq g) g 0x20 []
    (fun is s _ => held is s = true ∨
      (s.xqueue.get [] (4 * (keyCore is.key - 64) + part is) = [] ∧ (free is s).isSome = true))
    fun is s _ => if held is s then s else match free is s with
      | none => s
      | some b => s.takeBlock is.key b

/-- fetchwg of an aligned mailbox in the workgroup's local store, with a request to spare (R149). -/
def groupFetch (x : BitVec 6) (g : BitVec 4) : Run :=
  { instr := .fetchwg x g, g := g, legal := 0x20, ssrc := [x.toNat]
    ready := fun is s sv _ => ∃ k y, groupKey s is.key = some k ∧ s.groups.find k = some y ∧
      (sv.getD 0 0).toNat % 16 = 0 ∧ (sv.getD 0 0).toNat + 16 ≤ y.units * 4096 ∧ y.requests < 4
    effect := fun is s sv _ =>
      match (groupKey s is.key).bind fun k => (s.groups.find k).map fun y => (k, y) with
      | none => s
      | some (k, y) =>
        let box := locKey (keyCore is.key) (y.base * 4096) + (sv.getD 0 0).toNat
        let t := s.locWrite box (List.replicate 16 0)
        { t with groups := t.groups.put k { y with requests := y.requests + 1 } }.launch
          (.mailbox { key := is.key, job := y.job, group := k, box := box }) }

/-- sample (R154, R155) of a good descriptor whose texels can be read. -/
def sampleRun (d c : BitVec 6) (im : BitVec 6) (g : BitVec 4) : Run :=
  let act (is : Iss) (s : State) (sv : List DWord) (lv : List (List Word)) : Option (State × List (Nat × Word × Fl)) :=
    if (sv.getD 0 0).toNat % 32 ≠ 0 then none
    else
      match s.memRead is.key (is.threads.headD 0) (sv.getD 0 0).toNat 32 with
      | .error _ => none
      | .ok (t, b) => (imageOf (leBytes 32 b)).bind fun image =>
        is.lanes.foldlM (fun (acc : State × List (Nat × Word × Fl)) l =>
          match acc.1.sampleAt is.key l image (lval lv 0 l).toNat (lval lv 1 l).toNat with
          | .error _ => none
          | .ok (u, r) => some (u, acc.2 ++ [(l, r)])) (t, [])
  { instr := .sample d c im g, g := g, legal := 0x20, lane := true, ssrc := [im.toNat], lsrc := [c.toNat, pairHi c.toNat]
    ldst := [d.toNat], pairs := [c.toNat]
    ready := fun is s sv lv => (act is s sv lv).isSome = true
    effect := fun is s sv lv => match act is s sv lv with
      | none => s
      | some (t, rs) => (t.orLaneFlags is.key (rs.map fun r => (r.1, r.2.2))).giveLanes is.key d.toNat
          (rs.map fun r => (r.1, r.2.1)) }

/-- The vision instructions of R147 to R156. -/
def workgroups (x d c im : BitVec 6) (g : BitVec 4) : List Run :=
  [ groupBarrier g,
    gridBarrier g,
    blockAcquire g,
    { instr := .xrel g, g := g, legal := 0x20, effect := fun is s _ _ => s.yieldBlock is.key },
    groupFetch x g,
    sampleRun d c im g,
    { instr := .exit g, g := g, legal := 0x20, stays := true, effect := fun is s _ _ => s.exitThreads is.key is.threads } ]

/-! ### Rings -/

/-- A tile-class ring that the stream's job holds on its core, on which its engine may act (R188). -/
def State.mayUse (s : State) (key n : Nat) (side : Ring → Nat) : Prop :=
  let r := s.ringAt (keyCore key) n
  r.holder = some (s.jobOf key 0) ∧ r.cls = 0 ∧ bitN (side r) (keyEng key) = true

/-- Address of a slot of a ring (R183). -/
def slotAddress (r : Ring) (i : Nat) : DWord := BitVec.ofNat 64 (0xFFFFFFFFFF000000 + r.base + i * r.slotSize)

/-- The n bytes at an address lie in the region of the stream's job, in the aperture (R180). -/
def State.inJob (s : State) (key va n : Nat) : Prop :=
  let c := s.cardOf key 0
  0xFFFFFFFFFF000000 + cardBase c * 4096 ≤ va ∧ va + n ≤ 0xFFFFFFFFFF000000 + (cardBase c + cardSize c) * 4096

/-- Key of an aperture address on a stream's core. -/
def jobKey (key va : Nat) : Nat := locKey (keyCore key) (va - 0xFFFFFFFFFF000000)

/-- Bytes of the region that an instruction may read: in the region, and none poisoned. -/
def State.mayRead (s : State) (key va n : Nat) : Prop :=
  s.inJob key va n ∧ s.placePoisoned (.loc (jobKey key va)) n = false

/-- The bytes at an aperture address. -/
def State.jobBytes (s : State) (key va n : Nat) : List Byte := s.locBytes (jobKey key va) n

/-- A field of some bytes, low byte first. -/
def fieldAt (b : List Byte) (o n : Nat) : Nat := leNat ((b.drop o).take n)

/-- rclaim (R189): the next slot, or all ones where none is free. -/
def claimRun (x n : BitVec 6) (g : BitVec 4) : Run :=
  { instr := .rclaim x n g, g := g, legal := 0x1F, sdst := [x.toNat]
    ready := fun is s _ _ => s.mayUse is.key n.toNat Ring.prod
    effect := fun is s _ _ =>
      let r := s.ringAt (keyCore is.key) n.toNat
      let i := r.tail % r.count
      if r.used < r.count then
        (s.setRing (keyCore is.key) n.toNat
          { r with tags := r.tags.put i 1, bytes := r.bytes.put i 0, tail := (r.tail + 1) % 2 ^ 32 }).give is.key x.toNat
            (slotAddress r i)
      else s.give is.key x.toNat (-1) }

/-- An operation on the slot that the source names, which is in state `tag` (R188), after the stream's readouts (R238). -/
def slotRun (i : Instr) (x n : BitVec 6) (g : BitVec 4) (side : Ring → Nat) (tag : Nat) (f : Ring → Nat → Ring) : Run :=
  let named (is : Iss) (s : State) (sv : List DWord) : Option Nat :=
    ((s.finishReadouts is.key).ringAt (keyCore is.key) n.toNat).slotAt (sv.getD 0 0).toNat
  { instr := i, g := g, legal := 0x1F, ssrc := [x.toNat]
    ready := fun is s sv _ =>
      let t := s.finishReadouts is.key
      s.readoutsQuiet is.key ∧ t.mayUse is.key n.toNat side ∧ t.inJob is.key (sv.getD 0 0).toNat 1 ∧
      ∃ k, named is s sv = some k ∧ (t.ringAt (keyCore is.key) n.toNat).tags.get 0 k = tag
    effect := fun is s sv _ =>
      let t := s.finishReadouts is.key
      match named is s sv with
      | none => t
      | some k => t.setRing (keyCore is.key) n.toNat (f (t.ringAt (keyCore is.key) n.toNat) k) }

/-- rwaitf where the next slot is FULL: it is taken (R191). -/
def takeRun (x n : BitVec 6) (g : BitVec 4) : Run :=
  { instr := .rwaitf x n g, g := g, legal := 0x1F, last := true, sdst := [x.toNat]
    ready := fun is s _ _ =>
      let r := s.ringAt (keyCore is.key) n.toNat
      s.mayUse is.key n.toNat Ring.cons ∧ (s.ctlAt is.key 0).waitLost = false ∧ r.take ≠ r.tail ∧
      r.tags.get 0 (r.take % r.count) = 2
    effect := fun is s _ _ =>
      let r := s.ringAt (keyCore is.key) n.toNat
      let i := r.take % r.count
      (s.setRing (keyCore is.key) n.toNat { r with tags := r.tags.put i 3, take := (r.take + 1) % 2 ^ 32 }).give is.key x.toNat
        (slotAddress r i) }

/-- rbind of a valid binding word; a ring of the stream's own core must be the job's, and of the lane class (R193). -/
def ringBindRun (k a : BitVec 6) (g : BitVec 4) : Run :=
  { instr := .rbind k a g, g := g, legal := 0x08, ssrc := [a.toNat]
    ready := fun is s sv _ =>
      let w := sv.getD 0 0
      let r := s.ringAt (keyCore is.key) (bits w 0 5)
      ringWordOk k.toNat w = true ∧
      (bit w 6 = true → (bits w 8 8 = 0xFF ∨ bits w 8 8 = keyCore is.key) → r.holder = some (s.jobOf is.key 0) ∧ r.cls = 1)
    effect := fun is s sv _ => s.modCtl is.key 0 fun c => { c with ringIn := c.ringIn.set 0 k.toNat (sv.getD 0 0) } }

/-- rinit of a good control block, by the holder of a ring or where it has none (R192). -/
def ringInitRun (a n : BitVec 6) (g : BitVec 4) : Run :=
  let block (s : State) (key : Nat) (sv : List DWord) : List Byte := s.jobBytes key (sv.getD 0 0).toNat 64
  { instr := .rinit a n g, g := g, legal := 0x1F, ssrc := [a.toNat]
    ready := fun is s sv _ =>
      let t := s.finishReadouts is.key
      let slot := t.jobOf is.key 0
      let r := t.ringAt (keyCore is.key) n.toNat
      let card := (t.slotAt slot).card
      s.readoutsQuiet is.key ∧ (r.holder = none ∨ r.holder = some slot) ∧ (sv.getD 0 0).toNat % 64 = 0 ∧
      t.mayRead is.key (sv.getD 0 0).toNat 64 ∧
      controlBlockOk (block t is.key sv) (cardBase card * 4096) (saveImage card) = true
    effect := fun is s sv _ =>
      let t := s.finishReadouts is.key
      let core := keyCore is.key
      let slot := t.jobOf is.key 0
      let r := t.ringAt core n.toNat
      let b := block t is.key sv
      let u := (t.dropWaiting core n.toNat).loseRing slot core n.toNat
      let gen := if r.gen % 256 = 255 then 1 else r.gen % 256 + 1
      if fieldAt b 8 2 = 0 then u.setRing core n.toNat { r with holder := none }
      else
        (u.setRing core n.toNat
          { holder := some slot, gen := gen, base := fieldAt b 0 4, slotSize := fieldAt b 4 4, count := fieldAt b 8 2
            cls := fieldAt b 0x0A 1, flags := fieldAt b 0x0B 1, prod := fieldAt b 0x0C 1, cons := fieldAt b 0x0D 1 }).locWrite
          (jobKey is.key (sv.getD 0 0).toNat + 15) [BitVec.ofNat 8 gen] }

/-- rpush of a good descriptor, with a command to spare: one delivery for each target takes up its way (R195 to R197). -/
def pushRun (x p : BitVec 6) (g : BitVec 4) : Run :=
  let desc (s : State) (key : Nat) (sv : List DWord) : List Byte := s.jobBytes key (sv.getD 0 0).toNat 128
  { instr := .rpush x p g, g := g, legal := 0x1F, later := true, ssrc := [p.toNat, x.toNat]
    ready := fun is s sv _ =>
      let t := s.finishReadouts is.key
      s.readoutsQuiet is.key ∧ (sv.getD 0 0).toNat % 128 = 0 ∧ t.mayRead is.key (sv.getD 0 0).toNat 128 ∧
      pushOk (desc t is.key sv) = true ∧ t.mayRead is.key (sv.getD 1 0).toNat (fieldAt (desc t is.key sv) 0x40 4) ∧
      t.commandsOut is.key < 32
    effect := fun is s sv _ =>
      let t := s.finishReadouts is.key
      let b := desc t is.key sv
      let c := t.ctlAt is.key 0
      let targets := fieldAt b 0x44 1
      let push : Push :=
        { key := is.key, job := t.jobOf is.key 0, desc := jobKey is.key (sv.getD 0 0).toNat
          fou := bitN (fieldAt b 0x45 1) 0, status := List.replicate targets 0
          ringsOf := (upTo targets).map fun j => fieldAt b (4 * j) 4 / 256 % 32, g := g.toNat, byHandler := c.handling
          iaddr := c.pc }
      (t.launch (.push push)).sendPush is.key (t.jobOf is.key 0) t.nextId b
        (t.jobBytes is.key (sv.getD 1 0).toNat (fieldAt b 0x40 4)) }

/-- The ring instructions of R189 to R197. -/
def ringRuns (x n : BitVec 6) (g : BitVec 4) : List Run :=
  [ claimRun x n g,
    slotRun (.rfill x n g) x n g Ring.prod 1 fun r k => { r with tags := r.tags.put k 2 },
    slotRun (.rfree x n g) x n g Ring.cons 3 fun r k => Ring.advance r.count { r with tags := r.tags.put k 0 },
    takeRun x n g,
    { instr := .rwaite n g, g := g, legal := 0x1F, last := true, effect := fun _ s _ _ => s
      ready := fun is s _ _ =>
        let r := s.ringAt (keyCore is.key) n.toNat
        s.mayUse is.key n.toNat Ring.prod ∧ (s.ctlAt is.key 0).waitLost = false ∧ r.used < r.count },
    ringInitRun x n g ]

/-! ### Copy commands -/

/-- The command that a copy word of group z makes (R199 to R201). -/
def commandOf (s : State) (key maj f : Nat) (g : BitVec 4) (n z : Nat) (sv : List DWord) : Cmd :=
  { key := key, job := s.jobOf key 0, iaddr := (s.ctlAt key 0).pc, maj := maj, f := f, g := g.toNat, x := sv.getD 1 0
    y := sv.getD 0 0, z := (List.range n).map fun i => sv.getD (2 + i) 0, zreg := z, rm := bits (s.ctlAt key 0).fmode 0 2
    run := if maj = 0x35 ∧ f < 2 then (sv.getD 4 0).toNat % 2 ^ 32 else 0 }

/-- A copy command that passes the checks of R213, with a command to spare, is taken up (R199). -/
def copyRun (i : Instr) (maj f : Nat) (g : BitVec 4) (x y z : BitVec 6) : Run :=
  let n := if maj = 0x35 ∧ f ≠ 2 then 4 else 2
  let links := if maj = 0x35 ∧ f < 2 then [z.toNat + 2] else []
  let checked (is : Iss) (s : State) (sv : List DWord) := s.checkCopy (commandOf s is.key maj f g n z.toNat sv)
  { instr := i, g := g, legal := 0x12, later := true, links := links
    ssrc := [y.toNat, x.toNat] ++ (List.range n).map fun k => z.toNat + k
    ready := fun is s sv _ => ∃ t c, checked is s sv = .ok (t, c) ∧ t.commandsOut is.key < 32
    effect := fun is s sv _ => match checked is s sv with
      | .error _ => s
      | .ok (t, c) => t.startCopy c (if links = [] then none else t.chainTail c) }

/-- The copy commands (R199), whose z names a group of 2 or 4 scalars. -/
def copyRuns (x y z : BitVec 6) (g : BitVec 4) : List Run :=
  [ copyRun (.ldt x y z g) 0x34 0 g x y z,
    copyRun (.stt x y z g) 0x34 1 g x y z,
    copyRun (.copy x y z g) 0x34 2 g x y z,
    copyRun (.copyRed x y z g) 0x35 2 g x y z ] ++
  (if z.toNat % 4 = 0 then
    [ copyRun (.copyCk x y z g) 0x35 0 g x y z,
      copyRun (.copyCkv x y z g) 0x35 1 g x y z,
      copyRun (.copyMc x y z g) 0x35 3 g x y z ]
  else [])

/-- copy.resume of a record that a command of the same engine left (R214): it goes on from the bytes done. -/
def resumeRun (x : BitVec 6) (g : BitVec 4) : Run :=
  let act (is : Iss) (s : State) (sv : List DWord) : Option (State × Cmd × Cmd) :=
    match s.memRead is.key 0 (sv.getD 0 0).toNat 128 with
    | .error _ => none
    | .ok (t, v) =>
      let r := leBytes 128 v
      let b := t.ctlAt is.key 0
      let c := resumeCmd is.key (t.jobOf is.key 0) b.pc g.toNat (bits b.fmode 0 2) (t.sget is.key) r
      let n := if c.maj = 0x35 ∧ c.f ≠ 2 then 4 else 2
      if ((c.maj = 0x34 ∧ c.f < 3) ∨ (c.maj = 0x35 ∧ c.f < 4)) ∧ fieldAt r 0x6E 1 = keyEng is.key + 1 ∧ c.zreg < 32 ∧
          c.zreg % n = 0 then
        match t.checkCopy c with
        | .error _ => none
        | .ok (u, d) =>
          if u.commandsOut is.key < 32 then
            let unit := if d.unit = 0 then 1 else d.unit
            some (u, c, { d with pos := (fieldAt r 0x38 8 + d.unit - 1) / unit, chained := false, resumed := true })
          else none
      else none
  { instr := .copyResume x g, g := g, legal := 0x12, later := true, ssrc := [x.toNat]
    ready := fun is s sv _ => (sv.getD 0 0).toNat % 128 = 0 ∧ (act is s sv).isSome = true
    effect := fun is s sv _ => match act is s sv with
      | none => s
      | some (t, c, d) => t.startCopy d (if c.isCk && c.chained then t.chainTail d else none) }

/-- trec of a good tensor record and box: the bytes of the box (R208). -/
def countRun (d r b : BitVec 6) (g : BitVec 4) : Run :=
  let act (is : Iss) (s : State) (sv : List DWord) := s.readBox is.key (sv.getD 1 0).toNat (sv.getD 0 0).toNat
  { instr := .trec d r b g, g := g, legal := 0x12, ssrc := [b.toNat, r.toNat], sdst := [d.toNat]
    ready := fun is s sv _ => b.toNat < 32 ∧ ∃ x, act is s sv = .ok x
    effect := fun is s sv _ => match act is s sv with
      | .error _ => s
      | .ok (t, ten, box) => t.give is.key d.toNat
          (BitVec.ofNat 64 (2 ^ fieldAt ten 0x39 1 * ((List.range 7).map fun i => fieldAt box (0x1C + 4 * i) 4).prod)) }

/-! ### The algebra array -/

/-- An instruction that begins now and retires later (R78, R85, R263): it stands where it is with what it will write, and
the tokens of its G field are pushed at its retirement. What it popped is kept, should it be taken back (R57, log 16). -/
def heldRun (i : Instr) (g : BitVec 4) (legal : Nat) (ssrc : List Nat) (record : Bool)
    (ready : Iss → State → List DWord → Prop) (held : Iss → State → List DWord → State × Late) : Run :=
  { instr := i, g := g, legal := legal, ssrc := ssrc, later := true, record := record, stays := true
    ready := fun is s sv _ => ready is s sv
    effect := fun is s sv _ =>
      let r := held is s sv
      (r.1.modCtl is.key 0 fun c => { c with late := some r.2 }).modCtl is.key 0 fun c =>
        { c with waitG := g.toNat, stall := [], poppedT := popFifos is.key g.toNat, poppedQ := popEntries is.key ssrc sv } }

/-- An mma or mmar may begin (R234): its job has the accumulator tile, its shapes fit one another and the array, and its
footprint lies in the job's region, none of what it reads poisoned. -/
def mmaFits (s : State) (key : Nat) (w : Mma) : Prop :=
  let a := s.shape key w.sa
  let b := s.shape key w.sb
  let t := s.shape key ((w.sb + 1) % 16)
  let d := accD (s.accord key a.accord)
  bitN (s.accMask key) w.acc = true ∧ a.cols = b.rows ∧ a.accord = b.accord ∧ (w.readout = true → t.accord = a.accord) ∧
  (w.pruned = true → d = 1 ∧ a.cols % 4 = 0) ∧ (w.readout = true → t.rows = a.rows ∧ t.cols = b.cols) ∧
  0 < a.rows ∧ 0 < a.cols ∧ 0 < b.cols ∧ a.rows ≤ 32 ∧ b.cols * d ≤ 32 ∧
  mmaCycles w.fmt a.rows a.cols d w.pruned ≤ 2048 ∧
  s.footprint key (mmaReads w a b d ++ (if w.readout then t.spans t.rows t.cols d (ofmtBytes t.ofmt) else [])) = none ∧
  s.footprintPoison key (mmaReads w a b d) = none ∧
  (w.z = false → ∀ c ∈ blockPositions a.rows b.cols d,
    s.poisonAcc.has (accKey (keyCore key) w.acc c.1 (c.2.1 * d + c.2.2)) = false)

/-- What an mma or mmar has computed (R235 to R237): each cell's sum, the flags of all, and a readout's bytes. -/
def mmaResult (s : State) (key : Nat) (w : Mma) : Late :=
  let a := s.shape key w.sa
  let b := s.shape key w.sb
  let t := s.shape key ((w.sb + 1) % 16)
  let img := s.accord key a.accord
  let d := accD img
  let rm := s.rmOf_ key 0
  let vals := (blockPositions a.rows b.cols d).map fun c => (c, s.mmaCell key w a b img rm c.1 c.2.1 c.2.2)
  let out := readoutBytes (keyCore key) t d t.ofmt
    (vals.map fun v => (v.1, readValue t.ofmt rm (accValue (w.fmt == 5) v.2.1)))
  .array (vals.map fun v => (accKey (keyCore key) w.acc v.1.1 (v.1.2.1 * d + v.1.2.2), BitVec.ofNat 64 v.2.1))
    ((vals.foldl (fun f v => f ||| v.2.2) 0) ||| (if w.readout then out.2 else 0)).toNat (if w.readout then some out.1 else none)

/-- mma, mma.p24, mmar and mmar.p24: the array and the tile are taken up for the cycles of R223, and the tile until it is
retired and read out (R239, log 42). -/
def mmaRun (i : Instr) (g : BitVec 4) (w : Mma) : Run :=
  heldRun i g 0x04 [] w.readout (fun is s _ => s.readoutsQuiet is.key ∧ mmaFits (s.finishReadouts is.key) is.key w)
    fun is s _ =>
      let t := s.finishReadouts is.key
      let a := t.shape is.key w.sa
      let busy := mmaCycles w.fmt a.rows a.cols (accD (t.accord is.key a.accord)) w.pruned
      let out := match mmaResult t is.key w with
        | .array _ _ (some bytes) => 16 + (bytes.length + 255) / 256
        | _ => 0
      ((t.occupy (keyCore is.key) [8, 16 + w.acc] busy).occupy (keyCore is.key) [24 + w.acc] (busy + 40 + out), mmaResult t is.key w)

/-- A record of n bytes at an aligned address of the job's region, read for a table of the context (R227, R230). -/
def recordRun (i : Instr) (y : BitVec 6) (g : BitVec 4) (n : Nat) (defect : List Byte → Option Nat)
    (f : State → Nat → List Byte → State) : Run :=
  { instr := i, g := g, legal := 0x04, ssrc := [y.toNat]
    ready := fun is s sv _ =>
      let t := s.finishReadouts is.key
      s.readoutsQuiet is.key ∧ (sv.getD 0 0).toNat % 64 = 0 ∧ t.mayRead is.key (sv.getD 0 0).toNat n ∧
      defect (t.jobBytes is.key (sv.getD 0 0).toNat n) = none
    effect := fun is s sv _ =>
      let t := s.finishReadouts is.key
      f t is.key (t.jobBytes is.key (sv.getD 0 0).toNat n) }

/-- shp, accld (TINV where a table code is invalid) and acczero (R227, R230, R232). -/
def tableRuns (n y : BitVec 6) (g : BitVec 4) : List Run :=
  [ recordRun (.shp n y g) y g 64 shapeDefect fun s key b =>
      { s with shapes := s.shapes.put (16 * keyCtxKey key + n.toNat) b } ] ++
  (if n.toNat < 4 then
    [ recordRun (.accld n y g) y g 256 accordDefect fun s key b =>
        let t := s.orFlags key 0 (if accordInvalidCode b then flTINV else 0)
        { t with accords := t.accords.put (4 * keyCtxKey key + n.toNat) b } ]
  else []) ++
  (if n.toNat < 8 then
    [ { instr := .acczero n g, g := g, legal := 0x04
        ready := fun is s _ _ => bitN (s.accMask is.key) n.toNat = true
        effect := fun is s _ _ => (s.clearTiles (keyCore is.key) (2 ^ n.toNat)).occupy (keyCore is.key) [16 + n.toNat] 4 } ]
  else [])

/-- accrd (R240): the tile is read out now, scaled where SC is set, and its bytes are performed later (R237). -/
def readoutRun (im : BitVec 1) (a : BitVec 3) (sd : BitVec 4) (c : BitVec 1) (r : BitVec 5) (g : BitVec 4) : Run :=
  let cells (s : State) (key : Nat) : List (Nat × Nat × Nat) :=
    let t := s.shape key sd.toNat
    blockPositions t.rows t.cols (accD (s.accord key t.accord))
  let place (s : State) (key : Nat) (p : Nat × Nat × Nat) : Nat :=
    accKey (keyCore key) a.toNat p.1 (p.2.1 * accD (s.accord key (s.shape key sd.toNat).accord) + p.2.2)
  { instr := .accrd im a sd c r g, g := g, legal := 0x04, later := true, ssrc := if c = 1 then [r.toNat] else []
    ready := fun is s _ _ =>
      let u := s.finishReadouts is.key
      let t := u.shape is.key sd.toNat
      let d := accD (u.accord is.key t.accord)
      s.readoutsQuiet is.key ∧ bitN (u.accMask is.key) a.toNat = true ∧ 0 < t.rows ∧ t.rows ≤ 32 ∧ 0 < t.cols ∧ t.cols * d ≤ 32 ∧
      u.footprint is.key (t.spans t.rows t.cols d (ofmtBytes t.ofmt)) = none ∧
      ∀ p ∈ cells u is.key, u.poisonAcc.has (place u is.key p) = false
    effect := fun is s sv _ =>
      let u := s.finishReadouts is.key
      let t := u.shape is.key sd.toNat
      let rm := u.rmOf_ is.key 0
      let out := readoutBytes (keyCore is.key) t (accD (u.accord is.key t.accord)) t.ofmt
        ((cells u is.key).map fun p =>
          let v := accValue (im == 1) (u.acc.get 0 (place u is.key p)).toNat
          (p, if c = 1 then readScaled t.ofmt rm v [s20Of (sv.getD 0 0).toNat] else readValue t.ofmt rm v))
      ((u.occupy (keyCore is.key) [16 + a.toNat] (16 + (out.1.length + 255) / 256)).orFlags is.key 0 out.2).launch
        (.readout { key := is.key, job := u.jobOf is.key 0, bytes := out.1, g := g.toNat }) }

/-- The instructions of the array. -/
def arrayRuns (m a : BitVec 3) (e c z b : BitVec 1) (s1 t : BitVec 4) (g : BitVec 4) : List Run :=
  let w (pruned readout : Bool) : Mma :=
    { fmt := m.toNat, acc := a.toNat, eo := e == 1, ca := c == 1, sa := s1.toNat, z := z == 1, cb := b == 1, sb := t.toNat
      pruned := pruned, readout := readout }
  [ mmaRun (.mma m a e c s1 z b t g) g (w false false),
    mmaRun (.mmaP24 m a e c s1 z b t g) g (w true false),
    mmaRun (.mmar m a e c s1 z b t g) g (w false true),
    mmaRun (.mmarP24 m a e c s1 z b t g) g (w true true) ]

/-! ### Algebra on lanes -/

/-- An algebra instruction of dimension n, which s15 gives, under the table that s15 to s31 hold (R241): TINV where a table
code is invalid, then each result register's values and flags. -/
def algebraRun (i : Instr) (g : BitVec 4) (n : Nat) (d a : Nat) (b : Option Nat) (wide : Bool)
    (f : List Byte → Rm → List Nat → List Nat → Nat → Nat × Fl) : Run :=
  let two := b.isSome
  let lsrc := (if two then regGroup n (b.getD 0) else []) ++ regGroup n a
  let dst := if wide then regGroup n d else [d]
  { instr := i, g := g, legal := 0x28, lane := true, ssrc := tableScalars n, lsrc := lsrc, ldst := dst
    ready := fun _ _ sv _ => (sv.getD 0 0).toNat % 2 ^ 8 = n ∧ accordDefect (tableImage sv) = none
    effect := fun is s sv lv =>
      let img := tableImage sv
      let part (o l : Nat) : List Nat := (List.range n).map fun k => (lval lv (o + k) l).toNat
      let tinv : Fl := if accordInvalidCode img then flTINV else 0
      let s1 := s.orLaneFlags is.key (is.lanes.map fun l => (l, tinv))
      dst.zipIdx.foldl (fun s r =>
        let rs := is.lanes.map fun l => (l, f img (s.laneRm is l) (part (if two then n else 0) l) (part 0 l) r.2)
        (s.orLaneFlags is.key (rs.map fun x => (x.1, x.2.2))).giveLanes is.key r.1
          (rs.map fun x => (x.1, BitVec.ofNat 32 x.2.1))) s1 }

/-- amul, aconj and anorm (R242) at a dimension whose groups the specifiers name (R241). -/
def algebraRuns (n : Nat) (d a b : BitVec 6) (g : BitVec 4) : List Run :=
  (if regGroupOk n a.toNat = true ∧ regGroupOk n b.toNat = true ∧ regGroupOk n d.toNat = true then
    [ algebraRun (.amul d a b g) g n d.toNat a.toNat (some b.toNat) true amulF,
      algebraRun (.aconj d a g) g n d.toNat a.toNat none true aconjF ]
  else []) ++
  (if regGroupOk n a.toNat = true then [ algebraRun (.anorm d a g) g n d.toNat a.toNat none false anormF ] else [])

/-- compress (R243). -/
def compressRun (d a : BitVec 6) (f : BitVec 3) (g : BitVec 4) : Run :=
  { instr := .compress d a f g, g := g, legal := 0x08, lane := true, lsrc := [a.toNat], ldst := [d.toNat]
    effect := fun is s _ lv =>
      s.giveLanes is.key d.toNat ((compressLanes f.toNat (lv.getD 0 [])).zipIdx.map fun x => (x.2, x.1)) }

/-! ### Weight macros -/

/-- wload of a good control word (R251): pages of T2, whose invalid codes read as 0 and set TINV, or INT4, from `first` on. -/
def pageRun (p a c : BitVec 6) (g : BitVec 4) : Run :=
  let count (w : DWord) : Nat := w.toNat / 2 ^ 6 % 2 ^ 5 + 1
  let image (s : State) (key : Nat) (sv : List DWord) : List (Byte × Bool) :=
    (s.jobBytes key (sv.getD 1 0).toNat (4096 * count (sv.getD 0 0))).map fun b =>
      if bit (sv.getD 0 0) 11 then (b, false) else cleanT2 b
  heldRun (.wload p a c g) g 0x04 [c.toNat, a.toNat] false
    (fun is s sv =>
      let t := s.finishReadouts is.key
      let w := sv.getD 0 0
      s.readoutsQuiet is.key ∧ bitN (t.pageMask is.key) p.toNat = true ∧ w.toNat < 2 ^ 12 ∧ bit w 5 = false ∧
      w.toNat % 2 ^ 5 + count w ≤ 32 ∧ (sv.getD 1 0).toNat % 64 = 0 ∧
      t.mayRead is.key (sv.getD 1 0).toNat (4096 * count w))
    fun is s sv =>
      let t := s.finishReadouts is.key
      let w := sv.getD 0 0
      let page (j : Nat) : Nat := pageKey (keyCore is.key) (w.toNat % 2 ^ 5 + j) p.toNat
      let img := image t is.key sv
      (t.occupy (keyCore is.key) [p.toNat] (8 + 16 * count w), .wload (img.zipIdx.map fun x => (4096 * page (x.2 / 4096) + x.2 % 4096, x.1.1))
        ((List.range (count w)).map fun j => (page j, if bit w 11 then 1 else 0))
        (if ∃ x ∈ img, x.2 = true then flTINV else 0).toNat)

/-- First input and depth of each page of a chain (R253). -/
def chainOf (s : State) (core : Nat) : Nat → List Nat → List (Nat × Nat × Nat)
  | _, [] => []
  | first, p :: ps =>
    let depth := if s.pageTag core 0 p = 1 then 128 else 256
    (p, first, depth) :: chainOf s core (first + depth) ps

/-- tma (R254) of a chain the job has, on an activation tile whose columns are the chain's depth: 32 macros × rows × 64
columns of sums, which wrap at 32 bits and set OF where one lies beyond. -/
def chainRun (p n : BitVec 3) (z u : BitVec 1) (s1 : BitVec 4) (g : BitVec 4) : Run :=
  let np := n.toNat + 1
  let pages (s : State) (core : Nat) : List (Nat × Nat × Nat) := chainOf s core 0 ((List.range np).map (p.toNat + ·))
  let depth (s : State) (core : Nat) : Nat := ((pages s core).map fun x => x.2.2).sum
  let spans (s : State) (key : Nat) : List (Nat × Nat) :=
    let x := s.shape key s1.toNat
    (List.range x.rows).map fun m => (x.base + m * x.rpitch, depth s (keyCore key))
  let cells (rows : Nat) : List (Nat × Nat × Nat) :=
    (List.range 32).flatMap fun j => (List.range rows).flatMap fun m => (List.range 64).map fun c => (j, m, c)
  heldRun (.tma p n z u s1 g) g 0x04 [] false
    (fun is s _ =>
      let t := s.finishReadouts is.key
      let core := keyCore is.key
      let x := t.shape is.key s1.toNat
      s.readoutsQuiet is.key ∧ p.toNat + np ≤ 8 ∧ (∀ i < np, bitN (t.pageMask is.key) (p.toNat + i) = true) ∧
      0 < x.rows ∧ x.rows ≤ 32 ∧ x.cols = depth t core ∧ (z = 0 → (t.caOf is.key).claimed = true) ∧
      t.footprint is.key (spans t is.key) = none ∧ t.footprintPoison is.key (spans t is.key) = none ∧
      (∀ j < 32, ∀ i < np, t.poisonPage.has (pageKey core j (p.toNat + i)) = false) ∧
      (z = 0 → ∀ q ∈ cells x.rows, t.poisonCa.has (caKey core q.1 q.2.1 q.2.2) = false))
    fun is s _ =>
      let t := s.finishReadouts is.key
      let core := keyCore is.key
      let x := t.shape is.key s1.toNat
      let act (m i : Nat) : Int :=
        let b := t.locRead (locKey core (x.base + m * x.rpitch + i)) 1
        if u = 1 then (b : Int) else signedOf 8 b
      let old (q : Nat × Nat × Nat) : Int :=
        if z = 1 then 0 else (t.colAcc.get 0 (caKey core q.1 q.2.1 q.2.2)).toInt
      let sum (q : Nat × Nat × Nat) : Int :=
        old q + ((pages t core).map fun y =>
          ((List.range y.2.2).map fun k => act q.2.1 (y.2.1 + k) * t.weight core q.1 y.1 k q.2.2).sum).sum
      (t.occupy core (8 :: 10 :: (List.range np).map (p.toNat + ·)) (8 * x.rows * np), .tma ((cells x.rows).map fun q => (caKey core q.1 q.2.1 q.2.2, BitVec.ofInt 32 (sum q))) (z == 1) x.rows
        (if ∃ q ∈ cells x.rows, sum q < -(2 ^ 31) ∨ 2 ^ 31 ≤ sum q then flOF else 0).toNat)

/-- tmard (R256, R257): the column accumulators read out under the lane scales of two register pairs of the vector engine. -/
def columnsRun (o ss : BitVec 2) (w a : BitVec 5) (sd : BitVec 4) (g : BitVec 4) : Run :=
  let cells (t : Shape) : List (Nat × Nat) := (List.range t.rows).flatMap fun m => (List.range t.cols).map fun n => (m, n)
  let place (key : Nat) (p : Nat × Nat) : Nat := caKey (keyCore key) (p.2 / 64) p.1 (p.2 % 64)
  let fmt := if o = 0 then 0 else if o = 1 then 2 else if o = 2 then 1 else 5
  { instr := .tmard o ss w a sd g, g := g, legal := 0x04, later := true
    ready := fun is s _ _ =>
      let u := s.finishReadouts is.key
      let t := u.shape is.key sd.toNat
      let ve := streamKey (keyCore is.key) (keyCtx is.key) 3
      s.readoutsQuiet is.key ∧ (u.caOf is.key).claimed = true ∧ 0 < t.rows ∧ t.rows ≤ 32 ∧ 0 < t.cols ∧ t.cols ≤ 2048 ∧
      t.rows ≤ (u.caOf is.key).mlast ∧
      u.footprint is.key ((List.range t.rows).map fun m => (t.base + m * t.rpitch, t.cols * ofmtBytes fmt)) = none ∧
      (∀ p ∈ cells t, u.poisonCa.has (place is.key p) = false) ∧
      (∀ l < t.rows, ∀ r ∈ [2 * a.toNat, 2 * a.toNat + 1], u.poisonLane.has (laneKey ve r l) = false) ∧
      ∀ l < (t.cols + 63) / 64, ∀ r ∈ [2 * w.toNat, 2 * w.toNat + 1], u.poisonLane.has (laneKey ve r l) = false
    effect := fun is s _ _ =>
      let u := s.finishReadouts is.key
      let t := u.shape is.key sd.toNat
      let rm := u.rmOf_ is.key 0
      let vals := (cells t).map fun p =>
        (p, readScaled fmt rm (intVal (u.colAcc.get 0 (place is.key p)).toInt)
          [u.pairScale is.key a.toNat ss.toNat p.1, u.pairScale is.key w.toNat ss.toNat (p.2 / 64)])
      let bytes := vals.flatMap fun v => (leBytes (ofmtBytes fmt) v.2.1).zipIdx.map fun b =>
        (locKey (keyCore is.key) (t.base + v.1.1 * t.rpitch + v.1.2 * ofmtBytes fmt + b.2), b.1)
      ((u.occupy (keyCore is.key) [10] (16 + (t.rows * t.cols * ofmtBytes fmt + 255) / 256)).orFlags is.key 0
        (vals.foldl (fun f v => f ||| v.2.2) 0)).launch (.readout { key := is.key, job := u.jobOf is.key 0, bytes := bytes, g := g.toNat }) }

/-- wstat (R258). -/
def statusRun (d sel : BitVec 6) (g : BitVec 4) : Run :=
  { instr := .wstat d sel g, g := g, legal := 0x04, sdst := [d.toNat]
    ready := fun is s _ _ => sel.toNat = 8 ∨ bitN (s.pageMask is.key) sel.toNat = true
    effect := fun is s _ _ =>
      let c := s.caOf is.key
      s.give is.key d.toNat (BitVec.ofNat 64 (
        if sel.toNat = 8 then (if c.claimed then 1 else 0) + (if c.lost then 2 else 0) + 256 * (c.mlast % 64)
        else ((List.range 32).map fun j => s.pageTag (keyCore is.key) j sel.toNat % 2 * 2 ^ j).sum)) }

/-! ### Routes -/

/-- The port instructions (R263): the gang's table takes the new value when they retire. -/
def portRuns (y : BitVec 6) (g : BitVec 4) : List Run :=
  let desc (s : State) (key : Nat) (sv : List DWord) : List Byte := s.jobBytes key (sv.getD 0 0).toNat 64
  let keyway (s : State) (key : Nat) (sv : List DWord) : List Nat :=
    (List.range 256).map fun v => fieldAt (s.jobBytes key (sv.getD 0 0).toNat 512) (2 * v) 2
  [ heldRun (.rport y g) g 0x13 [y.toNat] false
      (fun is s sv =>
        let t := s.finishReadouts is.key
        let b := desc t is.key sv
        s.readoutsQuiet is.key ∧ (sv.getD 0 0).toNat % 64 = 0 ∧ t.mayRead is.key (sv.getD 0 0).toNat 64 ∧ portDescOk b = true ∧
        (t.ringAt (keyCore is.key) (fieldAt b 1 1)).holder = some (t.jobOf is.key 0) ∧
        ∀ x, t.portAt is.key (fieldAt b 0 1) = some x → x.core = keyCore is.key)
      fun is s sv =>
        let t := s.finishReadouts is.key
        let b := desc t is.key sv
        let own := cardPolicy (t.slotAt (t.jobOf is.key 0)).card / 16 % 4
        (t, .port (fieldAt b 0 1) (some
          { core := keyCore is.key, ring := fieldAt b 1 1, gen := (t.ringAt (keyCore is.key) (fieldAt b 1 1)).gen
            cap := fieldAt b 4 2, policy := if fieldAt b 2 1 = 3 then own else fieldAt b 2 1, spill := fieldAt b 3 1 })),
    heldRun (.rportKey y g) g 0x13 [y.toNat] false
      (fun is s sv =>
        let t := s.finishReadouts is.key
        s.readoutsQuiet is.key ∧ t.mayRead is.key (sv.getD 0 0).toNat 512 ∧
        ∀ w ∈ keyway t is.key sv, w / 2 ^ 8 % 2 ^ 7 = 0)
      fun is s sv => let t := s.finishReadouts is.key; (t, .keyway (keyway t is.key sv)),
    heldRun (.rportRel y g) g 0x13 [y.toNat] false
      (fun is s sv => (sv.getD 0 0).toNat < 256 ∧
        ∃ x, s.portAt is.key (sv.getD 0 0).toNat = some x ∧ x.core = keyCore is.key)
      fun _ s sv => (s, .port (sv.getD 0 0).toNat none) ]

/-- route of a good descriptor whose every row-choice leads to a port, with its entry free and a command to spare (R264 to
R267). -/
def routeRun (v y : BitVec 6) (g : BitVec 4) : Run :=
  let desc (s : State) (key : Nat) (sv : List DWord) : List Byte := s.jobBytes key (sv.getD 0 0).toNat 64
  let vec (s : State) (key : Nat) (sv : List DWord) : List Nat :=
    let d := routeDesc (desc s key sv)
    (List.range (d.rows * d.k)).map fun i => s.locRead (locKey (keyCore key) (d.rvec + 8 * i)) 8
  let assign (s : State) (key : Nat) (sv : List DWord) : Assign :=
    let x := s.slotAt (s.jobOf key 0)
    let d := routeDesc (desc s key sv)
    routeAssign x.keyway x.ports (vec s key sv) d.rows d.k
  { instr := .route v y g, g := g, legal := 0x13, later := true, ssrc := [y.toNat]
    ready := fun is s sv _ =>
      let t := s.finishReadouts is.key
      let d := routeDesc (desc t is.key sv)
      let x := t.slotAt (t.jobOf is.key 0)
      s.readoutsQuiet is.key ∧ (sv.getD 0 0).toNat % 64 = 0 ∧ t.mayRead is.key (sv.getD 0 0).toNat 64 ∧
      routeDescOk v.toNat (desc t is.key sv) = true ∧ t.footprint is.key d.spans = none ∧
      (t.rteAt (keyCore is.key) d.rte).state = 0 ∧
      t.footprintPoison is.key
        (((List.range d.rows).map fun r => (d.src + r * d.spitch, d.inlen)) ++ [(d.rvec, d.rows * d.k * 8)]) = none ∧
      routeStray x.keyway x.ports (vec t is.key sv) d.rows d.k = none ∧ (assign t is.key sv).fail = none ∧
      t.commandsOut is.key < 32
    effect := fun is s sv _ =>
      let t := s.finishReadouts is.key
      t.startRoute is.key v.toNat g.toNat (desc t is.key sv) (vec t is.key sv) (assign t is.key sv) }

/-- rret of a delivered header and its data, with a command to spare (R268). -/
def returnRun (x y : BitVec 6) (g : BitVec 4) : Run :=
  let head (s : State) (key : Nat) (sv : List DWord) : List Byte := s.jobBytes key (sv.getD 0 0).toNat 16
  { instr := .rret x y g, g := g, legal := 0x13, later := true, ssrc := [y.toNat, x.toNat]
    ready := fun is s sv _ =>
      let t := s.finishReadouts is.key
      let b := head t is.key sv
      s.readoutsQuiet is.key ∧ (sv.getD 0 0).toNat % 16 = 0 ∧ t.mayRead is.key (sv.getD 0 0).toNat 16 ∧
      fieldAt b 0 1 ∈ (t.slotAt (t.jobOf is.key 0)).cores ∧ fieldAt b 1 1 < 64 ∧ fieldAt b 3 1 / 4 % 32 = 0 ∧
      1 ≤ fieldAt b 0x0E 2 ∧ fieldAt b 0x0E 2 ≤ 4096 ∧ t.mayRead is.key (sv.getD 1 0).toNat (fieldAt b 0x0E 2) ∧
      t.commandsOut is.key < 32
    effect := fun is s sv _ =>
      let t := s.finishReadouts is.key
      let b := head t is.key sv
      t.launch (.ret
        { key := is.key, job := t.jobOf is.key 0, origin := fieldAt b 0 1, rte := fieldAt b 1 1, seq := fieldAt b 4 2
          row := fieldAt b 2 1, choice := fieldAt b 3 1 % 4
          bytes := t.jobBytes is.key (sv.getD 1 0).toNat (fieldAt b 0x0E 2), g := g.toNat }) }

/-- rasm of a DONE entry of the job that no engine before it in the order of %corekind waits for: its status; the entry is
free, and the others that wait for it lose it (R273). -/
def entryRun (d n : BitVec 6) (g : BitVec 4) : Run :=
  let entry (s : State) (key : Nat) : Rte := s.rteAt (keyCore key) n.toNat
  { instr := .rasm d n g, g := g, legal := 0x13, last := true, sdst := [d.toNat]
    ready := fun is s _ _ => (entry s is.key).state = 2 ∧ (entry s is.key).job = s.jobOf is.key 0 ∧
      (s.ctlAt is.key 0).waitLost = false ∧ s.rasmBefore is.key n.toNat = false
    effect := fun is s _ _ =>
      let r := entry s is.key
      let many (f : Nat) : Nat := (r.fate.filter fun x => x = f).length % 2 ^ 11
      (s.takeEntry is.key n.toNat).give is.key d.toNat (BitVec.ofNat 64
        (many 2 + many 3 * 2 ^ 11 + r.spilled % 2 ^ 11 * 2 ^ 22 + (if r.late < 2047 then r.late else 2047) * 2 ^ 33 +
         (if r.timedOut then 2 ^ 44 else 0))) }

/-! ### Interruptions -/

/-- A stream or thread whose next interruption runs its handler (R375): it is not in it, has no region open, stands in no
wait, and its job names one. -/
def State.handles (s : State) (key l : Nat) : Prop :=
  let c := s.ctlAt key l
  c.handling = false ∧ c.region = none ∧ c.waiting = none ∧ cardHandler (s.cardOf key l) ≠ 0

/-- The record of an interruption (R370, R376): HDR is the header of the block that holds the return address. -/
def State.recordOf (s : State) (key l cause cls : Nat) (info detail iaddr : DWord) : TrapRec :=
  let c := s.ctlAt key l
  { hdr := if c.atHeader then c.pc else c.hdr
    ret := c.pc
    passes := BitVec.ofNat 64 (if c.atHeader then 0 else c.passes)
    iaddr := if cls = 2 then c.pc else iaddr
    cause := BitVec.ofNat 64 (cause + 256 * cls)
    info := info
    detail := detail
    time := BitVec.ofNat 64 s.ns }

/-- A handler is entered (R375): the record is written, %trapcause and %trapinfo are set, a hold region closes, and the
header at TRAP_HANDLER is fetched next; no other register, queue or FIFO changes. -/
def State.entered (s : State) (key l cause cls : Nat) (info detail iaddr : DWord) : State :=
  let r := s.recordOf key l cause cls info detail iaddr
  let handler := BitVec.ofNat 64 (cardHandler (s.cardOf key l))
  let s1 := { s with free := s.free + 1 }
  let s2 := if isWave key then s1 else s1.locWrite (s.recordKey key) r.bytes
  s2.modCtl key l fun c =>
    { c with handling := true, pc := handler, hdr := handler, atHeader := true, loopBuf := [], trapcause := r.cause
             trapinfo := info, holdEnd := none, stall := [], amod := none, late := none, waitLost := false
             tr := if isWave key then r else c.tr }

/-- A thread or stream stopped by an interruption in its handler: what R377 keeps. -/
def State.keepsRecord (s t : State) (key l : Nat) : Prop :=
  t.trapRec key l = s.trapRec key l ∧ (t.ctlAt key l).trapcause = (s.ctlAt key l).trapcause ∧
  (t.ctlAt key l).trapinfo = (s.ctlAt key l).trapinfo ∧ (t.ctlAt key l).pc = (s.ctlAt key l).pc ∧
  (t.ctlAt key l).handling = true ∧ (t.ctlAt key l).life = .escalated

/-- trap N (R378): a nop after which each of the issuers takes cause 0x40 + N of class 1. -/
def trapped (s : State) (key : Nat) (set : List Nat) (n : BitVec 6) (g : BitVec 4) : State :=
  let pc := (s.ctlAt key (set.headD 0)).pc
  set.foldl (fun t l => t.entered key l (0x40 + n.toNat) 1 0 0 pc)
    ((s.reads key set g false [] []).1.finish key set g 2)

/-! ### Faults -/

/-- A precise fault (R57, R58, R370 class 0) of an instruction from a state: what the access left behind, and the
interruption, with the address of the instruction. -/
def State.struck (s : State) (key l : Nat) (f : Flt) : State :=
  (s.faultWalk key l f).interrupt key l f.cause 0 f.info f.detail (s.ctlAt key l).pc

/-- The G field lets every issuer judge a word (R45): each thread of a wave passes the guard of a long word, and a short word
and the control engine have none. -/
def State.judges (s : State) (key : Nat) (set : List Nat) (g : BitVec 4) (half : Nat) : Prop :=
  if isWave key then (if half = 2 then ∀ l ∈ set, bit g 3 ≠ s.pget key (bits g 0 3) l else g = 0) else keyEng key = 0 → g = 0

/-- Every issuer takes a fault of the encoding or of a poisoned register before anything has happened: the handler is entered
from the state before the issue, with registers, tokens, queues and memory as they were (R57); a wave's issue counts
(R138). -/
def State.faulted (s : State) (key : Nat) (set : List Nat) (cause : Nat) (info : DWord) : State :=
  let t := set.foldl (fun t l => t.entered key l cause 0 info 0 (s.ctlAt key l).pc) s
  if isWave key then t.countIssue key 0 false else t

/-- An instruction where its word is not legal raises illegal-on-core-kind (R49), and with an operand that is not legal there
illegal-operand (R48, R57), in that order (R58). -/
def Run.misused (w : Run) : Prop :=
  ∀ (s : State) (key : Nat) (set : List Nat), s.issuing key set → s.judges key set w.g w.half → set.Nodup →
    (∀ l ∈ set, s.handles key l) →
    let word : DWord := (encodeWord w.instr).setWidth 64
    let legal := bitN w.legal (if isWave key then 5 else keyEng key)
    (legal = false → exec w.instr s = .next (s.faulted key set 2 (word + BitVec.ofNat 64 (coreKind key * 2 ^ 32)))) ∧
    (legal = true → ((∃ x ∈ w.ssrc ++ w.sdst, scalarOk key x = false) ∨ ∃ x ∈ w.lsrc ++ w.ldst, laneSrcOk key x = false) →
      exec w.instr s = .next (s.faulted key set 3 word))

/-- A stream's instruction that reads a poisoned register raises the poison fault with 0 for its address (R372). -/
def Run.poisoned (w : Run) : Prop :=
  ∀ (s : State) (key : Nat), isWave key = false → s.issuing key [0] → s.admits key [0] w.g w.half → w.allowed s key [0] →
    (∀ x ∈ w.ssrc ++ w.sdst, scalarOk key x = true) → (∀ x ∈ w.lsrc ++ w.ldst, laneSrcOk key x = true ∧ x < 0x3A) →
    (∀ x ∈ w.ssrc, s.queueCheck key x false = none) → (∀ x ∈ w.sdst, s.queueCheck key x true = none) →
    (keyEng key = 2 → s.readoutsOut key = 0) → (∀ n ∈ s.popNeeds key 0 w.ssrc [], s.needMet key n = true) →
    (∀ x ∈ w.ssrc ++ w.sdst, x ∉ (s.ctlAt key 0).pendRegs) → s.handles key 0 →
    ((∃ x ∈ w.ssrc, isQueue key x = false ∧ s.poisonScalar.has (64 * key + x) = true) ∨
      ∃ x ∈ w.lsrc, ∃ l < laneCount key, s.poisonLane.has (laneKey key x l) = true) →
    exec w.instr s = .next (s.faulted key [0] 0x0B 0)

/-- Threads that fail the guard of a long word only move past it (R45, R158); those that pass it issue it as if they were
alone. -/
def Run.guarded (w : Run) : Prop :=
  ∀ (s : State) (key : Nat) (on off : List Nat) (set : List Nat), isWave key = true → w.half = 2 → set.Nodup →
    on = set.filter (fun l => bit w.g 3 != s.pget key (bits w.g 0 3) l) →
    off = set.filter (fun l => !(bit w.g 3 != s.pget key (bits w.g 0 3) l)) →
    s.cur = some { wave := true, key := key, set := set } →
    let u := off.foldl (fun s l => s.modCtl key l fun c => c.past 2) s
    (on = [] → exec w.instr s = .next (u.countIssue key 0 false)) ∧
    ∀ t, on ≠ [] → exec w.instr { u with cur := some { wave := true, key := key, set := on } } = .next t →
      exec w.instr s = .next { t with cur := s.cur }

/-- An instruction's own fault: a stream takes it in the state in which it was to issue, with nothing popped and nothing written
(R57, R244, R259, R276); of a wave every thread of the issue set takes it, in the state that `base` names. -/
def Run.faults (w : Run) (why : Iss → State → List DWord → List (List Word) → Flt → Prop)
    (base : State → Nat → State := fun s _ => s) : Prop :=
  ∀ (s : State) (key : Nat) (set : List Nat) (f : Flt), s.issuing key set → s.admits key set w.g w.half → w.allowed s key set →
    s.operandsReady key set w.ssrc w.sdst w.lsrc w.ldst w.links →
    let r := s.reads key set w.g w.lane w.ssrc w.lsrc
    why { key := key, threads := set, lanes := issueLanes key set } r.1 r.2.1 r.2.2 f →
    exec w.instr s = .next (if isWave key then set.foldl (fun t l => t.struck key l f) (base r.1 key) else s.struck key 0 f)

/-- What faults a scalar access (R285, R287): a misaligned address, else the fault of its place (R351 to R355, R372). -/
def scalarFaults (d a : BitVec 6) (o : BitVec 6) (z : BitVec 2) (g : BitVec 4) : Prop :=
  let at_ (sv : List DWord) : Nat := scalarAt o (2 ^ z.toNat) (sv.getD 0 0)
  let misaligned (sv : List DWord) (f : Flt) : Prop := at_ sv % 2 ^ z.toNat ≠ 0 ∧ f = { cause := 8, info := BitVec.ofNat 64 (at_ sv) }
  let u (is : Iss) (s : State) : State := s.finishReadouts is.key
  (scalarLoadRun (.lds d a o z g) g d a o (2 ^ z.toNat)).faults
    (fun is s sv _ f => misaligned sv f ∨
      (at_ sv % 2 ^ z.toNat = 0 ∧ (u is s).memRead is.key (is.threads.headD 0) (at_ sv) (2 ^ z.toNat) = .error f))
    (fun s key => s.finishReadouts key) ∧
  (scalarStoreRun (.sts d a o z g) g d a o (2 ^ z.toNat)).faults
    (fun is s sv _ f => misaligned sv f ∨
      (at_ sv % 2 ^ z.toNat = 0 ∧ (u is s).memWrite is.key (is.threads.headD 0) (at_ sv) (2 ^ z.toNat)
        ((sv.getD 1 0).toNat % 256 ^ 2 ^ z.toNat) = .error f))
    (fun s key => s.finishReadouts key)

/-- What faults an access (R285, R351, R372): a place that cannot be reached, and for a read a poisoned byte, whose address is
named; an address that is not canonical is never translated. -/
def accessFaults : Prop :=
  ∀ (s : State) (key l va n v : Nat),
    (∀ f, s.locate key l .read va n = .error f → s.memRead key l va n = .error f) ∧
    (∀ f, s.locate key l .write va n = .error f → s.memWrite key l va n v = .error f) ∧
    (∀ t p i, s.locate key l .read va n = .ok (t, p) → t.placePoisoned p n = true → i < n →
      t.placePoisoned (p.plus i) 1 = true → (∀ j < i, t.placePoisoned (p.plus j) 1 = false) →
      s.memRead key l va n = .error { cause := 0x0B, info := BitVec.ofNat 64 (va + i) }) ∧
    ∀ a, canonicalVa va = false → inAperture va = false → ∃ f, s.locate key l a va n = .error f ∧ f.cause = 9 ∧ f.info.toNat = va % 2 ^ 64

/-- ld and st at a misaligned base raise one fault with the address of lane 0 before any lane accesses memory (R285). -/
def baseFaults (d a o : BitVec 6) (z : BitVec 2) (g : BitVec 4) : Prop :=
  ∀ w ∈ laneAccesses d a a o g, w.instr = .ld d a o z g ∨ w.instr = .st d a o z g → w.faults fun _ _ sv lv f =>
    let x := contiguous o (2 ^ z.toNat) sv lv 0
    x % 2 ^ z.toNat ≠ 0 ∧ f = { cause := 8, info := BitVec.ofNat 64 x }

/-- Lanes' loads and stores in rising lane order of which some fault (R146): the state after those that do not, what they read, and the faults
in that order. A failing lane leaves nothing of its own but its fault. -/
def loadSome (key : Nat) (addr : Nat → Nat) (align : Nat) : State → List Nat → State × List (Nat × Nat) × List (Nat × Flt)
  | s, [] => (s, [], [])
  | s, l :: ls =>
    let failed (f : Flt) := let r := loadSome key addr align s ls; (r.1, r.2.1, (accessor key l, f) :: r.2.2)
    if addr l % align ≠ 0 then failed { cause := 8, info := BitVec.ofNat 64 (addr l) }
    else
      match s.memRead key (accessor key l) (addr l) align with
      | .error f => failed f
      | .ok (t, v) => let r := loadSome key addr align t ls; (r.1, (l, v) :: r.2.1, r.2.2)
def storeSome (key : Nat) (addr value : Nat → Nat) (align : Nat) : State → List Nat → State × List (Nat × Flt)
  | s, [] => (s, [])
  | s, l :: ls =>
    let failed (f : Flt) := let r := storeSome key addr value align s ls; (r.1, (accessor key l, f) :: r.2)
    if addr l % align ≠ 0 then failed { cause := 8, info := BitVec.ofNat 64 (addr l) }
    else
      match s.memWrite key (accessor key l) (addr l) align (value l) with
      | .error f => failed f
      | .ok t => storeSome key addr value align t ls

/-- A lane access of which some lanes fault, from the state and the faults after it: on the vector engine nothing has happened but
the first fault; on a wave the threads that do not fault complete it and move on, and the others take their faults, with
their registers as they were (R146). -/
def Run.partly (w : Run) (f : Iss → State → List DWord → List (List Word) → State × List (Nat × Flt)) : Prop :=
  ∀ (s : State) (key : Nat) (set : List Nat), s.issuing key set → s.admits key set w.g w.half → w.allowed s key set →
    s.operandsReady key set w.ssrc w.sdst w.lsrc w.ldst →
    let r := s.reads key set w.g w.lane w.ssrc w.lsrc
    let x := f { key := key, threads := set, lanes := issueLanes key set } r.1 r.2.1 r.2.2
    ∀ e es, x.2 = e :: es →
      exec w.instr s = .next (
        if isWave key then
          let t := (set.filter fun l => !x.2.any (·.1 == l)).foldl (fun s l => s.modCtl key l (moveOn 2 [] l)) x.1
          x.2.foldl (fun s y => s.struck key y.1 y.2) t
        else s.struck key 0 e.2)

/-- The gathers and scatters of R286, some of whose lanes fault. -/
def gatherFaults (d a b : BitVec 6) (g : BitVec 4) : Prop :=
  let load (i : Instr) (n : Nat) : Prop := (loadRun i g [] [b.toNat, a.toNat] [d.toNat] [] gathered n n [0]).partly
    fun is s sv lv =>
      let x := loadSome is.key (gathered sv lv) n s is.lanes
      (x.1.giveLanes is.key d.toNat (x.2.1.map fun y => (y.1, BitVec.ofNat 32 y.2)), x.2.2)
  let store (i : Instr) (n : Nat) : Prop :=
    let value (lv : List (List Word)) (l : Nat) : Nat := (lval lv 2 l).toNat % 256 ^ n
    (storeRun i g [] [b.toNat, a.toNat, d.toNat] [] gathered value n).partly
      fun is s sv lv => storeSome is.key (gathered sv lv) (value lv) n s is.lanes
  load (.ldg d a b g) 4 ∧ load (.ldg16 d a b g) 2 ∧ store (.stg d a b g) 4 ∧ store (.stg16 d a b g) 2

/-- Faults of the array, macro and route instructions (R234, R244, R251, R259, R265, R276): a tile that the context has not
claimed, a page that it has not, a control word or an address that is not as it must be, a misaligned route descriptor, and an
entry of another job. -/
def unitFaults (n p a c y v : BitVec 6) (g : BitVec 4) : Prop :=
  let flt (cause info : Nat) : Flt := { cause := cause, info := BitVec.ofNat 64 info }
  (n.toNat < 8 → Run.faults { instr := .acczero n g, g := g, legal := 0x04, effect := fun _ s _ _ => s } fun is s _ _ f =>
    bitN (s.accMask is.key) n.toNat = false ∧ f = flt 0x14 (n.toNat + s.accMask is.key * 256)) ∧
  (p.toNat < 8 → (pageRun p a c g).faults fun is s _ _ f => bitN ((s.finishReadouts is.key).pageMask is.key) p.toNat = false ∧
    f = flt 0x19 (p.toNat + (s.finishReadouts is.key).pageMask is.key * 256)) ∧
  (p.toNat < 8 → (pageRun p a c g).faults fun is s sv _ f =>
    let w := (sv.getD 0 0).toNat
    bitN ((s.finishReadouts is.key).pageMask is.key) p.toNat = true ∧
    (2 ^ 12 ≤ w ∨ w / 2 ^ 5 % 2 = 1 ∨ 32 < w % 2 ^ 5 + w / 2 ^ 6 % 2 ^ 5 + 1 ∨ (sv.getD 1 0).toNat % 64 ≠ 0) ∧
    f = macroFault 1 p.toNat) ∧
  (v.toNat < 3 → (routeRun v y g).faults fun is _ sv _ f => (sv.getD 0 0).toNat % 64 ≠ 0 ∧ f = routeFault is.key 1 0 0 0) ∧
  (entryRun y n g).faults fun is s _ _ f =>
    ((s.rteAt (keyCore is.key) n.toNat).state = 0 ∨ (s.rteAt (keyCore is.key) n.toNat).job ≠ s.jobOf is.key 0) ∧
    f = routeFault is.key 5 n.toNat 0 0

/-! ### Stopping -/

/-- A stream or thread stops at a wait, which closes a hold region (R92, R95); a stream keeps the tokens it will push, and
what it popped (R57, log 16), and its engine is to choose again (R77). -/
def State.stopsAt (s : State) (key l : Nat) (w : Wait) (g : Nat) (ssrc : List Nat) (sv : List DWord) : State :=
  let s1 := s.modCtl key l fun c =>
    { c with waiting := some w, waitStart := BitVec.ofNat 64 s.ns, waitLost := false, holdEnd := none, ceded := true }
  if isWave key then s1
  else s1.modCtl key 0 fun c =>
    { c with waitG := g, stall := [], poppedT := popFifos key g, poppedQ := popEntries key ssrc sv }

/-- A stream, or one thread of a wave, issues a wait whose condition does not hold: it stops there (R92). -/
def waitStops (i : Instr) (g : BitVec 4) (legal : Nat) (ssrc sdst : List Nat) (wait : State → Nat → List DWord → Wait)
    (before : State → Nat → State) (ok : State → Nat → List DWord → Prop := fun _ _ _ => True) : Prop :=
  ∀ (s : State) (key l : Nat), (isWave key = false → l = 0) → s.issuing key [l] → s.admits key [l] g 2 →
    bitN legal (if isWave key then 5 else keyEng key) = true → (s.ctlAt key l).lastInBody 2 = true →
    s.operandsReady key [l] ssrc sdst [] [] →
    let r := s.reads key [l] g false ssrc []
    let t := before r.1 key
    ∀ u, ok t key r.2.1 → t.waitState key l (wait t key r.2.1) true = .stay u →
      exec i s = .next (u.stopsAt key l (wait t key r.2.1) g.toNat ssrc r.2.1)

/-- rdv of a stream all of whose operations have completed and whose pushes have room (R94): it pushes and arrives. -/
def rdvArrives (g : BitVec 4) : Prop :=
  ∀ (s : State) (key : Nat), isWave key = false → s.issuing key [0] → s.admits key [0] g 2 →
    let t := (s.popTokens key g.toNat).modCtl key 0 fun c => { c with waitG := g.toNat, stall := [], holdEnd := none }
    t.allComplete key = true → (∀ f ∈ pushFifos key g.toNat, t.tok (keyCtxKey key) f < 32) →
    exec (.rdv g) s = .next (((pushFifos key g.toNat).foldl (fun u f => u.pushToken (keyCtxKey key) f) t).arrive key)

/-- qbind (R85): the binding is on its way from this tile cycle. -/
def bindRun (d a : BitVec 6) (g : BitVec 4) : Run :=
  heldRun (.qbind d a g) g 0x1F [a.toNat] false (fun _ _ _ => True)
    fun _ s sv => (s, .qbind d.toNat (sv.getD 0 0) s.cyc)

/-! ### Atomic regions -/

/-- arx in a region (R338): it is abandoned with cause 10. -/
def regionAbandoned (g : BitVec 4) : Prop :=
  ∀ (s : State) (key l : Nat) (r : Region), s.inRegion key l r → s.admits key [l] g 2 →
    exec (.arx g) s = .next ((s.begun key [l] g false).regionAbort key l 10 0)

/-- arb in a region (R332): it is abandoned with cause 11. -/
def regionNested (o : BitVec 14) (g : BitVec 4) : Prop :=
  ∀ (s : State) (key l : Nat) (r : Region), s.inRegion key l r → s.admits key [l] g 2 →
    exec (.arb o g) s = .next ((s.begun key [l] g false).regionAbort key l 11 0)

/-- The slots of a region read again where they are stale. -/
def Region.renewed (r : Region) (t : State) : Region :=
  { r with slots := r.slots.map fun x => if x.stale then { x with snap := t.lineNow x.line, stale := false } else x }

/-- are in a region (R337): its lines are taken in ascending physical address. A stale slot that is pinned stops the commit
with cause 1, a constraint that no longer has its outcome under the lines as they now stand with cause 2. Otherwise the
tagged registers are recomputed, the stores performed, and its queue pushes made (R338). That a push is made at the commit
and not before is the model's choice (log 26), and that the lines are taken in one step with it too (log 5). -/
def regionCommits (g : BitVec 4) : Prop :=
  ∀ (s t : State) (key l : Nat) (r : Region), s.inRegion key l r → s.admits key [l] g 2 →
    (s.begun key [l] g false).takeLines key l r.lines = .ok t →
    let n := if isWave key then 32 else 64
    let r1 := r.renewed t
    let holds (x : RCons) : Prop := consHolds x.op n (r1.sideValue n x.lhs) (r1.sideValue n x.rhs) = x.outcome
    (∀ x i, r.slots[i]? = some x → x.stale = true ∧ x.pinned = true →
      (∀ j < i, ∀ y, r.slots[j]? = some y → ¬ (y.stale = true ∧ y.pinned = true)) →
      exec (.are g) s = .next (t.regionAbort key l 1 i)) ∧
    ((∀ x ∈ r.slots, x.stale = true → x.pinned = false) → t.staleFault r = none →
      (∀ x i, r.cons[i]? = some x → ¬ holds x → (∀ j < i, ∀ y, r.cons[j]? = some y → holds y) →
        exec (.are g) s = .next (t.regionAbort key l 2 i)) ∧
      ((∀ x ∈ r.cons, holds x) →
        let done := ((t.recompute key l r1).performStores key l r1).modCtl key l fun c => { c with region := none }
        exec (.are g) s = .next
          (((r.pushes.foldl (fun s q => s.pushQueue (keyCtxKey key) q.1 q.2) done).yieldBuffer key).finish key [l] 0 2)))

/-! ### Inside atomic regions -/

/-- What an instruction makes of the tags of its sources, given as tag keys and values in the order they pop, at a register
width: the region after it and its result's tag (R334); none where it needs a constraint entry and sixteen are taken
(R335). -/
abbrev TagUse := Nat → Region → List (Nat × Nat) → Option (Region × Option RTag)

/-- Every slot that a source names is pinned; the result is untagged. -/
def pins : TagUse := fun _ r src =>
  some (src.foldl (fun r x => match r.tags.find x.1 with | some t => r.pin t.slot | none => r) r, none)

/-- Sums of a tagged and an untagged value, and a tagged value less an untagged one. -/
def sums : TagUse := fun n r src =>
  match src with
  | [y, x] =>
    match r.tags.find x.1, r.tags.find y.1 with
    | some t, none => some (r, some { t with c := (t.c + y.2) % 2 ^ n })
    | none, some t => some (r, some { t with c := (t.c + x.2) % 2 ^ n })
    | _, _ => pins n r [x, y]
  | _ => pins n r src
def differences : TagUse := fun n r src =>
  match src with
  | [y, x] =>
    match r.tags.find x.1, r.tags.find y.1 with
    | some t, none => some (r, some { t with c := (t.c + (2 ^ n - y.2 % 2 ^ n)) % 2 ^ n })
    | _, _ => pins n r [x, y]
  | _ => pins n r src

/-- A constant added to a tagged value, and a tagged value moved. -/
def plus (k : Nat) : TagUse := fun n r src =>
  match src with
  | [x] => some (r, (r.tags.find x.1).map fun t => { t with c := (t.c + k) % 2 ^ n })
  | _ => pins n r src
def moves : TagUse := fun n r src =>
  match src with
  | [x] => some (r, r.tags.find x.1)
  | _ => pins n r src

/-- A constraint entry recorded, where one is free (R335). -/
def Region.records (r : Region) (x : RCons) : Option (Region × Option RTag) :=
  if 16 ≤ r.cons.length then none else some ({ r with cons := r.cons ++ [x] }, none)

/-- A comparison with a tagged side, and a test of a tagged value against 0. -/
def compares (op : Nat) : TagUse := fun n r src =>
  let side (x : Nat × Nat) : RSide :=
    match r.tags.find x.1 with | some t => { tag := some t, k := 0 } | none => { tag := none, k := x.2 }
  match src with
  | [y, x] =>
    if r.tags.find x.1 = none ∧ r.tags.find y.1 = none then some (r, none)
    else r.records { op := op, lhs := side x, rhs := side y, outcome := consHolds op n x.2 y.2 }
  | _ => pins n r src
def testsZero : TagUse := fun n r src =>
  match src with
  | [x] =>
    match r.tags.find x.1 with
    | none => some (r, none)
    | some t => r.records { op := if x.2 = 0 then 0 else 1, lhs := { tag := some t, k := 0 }, rhs := { tag := none, k := 0 }
                            outcome := true }
  | _ => pins n r src

/-- The table of R334: = is 0, ≠ 1, signed < 2 and unsigned < 3. -/
def tagUse : Instr → TagUse
  | .add .. | .addShort .. | .addLane .. | .addLaneShort .. => sums
  | .sub .. | .subShort .. | .subLane .. | .subLaneShort .. => differences
  | .addi _ _ im _ | .addiShort _ im => plus (im.signExtend 64).toNat
  | .addiLane _ _ im _ => plus (im.signExtend 32).toNat
  | .mv .. | .mov .. | .movShort .. => moves
  | .seq .. | .cmpEq .. => compares 0
  | .cmpNe .. => compares 1
  | .slt .. | .cmpLt .. => compares 2
  | .sltu .. | .cmpLtu .. => compares 3
  | .bz .. | .bnz .. => testsZero
  | _ => pins

/-- A region with undo entries for the first writes of registers, which hold their old values and whether they were poisoned:
none at a seventeenth (R335, R371). Files 0, 1 and 2 are the scalars, the lanes and the predicates. -/
def Region.logs (s : State) (key l : Nat) (ds : List (Nat × Nat)) (r : Region) : Option Region :=
  ds.foldl (fun acc d => acc.bind fun r =>
    if r.undo.any fun u => u.file = d.1 ∧ u.reg = d.2 then some r
    else if 16 ≤ r.undo.length then none
    else some { r with undo := r.undo ++
      [{ file := d.1, reg := d.2, old := s.undoValue key l d, poison := s.undoPoison key l d }] }) (some r)

/-- An instruction inside a region gives it up (R338): before it has executed, and a wave's issue counts. -/
def State.givesUp (s : State) (key l cause detail : Nat) : State :=
  if isWave key then (s.regionAbort key l cause detail).countIssue key 0 false else s.regionAbort key 0 cause detail

/-- An instruction that a region permits (R333 to R335): it gives the region up where it wants an undo entry (cause 6) or a
constraint entry (cause 4); else it has its usual effect, the region holding the undo entries, the queue entries it popped,
what it makes of the tags, and its result's tag. A queue destination pins the slot of a tagged result, and its entry is held
back until the commit (the model's choice, log 26). -/
def Run.within (w : Run) (preds : List Nat) : Prop :=
  ∀ (s : State) (key l : Nat) (r : Region), s.inRegion key l r → s.admits key [l] w.g w.half → w.allowed s key [l] →
    s.operandsReady key [l] w.ssrc w.sdst w.lsrc w.ldst → (∀ d ∈ w.sdst, d < 32 ∨ isQueue key d = true) →
    let q := s.reads key [l] w.g w.lane w.ssrc w.lsrc
    let is : Iss := { key := key, threads := [l], lanes := issueLanes key [l] }
    let src := if isWave key then w.lsrc.zipIdx.map fun x => (64 + x.1, ((q.2.2.getD x.2 []).getD l 0).toNat)
      else w.ssrc.zipIdx.map fun x => (x.1, (q.2.1.getD x.2 0).toNat)
    let written := if isWave key then (w.ldst.filter (· ≤ 0x37)).map (fun d => (1, d)) ++ (preds.filter (· ≠ 0)).map fun p => (2, p)
      else (w.sdst.filter (· < 32)).map fun d => (0, d)
    w.ready is q.1 q.2.1 q.2.2 →
    match r.logs s key l written with
    | none => exec w.instr s = .next (s.givesUp key l 6 0)
    | some r1 =>
      match tagUse w.instr (if isWave key then 32 else 64) r1 src with
      | none => exec w.instr s = .next (s.givesUp key l 4 0)
      | some (r2, t) =>
        let r3 := if isWave key then w.ldst.foldl (fun r d => r.setLaneTag d t) r2
          else w.sdst.foldl (fun r d => if d < 32 then r.setTag d t else match t with | some x => r.pin x.slot | none => r) r2
        let r4 := if isWave key then r3 else { r3 with taken := r3.taken ++ popEntries key w.ssrc q.2.1 }
        let u := q.1.modCtl key l fun c => { c with region := some r4 }
        let js := w.jumps is u q.2.1 q.2.2
        let ends (e : State) : State :=
          (if w.turns && isWave key then e.backwards key js (s.ctlAt key l).pc else e).concluded key [l] [] fun l c =>
            moveOn w.half js l c
        ((∀ d ∈ w.sdst, isQueue key d = false) → exec w.instr s = .next (ends (w.effect is u q.2.1 q.2.2))) ∧
        ∀ d v, w.sdst = [d] → isQueue key d = true →
          ((w.effect is u q.2.1 q.2.2).queue (keyCtxKey key) (d - 32)).getLast? = some v →
          exec w.instr s = .next (ends (q.1.modCtl key l fun c =>
            { c with region := some { r4 with pushes := r4.pushes ++ [(d - 32, v)] } }))

/-- A word that a region does not permit gives it up with cause 7 and its MAJ (R333). -/
def Run.barred (w : Run) : Prop :=
  ∀ (s : State) (key l : Nat) (r : Region), s.inRegion key l r → s.admits key [l] w.g w.half → w.allowed s key [l] → w.half = 2 →
    exec w.instr s = .next (s.givesUp key l 7 ((encodeWord w.instr).toNat / 4 % 64))

/-- A region load of n bytes from normal cached memory (R334): the slot that holds the line, or a new one that captures it as the
load reads it; the value with the region's own stores over it; and its tag, that of the one store entry that matches
exactly, or none where entries overlap otherwise, whose slots are pinned. -/
def State.regionReads (s : State) (key l : Nat) (r : Region) (va n : Nat) (u : State) (r' : Region) (v : Nat) (t : Option RTag) :
    Prop :=
  ∃ w pa grain part i r1,
    inAperture va = false ∧ s.locate key l .read va n = .ok (w, .phys pa 0 grain part) ∧
    w.placePoisoned (.phys pa 0 grain part) n = false ∧
    ((r.slots.findIdx? (fun x => x.line = pa / 256) = some i ∧ r1 = r ∧ u = w) ∨
      ((∀ x ∈ r.slots, x.line ≠ pa / 256) ∧ r.slots.length < 8 ∧ i = r.slots.length ∧
        r1 = { r with slots := r.slots ++ [{ va := va / 256 * 256, line := pa / 256, snap := w.lineNow (pa / 256)
                                             stale := false, pinned := false }] } ∧
        u = w.lineRead key l (.phys pa 0 grain part))) ∧
    v = leNat ((List.range n).map fun k => r1.byteOver i (pa + k)) ∧
    let met := r1.stores.filter fun e => e.addr < pa + n ∧ pa < e.addr + e.size
    match met.getLast? with
    | none => r' = r1 ∧ t = some { slot := i, off := pa % 256, size := n, c := 0 }
    | some e =>
      if e.addr = pa ∧ e.size = n then r' = r1 ∧ t = e.tag
      else r' = (met.filterMap fun e => e.tag.map (·.slot)).foldl (fun r k => r.pin k) r1 ∧ t = none

/-- A region store of n bytes to normal cached memory (R334, R335): held in a store entry with its data and the data's tag. -/
def State.regionWrites (s : State) (key l : Nat) (r : Region) (va n v : Nat) (t : Option RTag) (u : State) (r' : Region) : Prop :=
  ∃ pa grain part, inAperture va = false ∧ s.locate key l .write va n = .ok (u, .phys pa 0 grain part) ∧ r.stores.length < 16 ∧
    r' = { r with stores := r.stores ++ [{ va := va, addr := pa, size := n, data := v % 256 ^ n, tag := t }] }

/-- What gives a region up at a load or store of n bytes: the aperture or memory that is not normal cached (cause 12), a ninth
line (cause 3; its DETAIL 8 is the model's choice, log 26), a seventeenth store (cause 5) (R333 to R335). -/
def State.regionRefuses (s : State) (key l : Nat) (r : Region) (write : Bool) (va n cause detail : Nat) : Prop :=
  let at_ (u : State) (p : Place) : Prop :=
    inAperture va = false ∧ s.locate key l (if write then .write else .read) va n = .ok (u, p)
  (cause = 12 ∧ detail = 0 ∧ (inAperture va = true ∨ ∃ u pa mtype grain part, at_ u (.phys pa mtype grain part) ∧ mtype ≠ 0)) ∨
  (write = false ∧ cause = 3 ∧ detail = 8 ∧ ∃ u pa grain part, at_ u (.phys pa 0 grain part) ∧
    u.placePoisoned (.phys pa 0 grain part) n = false ∧ (∀ x ∈ r.slots, x.line ≠ pa / 256) ∧ 8 ≤ r.slots.length) ∨
  (write = true ∧ cause = 5 ∧ detail = 0 ∧ 16 ≤ r.stores.length ∧ ∃ u pa grain part, at_ u (.phys pa 0 grain part))

/-- lds and sts on the control engine and ldg and stg of one thread, inside a region, at an aligned address: `addr` are their
address registers as tag keys, whose slots a tagged address pins; the data is symbolic where the address is untagged. -/
def accessInside (i : Instr) (g : BitVec 4) (wave : Bool) (ssrc lsrc addr : List Nat) (d n : Nat) (write : Bool)
    (va data : List DWord → List (List Word) → Nat → Nat) : Prop :=
  ∀ (s : State) (key l : Nat) (r r1 : Region), isWave key = wave → s.inRegion key l r → s.admits key [l] g 2 →
    s.operandsReady key [l] ssrc (if write || wave then [] else [d]) lsrc (if write || !wave then [] else [d]) →
    (wave = false → d < 32 ∧ ∀ x ∈ ssrc, x < 32) → (wave = true → d ≤ 0x37) → s.readoutsOut key = 0 →
    let q := s.reads key [l] g wave ssrc lsrc
    let a := va q.2.1 q.2.2 l
    let k := if wave then 64 + d else d
    r.logs s key l (if write then [] else [(if wave then 1 else 0, d)]) = some r1 → a % n = 0 →
    let tagged : Prop := ∃ x ∈ addr, r1.tags.find x ≠ none
    let r2 : Region := addr.foldl (fun r x => match r.tags.find x with | some t => r.pin t.slot | none => r) r1
    let base (r : Region) : State := q.1.modCtl key l fun c => { c with region := some r }
    (∀ u r' v t, write = false → (base r2).regionReads key l r2 a n u r' v t →
      let x := u.modCtl key l fun c => { c with region := some (if wave then r'.setLaneTag d t else r'.setTag d t) }
      exec i s = .next ((if wave then x.giveLanes key d [(l, BitVec.ofNat 32 v)] else x.sset key d (BitVec.ofNat 64 v)).finish
        key [l] 0 2)) ∧
    (∀ u r3 t, write = true →
      (tagged → t = none ∧ r3 = match r2.tags.find k with | some y => r2.pin y.slot | none => r2) →
      (¬ tagged → t = r2.tags.find k ∧ r3 = r2) →
      ∀ r', (base r2).regionWrites key l r3 a n (data q.2.1 q.2.2 l) t u r' →
        exec i s = .next ((u.modCtl key l fun c => { c with region := some r' }).finish key [l] 0 2)) ∧
    ∀ cause detail, (base r2).regionRefuses key l r2 write a n cause detail →
      exec i s = .next ((q.1.modCtl key l fun c => { c with region := some r1 }).regionAbort key l cause detail)

/-- A write to a line by another agent makes every slot that holds it stale, and under grain 1024 every slot of the unit
(R336). -/
def writesMakeStale : Prop :=
  ∀ (s : State) (key l w pa grain part : Nat) (mtype : Nat) (bs : List Byte) (r : Region),
    (s.ctlAt key l).region = some r → w ≠ ctlKey key l →
    let span := if grain = 2 then 1024 else 256
    ∃ r', ((s.placeStore (some w) (.phys pa mtype grain part) bs).ctlAt key l).region = some r' ∧
      r'.slots = r.slots.map fun x => if x.line * 256 / span = pa / span then { x with stale := true } else x

/-- arb of threads of a wave with no region open while four other waves hold the partition's buffers: cause 13 (R332, R338). -/
def regionWanting (o : BitVec 14) (g : BitVec 4) : Prop :=
  ∀ (s : State) (key : Nat) (set : List Nat), isWave key = true → s.issuing key set → s.admits key set g 2 →
    let held := s.regionBufs.get [] (4 * (keyCore key - 64) + keySlot key / 12)
    key ∉ held → 4 ≤ held.length →
    exec (.arb o g) s = .next (set.foldl (fun t l => t.modCtl key l fun c =>
      let fallback := c.pc + BitVec.ofInt 64 (2 * o.toInt)
      { c with arcause := 13, pc := fallback, hdr := fallback, passes := 0, atHeader := true, loopBuf := [], amod := none })
      (s.begun key set g false))

/-- What instructions do inside an open region (R333 to R336, R338). -/
def insideRegions (d a b im : BitVec 6) (k : BitVec 14) (k5 : BitVec 5) (p pa pb : BitVec 3) (f : BitVec 2) (g d4 a4 : BitVec 4)
    (t : BitVec 1) (z : BitVec 2) : Prop :=
  (∀ w ∈ scalarTable d a b g ++ scalarImmediates d a im k g ++ scalarUnary d a g ++ scalarShorts d4 a im ++
      laneTable d a b im k5 g ++ laneShorts d4 a4 t, w.within []) ∧
  (∀ w ∈ predicates p pa pb a b g, w.within [p.toNat]) ∧
  (∀ w ∈ [branch (.br k g) g 0x3F [] k fun _ _ _ _ => true,
      branch (.bz a k g) g 0x3F [a.toNat] k (fun _ _ _ v => v = 0),
      branch (.bnz a k g) g 0x3F [a.toNat] k fun _ _ _ v => v ≠ 0], w.within []) ∧
  (∀ w ∈ floatTable d a b f g d4 a4 t ++ floatUnary d a f g d4 a4 ++ scalarAtomics d a b g ++ laneAtomics d a b g ++
      specialWrites a g ++ flags a b g, w.barred) ∧
  accessInside (.lds d a im z g) g false [a.toNat] [] [a.toNat] d.toNat (2 ^ z.toNat) false
    (fun sv _ _ => scalarAt im (2 ^ z.toNat) (sv.getD 0 0)) (fun _ _ _ => 0) ∧
  accessInside (.sts d a im z g) g false [a.toNat, d.toNat] [] [a.toNat] d.toNat (2 ^ z.toNat) true
    (fun sv _ _ => scalarAt im (2 ^ z.toNat) (sv.getD 0 0)) (fun sv _ _ => (sv.getD 1 0).toNat % 256 ^ 2 ^ z.toNat) ∧
  accessInside (.ldg d a b g) g true [] [b.toNat, a.toNat] [64 + a.toNat, 64 + b.toNat] d.toNat 4 false gathered (fun _ _ _ => 0) ∧
  accessInside (.stg d a b g) g true [] [b.toNat, a.toNat, d.toNat] [64 + a.toNat, 64 + b.toNat] d.toNat 4 true gathered
    (fun _ lv l => (lval lv 2 l).toNat)

/-! ### Events of streams -/

/-- An event: when it is due, and what it then does. -/
structure Happening where
  instr : Instr
  due : State → Prop := fun _ => True
  effect : State → State

/-- An event that is due has its effect. -/
def Happening.occurs (e : Happening) : Prop := ∀ s, e.due s → exec e.instr s = .next (e.effect s)

/-- An instruction that was held back retires: it makes its pushes and moves on (R78). -/
def State.retired (s : State) (key : Nat) : State := (s.modCtl key 0 fun c => { c with late := none }).completeLate key 0

/-- A qbind takes effect in a later tile cycle than its issue, no lower engine of the context having one on its way to the
queue (R85): a good binding word, an empty queue, and no stream stalled on it. -/
def bindingArrives (core ctx eng q start : Nat) (w : DWord) : Happening :=
  let key := streamKey core ctx eng
  { instr := .qbindTakesEffect core ctx eng
    due := fun s =>
      let p := w.toNat % 16
      let c := w.toNat / 16 % 16
      core < 64 ∧ ctx < 4 ∧ eng < 5 ∧ (s.ctlAt key 0).late = some (.qbind q w start) ∧ start < s.cyc ∧
      (∀ e < eng, ∀ v u, (s.ctlAt (streamKey core ctx e) 0).late ≠ some (.qbind q v u)) ∧ w.toNat < 256 ∧
      ((p = 0 ∧ c = 0) ∨ (1 ≤ p ∧ p ≤ 5 ∧ 1 ≤ c ∧ c ≤ 5 ∧ p ≠ c)) ∧ s.queue (ctxKey core ctx) q = [] ∧
      s.stalledOn core ctx q = false
    effect := fun s =>
      let t := s.modCtl key 0 fun c => { c with late := none }
      { t with qbinds := t.qbinds.set 0 (16 * ctxKey core ctx + q) w.toNat }.completeLate key 0 }

/-- What array, macro and port instructions do as they retire (R235, R251, R254, R263). -/
def retirements (core ctx eng : Nat) (writes : List (Nat × BitVec 64)) (sums : List (Nat × BitVec 32))
    (bytes : List (Nat × Byte)) (tags : List (Nat × Nat)) (out : Option (List (Nat × Byte))) (fl rows n : Nat) (zero : Bool)
    (p : Option Port) (image : List Nat) : List Happening :=
  let key := streamKey core ctx eng
  let me := streamKey core ctx 2
  let flags (s : State) (k : Nat) : State := s.orFlags k 0 (BitVec.ofNat 7 fl)
  let held (k : Nat) (l : Late) (s : State) : Prop := (s.ctlAt k 0).late = some l
  [ { instr := .rportRetirement core ctx eng, due := held key (.port n p)
      effect := fun s => (s.modSlot (s.jobOf key 0) fun x =>
        { x with ports := match p with | some q => x.ports.put n q | none => x.ports.del n }).retired key },
    { instr := .rportRetirement core ctx eng, due := held key (.keyway image)
      effect := fun s => (s.modSlot (s.jobOf key 0) fun x =>
        { x with keyway := (image.zipIdx.filter fun e => e.1 ≠ 0).map fun e => (e.2, e.1) }).retired key },
    { instr := .accumulatorRetirement core ctx, due := held me (.array writes fl none)
      effect := fun s => (flags (writes.foldl (fun s w =>
        { s with acc := s.acc.set 0 w.1 w.2, poisonAcc := s.poisonAcc.del w.1 }) s) me).retired me },
    { instr := .accumulatorRetirement core ctx, due := fun s => out.isSome = true ∧ held me (.array writes fl out) s
      effect := fun s =>
        let t := flags (writes.foldl (fun s w => { s with acc := s.acc.set 0 w.1 w.2, poisonAcc := s.poisonAcc.del w.1 }) s) me
        ((t.launch (.readout { key := me, job := t.jobOf me 0, bytes := out.getD [], g := (t.ctlAt me 0).waitG })).modCtl me 0
          fun c => { c with waitG := 0 }).retired me },
    { instr := .wloadRetirement core ctx, due := held me (.wload bytes tags fl)
      effect := fun s =>
        let t := bytes.foldl (fun s b => { s with pages := s.pages.set 0 b.1 b.2 }) s
        (flags (tags.foldl (fun s e =>
          { s with pageTags := s.pageTags.set 0 e.1 e.2, poisonPage := s.poisonPage.del e.1 }) t) me).retired me },
    { instr := .columnAccumulatorRetirement core ctx, due := held me (.tma sums zero rows fl)
      effect := fun s => (flags ((sums.foldl (fun s w =>
        { s with colAcc := s.colAcc.set 0 w.1 w.2, poisonCa := s.poisonCa.del w.1 }) s).claimColumns me zero rows) me).retired
          me } ]

/-- A readout's bytes are performed, and its tokens pushed (R81, R237). -/
def readoutEnds (id : Nat) (r : Readout) : Happening :=
  { instr := .readoutCompletion id, due := fun s => s.flights.find id = some (.readout r)
    effect := fun s =>
      let t := r.bytes.foldl (fun s b => s.locWriteRaw b.1 [b.2]) (s.land id)
      let keys := r.bytes.map fun b => b.1
      { t with poisonLoc := t.poisonLoc.filter fun e => !(List.range 8).all fun i => keys.contains (8 * e.1 + i) }.pushCompletion r.job r.key r.g }

/-- A stream or thread stands where it may be interrupted: at a wait that raises no fault of its own, which would come first
(R377), or stalled. -/
def State.stands (s : State) (key l : Nat) : Prop :=
  match (s.ctlAt key l).waiting with
  | some w => ∀ t f, s.waitState key l w false ≠ .fault t f
  | none => (s.ctlAt key l).stall ≠ []

/-- The events of a stream that stands: a stamp's time, the end of a stall, pushes that may be made, the end of a hold and its
overrun, also at a stall for retirement (R80, R81, R95, R101, R212). A stream that would issue takes its engine's turn next, where
a fault of its instruction would come first (R377, log 1). -/
def standing (core ctx eng : Nat) (e : DWord) : List Happening :=
  let key := streamKey core ctx eng
  let me := streamKey core ctx 2
  let here (s : State) : Prop := (s.ctlAt key 0).frozenAt = none ∧ (s.ctlAt key 0).stopAt = none ∧ (s.ctlAt key 0).resumed = false
  let overrun (s : State) : State :=
    (s.modCtl key 0 fun c => { c with holdOver := none }).interrupt key 0 0x30 1 e 0 (s.ctlAt key 0).pc
  [ { instr := .stampedIssue core ctx
      due := fun s => (s.ctlAt me 0).armed = some e ∧ .stamp e.toNat ∈ (s.ctlAt me 0).stall ∧ e.toNat ≤ s.cyc
      effect := fun s => { s with agenda := { cyc := 0, ns := 0, turn := .tile core 2 } :: s.agenda } },
    { instr := .stallRelease core ctx eng
      due := fun s => here s ∧ (s.ctlAt key 0).retire = none ∧ (s.ctlAt key 0).stall ≠ [] ∧
        (∀ n ∈ (s.ctlAt key 0).stall, s.needMet key n = true) ∧
        ∀ d ∈ (s.ctlAt key 0).owed.deferred, d.due (s.ctlAt key 0).handling true = false
      effect := fun s => s.modCtl key 0 fun c => { c with stall := [] } },
    { instr := .stallRelease core ctx eng
      due := fun s => here s ∧ (s.ctlAt key 0).retire.isSome = true
      effect := fun s => s.settle key },
    { instr := .pendingPushDrain core ctx eng
      due := fun s => (s.ctlAt key 0).frozenAt = none ∧ (s.ctlAt key 0).stopAt = none
      effect := fun s => s.drainPending key },
    { instr := .holdRegionExpiry core ctx eng
      due := fun s => (s.ctlAt key 0).holdEnd = some e ∧ e.toNat ≤ s.cyc ∧ (s.ctlAt key 0).frozenAt = none
      effect := fun s => s.modCtl key 0 fun c => { c with holdEnd := none, holdOver := some e } },
    { instr := .holdOverrun core ctx eng
      due := fun s => s.atBoundary key 0 = true ∧ s.stands key 0 ∧ (s.ctlAt key 0).holdOver = some e
      effect := overrun },
    { instr := .holdOverrun core ctx eng
      due := fun s => s.running key 0 = true ∧ (s.ctlAt key 0).holdOver = some e ∧ (s.ctlAt key 0).late = none ∧
        ∃ r, (s.ctlAt key 0).retire = some r ∧ r.trap = none
      effect := overrun },
    { instr := .holdOverrun core ctx eng
      due := fun s => s.atBoundary key 0 = true ∧ (s.ctlAt key 0).waiting = none ∧ (s.ctlAt key 0).stall = [] ∧
        (s.ctlAt key 0).holdOver = some e
      effect := fun s => { s with agenda := { cyc := 0, ns := 0, turn := .tile core eng } :: s.agenda } } ]

/-- The asynchronous exceptions and deferred faults (R95, R130, R212, R272, R367, R377): taken by one that stands at a boundary
where nothing before them in R377's order is due, outside handlers and hold regions. The address of a deferred fault that keeps
none is the program counter's (log 29). -/
def exceptions (who : Agent) (core ctx eng n : Nat) (e : DWord) (d : Deferred) : List Happening :=
  let a := agentKey who
  let key := streamKey core ctx eng
  let quiet (s : State) (key l : Nat) : Prop :=
    s.atBoundary key l = true ∧ s.stands key l ∧ s.trapDue key l = false ∧ (s.ctlAt key l).handling = false ∧
    (s.ctlAt key l).holdEnd = none
  let take (s : State) (key l cause : Nat) (info : DWord) (f : Owed → Owed) : State :=
    (s.modCtl key l fun c => { c with owed := f c.owed }).interrupt key l cause 2 info 0 (s.ctlAt key l).pc
  [ { instr := .deadlineMissException who
      due := fun s => quiet s a.1 a.2 ∧ (s.ctlAt a.1 a.2).owed.miss = some e
      effect := fun s => take s a.1 a.2 0x31 e fun o => { o with miss := none } },
    { instr := .budgetOverrunException who
      due := fun s => quiet s a.1 a.2 ∧ (s.ctlAt a.1 a.2).owed.miss = none ∧ (s.ctlAt a.1 a.2).owed.overrun = some e
      effect := fun s => take s a.1 a.2 0x32 e fun o => { o with overrun := none } },
    { instr := .routeTimeoutNotification core ctx eng
      due := fun s => quiet s key 0 ∧ (s.ctlAt key 0).owed.miss = none ∧ (s.ctlAt key 0).owed.overrun = none ∧
        (s.ctlAt key 0).owed.routeTo.head? = some n
      effect := fun s => take s key 0 0x33 (BitVec.ofNat 64 n) fun o => { o with routeTo := o.routeTo.drop 1 } },
    { instr := .deferredFaultDelivery core ctx eng
      due := fun s => s.running key 0 = true ∧ s.stands key 0 ∧
        (s.ctlAt key 0).owed.deferred.find? (fun d => d.due (s.ctlAt key 0).handling true) = some d
      effect := fun s =>
        let t := s.modCtl key 0 fun c =>
          { c with owed := { c.owed with deferred := (s.ctlAt key 0).owed.deferred.erase d } }
        let u := if d.cause = 0x12 then t.copyFaultTaken key d.ord else t
        u.interrupt key 0 d.cause d.cls d.info 0 (d.iaddr.getD (s.ctlAt key 0).pc) } ]

/-- The ends of waits (R92, R94, R348), of one that is owed no interruption, which would come first (R377). -/
def waitEnds (who : Agent) (w : Wait) (t : State) (addr size start : Nat) (v : DWord) : List Happening :=
  let k := (agentKey who).1
  let l := (agentKey who).2
  let ends (t : State) : State := ((t.endWait k l false).completeLate k l).modCtl k l fun c => { c with sw := 0 }
  let lost (s : State) : State := s.modCtl k l fun c => { c with waitLost := true }
  let watch : Wait := .waitl addr size v.toNat start
  [ { instr := .blockingWaitEnd who
      due := fun s => s.running k l = true ∧ (s.ctlAt k l).waiting = some w ∧ w ≠ .rdv ∧
        s.waitState k l w false = .go t ∧ s.takeOwed k l = none
      effect := fun _ => ends t },
    { instr := .blockingWaitEnd who
      due := fun s => s.running k l = true ∧ (s.ctlAt k l).waiting = some .rdv ∧ s.rdvReady k = true ∧
        s.takeOwed k l = none
      effect := fun s => s.rdvArrive k },
    { instr := .waitlTimeout who
      due := fun s => s.running k l = true ∧ (s.ctlAt k l).waiting = some watch ∧ start + 1500000 ≤ s.cyc ∧ s.takeOwed k l = none
      effect := ends },
    { instr := .waitlWatchLost who
      due := fun s => s.running k l = true ∧ (s.ctlAt k l).waiting = some watch ∧ (lost s).takeOwed k l = none
      effect := fun s => ends (lost s) } ]

/-! ### Events of what streams have sent -/

/-- No earlier flight of a kind that meets a test is under way. -/
def State.noneBefore (s : State) (id : Nat) (p : Flight → Bool) : Prop := ∀ e ∈ s.flights, e.1 < id → p e.2 = false

/-- Flags, copies, deliveries and returns, in the order in which they arrive (R188, R196, R197, R204, R210, R211, R267 to R269, R341). -/
def arrivals (id : Nat) (u : FlagUpd) (c : Cmd) (d : Delivery) (p : Push) (r : Ret) (reason faddr : Nat) : List Happening :=
  let sameFlag (f : Flight) : Bool := match f with | .flag v => v.key == u.key && v.job == u.job | _ => false
  let sameRing (f : Flight) : Bool := match f with
    | .delivery x => !x.arrived && x.key == d.key && x.job == d.job && x.core == d.core && x.ring == d.ring
    | _ => false
  let moved (s : State) := s.copyRun c (c.count - c.pos)
  let accepted (s : State) : Prop :=
    s.ringAccepts d.core d.ring d.gen (keyCore d.key) (cardPart (s.slotAt d.job).card) d.head.length = true
  let late (s : State) : Prop := match d.source with
    | .route core n _ _ _ => (s.rteAt core n).state = 1 ∧ (s.rteAt core n).deadline ≤ s.ns
    | .push _ _ => False
  [ { instr := .flagUpdate id, due := fun s => s.flights.find id = some (.flag u) ∧ s.noneBefore id sameFlag
      effect := fun s => (s.land id).modSlot u.job fun x =>
        { x with flags := x.flags.set 0 u.flag (if u.add then x.flags.get 0 u.flag + u.value else u.value) } },
    { instr := .copyCompletion id
      due := fun s => s.flights.find id = some (.copy c) ∧ c.stop = none ∧ c.after = none ∧ (moved s).2.2 = none
      effect := fun s => ((moved s).1.setFlight id (.copy (moved s).2.1)).finishCopy id (moved s).2.1 },
    { instr := .copyElementFault id
      due := fun s => s.flights.find id = some (.copy c) ∧ c.stop = none ∧ c.after = none ∧
        (moved s).2.2 = some (reason, faddr)
      effect := fun s => (moved s).1.failCopy id (moved s).2.1 reason faddr },
    { instr := .rpushDeliveryArrival id
      due := fun s => s.flights.find id = some (.delivery d) ∧ d.arrived = false ∧ s.noneBefore id sameRing ∧ ¬ late s ∧ accepted s
      effect := fun s => { s.setFlight id (.delivery { d with arrived := true, order := s.nextId }) with nextId := s.nextId + 1 } },
    { instr := .rpushDeliveryArrival id
      due := fun s => s.flights.find id = some (.delivery d) ∧ d.arrived = false ∧ s.noneBefore id sameRing ∧ ¬ late s ∧ ¬ accepted s
      effect := fun s => s.dropDelivery id d },
    { instr := .rpushDeliveryAccept id
      due := fun s => s.flights.find id = some (.delivery d) ∧ d.arrived = true ∧
        s.arrivedBefore d.core d.ring d.order = false ∧ ¬ late s ∧
        (s.ringAt d.core d.ring).used < (s.ringAt d.core d.ring).count
      effect := fun s => ((s.land id).ringAppend d.core d.ring d.head).targetAccepted d.source },
    { instr := .rpushCompletion id
      due := fun s => s.flights.find id = some (.push p) ∧ ∀ x ∈ p.status, x ≠ 0
      effect := fun s =>
        let lost := (p.status.zipIdx.filter fun x => x.1 = 2).map fun x => x.2
        let status := 0x80000000 + lost.length * 2 ^ 16 + (lost.map fun j => 2 ^ j).sum
        let t := (((s.land id).locWrite (p.desc + 0x48) (leBytes 4 status)).pushCompletion p.job p.key p.g).noteOutstanding
          p.job p.key
        match lost with
        | [] => t
        | j :: _ => if p.fou then t.owe p.job p.key
            { ord := id, cause := 0x10, cls := 1, info := (ringFault p.key (p.ringsOf.getD j 0) 11).info, atDelivery := false
              byHandler := p.byHandler, iaddr := some p.iaddr } else t },
    { instr := .routeReturnArrival id
      due := fun s => s.flights.find id = some (.ret r) ∧ r.answered = false
      effect := fun s => (s.setFlight id (.ret { r with answered := true })).acceptReturn r.origin r.rte r.seq r.row r.choice
        r.bytes },
    { instr := .rretCompletion id
      due := fun s => s.flights.find id = some (.ret r) ∧ r.answered = true ∧ r.job = endedSlot
      effect := fun s => s.land id },
    { instr := .rretCompletion id
      due := fun s => s.flights.find id = some (.ret r) ∧ r.answered = true ∧ r.job ≠ endedSlot
      effect := fun s => ((s.land id).pushCompletion r.job r.key r.g).noteOutstanding r.job r.key } ]

/-- An element pushed to another core's ring that accepts it and has room (R194, R196), and a route's deadline (R272). -/
def elementsAndDeadlines (key : Nat) (x : BitVec 1) (r : Retire) (e : Nat × List Word) (core n : Nat) : List Happening :=
  let k := 2 + x.toNat
  [ { instr := .ringElementDelivery (2 * key + x.toNat)
      due := fun s =>
        let b := s.ringBinding key k
        let ring := s.ringAt (bits b 8 8) (bits b 0 5)
        (s.ctlAt key 0).frozenAt = none ∧
        (s.ctlAt key 0).retire = some r ∧ r.elems.find? (fun y => y.1 == k) = some e ∧ s.pushesHere key k = false ∧
        (∀ y ∈ s.retireNeeds key r, ∃ m, y = .remote m) ∧ s.pushAccepted key k (bits b 8 8) = true ∧ ring.used < ring.count ∧
        s.arrivedBefore (bits b 8 8) (bits b 0 5) (r.arrived.get s.nextId k) = false
      effect := fun s =>
        let b := s.ringBinding key k
        let ring := s.ringAt (bits b 8 8) (bits b 0 5)
        ((s.ringAppend (bits b 8 8) (bits b 0 5) (laneBytes e.2 ring.slotSize)).modCtl key 0 fun c =>
          { c with retire := some { r with elems := r.elems.erase e, arrived := r.arrived.del k } }).settle key },
    { instr := .routeDeadline core n
      due := fun s => (s.rteAt core n).state = 1 ∧ (s.rteAt core n).deadline ≤ s.ns
      effect := fun s => s.routeDeadline core n } ]

/-! ### Events of the dispatcher -/

/-- Submission, withdrawal, package time and the card queue (R97, R99, R106, R109, R111, R112, R114). -/
def dispatcherEvents (addr t v : DWord) (slot agent rate n at_ k : Nat) (ls : List Level) (u : State) : List Happening :=
  let dsp (off : Nat) : Nat := dspBase + off
  let read (a : Nat) (s : State) : State := (s.setCreg (dsp 0x80) (setBits (s.creg_ (dsp 0x80)) 1 1 0)).readCard a
  let good (a : Nat) (s : State) : Prop :=
    s.island.phase = 2 ∧ a % 128 = 0 ∧ (read a s).checkCard ((read a s).cardAt a) none = .ok (u, ls, .slot k)
  let entered (a : Nat) (s : State) : State := (u.enterSlot k ((read a s).cardAt a) ls).writeStatus a (0x01 + 256 * k)
  let scanned (s : State) : State := { s with nextScan := (s.ns / 50000 + 1) * 50000 }
  [ { instr := .dspSubmitSv addr, due := good addr.toNat, effect := entered addr.toNat },
    { instr := .dspSubmitSi addr, due := good addr.toNat, effect := entered addr.toNat },
    { instr := .dspSubmitSv addr, due := fun s => s.island.phase = 2 ∧ addr.toNat % 128 ≠ 0
      effect := fun s => s.setCreg (dsp 0x80) (setBits (s.creg_ (dsp 0x80)) 1 1 1) },
    { instr := .dspWithdraw v, due := fun s => (s.slotAt (v.toNat % 256)).state ≠ 0
      effect := fun s =>
        let w := v.toNat % 256
        let t := s.dropHeld w
        if cardVision (s.slotAt w).card then t.reclaimVision w else t.reclaimTile w },
    { instr := .dspTimeSet t, due := fun s => s.ns ≤ t.toNat ∧ ∀ e ∈ s.slots, e.2.state = 0 ∨ cardPeriod e.2.card = 0
      effect := fun s =>
        let first (p : Nat) : Nat := if t.toNat % p = 0 then t.toNat else (t.toNat / p + 1) * p
        ({ s with ns := t.toNat, nextPair := first 1000, nextScan := first 50000 }.setCreg (dsp 0x80)
          (setBits (s.creg_ (dsp 0x80)) 0 1 0)).windowsAtStep t.toNat },
    { instr := .dspTimeSet t
      due := fun s => t.toNat < s.ns ∨ ∃ e ∈ s.slots, e.2.state ≠ 0 ∧ cardPeriod e.2.card ≠ 0
      effect := fun s => s.setCreg (dsp 0x80) (setBits (s.creg_ (dsp 0x80)) 0 1 1) },
    { instr := .dspTpairNsRead agent, effect := fun s => { s with pairLatch := s.pairLatch.put agent s.pairCyc } },
    { instr := .timePairCapture, due := fun s => s.nextPair = s.ns
      effect := fun s => { s with pairNs := s.ns, pairCyc := s.cyc, nextPair := s.ns + 1000 } },
    { instr := .ptpDiscipline rate, due := fun _ => rate ≤ 400, effect := fun s => { s with rate := rate } },
    { instr := .cardQueueScan, due := fun s => s.nextScan ≤ s.ns ∧ s.island.phase = 2
      effect := fun s => (scanned s).scanQueue s.queueHeld },
    { instr := .cardQueueScan, due := fun s => s.nextScan ≤ s.ns ∧ s.island.phase ≠ 2, effect := scanned },
    { instr := .jobRelease slot
      due := fun s =>
        let x := s.slotAt slot
        x.nextRel = some (n, at_) ∧ x.state = 1 ∧ at_ ≤ s.ns ∧ (cardPeriod x.card ≠ 0 → x.skipNext = false)
      effect := fun s => s.releaseNow slot (if cardPeriod (s.slotAt slot).card = 0 then 0 else n) at_ },
    { instr := .dispatcherEvaluation, due := fun s => s.evaluations ≠ 0
      effect := fun s => { s with evaluations := 0 }.evaluate } ]

/-- Evictions, restores, workgroups, clearings and misses (R120, R122, R125, R128, R136 to R138, R148, R149, R183, R248). -/
def placementEvents (slot core ctx eng id t a b : Nat) (m : Mailbox) (u : State) : List Happening :=
  let key := streamKey core ctx eng
  let vision (s : State) : Prop := cardVision (s.slotAt slot).card = true
  let cores (s : State) : List Nat :=
    if cardVision (s.slotAt slot).card then (s.visionCores slot).map fun c => 64 + c else (s.slotAt slot).cores
  let stops (s : State) : Prop := (s.slotAt slot).stopping = true ∧ ∀ c ∈ cores s, s.coreFrozen c = false
  let sameJob (f : Flight) : Bool := match f with | .mailbox o => o.job == m.job | _ => false
  let asks (s : State) : Prop := s.flights.find id = some (.mailbox m) ∧ s.noneBefore id sameJob
  let ended (m : Mailbox) : Prop := m.group = boxEnded
  let left (s : State) : Prop := (s.slotAt m.job).nextWg < (s.slotAt m.job).gridSize
  [ { instr := .evictionSaveComplete slot, due := fun s => stops s ∧ vision s ∧ s.visionRetires slot = false
      effect := fun s => s.evictVision slot },
    { instr := .evictionSaveComplete slot
      due := fun s => stops s ∧ ¬ vision s ∧
        ((s.slotAt slot).started = false ∨ (s.slotAt slot).restoring = true ∨ s.allStopped slot = true)
      effect := fun s => s.finishEviction slot },
    { instr := .hingeFallback core ctx eng
      due := fun s =>
        let c := s.ctlAt key 0
        let x := s.slotAt c.job
        x.stopping = true ∧ x.hingeMode = true ∧ (eng = 2 ∨ eng = 3) ∧ c.life = .live ∧ c.stopAt = none ∧ c.fellBack = false ∧
        x.decided + cardHinge x.card ≤ s.ns
      effect := fun s =>
        ((s.modCtl key 0 fun c => { c with fellBack := true }).modSlot (s.ctlAt key 0).job fun x =>
          { x with fallbacks := x.fallbacks + 1 }).orderStream key false },
    { instr := .jobRestore slot
      due := fun s => vision s ∧ (s.slotAt slot).savedGroups ≠ [] ∧ s.nextDistributed = some slot ∧ s.distribute slot = some u
      effect := fun _ => u },
    { instr := .jobRestore slot
      due := fun s => ¬ vision s ∧ (s.slotAt slot).restoring = true ∧ (s.slotAt slot).stopping = false
      effect := fun s => (s.restoreTile slot).orderPreempt slot },
    { instr := .workgroupPlacement slot
      due := fun s => (s.slotAt slot).savedGroups = [] ∧ s.nextDistributed = some slot ∧ s.distribute slot = some u
      effect := fun _ => u },
    { instr := .kernelClassification slot
      due := fun s => (s.slotAt slot).firstIssue = some t ∧ (s.slotAt slot).cls = 0 ∧ t + 64000 ≤ s.ns
      effect := fun s =>
        let x := s.slotAt slot
        s.setSlot slot { x with cls := if 128 ≤ x.laneOps / (if x.sectors = 0 then 1 else x.sectors) then 1 else 2 } },
    { instr := .fetchwgAnswer id, due := fun s => asks s ∧ m.group < boxEvicted ∧ left s
      effect := fun s =>
        let x := s.slotAt m.job
        let n := x.nextWg
        ((s.land id).answerBox m (some (n % x.gridX, n / x.gridX % x.gridY, n / (x.gridX * x.gridY)))).withdrawGroup m.job },
    { instr := .fetchwgAnswer id, due := fun s => asks s ∧ m.group < boxEvicted ∧ ¬ left s
      effect := fun s => (s.land id).answerBox m none },
    { instr := .fetchwgAnswer id, due := fun s => asks s ∧ ended m ∧ left s
      effect := fun s => (s.land id).withdrawGroup m.job },
    { instr := .fetchwgAnswer id, due := fun s => asks s ∧ ended m ∧ ¬ left s, effect := fun s => s.land id },
    { instr := .deadlineMiss slot
      due := fun s => 2 ≤ (s.slotAt slot).state ∧ (s.slotAt slot).deadline ≤ s.ns ∧ (s.slotAt slot).missed = false
      effect := fun s =>
        ((((s.ringRecord (dspBase + 0x50) 64 (cardPart (s.slotAt slot).card) fun _ => s.missRecord slot).sendMsi).modSlot slot fun y =>
          { y with missed := true }).applyMiss slot) },
    { instr := .regionClearDone id, due := fun s => s.flights.find id = some (.clearRegion core a b)
      effect := fun s =>
        let lo := locKey core (4096 * a)
        { s.land id with
          loc := s.loc.dropRange lo (4096 * b)
          poisonLoc := s.poisonLoc.dropRange (lo / 8) (512 * b)
          evaluations := s.evaluations + 1 } },
    { instr := .pageClearDone id, due := fun s => s.flights.find id = some (.clearPage core a)
      effect := fun s =>
        let mine (k : Nat) : Bool := k / 256 == core && k % 8 == a
        { s.land id with
          pages := s.pages.filter fun e => !mine (e.1 / 4096)
          pageTags := s.pageTags.filter fun e => !mine e.1
          poisonPage := s.poisonPage.filter fun e => !mine e.1
          evaluations := s.evaluations + 1 } } ]

/-! ### Registers, translation, the regulators, errors, the supervisor -/

/-- Register writes (R382), invalidations (R359, R360), escalation commands and freezes (R381), and windows (R363, R366). -/
def registerEvents (addr v : DWord) (core part unit id kind va : Nat) (q : SectorReq) (store : Store) : List Happening :=
  let cmd (k : Nat) (i : Instr) : Happening :=
    { instr := i, due := fun s => v.toNat / 256 % 4 = k ∧ s.invalidating = none
      effect := fun s =>
        { s.setCreg (xltBase + 0x210) (setBits (s.creg_ (xltBase + 0x210)) 0 1 1) with
          invalidating := some (k, v.toNat % 64, (s.creg_ (xltBase + 0x200)).toNat) } }
  let busy (k : Nat) (i : Instr) : Happening :=
    { instr := i, due := fun s => v.toNat / 256 % 4 = k ∧ s.invalidating ≠ none
      effect := fun s => s.setCreg (xltBase + 0x210) (setBits (s.creg_ (xltBase + 0x210)) 1 1 1) }
  let frozen (s : State) : State :=
    ([0, 1, 2, 3].map fun ctx => streamKey core ctx 2).foldl (fun t k => t.finishReadouts k) (s.freezeCore core)
  let asked (s : State) : Prop := s.flights.find id = some (.sector q)
  let slice := epSlice (homeSlice q.pa)
  let controller := epController (controllerOf q.pa)
  let stopped (s : State) (core : Nat) : Prop :=
    ∀ a ∈ s.coreAgents core, (s.ctlAt a.1 a.2).frozenAt.isSome = true ∨ (s.ctlAt a.1 a.2).stopAt.isSome = true
  [ { instr := .registerWrite addr v, due := fun s => addr.toNat / 2 ^ 46 = s.pkg
      effect := fun s => s.writeRegister (addr.toNat % 2 ^ 46) v },
    cmd 0 (.xltInvPage v), cmd 1 (.xltInvPartition v), cmd 2 (.xltInvAll v),
    busy 0 (.xltInvPage v), busy 1 (.xltInvPartition v), busy 2 (.xltInvAll v),
    { instr := .xltInvDone, due := fun s => s.invalidating = some (kind, part, va) ∧ s.regionsUse kind part va = false
      effect := fun s =>
        { s with
          invalidating := none
          tlbs := s.tlbs.map fun (t : Nat × List TlbEnt) => (t.1, t.2.filter fun e =>
            !(kind == 2 || (e.part == part && (kind == 1 || e.serves part va)))) }.setCreg (xltBase + 0x210)
          (setBits (s.creg_ (xltBase + 0x210)) 0 1 0) },
    { instr := .xltInvDone, due := fun s => s.invalidating = some (kind, part, va) ∧ s.regionsUse kind part va = true
      effect := fun s => s },
    { instr := .escCmdResume v, due := fun s => v.toNat / 2 ^ 30 % 4 = 0 ∧ (s.escalated v).isSome = true
      effect := fun s => match s.escalated v with | some a => s.resumeEscalated a.1 a.2 | none => s },
    { instr := .escCmdEnd v, due := fun s => v.toNat / 2 ^ 30 % 4 = 1 ∧ (s.escalated v).isSome = true
      effect := fun s => match s.escalated v with | some a => s.endEscalated a.1 a.2 | none => s },
    { instr := .escFreezeTile v, effect := fun s => s.setFreeze (escBase + 0x28) (escBase + 0x38) 0 64 v },
    { instr := .escFreezeVis v, effect := fun s => s.setFreeze (escBase + 0x30) (escBase + 0x40) 64 24 v },
    { instr := .freezeComplete core
      due := fun s => core < 64 ∧ bit (s.creg_ (escBase + 0x28)) core = true ∧ s.coreFrozen core = false ∧ stopped (frozen s) core
      effect := fun s => (frozen s).setCreg (escBase + 0x38) (setBits ((frozen s).creg_ (escBase + 0x38)) core 1 1) },
    { instr := .freezeComplete (64 + core)
      due := fun s => core < 24 ∧ bit (s.creg_ (escBase + 0x30)) core = true ∧ s.coreFrozen (64 + core) = false ∧
        stopped (s.freezeCore (64 + core)) (64 + core)
      effect := fun s =>
        let t := s.freezeCore (64 + core)
        t.setCreg (escBase + 0x40) (setBits (t.creg_ (escBase + 0x40)) core 1 1) },
    { instr := .sectorRequest id
      due := fun s => asked s ∧ s.unaccepted slice controller = false ∧ s.lostBetween slice controller = none
      effect := fun s => ((s.land id).windowNow q.part).sectorArrives q },
    { instr := .sectorRequest id
      due := fun s => asked s ∧ s.unaccepted slice controller = false ∧ s.lostBetween slice controller = some part
      effect := fun s => (s.land id).routingError part },
    { instr := .sectorRequest id, due := fun s => asked s ∧ s.unaccepted slice controller = true, effect := fun s => s },
    { instr := .regulatorWindowStart part
      due := fun s => (s.regulator part).pending = none ∧ (s.regulator part).window ≠ 0 ∧ (s.regulator part).stop ≤ s.ns
      effect := fun s =>
        let r := s.regulator part
        s.openWindow part (r.window, r.budget) r.stop ((r.stop / (r.window * 1000) + 1) * (r.window * 1000)) },
    { instr := .correctableError unit
      effect := fun s => { s with corrected := s.corrected.set 0 unit (s.corrected.get 0 unit + 1) } },
    { instr := .uncorrectableError id, due := fun s => s.flights.find id = some (.upset store core)
      effect := fun s => (s.land id).poisonAt store core } ]

/-- The walk of a stream's or thread's miss that finds its page (R356 to R358). -/
def walkFound (who : Agent) (va : DWord) (u : State) (e : TlbEnt) : Happening :=
  let k := (agentKey who).1
  let l := (agentKey who).2
  let path (s : State) := tlbPath k ((s.ctlAt k l).pc == va) va.toNat
  { instr := .translationWalk who va
    due := fun s => s.running k l = true ∧ canonicalVa va.toNat = true ∧ inAperture va.toNat = false ∧
      s.tlbLookup (s.partOf k l) va.toNat (path s) = none ∧ s.walkInstall (s.partOf k l) va.toNat (path s) = .ok (u, e)
    effect := fun _ => u }

/-- An ingest stream enabled, and a frame for the lowest stream that accepts it, or for none (R396); a port in reset takes no
frame (R392). -/
def ingestEvents (n id : Nat) (f : Frame) : List Happening :=
  let accepting (s : State) : Option Nat := (List.range 64).find? fun n => (s.land id).ingAccepts n f
  let here (s : State) : Prop := (4, if f.source = 1 then f.port else f.port + 4) ∉ s.island.isolated
  let enabled (s : State) : Prop :=
    n < 64 ∧ bit (s.ingCtl n) 0 = true ∧ s.creg_ (ingReg n 0x38) = 0 ∧ bits (s.ingCtl n) 1 2 ≠ 0
  [ { instr := .ingestStreamEnable n, due := fun s => enabled s ∧ s.ingConfigOk n = true
      effect := fun s =>
        { s.setCreg (ingReg n 0x30) (setBits (s.creg_ (ingReg n 0x30)) 32 32 0) with
          ingestDropped := s.ingestDropped.del n }.setCreg (ingReg n 0x38) 1 },
    { instr := .ingestStreamEnable n, due := fun s => enabled s ∧ s.ingConfigOk n = false
      effect := fun s => s.setCreg (ingReg n 0x38) 2 },
    { instr := .ingestFrame id, due := fun s => s.flights.find id = some (.frame f) ∧ here s ∧ accepting s = some n
      effect := fun s => (s.land id).takeFrame n f },
    { instr := .ingestFrame id, due := fun s => s.flights.find id = some (.frame f) ∧ (here s → accepting s = none)
      effect := fun s => s.land id } ]

/-! ### Events of coherence -/

/-- A message of a kind on its way, whose cache has not deferred it and whose routers take it (R302, R322, R392). -/
def State.underWay (s : State) (id : Nat) (m : Msg) (kind : MsgKind) : Prop :=
  s.flights.find id = some (.msg m) ∧ m.kind = kind ∧ (m.dst < 31 → id ∉ (s.cacheAt m.dst m.unit m.grain).deferred) ∧
  s.unaccepted (s.msgEnds m).1 (s.msgEnds m).2 = false

/-- Such a message that no router discards (R322), and that leaves the package or not (R323). -/
def State.travels (s : State) (id : Nat) (m : Msg) (kind : MsgKind) (leaves : Bool) : Prop :=
  s.underWay id m kind ∧ s.msgLost m = none ∧ s.crosses m = leaves

/-- Such a message that stays in the package. -/
def State.comes (s : State) (id : Nat) (m : Msg) (kind : MsgKind) : Prop := s.travels id m kind false

/-- A message handled within the package; then the accesses of its agent that wait for room in its cache are tried again
(R297). -/
def arrival (i : Instr) (m : Msg) (due : State → Prop) (f : State → State) : Happening :=
  { instr := i, due := due, effect := fun s => (f s).wakeRoom m.dst }

/-- Messages at their home: requests are served in turn and home operations begun (R303 to R305, R330). What a peer package's
Put, write or atomic carries is performed with it (R323, R397). -/
def homeEvents (id : Nat) (m : Msg) : List Happening :=
  let own (s : State) : Prop := m.unit / 2 ^ 46 = s.pkg
  let request (i : Instr) (kind : MsgKind) : Happening :=
    arrival i m (fun s => s.comes id m kind ∧ own s) fun s => s.atHome id m fun t => t.serveRequest m
  let waits (s : State) : Prop := s.unitHeld m.unit m.grain = true ∨ s.queuedBefore id m.unit m.grain = true
  let owner (s : State) : Prop := ∃ k e, s.dirFind m.unit m.grain = some (k, e) ∧ e.owner = some m.src ∧ 2 ≤ e.state
  let put (i : Instr) (kind : MsgKind) : List Happening :=
    [ arrival i m (fun s => s.comes id m kind ∧ ¬ waits s ∧ owner s) fun s =>
        (((s.takeBytes m).servePut m).land id).dequeue id m.unit,
      arrival i m (fun s => s.comes id m kind ∧ ¬ waits s ∧ ¬ owner s) fun s => ((s.servePut m).land id).dequeue id m.unit,
      arrival i m (fun s => s.comes id m kind ∧ waits s) fun s => s.enqueue id m.unit ]
  let begun (k : HomeKind) (s : State) : State × Bool :=
    (s.homeBegin { kind := k, unit := m.unit, grain := m.grain, mtype := m.mtype, part := m.part, slot := m.slot
                   agent := m.src, addr := m.addr, len := m.len, waiting := 0, through := m.through
                   uncharged := m.uncharged, req := id, ep := m.ep, undo := m.undo }, true)
  let operation (i : Instr) (kind : MsgKind) (k : HomeKind) : Happening :=
    arrival i m (fun s => s.comes id m kind ∧ own s ∧ m.bytes = []) fun s => s.atHome id m (begun k)
  let performed (s : State) : State := (s.takeBytes m).setFlight id (.msg { m with bytes := [] })
  let carrying (i : Instr) (kind : MsgKind) (k : HomeKind) : Happening :=
    arrival i m (fun s => s.comes id m kind ∧ own (performed s) ∧ m.bytes ≠ []) fun s =>
      (performed s).atHome id { m with bytes := [] } (begun k)
  [ request (.gets id) .getS, request (.getm id) .getM, request (.upg id) .upg ] ++
  put (.puts id) .putS ++ put (.putm id) .putM ++ put (.puto id) .putO ++
  [ operation (.atomFar id) .atomFar .atomic, operation (.homeRead id) .homeRead .read,
    operation (.homeWrite id) .homeWrite .write, carrying (.atomFar id) .atomFar .atomic,
    carrying (.homeWrite id) .homeWrite .write,
    arrival (.recalledData id) m (fun s => s.comes id m .recalled) fun s => ((s.land id).takeBytes m).homeAnswer m ]

/-- Messages at a cache, none sent before it by the same slice still on its way (R299, R301, R302, R308, R310, R311, R316,
R331), and a packet that a router discards (R322) or that a domain in reset does not take (R392). -/
def cacheEvents (id k r : Nat) (m : Msg) (l : Line) (u : State) : List Happening :=
  let on (i : Instr) (kind : MsgKind) (f : State → State) : Happening :=
    arrival i m (fun s => s.comes id m kind ∧ s.sentBefore id m = false) f
  let probe (i : Instr) (kind : MsgKind) : Happening :=
    arrival i m (fun s => s.comes id m kind ∧ s.sentBefore id m = false ∧ s.toProxy m = false ∧ s.applyHomeOut id m = some u)
      fun _ => u
  let answer (i : Instr) (kind : MsgKind) : List Happening :=
    [ arrival i m (fun s => s.comes id m kind ∧ m.dst = 31) fun s => (s.land id).homeAnswer m,
      arrival i m (fun s => s.comes id m kind ∧ m.dst ≠ 31) fun s => ((s.land id).takeAnswer m).wakeProbes s m ]
  let filled (s : State) : Prop := m.src = 31 → s.sentBefore id m = false ∧ s.sectorFilling m.addr = false
  [ probe (.inv id) .inv, probe (.fwdGets id) .fwdGetS, probe (.fwdGetm id) .fwdGetM,
    arrival (.data id) m (fun s => s.comes id m .data ∧ m.dst = 31 ∧ filled s) fun s => (s.land id).takeBytes m,
    arrival (.data id) m (fun s => s.comes id m .data ∧ m.dst ≠ 31 ∧ s.toProxy m = false ∧ filled s) fun s =>
      (((s.land id).takeBytes m).takeSector m).countSlice m,
    arrival (.data id) m (fun s => s.comes id m .data ∧ ¬ filled s) fun s => s,
    on (.grant id) .grant fun s => ((s.land id).takeData m).wakeProbes s m,
    on (.putAck id) .putAck fun s => (s.land id).takePutAck m,
    on (.nackMoved id) .nackMoved fun s => (s.land id).takeNack m,
    arrival (.atomResp id) m (fun s => s.comes id m .atomResp ∧ s.sentBefore id m = false ∧ m.dst < 31) fun s =>
      (s.land id).predictUpdate m.dst m.addr m.contended,
    arrival (.atomResp id) m (fun s => s.comes id m .atomResp ∧ s.sentBefore id m = false ∧ 31 ≤ m.dst) fun s => s.land id,
    arrival (.sliceFill id) m (fun s => s.comes id m .fill ∧ (s.land id).lineFind m.addr = some (k, l)) fun s =>
      let fill (x : Sector) : Sector := if x.filling then { v := true, d := x.d || x.wmask != 0 || x.fillRec != 0 } else x
      { s.land id with lines := (s.land id).lines.put k (l.modSector (m.addr / 64 % 4) fill) },
    { instr := .grant id, due := fun s => s.underWay id m .grant ∧ s.msgLost m = some r
      effect := fun s =>
        let t := s.land id
        { t with routingErrors := t.routingErrors.set 0 r (t.routingErrors.get 0 r + 1)
                 islandInterrupts := t.islandInterrupts + 1 } },
    { instr := .grant id
      due := fun s => s.flights.find id = some (.msg m) ∧ m.kind = .grant ∧ s.unaccepted (s.msgEnds m).1 (s.msgEnds m).2 = true
      effect := fun s => s } ] ++
  answer (.invAck id) .invAck ++ answer (.probeMiss id) .probeMiss

/-- The remote proxy (R323, R324): a local request or home operation that it may not serve yet makes it ask the remote home; a
forward or Inv of the remote home is answered once a home operation over the local copies, which holds the unit, has recalled
them; data for it stands in its slice lines; what it sends, and what goes to a peer, leaves the package, a Put once the local
copies are recalled; over a failed link a request is answered here. -/
def proxyEvents (id : Nat) (m : Msg) (u : State) : List Happening :=
  let away (s : State) : Prop := m.unit / 2 ^ 46 ≠ s.pkg
  let asks (i : Instr) (kind : MsgKind) : Happening :=
    arrival i m (fun s => s.comes id m kind ∧ away s ∧ s.proxyHolds m = false) fun s =>
      s.atHome id m fun t => (t.proxyAsk m, false)
  let obtains (i : Instr) (kind : MsgKind) : Happening :=
    arrival i m (fun s => s.comes id m kind ∧ away s ∧ m.mtype = 0 ∧ m.through = false ∧ m.bytes = [] ∧ s.proxyHolds m = false)
      fun s => s.atHome id m fun t => (t.proxyAsk m, false)
  let probed (s : State) (kind : MsgKind) : Prop := s.comes id m kind ∧ s.sentBefore id m = false ∧ s.toProxy m = true
  let deferred (s : State) : Prop := answerOf m.kind (m.req = 31) (s.cacheAt m.dst m.unit m.grain).st = .defer
  let recalling (k : HomeKind) (probe : Option Nat) (s : State) : State :=
    s.homeBegin { kind := k, unit := m.unit, grain := m.grain, mtype := 0, part := m.part, slot := m.slot, agent := 31
                  addr := m.unit, len := 0, waiting := 0, probe := probe }
  let free (s : State) : Prop := s.unitHeld m.unit m.grain = false
  let recalls (i : Instr) (kind : MsgKind) (k : HomeKind) : Happening :=
    arrival i m (fun s => probed s kind ∧ free s ∧ ¬ deferred s ∧ s.dirFind m.unit m.grain ≠ none) (recalling k (some id))
  let gone (_ : State) : State :=
    if (u.cacheAt m.dst m.unit m.grain).st = .i then u.dropLines m.unit (unitBytes m.grain) else u
  let answers (i : Instr) (kind : MsgKind) : List Happening :=
    [ arrival i m (fun s => probed s kind ∧ s.unitHeld m.unit m.grain = true) fun s => s,
      arrival i m (fun s => probed s kind ∧ free s ∧ (deferred s ∨ s.dirFind m.unit m.grain = none) ∧
        s.applyHomeOut id m = some u) gone ]
  let answered (kind : MsgKind) (s : State) : State :=
    (s.land id).sendOut { kind := kind, unit := m.unit, grain := m.grain, part := m.part, slot := m.slot, src := 31, dst := m.src }
  let failed (s : State) : Prop := m.unit / 2 ^ 46 ∈ s.failedLinks
  let leaves (i : Instr) (kind : MsgKind) (due : State → Prop) (f : State → State) : Happening :=
    { instr := i, due := fun s => s.travels id m kind true ∧ away s ∧ due s, effect := f }
  let asked (i : Instr) (kind reply : MsgKind) : List Happening :=
    [ leaves i kind (fun s => m.direct = false ∧ ¬ failed s) fun s => s.land id,
      leaves i kind (fun s => m.direct = false ∧ failed s) (answered reply) ]
  let put (i : Instr) (kind : MsgKind) : List Happening :=
    [ leaves i kind (fun s => free s ∧ s.dirFind m.unit m.grain ≠ none) (recalling .backInv none),
      leaves i kind (fun s => free s ∧ s.dirFind m.unit m.grain = none ∧ ¬ failed s) fun s =>
        ((s.land id).alterPut m).dropLines m.unit (unitBytes m.grain),
      leaves i kind (fun s => free s ∧ s.dirFind m.unit m.grain = none ∧ failed s) fun s =>
        (answered .putAck s).dropLines m.unit (unitBytes m.grain) ]
  [ asks (.gets id) .getS, asks (.getm id) .getM, asks (.upg id) .upg,
    obtains (.homeRead id) .homeRead, obtains (.homeWrite id) .homeWrite, obtains (.atomFar id) .atomFar,
    recalls (.inv id) .inv .backInv, recalls (.fwdGets id) .fwdGetS .read, recalls (.fwdGetm id) .fwdGetM .backInv,
    arrival (.data id) m (fun s => s.comes id m .data ∧ m.dst ≠ 31 ∧ s.toProxy m = true ∧
      (m.src = 31 → s.sentBefore id m = false ∧ s.sectorFilling m.addr = false)) fun s =>
        ((((s.land id).takeBytes m).proxySector m m.addr).takeSector m).wakeProbes s m,
    leaves (.homeRead id) .homeRead (fun _ => m.direct = true) fun s => (s.land id).countLeaving m,
    { instr := .inv id, due := fun s => s.travels id m .inv true ∧ m.unit / 2 ^ 46 = s.pkg, effect := fun s => s.land id } ] ++
  answers (.inv id) .inv ++ answers (.fwdGets id) .fwdGetS ++ answers (.fwdGetm id) .fwdGetM ++
  asked (.gets id) .getS .data ++ asked (.getm id) .getM .data ++ asked (.upg id) .upg .grant ++
  put (.puts id) .putS ++ put (.putm id) .putM ++ put (.puto id) .putO

/-- Packages and migration (R211, R315, R324): a link lost, whose waiting requests are answered and over which copies end; the
cut, at which OLD's bytes become NEW's (the model's choice of when the bytes move, log 5); and the units of OLD in turn, each
once no request from before the cut waits for it: first its copies are recalled, then its sector is read and written at NEW. -/
def packageEvents (peer entry off : Nat) (e : DirEnt) : List Happening :=
  let reg (s : State) (k : Nat) : Nat := (s.creg_ (migBase + 32 * entry + 8 * k)).toNat
  let old (s : State) : Nat := reg s 0 + off
  let new (s : State) : Nat := reg s 1 + off
  let fromPeer (s : State) (e : Nat × CUnit) : Bool := keyUnit e.1 / 2 ^ 46 == peer && keyAgent e.1 == s.proxyAgent (keyUnit e.1)
  let finished (s : State) : State := (s.setCreg (migBase + 32 * entry + 24) 2).sendMsi
  let started (s : State) : State := { (s.cutOver (reg s 0) (reg s 1) (reg s 2)).markEarly (reg s 0) (reg s 2) with
    migrated := ((s.cutOver (reg s 0) (reg s 1) (reg s 2)).markEarly (reg s 0) (reg s 2)).migrated.put entry 0 }
  let begins (s : State) : Prop := entry < 16 ∧ reg s 3 = 1 ∧ s.migrated.has entry = false
  let turn (s : State) : Prop := s.migrated.find entry = some off ∧ reg s 3 = 1 ∧ off < reg s 2 ∧
    s.unitHeld (old s) 0 = false ∧ s.unitHeld (new s) 0 = false ∧ s.earlyWaits (old s) = false
  [ { instr := .kolteLinkFailure peer
      due := fun s => peer ≠ s.pkg ∧ peer < 4 ∧ peer ∉ s.failedLinks
      effect := fun s =>
        let t := (s.dirty.filter fun e => e.1 / 2 ^ 46 = peer).foldl (fun t e => t.markNew (e.1 / 64) true)
          { s with failedLinks := s.failedLinks ++ [peer] }
        ((t.caches.filter (fromPeer t)).foldl State.answerLost t).stopCopies 6 fun s c => s.overLink peer c },
    { instr := .migrationStart entry, due := fun s => begins s ∧ reg s 2 ≠ 0, effect := started },
    { instr := .migrationStart entry, due := fun s => begins s ∧ reg s 2 = 0, effect := fun s => finished (started s) },
    { instr := .migrationUnitCopy entry, due := fun s => turn s ∧ s.entryAt (old s) = some e
      effect := fun s => s.homeBegin
        { kind := .backInv, unit := e.unit, grain := e.grain, mtype := 0, part := 0, slot := none, agent := 31, addr := e.unit
          len := 0, waiting := 0 } },
    { instr := .migrationUnitCopy entry, due := fun s => turn s ∧ s.entryAt (old s) = none
      effect := fun s =>
        let grain := ((s.entryAt (new s)).map DirEnt.grain).getD 0
        let held := ((s.lineFind (old s)).map fun x => (x.2.sectors.getD (old s / 64 % 4) {}).v).getD false
        let t := (if held then s else s.charge 0 none (old s) false).homeBegin
          { kind := .write, unit := unitOf grain (new s), grain := grain, mtype := 0, part := 0, slot := none, agent := 31
            addr := new s, len := 64, waiting := 0 }
        let u := { t with migrated := t.migrated.put entry (off + 64) }
        if reg s 2 ≤ off + 64 then finished u else u } ]

/-! ### Events of the safety island -/

/-- Bring-up, lockstep, attestation and power (R385 to R394). -/
def islandEvents (v : DWord) (monitor a : Nat) (reading : BitVec 32) (ok : Bool) : List Happening :=
  let change (s : State) (f : Island → Island) : State := s.setIsland (f s.island)
  let thr (s : State) : DWord := s.creg_ (dspBase + 0x8500 + 8 * monitor)
  let low (s : State) : Int := signedOf 32 ((thr s).toNat % 2 ^ 32)
  let high (s : State) : Int := signedOf 32 ((thr s).toNat / 2 ^ 32)
  let below (s : State) : Prop := low s ≠ 0 ∧ reading.toInt < low s
  let above (s : State) : Prop := high s ≠ 0 ∧ high s < reading.toInt
  let read (s : State) : State :=
    s.setCreg (dspBase + 0x8100 + 8 * monitor)
      (BitVec.ofNat 64 ((Config.freeValue (2 ^ 81 + monitor)).toNat % 2 ^ 16 * 2 ^ 32 + reading.toNat))
  let crossed (ks : List Nat) (s : State) : State :=
    { s with island := { s.island with crossed := (s.island.crossed.filter fun k => k / 2 ≠ monitor) ++ ks } }
  let told (s : State) : State := { s with islandInterrupts := s.islandInterrupts + 1 }.sendMsi
  let hot : Prop := monitor < 40 ∧ 125000 ≤ reading.toInt
  let watched (s : State) : Prop := monitor ≤ 84 ∧ s.island.restarting = false
  let tripped (s : State) : State :=
    { s with ctl := [], waves := [], groups := [], ctxJob := [], engCtx := [], flights := [], caches := [] }.setIsland
      { s.island with phase := 3, error := 5, thermTrip := true, isolated := allDomains }
  let stands (s : State) (stage : Nat → Prop) : Prop := s.island.phase = 1 ∧ s.island.restarting = false ∧ stage s.island.stage
  let verifies (k : Nat) : Prop := imageOk k (Config.image k) = true
  let stops (s : State) : State := change s fun i => { i with phase := 3, error := 1 }
  [ { instr := .resetNRelease, due := fun s => s.island.phase = 0
      effect := fun s => change s fun i => { i with phase := 1, stage := 0 } },
    { instr := .bringupStageDone ok, due := fun s => stands s (· = 0) ∧ verifies 1
      effect := fun s => change (s.measure 1) fun i => { i with stage := 1 } },
    { instr := .bringupStageDone ok, due := fun s => stands s (· = 0) ∧ ¬ verifies 1, effect := stops },
    { instr := .bringupStageDone ok, due := fun s => stands s (· = 1) ∧ verifies 2 ∧ verifies 3 ∧ verifies 4
      effect := fun s => change { ((s.measure 2).measure 3).measure 4 with routing := [] } fun i => { i with stage := 2 } },
    { instr := .bringupStageDone ok, due := fun s => stands s (· = 1) ∧ ¬ verifies 2, effect := stops },
    { instr := .bringupStageDone ok, due := fun s => stands s (· = 1) ∧ verifies 2 ∧ ¬ verifies 3
      effect := fun s => stops (s.measure 2) },
    { instr := .bringupStageDone ok, due := fun s => stands s (· = 1) ∧ verifies 2 ∧ verifies 3 ∧ ¬ verifies 4
      effect := fun s => stops ((s.measure 2).measure 3) },
    { instr := .bringupStageDone false, due := fun s => stands s fun n => 2 ≤ n ∧ n < 6
      effect := fun s => change s fun i =>
        { i with phase := 3, error := if i.stage = 2 then 2 else if i.stage = 5 then 4 else 3 } },
    { instr := .bringupStageDone true, due := fun s => stands s fun n => 2 ≤ n ∧ n < 6
      effect := fun s => change (s.stageEffect s.island.stage) fun i => { i with stage := s.island.stage + 1 } },
    { instr := .bringupStageDone ok, due := fun s => stands s (6 ≤ ·)
      effect := fun s => change (s.stageEffect s.island.stage) fun i => { i with phase := 2 } },
    { instr := .bringupStageDone ok, due := fun s => s.island.restarting = true, effect := fun s => s },
    { instr := .powerCycle
      effect := fun s => { State.reset with agenda := s.agenda, free := s.free, pkg := s.pkg, installed := s.installed } },
    { instr := .lockstepMismatch
      effect := fun s => change s fun i =>
        { i with lserr := if i.lserr < 255 then i.lserr + 1 else 255, siErr := true, restarting := true } },
    { instr := .islandRestartDone, due := fun s => s.island.restarting = true
      effect := fun s =>
        let t := { s with island := { s.island with restarting := false } }
        let u := match s.island.current with | some d => t.beginRestart d.1 d.2 | none => t
        (List.range 85).foldl (fun w n => w.actOn n) (u.setIsland u.island) },
    { instr := .siErrclr v, due := fun _ => v.toNat % 2 = 1, effect := fun s => change s fun i => { i with siErr := false } },
    { instr := .siAttestWrite v
      effect := fun s =>
        let at_ := v.toNat % 2 ^ 48 / 64 * 64
        let t := s.setCreg (dspBase + 0x8020) (BitVec.ofNat 64 at_)
        { t with island := { t.island with attest := some at_ } } },
    { instr := .attestationReport, due := fun s => s.island.attest = some a ∧ s.island.restarting = false
      effect := fun s =>
        let u := s.partRead epIsland 0 a 40
        let nonce := (List.range 32).map fun k => u.byteAt (a + k)
        let place := u.physRead (a + 32) 8 % 2 ^ 48
        let t := (u.partWrite epIsland 0 place (u.island.report nonce)).partWrite epIsland 0 (a + 40) [1]
        { t with island := { t.island with attest := none } } },
    { instr := .siPlimitWrite v, due := fun _ => 120 ≤ v.toNat ∧ v.toNat ≤ 300
      effect := fun s => s.setCreg (dspBase + 0x8018) v },
    { instr := .monitorCrossing monitor reading
      due := fun s => watched s ∧ ¬ hot ∧ below s ∧ ¬ above s ∧ 2 * monitor ∉ s.island.crossed
      effect := fun s => told (crossed [2 * monitor] (read s)) },
    { instr := .monitorCrossing monitor reading
      due := fun s => watched s ∧ ¬ hot ∧ ¬ below s ∧ above s ∧ 2 * monitor + 1 ∉ s.island.crossed
      effect := fun s => told (crossed [2 * monitor + 1] (read s)) },
    { instr := .monitorCrossing monitor reading
      due := fun s => watched s ∧ ¬ hot ∧ ¬ below s ∧ ¬ above s
      effect := fun s => crossed [] (read s) },
    { instr := .monitorCrossing monitor reading
      due := fun s => watched s ∧ hot ∧ ¬ below s ∧ ¬ above s ∧ s.island.thermTrip = false
      effect := fun s => tripped (crossed [] (read s)) },
    { instr := .monitorCrossing monitor reading, due := fun s => monitor ≤ 84 ∧ s.island.restarting = true, effect := read },
    { instr := .thermtrip
      due := fun s => s.island.restarting = false ∧ s.island.thermTrip = false ∧
        ∃ n < 40, 125000 ≤ signedOf 32 ((s.creg_ (dspBase + 0x8100 + 8 * n)).toNat % 2 ^ 32)
      effect := tripped } ]

/-- Restarts of a domain (R392). -/
def restartEvents (v : DWord) (kind index : Nat) (rest : List (Nat × Nat)) : List Happening :=
  let k := v.toNat / 2 ^ 16 % 2 ^ 8
  let n := v.toNat % 2 ^ 16
  let up (s : State) : Prop := s.island.restarting = false ∧ s.island.thermTrip = false
  [ { instr := .siCmdRestart v
      due := fun s => v.toNat < 2 ^ 24 ∧ domainExists k n = true ∧ s.island.queue.length < 8
      effect := fun s => s.setIsland { s.island with queue := s.island.queue ++ [(k, n)] } },
    { instr := .siCmdRestart v
      due := fun s => v.toNat < 2 ^ 24 ∧ domainExists k n = true ∧ 8 ≤ s.island.queue.length
      effect := fun s => s.setIsland { s.island with lost := true } },
    { instr := .domainSelfCheckFailure (65536 * kind + index), due := fun _ => index < 65536 ∧ domainExists kind index = true
      effect := fun s => s.setIsland { s.island with queue := s.island.queue ++ [(kind, index)] } },
    { instr := .domainRestartStart
      due := fun s => s.island.queue = (kind, index) :: rest ∧ s.island.current = none ∧ up s
      effect := fun s =>
        let i := s.island
        let t := { s with island := { i with
          queue := rest, current := some (kind, index), withdrawn := 0
          isolated := if (kind, index) ∈ i.isolated then i.isolated else i.isolated ++ [(kind, index)] } }.beginRestart kind index
        t.setIsland t.island },
    { instr := .domainRestartDone, due := fun s => s.island.current = some (kind, index) ∧ up s
      effect := fun s =>
        let t := if kind = 0 then s.resetTile index else if kind = 1 then s.resetVision index
          else if kind = 2 then { s with predictor := s.predictor.dropRange (256 * (24 + index)) 256
                                         protocolErrors := s.protocolErrors.del (24 + index) }
          else if kind = 3 then s.resetController index else if kind = 4 then s.resetPort index else s
        let u := t.setIsland { s.island with
          current := none, restarts := s.island.restarts + 1
          isolated := s.island.isolated.filter fun d => d ≠ (kind, index) }
        { u with evaluations := u.evaluations + 1 }.sendMsi } ]

/-! ### Division -/

/-- The boundary cases of R162 for operands x and y; none where the table of R161 applies. -/
def divCorner (signed rem : Bool) (x y : DWord) : Option DWord :=
  if y = 0 then some (if rem then x else -1)
  else if signed = true ∧ x = BitVec.ofInt 64 (-2 ^ 63) ∧ y = -1 then some (if rem then 0 else BitVec.ofInt 64 (-2 ^ 63))
  else none

/-- A division completes and leaves every flag and takes no fault; a boundary case gives its result (R162). -/
def divides (i : Instr) (g : BitVec 4) (d a b : Nat) (signed rem : Bool) : Prop :=
  ∀ (s : State) (key : Nat) (set : List Nat), s.issuing key set → s.admits key set g 2 → s.operandsReady key set [b, a] [d] [] [] →
    ∃ t, exec i s = .next t ∧
      (∀ k l, l < 32 → (t.ctlAt k l).fflags = (s.ctlAt k l).fflags ∧ (t.ctlAt k l).handling = (s.ctlAt k l).handling ∧
        (t.ctlAt k l).life = (s.ctlAt k l).life) ∧
      let v := (s.reads key set g false [b, a] []).2.1
      ∀ r, divCorner signed rem (v.getD 1 0) (v.getD 0 0) = some r →
        if isQueue key d then (t.queue (keyCtxKey key) (d - 32)).getLast? = some r else t.sget key d = r

/-! ### Frames -/

/-- What stays as it was when the stream or threads `set` of `key` write the scalars `sdst`, the lane registers `ldst`, the
predicates `pdst` and the bytes of scratchpads for which `out` holds: every other register of every stream and wave, every
other byte, every control state but that of `set`, the special registers of `set` but those `flags` allows, the
accumulators, the macro pages, the shapes and the control registers of the part. -/
structure State.leaves (s t : State) (key : Nat) (set sdst ldst pdst : List Nat) (flags : Bool) (out : Nat → Prop) : Prop where
  memory : ∀ a, t.byteAt a = s.byteAt a
  scratch : ∀ k, ¬ out k → t.loc.get 0 k = s.loc.get 0 k
  scalars : ∀ k x, x < 64 → (k ≠ key ∨ x ∉ sdst) → t.sget k x = s.sget k x
  lanes : ∀ k x l, x < 64 → l < 64 → (k ≠ key ∨ x ∉ ldst) → t.lget k x l = s.lget k x l
  predicates : ∀ k p l, p < 8 → (k ≠ key ∨ p ∉ pdst) → t.pget k p l = s.pget k p l
  others : ∀ k l, l < 32 → (k ≠ key ∨ l ∉ set) → t.ctlAt k l = s.ctlAt k l
  fmode : ∀ l, (t.ctlAt key l).fmode = (s.ctlAt key l).fmode
  fflags : flags = false → ∀ l, (t.ctlAt key l).fflags = (s.ctlAt key l).fflags
  sbase : ∀ l, (t.ctlAt key l).sbase = (s.ctlAt key l).sbase
  trapcause : ∀ l, (t.ctlAt key l).trapcause = (s.ctlAt key l).trapcause
  trapinfo : ∀ l, (t.ctlAt key l).trapinfo = (s.ctlAt key l).trapinfo
  arcause : ∀ l, (t.ctlAt key l).arcause = (s.ctlAt key l).arcause
  record : ∀ l, (t.ctlAt key l).tr = (s.ctlAt key l).tr
  accumulators : t.acc = s.acc ∧ t.colAcc = s.colAcc
  pages : t.pages = s.pages ∧ t.pageTags = s.pageTags
  shapes : t.shapes = s.shapes ∧ t.accords = s.accords
  part : t.creg = s.creg ∧ t.island = s.island

/-- The bytes of the ring slot that ex0 or ex1 fills next (R194). -/
def slotBytes (s : State) (key d k : Nat) : Prop :=
  let r := s.ringAt (keyCore key) (bits (s.ringBinding key (d - 0x38)) 0 5)
  let lo := locKey (keyCore key) (r.base + r.tail % r.count * r.slotSize)
  (d = 0x3A ∨ d = 0x3B) ∧ lo ≤ k ∧ k < lo + r.slotSize

/-- The frame of an instruction that writes the lane registers `ldst` and the predicates `pdst` beside its destinations. -/
def Run.frame (w : Run) (ldst pdst : List Nat) (flags : Bool) : Prop :=
  ∀ (s t : State) (key : Nat) (set : List Nat), s.issuing key set → s.admits key set w.g w.half → w.allowed s key set →
    s.operandsReady key set w.ssrc w.sdst w.lsrc w.ldst →
    let r := s.reads key set w.g w.lane w.ssrc w.lsrc
    w.ready { key := key, threads := set, lanes := issueLanes key set } r.1 r.2.1 r.2.2 → exec w.instr s = .next t →
    s.leaves t key set w.sdst ldst pdst flags fun k => ∃ d ∈ w.ldst, slotBytes r.1 key d k

/-- What stays as it was when the stream or threads `set` of `key` load from memory or store to it, from `u`, in which the
bytes `mem` of memory and `out` of scratchpads may change: as `leaves`, but of another control state only up to the stale
marks of its region (R336) and the watch of its wait (R348). -/
structure State.keeps (s u t : State) (key : Nat) (set sdst ldst : List Nat) (flags : Bool) (mem out : Nat → Prop) : Prop where
  memory : ∀ a, ¬ mem a → t.byteAt a = u.byteAt a
  scratch : ∀ k, ¬ out k → t.loc.get 0 k = u.loc.get 0 k
  scalars : ∀ k x, x < 64 → (k ≠ key ∨ x ∉ sdst) → t.sget k x = s.sget k x
  lanes : ∀ k x l, x < 64 → l < 64 → (k ≠ key ∨ x ∉ ldst) → t.lget k x l = s.lget k x l
  predicates : ∀ k p l, p < 8 → t.pget k p l = s.pget k p l
  others : ∀ k l, l < 32 → (k ≠ key ∨ l ∉ set) →
    { t.ctlAt k l with region := none, waitLost := false } = { s.ctlAt k l with region := none, waitLost := false }
  fmode : ∀ l, (t.ctlAt key l).fmode = (s.ctlAt key l).fmode
  fflags : flags = false → ∀ l, (t.ctlAt key l).fflags = (s.ctlAt key l).fflags
  sbase : ∀ l, (t.ctlAt key l).sbase = (s.ctlAt key l).sbase
  trapcause : ∀ l, (t.ctlAt key l).trapcause = (s.ctlAt key l).trapcause
  trapinfo : ∀ l, (t.ctlAt key l).trapinfo = (s.ctlAt key l).trapinfo
  arcause : ∀ l, (t.ctlAt key l).arcause = (s.ctlAt key l).arcause
  record : ∀ l, (t.ctlAt key l).tr = (s.ctlAt key l).tr
  accumulators : t.acc = s.acc ∧ t.colAcc = s.colAcc
  pages : t.pages = s.pages ∧ t.pageTags = s.pageTags
  shapes : t.shapes = s.shapes ∧ t.accords = s.accords

/-- The accesses of a load or store: the control state each belongs to, its address and its bytes (R285 to R288). -/
def accessesOf (is : Iss) (sv : List DWord) (lv : List (List Word)) : Instr → List (Nat × Nat × Nat)
  | .ld _ _ o z _ => is.lanes.flatMap fun l =>
      let a := contiguous o (2 ^ z.toNat) sv lv l
      if z = 3 then [(accessor is.key l, a, 4), (accessor is.key l, a + 4, 4)] else [(accessor is.key l, a, 2 ^ z.toNat)]
  | .st _ _ o z _ => is.lanes.map fun l => (accessor is.key l, contiguous o (2 ^ z.toNat) sv lv l, 2 ^ z.toNat)
  | .ldg .. | .stg .. => is.lanes.map fun l => (accessor is.key l, gathered sv lv l, 4)
  | .ldg16 .. | .stg16 .. => is.lanes.map fun l => (accessor is.key l, gathered sv lv l, 2)
  | .lds _ _ o z _ | .sts _ _ o z _ => [(is.threads.headD 0, scalarAt o (2 ^ z.toNat) (sv.getD 0 0), 2 ^ z.toNat)]
  | .ldsAcq _ _ o _ | .stsRel _ _ o _ => [(is.threads.headD 0, scalarAt o 8 (sv.getD 0 0), 8)]
  | _ => []

/-- Where memory may change: the bytes that accesses of a kind reach, placed as `locate` places them (R355, R180). -/
def State.bytesOf (u : State) (key : Nat) (a : Acc) (xs : List (Nat × Nat × Nat)) (b : Nat) : Prop :=
  ∃ x ∈ xs, ∃ pa m g p, u.locate key x.1 a x.2.1 x.2.2 = .ok (u, .phys pa m g p) ∧ pa ≤ b ∧ b < pa + x.2.2
def State.scratchOf (u : State) (key : Nat) (a : Acc) (xs : List (Nat × Nat × Nat)) (b : Nat) : Prop :=
  ∃ x ∈ xs, ∃ k, u.locate key x.1 a x.2.1 x.2.2 = .ok (u, .loc k) ∧ k ≤ b ∧ b < k + x.2.2

/-- The frame of a load (`a` a read), a store or an atomic whose translations are held, so that no walk writes A or D (R356):
from the state in which it accesses memory, nothing in memory changes but the bytes it stores to. -/
def Run.memoryFrame (w : Run) (a : Acc) (flags : Bool) (before : State → Nat → State)
    (at_ : Iss → List DWord → List (List Word) → List (Nat × Nat × Nat)) : Prop :=
  ∀ (s t : State) (key : Nat) (set : List Nat), s.issuing key set w.unit → s.admits key set w.g w.half → w.allowed s key set →
    s.operandsReady key set w.ssrc w.sdst w.lsrc w.ldst →
    let r := s.reads key set w.g w.lane w.ssrc w.lsrc
    let is : Iss := { key := key, threads := set, lanes := issueLanes key set }
    let u := before r.1 key
    let xs := at_ is r.2.1 r.2.2
    w.ready is r.1 r.2.1 r.2.2 → u.steady → (∀ x ∈ xs, ∃ p, u.locate key x.1 a x.2.1 x.2.2 = .ok (u, p)) →
    exec w.instr s = .next t →
    s.keeps u t key set w.sdst (if w.ldst = [] then [] else 0x38 :: 0x39 :: w.ldst) flags
      (fun b => a ≠ .read ∧ u.bytesOf key a xs b)
      (fun k => (a ≠ .read ∧ u.scratchOf key a xs k) ∨ ∃ d ∈ w.ldst, slotBytes r.1 key d k)

/-- Loads, stores and atomics. -/
def memoryFrames (d a b o : BitVec 6) (z : BitVec 2) (g : BitVec 4) : Prop :=
  let kind : Instr → Acc
    | .ld .. | .ldg .. | .ldg16 .. | .lds .. | .ldsAcq .. => .read
    | _ => .write
  (∀ w ∈ laneAccesses d a b o g, w.memoryFrame (kind w.instr) false (fun s _ => s) fun is sv lv => accessesOf is sv lv w.instr) ∧
  (∀ w ∈ scalarAccesses d a o z g,
    w.memoryFrame (kind w.instr) false State.finishReadouts fun is sv lv => accessesOf is sv lv w.instr) ∧
  ∀ x ∈ atomTable d a b g, ∀ i ∈ [(x.1, some d.toNat), (x.2.1, none)],
    (atomScalar i.1 g i.2 a.toNat b.toNat x.2.2.1 x.2.2.2.1 x.2.2.2.2).memoryFrame .rmw true (fun s _ => s)
      (fun _ sv _ => [(0, (sv.getD 1 0).toNat, x.2.2.2.1 / 8)]) ∧
    (atomLanes i.1 g i.2 a.toNat b.toNat x.2.2.1 x.2.2.2.2).memoryFrame .rmw true (fun s _ => s) fun is _ lv =>
      is.lanes.map fun l => (accessor is.key l, (lval lv 1 l).toNat * 2 ^ 32 + (lval lv 2 l).toNat, 4)

/-! ### Encoding -/

/-- Words that the spec writes out (R45, R50 to R55, R161, R164, R169, R173 to R177, R189, R201, R222 to R258, R266, R287,
R318, R326 to R348, R378), each with its number of bits and what it stands for. -/
def knownWords : List (Nat × Nat × Instr) :=
  [ (32, 0x0C1C8B67, .fadd 3 1 50 0 11), (16, 0x6890, .faddF32Short 1 2 0), (16, 0x02BE, .amod 0 2 2 3),
    (32, 0x2000801F, .hold 512 0), (32, 0x1461E02B, .mulhu 5 6 7 0), (32, 0x0420D063, .cmpLt 1 2 3 0),
    (32, 0x2811007F, .fcmp 1 2 1 4 0 0), (32, 0x2039E087, .cvt 8 3 39 2 0), (32, 0x084070A7, .lds 2 4 1 3 0),
    (32, 0x103000DB, .rclaim 4 3 0), (32, 0x105180D3, .ldt 4 5 6 0), (32, 0x143000C7, .finc 5 3 0),
    (32, 0x144000CB, .barInit 5 4 0), (32, 0x1440E0FB, .waitl 5 4 3 0), (32, 0x084140B7, .atomAdd 2 4 5 0),
    (32, 0x4420C0E3, .mma 2 1 0 0 2 0 0 3 0), (32, 0x0C0020E7, .acczero 3 0), (32, 0x200100EB, .amul 8 0 4 0),
    (32, 0x084140EF, .wload 2 4 5 0), (32, 0x004000F3, .route 0 4 0), (32, 0x100000F7, .fetchwg 4 0),
    (32, 0x102190FB, .sample 4 2 6 0), (32, 0x5138803F, .li 20 5000 0), (32, 0x185FD08F, .xliSh 6 5 63 0),
    (32, 0x08700093, .rfal 2 7 0), (32, 0x07FFB017, .loop 1 16379 0), (32, 0x144120B3, .cclean 5 4 0),
    (32, 0x000140C3, .arb 20 0), (32, 0x1400601F, .trap 5 0) ]

/-! ### A step -/

/-- The word that a stream or thread stands at decodes to an instruction: from two halfwords, or one where it is short. -/
def decodesTo (w n : Nat) (i : Instr) : Prop := (if n = 2 then decodeLong w else decodeShort w) = .ok i

/-- The turn that a step takes: the head of the schedule; before a turn within whose time the target of a stamp falls, the
turn of that matrix engine at the target (R101). The schedule, and that it is cut there, are the model's choice (log 1). -/
def State.actsNext (s : State) (t : Sched) (rest : List Sched) : Prop :=
  match s.agenda with
  | [] => False
  | a :: more =>
    match s.stampDue a.cyc with
    | some x =>
      if a.cyc = 0 then t = a ∧ rest = more
      else
        let n := x.1 - s.cyc
        t = { cyc := n, ns := a.ns * n / a.cyc, turn := .tile x.2 2 } ∧
          rest = { a with cyc := a.cyc - n, ns := a.ns - a.ns * n / a.cyc } :: more
    | none => t = a ∧ rest = more

/-- The state in which a turn of an engine acts: its time has passed, and one of a lower %corekind than the last in this
tile cycle comes in the next cycle (R85, R188); that the schedule moves it so is the model's choice (log 1). What came into
FIFOs and queues in this cycle is known while the cycle lasts (R80). -/
def State.atEngine (s : State) (core eng cyc ns : Nat) (rest : List Sched) : State :=
  let n := if cyc = 0 ∧ eng + 1 < s.rank.get 0 core then 1 else cyc
  { s with agenda := rest, turns := s.turns + 1, rank := (if n = 0 then s.rank else []).put core (eng + 1)
           fresh := if n = 0 then s.fresh else [] }.tick n ns

/-- The engine's turn, up to the issue of a word (R76, R77, R81, R94, R120, R122, R123): its streams stop where a stop order
stands and do what needs no issue; it takes up a context, and that context's stream closes a hold region that has run
out. Where the rules leave the choice of a context open it is the model's choice (log 22). -/
def State.readied (s : State) (core eng : Nat) : State × Nat :=
  let s1 := (List.range 4).foldl (fun s ctx => (s.stopHere (streamKey core ctx eng)).aside (streamKey core ctx eng)) s
  let s2 := s1.closeHold core eng
  let y := s2.chooseCtx core eng
  ((s2.switchTo core eng y).expireHold (streamKey core y eng), y)

/-- A stream that issues: nothing of an earlier instruction is under way, and no interruption is owed. -/
def State.issuesNow (s : State) (key : Nat) : Prop :=
  let c := s.ctlAt key 0
  s.running key 0 = true ∧ c.late = none ∧ c.retire = none ∧ c.resumed = false ∧ c.waiting = none ∧
  (c.stall ≠ [] → (∀ n ∈ c.stall, s.needMet key n = true) ∧ s.hasDeferred key 0 true = false) ∧ s.takeOwed key 0 = none

/-- A stream's issue in its engine's turn: the word at its program counter is fetched, decodes to i, and runs; then the streams
of its context that came to retire in this cycle and whose pushes have room now make them (R80, R84). -/
def streamStep (s u t : State) (core eng cyc ns : Nat) (rest : List Sched) (w n : Nat) (i : Instr) : Prop :=
  s.actsNext { cyc := cyc, ns := ns, turn := .tile core eng } rest →
  let s1 := s.atEngine core eng cyc ns rest
  s1.freezing core = false →
  let r := s1.readied core eng
  let key := streamKey core r.2 eng
  r.2 < 4 → r.1.issuesNow key →
  let s2 := if (r.1.ctlAt key 0).atHeader then r.1.enterBlock key 0 else r.1
  (s2.ctlAt key 0).atHeader = false → s2.fetchWord key 0 = .ok (u, w, n) → decodesTo w n i →
  exec i { u with cur := some { wave := isWave key, key := key, set := [0] } } = .next t → step s = .next (t.passOn core r.2)

/-- The wave of highest precedence among some, the one that issued longest ago, and the lowest slot (R141). -/
def State.firstWave (s : State) (keys : List Nat) : Option Nat :=
  (keys.filter fun k => (s.nextSet k).isSome).foldl (fun best k => match best with
    | none => some k
    | some b => if s.waveBefore k b then some k else some b) none

/-- What an issue of one wave leaves to its partition: another wave issues too in the same cycle, but of two words of the lane
group one (R141); requests for extended blocks that both make stand in slot order (R147). -/
def State.secondIssue (s t : State) (core part : Nat) (keys : List Nat) (key : Nat) : Host.Outcome State Fault Refusal :=
  let others := keys.filter fun j => j ≠ key ∧ ¬ (s.lanesNext key = true ∧ s.lanesNext j = true)
  match t.firstWave others with
  | none => .next t
  | some j => match t.waveTurn j with
    | .next u => .next (u.sortRequests s core part)
    | r => r

/-- The issue of a wave's next set in its partition's turn, where no thread of it is owed an interruption or stands at a word
that its body cuts off (R141, R142): waits are looked at and headers fetched first. -/
def waveStep (s u v t' : State) (core part cyc ns : Nat) (rest : List Sched) (key place : Nat) (h0 h1 : Half) (i : Instr) :
    Prop :=
  s.actsNext { cyc := cyc, ns := ns, turn := .vision core part } rest →
  let s1 := { s with agenda := rest, turns := s.turns + 1, rank := if cyc = 0 then s.rank else []
                     fresh := if cyc = 0 then s.fresh else [] }.tick cyc ns
  let keys := s1.partWaves core part
  let m := keys.foldl State.waveMaint s1
  m.freezing (64 + core) = false →
  let t := keys.foldl (fun s k => (s.waveWaits k).waveHeaders k 100) m
  t.firstWave keys = some key → t.nextSet key = some place →
  let set := t.issueSet key place
  let t1 : State := { t with
    waves := match t.waves.find key with
      | some w => t.waves.put key { w with lastIssue := t.turns, rot := (place + 1) % 33 }
      | none => t.waves }
  let t2 : State := if place = 0 ∧ (t1.ctlAt key 0).yieldAbove.isSome = true then t1.modCtl key 0 fun c => { c with yieldAbove := none }
    else t1
  (∀ l ∈ set, t2.takeOwed key l = none) →
  let lead := set.headD 0
  t2.bodyHalf key lead (t2.ctlAt key lead).pc = .ok (u, h0) →
  (isLong h0 = true → (∀ l ∈ set, (u.ctlAt key l).lastInBody 1 = false) ∧
    u.bodyHalf key lead ((u.ctlAt key lead).pc + 2) = .ok (v, h1)) →
  decodeHalves h0 h1 = .ok i →
  exec i { (if isLong h0 then v else u) with cur := some { wave := isWave key, key := key, set := set } } = .next t' →
  step s = t.secondIssue t' core part keys key

/-- The halfword at a place as a fetch gives it: one of a sector that the core's instruction cache holds, or that it reads
from its home for the job (R74). Which sectors a cache keeps is the model's choice (log 36). -/
def fetches (s u : State) (key l : Nat) (va : DWord) (p : Place) : Prop :=
  let half (v : State) : Half := BitVec.ofNat 16 ((placeByte v p 0).toNat + 256 * (placeByte v p 1).toNat)
  s.locate key l .exec va.toNat 2 = .ok (u, p) → u.steady → u.placePoisoned p 2 = false →
  match p with
  | .loc _ => s.fetchHalf key l va = .ok (u, half u)
  | .phys pa mtype grain part =>
    let held := u.icache.get [] (keyCore key)
    if held.contains (pa / 64) then s.fetchHalf key l va = .ok (u, half u)
    else
      let v := u.homeAccess (keyCore key) (pa / 64 * 64) 64 mtype grain part (some (u.jobOf key l)) false
      let kept := (if 1024 ≤ held.length then held.drop 1 else held) ++ [pa / 64]
      let v := { v with icache := v.icache.put (keyCore key) kept }
      s.fetchHalf key l va = .ok (v, half v)

/-! ### Reset and invariants -/

/-- Memory lists its bytes in rising order of address, and none that reads as an unlisted one does. -/
def State.canonical (s : State) : Prop := Memory.wf s.mem = true ∧ Memory.wf s.loc = true

end Sys2Proof.Machine

/-- R161 and R162: the scalar instructions of majors 0x08 to 0x0D. -/
def Obligations.ScalarTable : Prop :=
  ∀ (d a b : BitVec 6) (g : BitVec 4), ∀ w ∈ scalarTable d a b g, w.completes

/-- R163, R164 and R165. -/
def Obligations.ScalarImmediates : Prop :=
  ∀ (d a im : BitVec 6) (k : BitVec 14) (g : BitVec 4), ∀ w ∈ scalarImmediates d a im k g ++ scalarUnary d a g, w.completes

/-- R53. -/
def Obligations.ScalarShorts : Prop :=
  ∀ (d : BitVec 4) (x im : BitVec 6), ∀ w ∈ scalarShorts d x im, w.completes

/-- R167 and R168. -/
def Obligations.LaneTable : Prop :=
  ∀ (d a b im : BitVec 6) (k : BitVec 5) (g : BitVec 4), ∀ w ∈ laneTable d a b im k g, w.completes

/-- R52. -/
def Obligations.LaneShorts : Prop :=
  ∀ (d a : BitVec 4) (t : BitVec 1), d.toNat ≤ 10 → a.toNat ≤ 10 → ∀ w ∈ laneShorts d a t, w.completes

/-- R169 and R170. -/
def Obligations.Predicates : Prop :=
  ∀ (p pa pb : BitVec 3) (a b : BitVec 6) (g : BitVec 4), ∀ w ∈ predicates p pa pb a b g, w.completes

/-- R171 and R172. -/
def Obligations.FloatTable : Prop :=
  ∀ (d a b : BitVec 6) (f : BitVec 2) (g : BitVec 4) (d4 a4 : BitVec 4) (t : BitVec 1), f ≠ 3 → d4.toNat ≤ 10 → a4.toNat ≤ 10 →
    ∀ w ∈ floatTable d a b f g d4 a4 t, w.completes

/-- R174. -/
def Obligations.FloatUnary : Prop :=
  ∀ (d a : BitVec 6) (f : BitVec 2) (g : BitVec 4) (d4 a4 : BitVec 4), f ≠ 3 → d4.toNat ≤ 10 → a4.toNat ≤ 10 →
    ∀ w ∈ floatUnary d a f g d4 a4, w.completes

/-- R173 and R175. -/
def Obligations.FloatCompareConvert : Prop :=
  (∀ (c p : BitVec 3) (a b : BitVec 6) (f : BitVec 2) (g : BitVec 4), f ≠ 3 → (floatCompare c p a b f g).completes) ∧
    ∀ (d a n : BitVec 6) (r : BitVec 2) (g : BitVec 4), n ≠ 63 → (conversion d a n r g).completes

/-- R176. -/
def Obligations.CrossReads : Prop :=
  ∀ (d a b : BitVec 6) (g : BitVec 4), ∀ w ∈ crossReads d a b g, w.completes

/-- R177 and R178. -/
def Obligations.LaneScalars : Prop :=
  ∀ (d a : BitVec 6) (p : BitVec 3) (g : BitVec 4), (∀ w ∈ laneScalars d a p g, w.completes) ∧ (floatSum d a g).completes

/-- R87, R88 and R89. -/
def Obligations.Branches : Prop :=
  ∀ (c a : BitVec 6) (p : BitVec 3) (o : BitVec 14) (g : BitVec 4), ∀ w ∈ branches c a p o g, w.completes

/-- R55, R91, R93, R95 and R101: nop, halt, yield, hold, unhold, stamps and amod. -/
def Obligations.Pauses : Prop :=
  ∀ (n s1 : BitVec 12) (c : BitVec 1) (p sc o : BitVec 2) (g : BitVec 4), 1 ≤ n.toNat → n.toNat ≤ 512 → p ≠ 3 →
    (c = 1 → o = 3) → ∀ w ∈ pauses n s1 c p sc o g, w.completes

/-- R56 and R96. -/
def Obligations.SpecialRegisters : Prop :=
  ∀ (d a : BitVec 6) (g : BitVec 4), (∀ w ∈ specialReads d g, w.completes) ∧ ∀ w ∈ specialWrites a g, w.completes

/-- R100 and R133. -/
def Obligations.Clocks : Prop :=
  ∀ (d a k : BitVec 6) (g : BitVec 4), ∀ w ∈ clocks d a k g, w.completes

/-- R285 and R286. -/
def Obligations.LaneAccesses : Prop :=
  ∀ (d a b o : BitVec 6) (g : BitVec 4), ∀ w ∈ laneAccesses d a b o g, w.completes

/-- R287 and R288. -/
def Obligations.ScalarAccesses : Prop :=
  ∀ (d a o : BitVec 6) (z : BitVec 2) (g : BitVec 4), ∀ w ∈ scalarAccesses d a o z g, w.completes

/-- R15, R281 and R285: a load reads the bytes of its place, low byte first, and changes none; a store changes its own bytes
alone. The accessor has stored to them through no other virtual address since its last afence (R294). -/
def Obligations.MemoryBytes : Prop :=
  ∀ (s t : State) (key l va n v : Nat) (p : Place), t.steady → t.unaliased (ctlKey key l) va p n →
    (s.locate key l .read va n = .ok (t, p) → t.placePoisoned p n = false →
      ∃ u, s.memRead key l va n = .ok (u, leNat ((List.range n).map (placeByte t p))) ∧ t.sameBut u p 0) ∧
    (s.locate key l .write va n = .ok (t, p) →
      ∃ u, s.memWrite key l va n v = .ok u ∧ (∀ i < n, placeByte u p i = BitVec.ofNat 8 (v / 256 ^ i)) ∧ t.sameBut u p n)

/-- R283, R290 and R318. -/
def Obligations.Orderings : Prop :=
  ∀ (k : BitVec 2) (n a : BitVec 6) (g : BitVec 4), ∀ w ∈ orderings k n a g, w.completes

/-- R326 to R329 on the control engine. -/
def Obligations.ScalarAtomics : Prop :=
  ∀ (d a b : BitVec 6) (g : BitVec 4), ∀ w ∈ scalarAtomics d a b g, w.completes

/-- R326 to R329 on the vector engine and on vision. -/
def Obligations.LaneAtomics : Prop :=
  ∀ (d a b : BitVec 6) (g : BitVec 4), ∀ w ∈ laneAtomics d a b g, w.completes

/-- R332 to R336, R338: arb, are and arx where no region is open, and an arb that finds no buffer; then what instructions do inside
one: undo entries, tags, pins and constraints, snapshots and buffered stores, the aborts of causes 3 to 7 and 12, and the
writes that make slots stale. DETAIL 8 of cause 3 and a queue's entry held back until the commit are the model's choice (log 26). -/
def Obligations.Regions : Prop :=
  (∀ (o : BitVec 14) (g : BitVec 4), (∀ w ∈ regions o g, w.completes) ∧ regionWanting o g) ∧
  (∀ (d a b im : BitVec 6) (k : BitVec 14) (k5 : BitVec 5) (p pa pb : BitVec 3) (f : BitVec 2) (g d4 a4 : BitVec 4)
    (t : BitVec 1) (z : BitVec 2), f ≠ 3 → d4.toNat ≤ 10 → a4.toNat ≤ 10 →
    insideRegions d a b im k k5 p pa pb f g d4 a4 t z) ∧
  writesMakeStale

/-- R379. -/
def Obligations.ReturnFromHandler : Prop := ∀ g : BitVec 4, (eretRun g).completes

/-- R92. -/
def Obligations.Waits : Prop := ∀ (a : BitVec 6) (g : BitVec 4), ∀ w ∈ waitRuns a g, w.completes

/-- R340 and R341. That fread and fwait look at the flag after the stream's own updates on their way is the model's choice (log 28). -/
def Obligations.Flags : Prop := ∀ (x y : BitVec 6) (g : BitVec 4), ∀ w ∈ flags x y g, w.completes

/-- R343. -/
def Obligations.Barriers : Prop := ∀ (x y : BitVec 6) (g : BitVec 4), ∀ w ∈ barriers x y g, w.completes

/-- R346 and R348. That fut.reg keeps bits 15:2 of the state word, which R344 has written as 0, is the model's choice (log 28). -/
def Obligations.Futures : Prop :=
  ∀ (x y : BitVec 6) (z : BitVec 2) (g : BitVec 4), (∀ w ∈ futures x y g, w.completes) ∧ ∀ w ∈ watches x y z g, w.completes

/-- R147 to R156. -/
def Obligations.Workgroups : Prop :=
  ∀ (x d c im : BitVec 6) (g : BitVec 4), ∀ w ∈ workgroups x d c im g, w.completes

/-- R189 to R197. That rpush reads its source when it issues is the model's choice (log 21). -/
def Obligations.Rings : Prop :=
  (∀ (x n : BitVec 6) (g : BitVec 4), n.toNat < 32 → ∀ w ∈ ringRuns x n g, w.completes) ∧
  (∀ (k a : BitVec 6) (g : BitVec 4), k.toNat < 4 → (ringBindRun k a g).completes) ∧
  ∀ (x p : BitVec 6) (g : BitVec 4), (pushRun x p g).completes

/-- R199, R208 and R214. -/
def Obligations.Copies : Prop :=
  (∀ (x y z : BitVec 6) (g : BitVec 4), z.toNat < 32 → z.toNat % 2 = 0 → ∀ w ∈ copyRuns x y z g, w.completes) ∧
  (∀ (x : BitVec 6) (g : BitVec 4), (resumeRun x g).completes) ∧
  ∀ (d r b : BitVec 6) (g : BitVec 4), (countRun d r b g).completes

/-- R227, R230, R232 and R240. For how long acczero and accrd occupy the array's units (log 42), and that accld reads its record at
issue (log 7), are the model's choice. -/
def Obligations.ArrayTables : Prop :=
  (∀ (n y : BitVec 6) (g : BitVec 4), n.toNat < 16 → ∀ w ∈ tableRuns n y g, w.completes) ∧
  ∀ (im c : BitVec 1) (a : BitVec 3) (sd : BitVec 4) (r : BitVec 5) (g : BitVec 4), (readoutRun im a sd c r g).completes

/-- R233 to R237. That operands are read at issue (log 7), and for how long the path is occupied (log 42), are the model's choice. -/
def Obligations.ArrayProducts : Prop :=
  ∀ (m a : BitVec 3) (e c z b : BitVec 1) (s1 t : BitVec 4) (g : BitVec 4), m.toNat < 6 →
    ∀ w ∈ arrayRuns m a e c z b s1 t g, w.completes

/-- R241 to R243. -/
def Obligations.LaneAlgebra : Prop :=
  (∀ (n : Nat) (d a b : BitVec 6) (g : BitVec 4), dimOk n = true → ∀ w ∈ algebraRuns n d a b g, w.completes) ∧
  ∀ (d a : BitVec 6) (f : BitVec 3) (g : BitVec 4), f.toNat ≤ 5 → (compressRun d a f g).completes

/-- R251 to R258. That wload and tma read their bytes at issue (log 7), and for how long they occupy their units (log 42), are
the model's choice. -/
def Obligations.WeightMacros : Prop :=
  (∀ (p a c : BitVec 6) (g : BitVec 4), p.toNat < 8 → (pageRun p a c g).completes) ∧
  (∀ (p n : BitVec 3) (z u : BitVec 1) (s1 : BitVec 4) (g : BitVec 4), (chainRun p n z u s1 g).completes) ∧
  (∀ (o ss : BitVec 2) (w a : BitVec 5) (sd : BitVec 4) (g : BitVec 4), w.toNat < 24 → a.toNat < 24 →
    (columnsRun o ss w a sd g).completes) ∧
  ∀ (d sel : BitVec 6) (g : BitVec 4), sel.toNat ≤ 8 → (statusRun d sel g).completes

/-- R263 to R273. That route and rret read their sources at issue (log 21), and the order of rasm's ties (log 22), are the model's
choice. -/
def Obligations.Routes : Prop :=
  (∀ (y : BitVec 6) (g : BitVec 4), ∀ w ∈ portRuns y g, w.completes) ∧
  (∀ (v y : BitVec 6) (g : BitVec 4), v.toNat < 3 → (routeRun v y g).completes) ∧
  (∀ (x y : BitVec 6) (g : BitVec 4), (returnRun x y g).completes) ∧
  ∀ (d n : BitVec 6) (g : BitVec 4), (entryRun d n g).completes

/-- R375, R376. A stream or thread in a wait has not executed it: what it popped goes back and its wait is given up
(R130, R212). One with an open region gives it up first with cause 8, and resumes at the fallback (R339). -/
def Obligations.TakesException : Prop :=
  ∀ (s : State) (key l cause cls : Nat) (info detail iaddr : DWord),
    (s.handles key l →
      s.interrupt key l cause cls info detail iaddr = s.entered key l cause cls info detail iaddr ∧
      (s.entered key l cause cls info detail iaddr).trapRec key l = s.recordOf key l cause cls info detail iaddr) ∧
    (∀ w, (s.ctlAt key l).waiting = some w → (s.ctlAt key l).region = none →
      let u := (if isWave key then s else s.unpop key).endWait key l true
      u.handles key l → s.interrupt key l cause cls info detail iaddr = u.entered key l cause cls info detail iaddr) ∧
    ∀ r, (s.ctlAt key l).region = some r → (s.ctlAt key l).waiting = none →
      let u := s.regionAbort key l 8 0
      u.handles key l → s.interrupt key l cause cls info detail iaddr = u.entered key l cause cls info detail iaddr

/-- R45, R57, R58, R146, R244, R259, R276, R285, R372: where an instruction faults, with which cause and information, and what it
leaves as it was. -/
def Obligations.InstructionFaults : Prop :=
  (∀ (d a b im : BitVec 6) (k : BitVec 14) (k5 : BitVec 5) (p pa pb : BitVec 3) (f : BitVec 2) (g d4 a4 : BitVec 4)
    (t : BitVec 1), f ≠ 3 → d4.toNat ≤ 10 → a4.toNat ≤ 10 →
    ∀ w ∈ scalarTable d a b g ++ scalarImmediates d a im k g ++ scalarUnary d a g ++ scalarShorts d4 a im ++
      laneTable d a b im k5 g ++ laneShorts d4 a4 t ++ predicates p pa pb a b g ++ floatTable d a b f g d4 a4 t ++
      floatUnary d a f g d4 a4, w.misused ∧ w.poisoned ∧ w.guarded) ∧
  accessFaults ∧
  (∀ (d a b o : BitVec 6) (z : BitVec 2) (g : BitVec 4), scalarFaults d a o z g ∧ baseFaults d a o z g ∧ gatherFaults d a b g) ∧
  ∀ (n p a c y v : BitVec 6) (g : BitVec 4), unitFaults n p a c y v g

/-- R377, R380: an interruption that arises in a handler escalates and leaves the record of the first. -/
def Obligations.EscalatesInHandler : Prop :=
  ∀ (s : State) (key l cause cls : Nat) (info detail iaddr : DWord), (s.ctlAt key l).handling = true →
    (s.ctlAt key l).region = none → s.keepsRecord (s.interrupt key l cause cls info detail iaddr) key l

/-- R378. On every tile engine and on vision; a stream pops and pushes before the trap is taken, and each executing thread
takes it. -/
def Obligations.Trap : Prop :=
  (∀ (n : BitVec 6) (s : State) (key : Nat) (set : List Nat) (g : BitVec 4), s.issuing key set → s.admits key set g 2 →
    s.operandsReady key set [] [] [] [] → set.Nodup → (∀ l ∈ set, s.handles key l) →
    exec (.trap n g) s = .next (trapped s key set n g)) ∧
  (∀ n : BitVec 6, (encodeWord (.trap n 0)).toNat = n.toNat * 2 ^ 26 + 0x601F) ∧
  decodeTableWord 32 0x1400601F = some (.trap 5 0)

/-- R92, R189, R191, R273, R341, R343, R348: a wait whose condition does not hold. -/
def Obligations.WaitsStop : Prop :=
  ∀ (x y : BitVec 6) (z : BitVec 2) (k : BitVec 3) (g : BitVec 4),
    let same (s : State) (_ : Nat) : State := s
    waitStops (.wait k y g) g ((waitClasses.map fun c => c.2.1).getD k.toNat 0) [y.toNat] []
      (fun _ _ v => .cls k.toNat (v.getD 0 0)) same
      (fun s key v => k = 5 ∨ k = 6 → s.queueCheck key (32 + (v.getD 0 0).toNat % 16) (k = 6) = none) ∧
    waitStops (.barWait x y g) g 0x3F [y.toNat, x.toNat] [] (fun _ _ v => .barWait (v.getD 0 0).toNat (bit (v.getD 1 0) 0))
      State.finishReadouts ∧
    waitStops (.fwait x y g) g 0x1F [y.toNat] [] (fun _ _ v => .fwait x.toNat (v.getD 0 0)) same ∧
    waitStops (.waitl x y z g) g 0x3F [y.toNat, x.toNat] []
      (fun s _ v => .waitl (v.getD 0 0).toNat z.toNat ((v.getD 1 0).toNat % 2 ^ (8 * 2 ^ z.toNat)) s.cyc) State.finishReadouts ∧
    waitStops (.futGet x y 1 g) g 0x3F [y.toNat] [x.toNat] (fun _ _ v => .futGet (v.getD 0 0).toNat x.toNat) State.finishReadouts ∧
    (y.toNat < 32 →
      waitStops (.rwaitf x y g) g 0x1F [] [x.toNat] (fun _ _ _ => .rwaitf y.toNat x.toNat) same
        (fun s key _ => s.mayUse key y.toNat Ring.cons) ∧
      waitStops (.rwaite y g) g 0x1F [] [] (fun _ _ _ => .rwaite y.toNat) same fun s key _ => s.mayUse key y.toNat Ring.prod) ∧
    waitStops (.rasm x y g) g 0x13 [] [x.toNat] (fun _ _ _ => .rasm y.toNat x.toNat) same
      fun s key _ => (s.rteAt (keyCore key) y.toNat).state = 1 ∧ (s.rteAt (keyCore key) y.toNat).job = s.jobOf key 0

/-- R85 and R94. -/
def Obligations.BindAndRendezvous : Prop :=
  (∀ (d a : BitVec 6) (g : BitVec 4), 8 ≤ d.toNat → d.toNat < 16 → (bindRun d a g).completes) ∧ ∀ g : BitVec 4, rdvArrives g

/-- R332, R337 and R338, on the control engine and in a thread. That queue pushes are made at the commit (log 26) and that the lines
are taken in one step with it (log 5) are the model's choice. -/
def Obligations.RegionEnds : Prop :=
  ∀ (o : BitVec 14) (g : BitVec 4), regionAbandoned g ∧ regionNested o g ∧ regionCommits g

/-- R78, R85, R235, R237, R251, R254 and R263: instructions that retire late. -/
def Obligations.Retirements : Prop :=
  (∀ (core ctx eng q start : Nat) (w : DWord), (bindingArrives core ctx eng q start w).occurs) ∧
  (∀ (core ctx eng : Nat) (writes : List (Nat × BitVec 64)) (sums : List (Nat × BitVec 32)) (bytes : List (Nat × Byte))
    (tags : List (Nat × Nat)) (out : Option (List (Nat × Byte))) (fl rows n : Nat) (zero : Bool) (p : Option Port)
    (image : List Nat), ∀ e ∈ retirements core ctx eng writes sums bytes tags out fl rows n zero p image, e.occurs) ∧
  ∀ (id : Nat) (r : Readout), (readoutEnds id r).occurs

/-- R80, R81, R92, R94, R95, R101 and R348: streams that stand. That a stamp's turn comes at the head of the schedule (log 1), and
what becomes of pending pushes beyond 64 (log 38), are the model's choice. -/
def Obligations.StreamEvents : Prop :=
  (∀ (core ctx eng : Nat) (e : DWord), ∀ h ∈ standing core ctx eng e, h.occurs) ∧
  ∀ (who : Agent) (w : Wait) (t : State) (addr size start : Nat) (v : DWord), ∀ h ∈ waitEnds who w t addr size start v, h.occurs

/-- R130, R212, R272, R367 and R377. The address of a deferred fault that keeps none is the model's choice (log 29). -/
def Obligations.ExceptionEvents : Prop :=
  ∀ (who : Agent) (core ctx eng n : Nat) (e : DWord) (d : Deferred), ∀ h ∈ exceptions who core ctx eng n e d, h.occurs

/-- R194 to R197, R204, R210, R211, R267 to R272 and R341. -/
def Obligations.Arrivals : Prop :=
  (∀ (id : Nat) (u : FlagUpd) (c : Cmd) (d : Delivery) (p : Push) (r : Ret) (reason faddr : Nat),
    ∀ h ∈ arrivals id u c d p r reason faddr, h.occurs) ∧
  ∀ (key : Nat) (x : BitVec 1) (r : Retire) (e : Nat × List Word) (core n : Nat),
    ∀ h ∈ elementsAndDeadlines key x r e core n, h.occurs

/-- R97, R99, R106, R109, R111, R112, R114 and R115. -/
def Obligations.DispatcherEvents : Prop :=
  ∀ (addr t v : DWord) (slot agent rate n at_ k : Nat) (ls : List Level) (u : State),
    ∀ e ∈ dispatcherEvents addr t v slot agent rate n at_ k ls u, e.occurs

/-- R120, R122, R125, R128, R136 to R138, R148, R149, R183 and R248. Answers for workgroups that ended, when the dispatcher evaluates
after a clearing and the time of the hinge (log 33), that a restore comes before a placement (log 39), and the layout of a miss
record (log 40) are the model's choice. -/
def Obligations.PlacementEvents : Prop :=
  ∀ (slot core ctx eng id t a b : Nat) (m : Mailbox) (u : State), ∀ e ∈ placementEvents slot core ctx eng id t a b m u, e.occurs

/-- R356 to R360, R363, R366, R371, R381, R382 and R396. -/
def Obligations.RegisterEvents : Prop :=
  (∀ (addr v : DWord) (core part unit id kind va : Nat) (q : SectorReq) (store : Store),
    ∀ e ∈ registerEvents addr v core part unit id kind va q store, e.occurs) ∧
  (∀ (who : Agent) (va : DWord) (u : State) (x : TlbEnt), (walkFound who va u x).occurs) ∧
  ∀ (n id : Nat) (f : Frame), ∀ e ∈ ingestEvents n id f, e.occurs

/-- R301 to R305, R308, R310, R311, R315, R316, R322 to R324, R330 and R331. That OLD's bytes become NEW's at the cut is the model's
choice (log 5); R315 copies them unit by unit. -/
def Obligations.CoherenceEvents : Prop :=
  (∀ (id : Nat) (m : Msg), ∀ e ∈ homeEvents id m, e.occurs) ∧
  (∀ (id k r : Nat) (m : Msg) (l : Line) (u : State), ∀ e ∈ cacheEvents id k r m l u, e.occurs) ∧
  (∀ (id : Nat) (m : Msg) (u : State), ∀ e ∈ proxyEvents id m u, e.occurs) ∧
  ∀ (peer entry off : Nat) (d : DirEnt), ∀ e ∈ packageEvents peer entry off d, e.occurs

/-- R385 to R394. ERROR 3 for stage 4 (log 41), the partition that a report is charged to (log 37), the report's layout and the images
(log 9) and the kind of a monitor's reading (logs 2 and 18) are the model's choice. -/
def Obligations.IslandEvents : Prop :=
  (∀ (v : DWord) (monitor a : Nat) (reading : BitVec 32) (ok : Bool), ∀ e ∈ islandEvents v monitor a reading ok, e.occurs) ∧
  ∀ (v : DWord) (kind index : Nat) (rest : List (Nat × Nat)), ∀ e ∈ restartEvents v kind index rest, e.occurs

/-- R162: division never faults and sets no flag, and its boundary cases. -/
def Obligations.DivisionCorners : Prop :=
  ∀ (d a b : BitVec 6) (g : BitVec 4),
    divides (.div d a b g) g d.toNat a.toNat b.toNat true false ∧ divides (.divu d a b g) g d.toNat a.toNat b.toNat false false ∧
    divides (.rem d a b g) g d.toNat a.toNat b.toNat true true ∧ divides (.remu d a b g) g d.toNat a.toNat b.toNat false true

/-- R160 to R177: what the scalar, lane, predicate and float instructions leave as it was; t0 and t1 take every lane result. R285 to
R287, R326: loads change no byte of memory, and stores and atomics none but those at the place of the address they compute. -/
def Obligations.Frames : Prop :=
  ∀ (d a b im : BitVec 6) (k : BitVec 14) (k5 : BitVec 5) (p pa pb : BitVec 3) (f : BitVec 2) (g d4 a4 : BitVec 4) (t : BitVec 1),
    f ≠ 3 → d4.toNat ≤ 10 → a4.toNat ≤ 10 →
    (∀ w ∈ scalarTable d a b g ++ scalarImmediates d a im k g ++ scalarUnary d a g ++ scalarShorts d4 a im, w.frame [] [] false) ∧
    (∀ w ∈ laneTable d a b im k5 g ++ laneShorts d4 a4 t, w.frame (0x38 :: 0x39 :: w.ldst) [] false) ∧
    (∀ w ∈ predicates p pa pb a b g, w.frame [] [p.toNat] false) ∧
    (∀ w ∈ floatTable d a b f g d4 a4 t ++ floatUnary d a f g d4 a4, w.frame (0x38 :: 0x39 :: w.ldst) [] true) ∧
    ∀ z : BitVec 2, memoryFrames d a b im z g

/-- Words that the spec writes out decode to the instructions it gives them. -/
def Obligations.KnownWords : Prop := ∀ x ∈ knownWords, decodeTableWord x.1 x.2.1 = some x.2.2

/-- R40 to R55: an instruction is what its bytes decode to, whatever follows them. -/
def Obligations.DecodesItsEncoding : Prop :=
  ∀ (i : Instr) (rest : List Byte), i.wf = true → encode i ≠ [] → decodeBytes (encodeBytes i ++ rest) = .ok (i, rest)

/-- R40 to R57: bytes that decode are the encoding of the instruction they decode to, which is well formed; so no two words
are one instruction, and every bit of a word counts. -/
def Obligations.DecodedBytesAreEncodings : Prop :=
  ∀ (bs rest : List Byte) (i : Instr), decodeBytes bs = .ok (i, rest) → i.wf = true ∧ bs = encodeBytes i ++ rest

/-- R40 to R43, R74, R76, R77, R141, R142: a step runs the instruction that the word at the program counter decodes to. That an
engine's turn is put off by a tile cycle and that a stamp cuts a turn (log 1), the choice of a context that the rules leave open
(log 22) and what an instruction cache keeps (log 36) are the model's choice. -/
def Obligations.StepRunsTheWord : Prop :=
  (∀ (s u t : State) (core eng cyc ns : Nat) (rest : List Sched) (w n : Nat) (i : Instr),
    streamStep s u t core eng cyc ns rest w n i) ∧
  (∀ (s u v t : State) (core part cyc ns : Nat) (rest : List Sched) (key place : Nat) (h0 h1 : Half) (i : Instr),
    waveStep s u v t core part cyc ns rest key place h0 h1 i) ∧
  ∀ (s u : State) (key l : Nat) (va : DWord) (p : Place), fetches s u key l va p

/-- R26, R312, R391: what reset leaves. Memory lists nothing, so it is canonical. That the cycle counter is 0 and every card slot FREE
before bring-up (log 14), and that unlisted bytes read 0 (log 4), are the model's choice. -/
def Obligations.ResetState : Prop :=
  let s := State.reset
  s.canonical ∧ (∀ a, s.byteAt a = 0) ∧ (∀ k, s.loc.get 0 k = 0) ∧ (∀ n, (s.slotAt n).state = 0) ∧ s.cyc = 0 ∧
  s.island.phase = 0 ∧ (∀ key l, (s.ctlAt key l).life = .off ∧ (s.ctlAt key l).fmode = 0 ∧ (s.ctlAt key l).fflags = 0) ∧
  (∀ h p, h < 80 → p < 64 → s.creg_ (slcBase h + 8 * p) = 0xFFFF) ∧ s.flights = [] ∧ s.agenda = []

/-- Every step keeps memory, the scratchpads and the local stores in canonical form. -/
def Obligations.StepKeepsMemoryCanonical : Prop :=
  ∀ s t : State, s.canonical → step s = .next t → t.canonical

/-- No step stops: every fault of a program is an exception that it takes. Every event, and every word that a stream or thread
issues, gives a next state; a step scheduled from outside is an event. -/
def Obligations.EveryStepGoesOn : Prop :=
  (∀ (i : Instr) (s : State), (encode i ≠ [] → s.cur.isSome = true) → ∃ t, exec i s = .next t) ∧
  ∀ s : State, (∀ t ∈ s.agenda.head?, ∀ i, t.turn = .event i → encode i = []) → ∃ t, step s = .next t

end
end

