-- ==== Sys2Proof/Laws/Tab.lean ====
section
/-! SUPPORT. Laws of tables: a read after a write, writes to one key, and the canonical form. -/

namespace Sys2Proof.Machine

variable {β : Type}

/-! ### Reads after writes -/

@[simp] theorem Tab.get_nil (d : β) (k : Nat) : Tab.get d [] k = d := rfl

@[simp] theorem Tab.find_nil (k : Nat) : Tab.find ([] : Tab β) k = none := rfl

theorem Tab.get_eq_find (d : β) (t : Tab β) (k : Nat) : t.get d k = (t.find k).getD d := by
  induction t with
  | nil => rfl
  | cons e t ih => simp only [Tab.get, Tab.find]; split <;> simp [ih]

@[simp] theorem Tab.find_del_same (t : Tab β) (k : Nat) : (t.del k).find k = none := by
  induction t with
  | nil => rfl
  | cons e t ih => simp only [Tab.del]; split <;> simp_all [Tab.find]

theorem Tab.find_del_other (t : Tab β) {k j : Nat} (h : j ≠ k) : (t.del k).find j = t.find j := by
  induction t with
  | nil => rfl
  | cons e t ih =>
    simp only [Tab.del]
    split
    · next he => simp only [Tab.find, ih]; rw [if_neg]; omega
    · simp only [Tab.find, ih]

@[simp] theorem Tab.find_ins_same (t : Tab β) (k : Nat) (v : β) (h : t.find k = none) : (t.ins k v).find k = some v := by
  induction t with
  | nil => simp [Tab.ins, Tab.find]
  | cons e t ih =>
    simp only [Tab.find] at h
    split at h
    · cases h
    · next he => simp only [Tab.ins]; split <;> simp [Tab.find, he, ih h]

theorem Tab.find_ins_other (t : Tab β) {k j : Nat} (v : β) (h : j ≠ k) : (t.ins k v).find j = t.find j := by
  induction t with
  | nil => simp [Tab.ins, Tab.find, Ne.symm h]
  | cons e t ih => simp only [Tab.ins]; split <;> simp [Tab.find, ih, Ne.symm h]

@[simp] theorem Tab.find_put_same (t : Tab β) (k : Nat) (v : β) : (t.put k v).find k = some v := by
  simp [Tab.put]

theorem Tab.find_put_other (t : Tab β) {k j : Nat} (v : β) (h : j ≠ k) : (t.put k v).find j = t.find j := by
  rw [Tab.put, Tab.find_ins_other _ _ h, Tab.find_del_other _ h]

@[simp] theorem Tab.get_put_same (d : β) (t : Tab β) (k : Nat) (v : β) : (t.put k v).get d k = v := by
  simp [Tab.get_eq_find]

theorem Tab.get_put_other (d : β) (t : Tab β) {k j : Nat} (v : β) (h : j ≠ k) : (t.put k v).get d j = t.get d j := by
  simp [Tab.get_eq_find, Tab.find_put_other t v h]

@[simp] theorem Tab.get_set_same [DecidableEq β] (d : β) (t : Tab β) (k : Nat) (v : β) : (t.set d k v).get d k = v := by
  unfold Tab.set
  split <;> simp_all [Tab.get_eq_find]

theorem Tab.get_set_other [DecidableEq β] (d : β) (t : Tab β) {k j : Nat} (v : β) (h : j ≠ k) :
    (t.set d k v).get d j = t.get d j := by
  unfold Tab.set
  split
  · simp [Tab.get_eq_find, Tab.find_del_other t h]
  · simp [Tab.get_eq_find, Tab.find_ins_other _ v h, Tab.find_del_other t h]

/-- A read after a write, whichever key is read. -/
theorem Tab.get_set [DecidableEq β] (d : β) (t : Tab β) (k j : Nat) (v : β) :
    (t.set d k v).get d j = if j = k then v else t.get d j := by
  by_cases h : j = k
  · simp [h]
  · simp [h, Tab.get_set_other d t v h]

/-- A read after a write, whichever key is read. -/
theorem Tab.get_put (d : β) (t : Tab β) (k j : Nat) (v : β) :
    (t.put k v).get d j = if j = k then v else t.get d j := by
  by_cases h : j = k
  · simp [h]
  · simp [h, Tab.get_put_other d t v h]

/-! ### Writes to one key -/

theorem Tab.del_of_find_none (t : Tab β) (k : Nat) (h : t.find k = none) : t.del k = t := by
  induction t with
  | nil => rfl
  | cons e t ih =>
    simp only [Tab.find] at h
    split at h
    · cases h
    · next he => simp [Tab.del, he, ih h]

theorem Tab.del_ins (t : Tab β) (k : Nat) (v : β) (h : t.find k = none) : (t.ins k v).del k = t := by
  induction t with
  | nil => simp [Tab.ins, Tab.del]
  | cons e t ih =>
    simp only [Tab.find] at h
    split at h
    · cases h
    · next he =>
      simp only [Tab.ins]
      split
      · simp [Tab.del, he, ih h]
      · simp [Tab.del, he, Tab.del_of_find_none t k h]

@[simp] theorem Tab.put_put (t : Tab β) (k : Nat) (v w : β) : (t.put k v).put k w = t.put k w := by
  simp [Tab.put, Tab.del_ins]

/-! ### The canonical form -/

/-- Keys rise strictly. -/
def Tab.sorted (t : Tab β) : Prop := t.Pairwise fun a b => a.1 < b.1

theorem Tab.canon_iff [DecidableEq β] (d : β) (t : Tab β) :
    Tab.canon d t = true ↔ t.sorted ∧ ∀ e ∈ t, e.2 ≠ d := by
  induction t with
  | nil => simp [Tab.canon, Tab.sorted]
  | cons e t ih =>
    cases t with
    | nil => simp [Tab.canon, Tab.sorted]
    | cons f t =>
      simp only [Tab.canon, Bool.and_eq_true, decide_eq_true_eq, bne_iff_ne, ih, Tab.sorted, List.pairwise_cons,
        List.forall_mem_cons]
      constructor
      · rintro ⟨⟨h1, h2⟩, ⟨h3, h4⟩, h5, h6⟩
        exact ⟨⟨⟨h1, fun a ha => Nat.lt_trans h1 (h3 a ha)⟩, h3, h4⟩, h2, h5, h6⟩
      · rintro ⟨⟨⟨h1, _⟩, h3, h4⟩, h2, h5, h6⟩
        exact ⟨⟨h1, h2⟩, ⟨h3, h4⟩, h5, h6⟩

theorem Tab.mem_del {t : Tab β} {k : Nat} {e : Nat × β} (h : e ∈ t.del k) : e ∈ t ∧ e.1 ≠ k := by
  induction t with
  | nil => cases h
  | cons f t ih =>
    simp only [Tab.del] at h
    split at h
    · exact ⟨List.mem_cons_of_mem _ (ih h).1, (ih h).2⟩
    · next hf =>
      rcases List.mem_cons.1 h with rfl | h
      · exact ⟨List.mem_cons_self, hf⟩
      · exact ⟨List.mem_cons_of_mem _ (ih h).1, (ih h).2⟩

theorem Tab.mem_ins {t : Tab β} {k : Nat} {v : β} {e : Nat × β} (h : e ∈ t.ins k v) : e = (k, v) ∨ e ∈ t := by
  induction t with
  | nil => simpa [Tab.ins] using h
  | cons f t ih =>
    simp only [Tab.ins] at h
    split at h
    · rcases List.mem_cons.1 h with rfl | h
      · exact .inr List.mem_cons_self
      · exact (ih h).imp_right (List.mem_cons_of_mem _)
    · exact (List.mem_cons.1 h)

theorem Tab.sorted_del {t : Tab β} (h : t.sorted) (k : Nat) : (t.del k).sorted := by
  induction t with
  | nil => exact h
  | cons e t ih =>
    have ht := List.pairwise_cons.1 h
    simp only [Tab.del]
    split
    · exact ih ht.2
    · exact List.pairwise_cons.2 ⟨fun a ha => ht.1 a (Tab.mem_del ha).1, ih ht.2⟩

theorem Tab.sorted_ins {t : Tab β} (h : t.sorted) (k : Nat) (v : β) (hk : ∀ e ∈ t, e.1 ≠ k) : (t.ins k v).sorted := by
  induction t with
  | nil => simp [Tab.ins, Tab.sorted]
  | cons e t ih =>
    have ht := List.pairwise_cons.1 h
    have hek : e.1 ≠ k := hk e List.mem_cons_self
    simp only [Tab.ins]
    split
    · next hlt =>
      refine List.pairwise_cons.2 ⟨fun a ha => ?_, ih ht.2 fun f hf => hk f (List.mem_cons_of_mem _ hf)⟩
      rcases Tab.mem_ins ha with rfl | ha
      · exact hlt
      · exact ht.1 a ha
    · next hge =>
      refine List.pairwise_cons.2 ⟨fun a ha => ?_, h⟩
      rcases List.mem_cons.1 ha with rfl | ha
      · show k < _; omega
      · have := ht.1 a ha; show k < _; omega

/-- Setting a key keeps the canonical form. -/
theorem Tab.canon_set [DecidableEq β] {d : β} {t : Tab β} (h : Tab.canon d t = true) (k : Nat) (v : β) :
    Tab.canon d (t.set d k v) = true := by
  rw [Tab.canon_iff] at h ⊢
  unfold Tab.set
  split
  · exact ⟨Tab.sorted_del h.1 k, fun e he => h.2 e (Tab.mem_del he).1⟩
  · next hv =>
    refine ⟨Tab.sorted_ins (Tab.sorted_del h.1 k) k v fun e he => (Tab.mem_del he).2, fun e he => ?_⟩
    rcases Tab.mem_ins he with rfl | he
    · exact hv
    · exact h.2 e (Tab.mem_del he).1

/-- Leaving entries out keeps the canonical form. -/
theorem Tab.canon_filter [DecidableEq β] {d : β} {t : Tab β} (h : Tab.canon d t = true) (p : Nat × β → Bool) :
    Tab.canon d (t.filter p) = true := by
  rw [Tab.canon_iff] at h ⊢
  exact ⟨List.Pairwise.filter p h.1, fun e he => h.2 e (List.mem_filter.1 he).1⟩

end Sys2Proof.Machine
end

