-- ==== Sys2Proof/Laws/State.lean ====
section
/-! SUPPORT. What each named update of the state leaves alone, field by field, and what a read after it gives. -/

namespace Sys2Proof.Machine

variable (s : State)

/-! ### sset -/

@[simp] theorem State.sset_ns (key n : Nat) (v : DWord) : (s.sset key n v).ns = s.ns := rfl
@[simp] theorem State.sset_cyc (key n : Nat) (v : DWord) : (s.sset key n v).cyc = s.cyc := rfl
@[simp] theorem State.sset_agenda (key n : Nat) (v : DWord) : (s.sset key n v).agenda = s.agenda := rfl
@[simp] theorem State.sset_cur (key n : Nat) (v : DWord) : (s.sset key n v).cur = s.cur := rfl
@[simp] theorem State.sset_rank (key n : Nat) (v : DWord) : (s.sset key n v).rank = s.rank := rfl
@[simp] theorem State.sset_free (key n : Nat) (v : DWord) : (s.sset key n v).free = s.free := rfl
@[simp] theorem State.sset_ctl (key n : Nat) (v : DWord) : (s.sset key n v).ctl = s.ctl := rfl
@[simp] theorem State.sset_lreg (key n : Nat) (v : DWord) : (s.sset key n v).lreg = s.lreg := rfl
@[simp] theorem State.sset_preg (key n : Nat) (v : DWord) : (s.sset key n v).preg = s.preg := rfl
@[simp] theorem State.sset_tokens (key n : Nat) (v : DWord) : (s.sset key n v).tokens = s.tokens := rfl
@[simp] theorem State.sset_fresh (key n : Nat) (v : DWord) : (s.sset key n v).fresh = s.fresh := rfl
@[simp] theorem State.sset_queues (key n : Nat) (v : DWord) : (s.sset key n v).queues = s.queues := rfl
@[simp] theorem State.sset_qbinds (key n : Nat) (v : DWord) : (s.sset key n v).qbinds = s.qbinds := rfl
@[simp] theorem State.sset_ctxJob (key n : Nat) (v : DWord) : (s.sset key n v).ctxJob = s.ctxJob := rfl
@[simp] theorem State.sset_engCtx (key n : Nat) (v : DWord) : (s.sset key n v).engCtx = s.engCtx := rfl
@[simp] theorem State.sset_slots (key n : Nat) (v : DWord) : (s.sset key n v).slots = s.slots := rfl
@[simp] theorem State.sset_waves (key n : Nat) (v : DWord) : (s.sset key n v).waves = s.waves := rfl
@[simp] theorem State.sset_groups (key n : Nat) (v : DWord) : (s.sset key n v).groups = s.groups := rfl
@[simp] theorem State.sset_xqueue (key n : Nat) (v : DWord) : (s.sset key n v).xqueue = s.xqueue := rfl
@[simp] theorem State.sset_regionBufs (key n : Nat) (v : DWord) : (s.sset key n v).regionBufs = s.regionBufs := rfl
@[simp] theorem State.sset_turns (key n : Nat) (v : DWord) : (s.sset key n v).turns = s.turns := rfl
@[simp] theorem State.sset_mem (key n : Nat) (v : DWord) : (s.sset key n v).mem = s.mem := rfl
@[simp] theorem State.sset_dirty (key n : Nat) (v : DWord) : (s.sset key n v).dirty = s.dirty := rfl
@[simp] theorem State.sset_aliases (key n : Nat) (v : DWord) : (s.sset key n v).aliases = s.aliases := rfl
@[simp] theorem State.sset_loc (key n : Nat) (v : DWord) : (s.sset key n v).loc = s.loc := rfl
@[simp] theorem State.sset_rings (key n : Nat) (v : DWord) : (s.sset key n v).rings = s.rings := rfl
@[simp] theorem State.sset_flights (key n : Nat) (v : DWord) : (s.sset key n v).flights = s.flights := rfl
@[simp] theorem State.sset_nextId (key n : Nat) (v : DWord) : (s.sset key n v).nextId = s.nextId := rfl
@[simp] theorem State.sset_acc (key n : Nat) (v : DWord) : (s.sset key n v).acc = s.acc := rfl
@[simp] theorem State.sset_busy (key n : Nat) (v : DWord) : (s.sset key n v).busy = s.busy := rfl
@[simp] theorem State.sset_colAcc (key n : Nat) (v : DWord) : (s.sset key n v).colAcc = s.colAcc := rfl
@[simp] theorem State.sset_caOwner (key n : Nat) (v : DWord) : (s.sset key n v).caOwner = s.caOwner := rfl
@[simp] theorem State.sset_caCtx (key n : Nat) (v : DWord) : (s.sset key n v).caCtx = s.caCtx := rfl
@[simp] theorem State.sset_pages (key n : Nat) (v : DWord) : (s.sset key n v).pages = s.pages := rfl
@[simp] theorem State.sset_pageTags (key n : Nat) (v : DWord) : (s.sset key n v).pageTags = s.pageTags := rfl
@[simp] theorem State.sset_shapes (key n : Nat) (v : DWord) : (s.sset key n v).shapes = s.shapes := rfl
@[simp] theorem State.sset_accords (key n : Nat) (v : DWord) : (s.sset key n v).accords = s.accords := rfl
@[simp] theorem State.sset_rtes (key n : Nat) (v : DWord) : (s.sset key n v).rtes = s.rtes := rfl
@[simp] theorem State.sset_orphans (key n : Nat) (v : DWord) : (s.sset key n v).orphans = s.orphans := rfl
@[simp] theorem State.sset_predictor (key n : Nat) (v : DWord) : (s.sset key n v).predictor = s.predictor := rfl
@[simp] theorem State.sset_poisonMem (key n : Nat) (v : DWord) : (s.sset key n v).poisonMem = s.poisonMem := rfl
@[simp] theorem State.sset_poisonNew (key n : Nat) (v : DWord) : (s.sset key n v).poisonNew = s.poisonNew := rfl
@[simp] theorem State.sset_zeroed (key n : Nat) (v : DWord) : (s.sset key n v).zeroed = s.zeroed := rfl
@[simp] theorem State.sset_poisonLoc (key n : Nat) (v : DWord) : (s.sset key n v).poisonLoc = s.poisonLoc := rfl
@[simp] theorem State.sset_poisonLane (key n : Nat) (v : DWord) : (s.sset key n v).poisonLane = s.poisonLane := rfl
@[simp] theorem State.sset_poisonAcc (key n : Nat) (v : DWord) : (s.sset key n v).poisonAcc = s.poisonAcc := rfl
@[simp] theorem State.sset_poisonCa (key n : Nat) (v : DWord) : (s.sset key n v).poisonCa = s.poisonCa := rfl
@[simp] theorem State.sset_poisonPage (key n : Nat) (v : DWord) : (s.sset key n v).poisonPage = s.poisonPage := rfl
@[simp] theorem State.sset_tlbs (key n : Nat) (v : DWord) : (s.sset key n v).tlbs = s.tlbs := rfl
@[simp] theorem State.sset_installed (key n : Nat) (v : DWord) : (s.sset key n v).installed = s.installed := rfl
@[simp] theorem State.sset_pkg (key n : Nat) (v : DWord) : (s.sset key n v).pkg = s.pkg := rfl
@[simp] theorem State.sset_failedLinks (key n : Nat) (v : DWord) : (s.sset key n v).failedLinks = s.failedLinks := rfl
@[simp] theorem State.sset_creg (key n : Nat) (v : DWord) : (s.sset key n v).creg = s.creg := rfl
@[simp] theorem State.sset_icache (key n : Nat) (v : DWord) : (s.sset key n v).icache = s.icache := rfl
@[simp] theorem State.sset_caches (key n : Nat) (v : DWord) : (s.sset key n v).caches = s.caches := rfl
@[simp] theorem State.sset_roomWait (key n : Nat) (v : DWord) : (s.sset key n v).roomWait = s.roomWait := rfl
@[simp] theorem State.sset_dir (key n : Nat) (v : DWord) : (s.sset key n v).dir = s.dir := rfl
@[simp] theorem State.sset_lines (key n : Nat) (v : DWord) : (s.sset key n v).lines = s.lines := rfl
@[simp] theorem State.sset_homeQueue (key n : Nat) (v : DWord) : (s.sset key n v).homeQueue = s.homeQueue := rfl
@[simp] theorem State.sset_protocolErrors (key n : Nat) (v : DWord) : (s.sset key n v).protocolErrors = s.protocolErrors := rfl
@[simp] theorem State.sset_migrated (key n : Nat) (v : DWord) : (s.sset key n v).migrated = s.migrated := rfl
@[simp] theorem State.sset_routing (key n : Nat) (v : DWord) : (s.sset key n v).routing = s.routing := rfl
@[simp] theorem State.sset_routingErrors (key n : Nat) (v : DWord) : (s.sset key n v).routingErrors = s.routingErrors := rfl
@[simp] theorem State.sset_invalidating (key n : Nat) (v : DWord) : (s.sset key n v).invalidating = s.invalidating := rfl
@[simp] theorem State.sset_regulators (key n : Nat) (v : DWord) : (s.sset key n v).regulators = s.regulators := rfl
@[simp] theorem State.sset_island (key n : Nat) (v : DWord) : (s.sset key n v).island = s.island := rfl
@[simp] theorem State.sset_pairNs (key n : Nat) (v : DWord) : (s.sset key n v).pairNs = s.pairNs := rfl
@[simp] theorem State.sset_pairCyc (key n : Nat) (v : DWord) : (s.sset key n v).pairCyc = s.pairCyc := rfl
@[simp] theorem State.sset_nextPair (key n : Nat) (v : DWord) : (s.sset key n v).nextPair = s.nextPair := rfl
@[simp] theorem State.sset_nextScan (key n : Nat) (v : DWord) : (s.sset key n v).nextScan = s.nextScan := rfl
@[simp] theorem State.sset_pairLatch (key n : Nat) (v : DWord) : (s.sset key n v).pairLatch = s.pairLatch := rfl
@[simp] theorem State.sset_rate (key n : Nat) (v : DWord) : (s.sset key n v).rate = s.rate := rfl
@[simp] theorem State.sset_corrected (key n : Nat) (v : DWord) : (s.sset key n v).corrected = s.corrected := rfl
@[simp] theorem State.sset_poisoned (key n : Nat) (v : DWord) : (s.sset key n v).poisoned = s.poisoned := rfl
@[simp] theorem State.sset_evaluations (key n : Nat) (v : DWord) : (s.sset key n v).evaluations = s.evaluations := rfl
@[simp] theorem State.sset_pciePart (key n : Nat) (v : DWord) : (s.sset key n v).pciePart = s.pciePart := rfl
@[simp] theorem State.sset_ingestDropped (key n : Nat) (v : DWord) : (s.sset key n v).ingestDropped = s.ingestDropped := rfl
@[simp] theorem State.sset_islandInterrupts (key n : Nat) (v : DWord) : (s.sset key n v).islandInterrupts = s.islandInterrupts := rfl
@[simp] theorem State.sset_msi (key n : Nat) (v : DWord) : (s.sset key n v).msi = s.msi := rfl

/-! ### lset -/

@[simp] theorem State.lset_ns (key r l : Nat) (v : Word) : (s.lset key r l v).ns = s.ns := rfl
@[simp] theorem State.lset_cyc (key r l : Nat) (v : Word) : (s.lset key r l v).cyc = s.cyc := rfl
@[simp] theorem State.lset_agenda (key r l : Nat) (v : Word) : (s.lset key r l v).agenda = s.agenda := rfl
@[simp] theorem State.lset_cur (key r l : Nat) (v : Word) : (s.lset key r l v).cur = s.cur := rfl
@[simp] theorem State.lset_rank (key r l : Nat) (v : Word) : (s.lset key r l v).rank = s.rank := rfl
@[simp] theorem State.lset_free (key r l : Nat) (v : Word) : (s.lset key r l v).free = s.free := rfl
@[simp] theorem State.lset_ctl (key r l : Nat) (v : Word) : (s.lset key r l v).ctl = s.ctl := rfl
@[simp] theorem State.lset_sreg (key r l : Nat) (v : Word) : (s.lset key r l v).sreg = s.sreg := rfl
@[simp] theorem State.lset_preg (key r l : Nat) (v : Word) : (s.lset key r l v).preg = s.preg := rfl
@[simp] theorem State.lset_tokens (key r l : Nat) (v : Word) : (s.lset key r l v).tokens = s.tokens := rfl
@[simp] theorem State.lset_fresh (key r l : Nat) (v : Word) : (s.lset key r l v).fresh = s.fresh := rfl
@[simp] theorem State.lset_queues (key r l : Nat) (v : Word) : (s.lset key r l v).queues = s.queues := rfl
@[simp] theorem State.lset_qbinds (key r l : Nat) (v : Word) : (s.lset key r l v).qbinds = s.qbinds := rfl
@[simp] theorem State.lset_ctxJob (key r l : Nat) (v : Word) : (s.lset key r l v).ctxJob = s.ctxJob := rfl
@[simp] theorem State.lset_engCtx (key r l : Nat) (v : Word) : (s.lset key r l v).engCtx = s.engCtx := rfl
@[simp] theorem State.lset_slots (key r l : Nat) (v : Word) : (s.lset key r l v).slots = s.slots := rfl
@[simp] theorem State.lset_waves (key r l : Nat) (v : Word) : (s.lset key r l v).waves = s.waves := rfl
@[simp] theorem State.lset_groups (key r l : Nat) (v : Word) : (s.lset key r l v).groups = s.groups := rfl
@[simp] theorem State.lset_xqueue (key r l : Nat) (v : Word) : (s.lset key r l v).xqueue = s.xqueue := rfl
@[simp] theorem State.lset_regionBufs (key r l : Nat) (v : Word) : (s.lset key r l v).regionBufs = s.regionBufs := rfl
@[simp] theorem State.lset_turns (key r l : Nat) (v : Word) : (s.lset key r l v).turns = s.turns := rfl
@[simp] theorem State.lset_mem (key r l : Nat) (v : Word) : (s.lset key r l v).mem = s.mem := rfl
@[simp] theorem State.lset_dirty (key r l : Nat) (v : Word) : (s.lset key r l v).dirty = s.dirty := rfl
@[simp] theorem State.lset_aliases (key r l : Nat) (v : Word) : (s.lset key r l v).aliases = s.aliases := rfl
@[simp] theorem State.lset_loc (key r l : Nat) (v : Word) : (s.lset key r l v).loc = s.loc := rfl
@[simp] theorem State.lset_rings (key r l : Nat) (v : Word) : (s.lset key r l v).rings = s.rings := rfl
@[simp] theorem State.lset_flights (key r l : Nat) (v : Word) : (s.lset key r l v).flights = s.flights := rfl
@[simp] theorem State.lset_nextId (key r l : Nat) (v : Word) : (s.lset key r l v).nextId = s.nextId := rfl
@[simp] theorem State.lset_acc (key r l : Nat) (v : Word) : (s.lset key r l v).acc = s.acc := rfl
@[simp] theorem State.lset_busy (key r l : Nat) (v : Word) : (s.lset key r l v).busy = s.busy := rfl
@[simp] theorem State.lset_colAcc (key r l : Nat) (v : Word) : (s.lset key r l v).colAcc = s.colAcc := rfl
@[simp] theorem State.lset_caOwner (key r l : Nat) (v : Word) : (s.lset key r l v).caOwner = s.caOwner := rfl
@[simp] theorem State.lset_caCtx (key r l : Nat) (v : Word) : (s.lset key r l v).caCtx = s.caCtx := rfl
@[simp] theorem State.lset_pages (key r l : Nat) (v : Word) : (s.lset key r l v).pages = s.pages := rfl
@[simp] theorem State.lset_pageTags (key r l : Nat) (v : Word) : (s.lset key r l v).pageTags = s.pageTags := rfl
@[simp] theorem State.lset_shapes (key r l : Nat) (v : Word) : (s.lset key r l v).shapes = s.shapes := rfl
@[simp] theorem State.lset_accords (key r l : Nat) (v : Word) : (s.lset key r l v).accords = s.accords := rfl
@[simp] theorem State.lset_rtes (key r l : Nat) (v : Word) : (s.lset key r l v).rtes = s.rtes := rfl
@[simp] theorem State.lset_orphans (key r l : Nat) (v : Word) : (s.lset key r l v).orphans = s.orphans := rfl
@[simp] theorem State.lset_predictor (key r l : Nat) (v : Word) : (s.lset key r l v).predictor = s.predictor := rfl
@[simp] theorem State.lset_poisonMem (key r l : Nat) (v : Word) : (s.lset key r l v).poisonMem = s.poisonMem := rfl
@[simp] theorem State.lset_poisonNew (key r l : Nat) (v : Word) : (s.lset key r l v).poisonNew = s.poisonNew := rfl
@[simp] theorem State.lset_zeroed (key r l : Nat) (v : Word) : (s.lset key r l v).zeroed = s.zeroed := rfl
@[simp] theorem State.lset_poisonLoc (key r l : Nat) (v : Word) : (s.lset key r l v).poisonLoc = s.poisonLoc := rfl
@[simp] theorem State.lset_poisonScalar (key r l : Nat) (v : Word) : (s.lset key r l v).poisonScalar = s.poisonScalar := rfl
@[simp] theorem State.lset_poisonAcc (key r l : Nat) (v : Word) : (s.lset key r l v).poisonAcc = s.poisonAcc := rfl
@[simp] theorem State.lset_poisonCa (key r l : Nat) (v : Word) : (s.lset key r l v).poisonCa = s.poisonCa := rfl
@[simp] theorem State.lset_poisonPage (key r l : Nat) (v : Word) : (s.lset key r l v).poisonPage = s.poisonPage := rfl
@[simp] theorem State.lset_tlbs (key r l : Nat) (v : Word) : (s.lset key r l v).tlbs = s.tlbs := rfl
@[simp] theorem State.lset_installed (key r l : Nat) (v : Word) : (s.lset key r l v).installed = s.installed := rfl
@[simp] theorem State.lset_pkg (key r l : Nat) (v : Word) : (s.lset key r l v).pkg = s.pkg := rfl
@[simp] theorem State.lset_failedLinks (key r l : Nat) (v : Word) : (s.lset key r l v).failedLinks = s.failedLinks := rfl
@[simp] theorem State.lset_creg (key r l : Nat) (v : Word) : (s.lset key r l v).creg = s.creg := rfl
@[simp] theorem State.lset_icache (key r l : Nat) (v : Word) : (s.lset key r l v).icache = s.icache := rfl
@[simp] theorem State.lset_caches (key r l : Nat) (v : Word) : (s.lset key r l v).caches = s.caches := rfl
@[simp] theorem State.lset_roomWait (key r l : Nat) (v : Word) : (s.lset key r l v).roomWait = s.roomWait := rfl
@[simp] theorem State.lset_dir (key r l : Nat) (v : Word) : (s.lset key r l v).dir = s.dir := rfl
@[simp] theorem State.lset_lines (key r l : Nat) (v : Word) : (s.lset key r l v).lines = s.lines := rfl
@[simp] theorem State.lset_homeQueue (key r l : Nat) (v : Word) : (s.lset key r l v).homeQueue = s.homeQueue := rfl
@[simp] theorem State.lset_protocolErrors (key r l : Nat) (v : Word) : (s.lset key r l v).protocolErrors = s.protocolErrors := rfl
@[simp] theorem State.lset_migrated (key r l : Nat) (v : Word) : (s.lset key r l v).migrated = s.migrated := rfl
@[simp] theorem State.lset_routing (key r l : Nat) (v : Word) : (s.lset key r l v).routing = s.routing := rfl
@[simp] theorem State.lset_routingErrors (key r l : Nat) (v : Word) : (s.lset key r l v).routingErrors = s.routingErrors := rfl
@[simp] theorem State.lset_invalidating (key r l : Nat) (v : Word) : (s.lset key r l v).invalidating = s.invalidating := rfl
@[simp] theorem State.lset_regulators (key r l : Nat) (v : Word) : (s.lset key r l v).regulators = s.regulators := rfl
@[simp] theorem State.lset_island (key r l : Nat) (v : Word) : (s.lset key r l v).island = s.island := rfl
@[simp] theorem State.lset_pairNs (key r l : Nat) (v : Word) : (s.lset key r l v).pairNs = s.pairNs := rfl
@[simp] theorem State.lset_pairCyc (key r l : Nat) (v : Word) : (s.lset key r l v).pairCyc = s.pairCyc := rfl
@[simp] theorem State.lset_nextPair (key r l : Nat) (v : Word) : (s.lset key r l v).nextPair = s.nextPair := rfl
@[simp] theorem State.lset_nextScan (key r l : Nat) (v : Word) : (s.lset key r l v).nextScan = s.nextScan := rfl
@[simp] theorem State.lset_pairLatch (key r l : Nat) (v : Word) : (s.lset key r l v).pairLatch = s.pairLatch := rfl
@[simp] theorem State.lset_rate (key r l : Nat) (v : Word) : (s.lset key r l v).rate = s.rate := rfl
@[simp] theorem State.lset_corrected (key r l : Nat) (v : Word) : (s.lset key r l v).corrected = s.corrected := rfl
@[simp] theorem State.lset_poisoned (key r l : Nat) (v : Word) : (s.lset key r l v).poisoned = s.poisoned := rfl
@[simp] theorem State.lset_evaluations (key r l : Nat) (v : Word) : (s.lset key r l v).evaluations = s.evaluations := rfl
@[simp] theorem State.lset_pciePart (key r l : Nat) (v : Word) : (s.lset key r l v).pciePart = s.pciePart := rfl
@[simp] theorem State.lset_ingestDropped (key r l : Nat) (v : Word) : (s.lset key r l v).ingestDropped = s.ingestDropped := rfl
@[simp] theorem State.lset_islandInterrupts (key r l : Nat) (v : Word) : (s.lset key r l v).islandInterrupts = s.islandInterrupts := rfl
@[simp] theorem State.lset_msi (key r l : Nat) (v : Word) : (s.lset key r l v).msi = s.msi := rfl

/-! ### setCtl -/

@[simp] theorem State.setCtl_ns (key l : Nat) (c : Ctl) : (s.setCtl key l c).ns = s.ns := rfl
@[simp] theorem State.setCtl_cyc (key l : Nat) (c : Ctl) : (s.setCtl key l c).cyc = s.cyc := rfl
@[simp] theorem State.setCtl_agenda (key l : Nat) (c : Ctl) : (s.setCtl key l c).agenda = s.agenda := rfl
@[simp] theorem State.setCtl_cur (key l : Nat) (c : Ctl) : (s.setCtl key l c).cur = s.cur := rfl
@[simp] theorem State.setCtl_rank (key l : Nat) (c : Ctl) : (s.setCtl key l c).rank = s.rank := rfl
@[simp] theorem State.setCtl_free (key l : Nat) (c : Ctl) : (s.setCtl key l c).free = s.free := rfl
@[simp] theorem State.setCtl_sreg (key l : Nat) (c : Ctl) : (s.setCtl key l c).sreg = s.sreg := rfl
@[simp] theorem State.setCtl_lreg (key l : Nat) (c : Ctl) : (s.setCtl key l c).lreg = s.lreg := rfl
@[simp] theorem State.setCtl_preg (key l : Nat) (c : Ctl) : (s.setCtl key l c).preg = s.preg := rfl
@[simp] theorem State.setCtl_tokens (key l : Nat) (c : Ctl) : (s.setCtl key l c).tokens = s.tokens := rfl
@[simp] theorem State.setCtl_fresh (key l : Nat) (c : Ctl) : (s.setCtl key l c).fresh = s.fresh := rfl
@[simp] theorem State.setCtl_queues (key l : Nat) (c : Ctl) : (s.setCtl key l c).queues = s.queues := rfl
@[simp] theorem State.setCtl_qbinds (key l : Nat) (c : Ctl) : (s.setCtl key l c).qbinds = s.qbinds := rfl
@[simp] theorem State.setCtl_ctxJob (key l : Nat) (c : Ctl) : (s.setCtl key l c).ctxJob = s.ctxJob := rfl
@[simp] theorem State.setCtl_engCtx (key l : Nat) (c : Ctl) : (s.setCtl key l c).engCtx = s.engCtx := rfl
@[simp] theorem State.setCtl_slots (key l : Nat) (c : Ctl) : (s.setCtl key l c).slots = s.slots := rfl
@[simp] theorem State.setCtl_waves (key l : Nat) (c : Ctl) : (s.setCtl key l c).waves = s.waves := rfl
@[simp] theorem State.setCtl_groups (key l : Nat) (c : Ctl) : (s.setCtl key l c).groups = s.groups := rfl
@[simp] theorem State.setCtl_xqueue (key l : Nat) (c : Ctl) : (s.setCtl key l c).xqueue = s.xqueue := rfl
@[simp] theorem State.setCtl_regionBufs (key l : Nat) (c : Ctl) : (s.setCtl key l c).regionBufs = s.regionBufs := rfl
@[simp] theorem State.setCtl_turns (key l : Nat) (c : Ctl) : (s.setCtl key l c).turns = s.turns := rfl
@[simp] theorem State.setCtl_mem (key l : Nat) (c : Ctl) : (s.setCtl key l c).mem = s.mem := rfl
@[simp] theorem State.setCtl_dirty (key l : Nat) (c : Ctl) : (s.setCtl key l c).dirty = s.dirty := rfl
@[simp] theorem State.setCtl_aliases (key l : Nat) (c : Ctl) : (s.setCtl key l c).aliases = s.aliases := rfl
@[simp] theorem State.setCtl_loc (key l : Nat) (c : Ctl) : (s.setCtl key l c).loc = s.loc := rfl
@[simp] theorem State.setCtl_rings (key l : Nat) (c : Ctl) : (s.setCtl key l c).rings = s.rings := rfl
@[simp] theorem State.setCtl_flights (key l : Nat) (c : Ctl) : (s.setCtl key l c).flights = s.flights := rfl
@[simp] theorem State.setCtl_nextId (key l : Nat) (c : Ctl) : (s.setCtl key l c).nextId = s.nextId := rfl
@[simp] theorem State.setCtl_acc (key l : Nat) (c : Ctl) : (s.setCtl key l c).acc = s.acc := rfl
@[simp] theorem State.setCtl_busy (key l : Nat) (c : Ctl) : (s.setCtl key l c).busy = s.busy := rfl
@[simp] theorem State.setCtl_colAcc (key l : Nat) (c : Ctl) : (s.setCtl key l c).colAcc = s.colAcc := rfl
@[simp] theorem State.setCtl_caOwner (key l : Nat) (c : Ctl) : (s.setCtl key l c).caOwner = s.caOwner := rfl
@[simp] theorem State.setCtl_caCtx (key l : Nat) (c : Ctl) : (s.setCtl key l c).caCtx = s.caCtx := rfl
@[simp] theorem State.setCtl_pages (key l : Nat) (c : Ctl) : (s.setCtl key l c).pages = s.pages := rfl
@[simp] theorem State.setCtl_pageTags (key l : Nat) (c : Ctl) : (s.setCtl key l c).pageTags = s.pageTags := rfl
@[simp] theorem State.setCtl_shapes (key l : Nat) (c : Ctl) : (s.setCtl key l c).shapes = s.shapes := rfl
@[simp] theorem State.setCtl_accords (key l : Nat) (c : Ctl) : (s.setCtl key l c).accords = s.accords := rfl
@[simp] theorem State.setCtl_rtes (key l : Nat) (c : Ctl) : (s.setCtl key l c).rtes = s.rtes := rfl
@[simp] theorem State.setCtl_orphans (key l : Nat) (c : Ctl) : (s.setCtl key l c).orphans = s.orphans := rfl
@[simp] theorem State.setCtl_predictor (key l : Nat) (c : Ctl) : (s.setCtl key l c).predictor = s.predictor := rfl
@[simp] theorem State.setCtl_poisonMem (key l : Nat) (c : Ctl) : (s.setCtl key l c).poisonMem = s.poisonMem := rfl
@[simp] theorem State.setCtl_poisonNew (key l : Nat) (c : Ctl) : (s.setCtl key l c).poisonNew = s.poisonNew := rfl
@[simp] theorem State.setCtl_zeroed (key l : Nat) (c : Ctl) : (s.setCtl key l c).zeroed = s.zeroed := rfl
@[simp] theorem State.setCtl_poisonLoc (key l : Nat) (c : Ctl) : (s.setCtl key l c).poisonLoc = s.poisonLoc := rfl
@[simp] theorem State.setCtl_poisonLane (key l : Nat) (c : Ctl) : (s.setCtl key l c).poisonLane = s.poisonLane := rfl
@[simp] theorem State.setCtl_poisonScalar (key l : Nat) (c : Ctl) : (s.setCtl key l c).poisonScalar = s.poisonScalar := rfl
@[simp] theorem State.setCtl_poisonAcc (key l : Nat) (c : Ctl) : (s.setCtl key l c).poisonAcc = s.poisonAcc := rfl
@[simp] theorem State.setCtl_poisonCa (key l : Nat) (c : Ctl) : (s.setCtl key l c).poisonCa = s.poisonCa := rfl
@[simp] theorem State.setCtl_poisonPage (key l : Nat) (c : Ctl) : (s.setCtl key l c).poisonPage = s.poisonPage := rfl
@[simp] theorem State.setCtl_tlbs (key l : Nat) (c : Ctl) : (s.setCtl key l c).tlbs = s.tlbs := rfl
@[simp] theorem State.setCtl_installed (key l : Nat) (c : Ctl) : (s.setCtl key l c).installed = s.installed := rfl
@[simp] theorem State.setCtl_pkg (key l : Nat) (c : Ctl) : (s.setCtl key l c).pkg = s.pkg := rfl
@[simp] theorem State.setCtl_failedLinks (key l : Nat) (c : Ctl) : (s.setCtl key l c).failedLinks = s.failedLinks := rfl
@[simp] theorem State.setCtl_creg (key l : Nat) (c : Ctl) : (s.setCtl key l c).creg = s.creg := rfl
@[simp] theorem State.setCtl_icache (key l : Nat) (c : Ctl) : (s.setCtl key l c).icache = s.icache := rfl
@[simp] theorem State.setCtl_caches (key l : Nat) (c : Ctl) : (s.setCtl key l c).caches = s.caches := rfl
@[simp] theorem State.setCtl_roomWait (key l : Nat) (c : Ctl) : (s.setCtl key l c).roomWait = s.roomWait := rfl
@[simp] theorem State.setCtl_dir (key l : Nat) (c : Ctl) : (s.setCtl key l c).dir = s.dir := rfl
@[simp] theorem State.setCtl_lines (key l : Nat) (c : Ctl) : (s.setCtl key l c).lines = s.lines := rfl
@[simp] theorem State.setCtl_homeQueue (key l : Nat) (c : Ctl) : (s.setCtl key l c).homeQueue = s.homeQueue := rfl
@[simp] theorem State.setCtl_protocolErrors (key l : Nat) (c : Ctl) : (s.setCtl key l c).protocolErrors = s.protocolErrors := rfl
@[simp] theorem State.setCtl_migrated (key l : Nat) (c : Ctl) : (s.setCtl key l c).migrated = s.migrated := rfl
@[simp] theorem State.setCtl_routing (key l : Nat) (c : Ctl) : (s.setCtl key l c).routing = s.routing := rfl
@[simp] theorem State.setCtl_routingErrors (key l : Nat) (c : Ctl) : (s.setCtl key l c).routingErrors = s.routingErrors := rfl
@[simp] theorem State.setCtl_invalidating (key l : Nat) (c : Ctl) : (s.setCtl key l c).invalidating = s.invalidating := rfl
@[simp] theorem State.setCtl_regulators (key l : Nat) (c : Ctl) : (s.setCtl key l c).regulators = s.regulators := rfl
@[simp] theorem State.setCtl_island (key l : Nat) (c : Ctl) : (s.setCtl key l c).island = s.island := rfl
@[simp] theorem State.setCtl_pairNs (key l : Nat) (c : Ctl) : (s.setCtl key l c).pairNs = s.pairNs := rfl
@[simp] theorem State.setCtl_pairCyc (key l : Nat) (c : Ctl) : (s.setCtl key l c).pairCyc = s.pairCyc := rfl
@[simp] theorem State.setCtl_nextPair (key l : Nat) (c : Ctl) : (s.setCtl key l c).nextPair = s.nextPair := rfl
@[simp] theorem State.setCtl_nextScan (key l : Nat) (c : Ctl) : (s.setCtl key l c).nextScan = s.nextScan := rfl
@[simp] theorem State.setCtl_pairLatch (key l : Nat) (c : Ctl) : (s.setCtl key l c).pairLatch = s.pairLatch := rfl
@[simp] theorem State.setCtl_rate (key l : Nat) (c : Ctl) : (s.setCtl key l c).rate = s.rate := rfl
@[simp] theorem State.setCtl_corrected (key l : Nat) (c : Ctl) : (s.setCtl key l c).corrected = s.corrected := rfl
@[simp] theorem State.setCtl_poisoned (key l : Nat) (c : Ctl) : (s.setCtl key l c).poisoned = s.poisoned := rfl
@[simp] theorem State.setCtl_evaluations (key l : Nat) (c : Ctl) : (s.setCtl key l c).evaluations = s.evaluations := rfl
@[simp] theorem State.setCtl_pciePart (key l : Nat) (c : Ctl) : (s.setCtl key l c).pciePart = s.pciePart := rfl
@[simp] theorem State.setCtl_ingestDropped (key l : Nat) (c : Ctl) : (s.setCtl key l c).ingestDropped = s.ingestDropped := rfl
@[simp] theorem State.setCtl_islandInterrupts (key l : Nat) (c : Ctl) : (s.setCtl key l c).islandInterrupts = s.islandInterrupts := rfl
@[simp] theorem State.setCtl_msi (key l : Nat) (c : Ctl) : (s.setCtl key l c).msi = s.msi := rfl

/-! ### modCtl -/

@[simp] theorem State.modCtl_ns (key l : Nat) (f : Ctl → Ctl) : (s.modCtl key l f).ns = s.ns := rfl
@[simp] theorem State.modCtl_cyc (key l : Nat) (f : Ctl → Ctl) : (s.modCtl key l f).cyc = s.cyc := rfl
@[simp] theorem State.modCtl_agenda (key l : Nat) (f : Ctl → Ctl) : (s.modCtl key l f).agenda = s.agenda := rfl
@[simp] theorem State.modCtl_cur (key l : Nat) (f : Ctl → Ctl) : (s.modCtl key l f).cur = s.cur := rfl
@[simp] theorem State.modCtl_rank (key l : Nat) (f : Ctl → Ctl) : (s.modCtl key l f).rank = s.rank := rfl
@[simp] theorem State.modCtl_free (key l : Nat) (f : Ctl → Ctl) : (s.modCtl key l f).free = s.free := rfl
@[simp] theorem State.modCtl_sreg (key l : Nat) (f : Ctl → Ctl) : (s.modCtl key l f).sreg = s.sreg := rfl
@[simp] theorem State.modCtl_lreg (key l : Nat) (f : Ctl → Ctl) : (s.modCtl key l f).lreg = s.lreg := rfl
@[simp] theorem State.modCtl_preg (key l : Nat) (f : Ctl → Ctl) : (s.modCtl key l f).preg = s.preg := rfl
@[simp] theorem State.modCtl_tokens (key l : Nat) (f : Ctl → Ctl) : (s.modCtl key l f).tokens = s.tokens := rfl
@[simp] theorem State.modCtl_fresh (key l : Nat) (f : Ctl → Ctl) : (s.modCtl key l f).fresh = s.fresh := rfl
@[simp] theorem State.modCtl_queues (key l : Nat) (f : Ctl → Ctl) : (s.modCtl key l f).queues = s.queues := rfl
@[simp] theorem State.modCtl_qbinds (key l : Nat) (f : Ctl → Ctl) : (s.modCtl key l f).qbinds = s.qbinds := rfl
@[simp] theorem State.modCtl_ctxJob (key l : Nat) (f : Ctl → Ctl) : (s.modCtl key l f).ctxJob = s.ctxJob := rfl
@[simp] theorem State.modCtl_engCtx (key l : Nat) (f : Ctl → Ctl) : (s.modCtl key l f).engCtx = s.engCtx := rfl
@[simp] theorem State.modCtl_slots (key l : Nat) (f : Ctl → Ctl) : (s.modCtl key l f).slots = s.slots := rfl
@[simp] theorem State.modCtl_waves (key l : Nat) (f : Ctl → Ctl) : (s.modCtl key l f).waves = s.waves := rfl
@[simp] theorem State.modCtl_groups (key l : Nat) (f : Ctl → Ctl) : (s.modCtl key l f).groups = s.groups := rfl
@[simp] theorem State.modCtl_xqueue (key l : Nat) (f : Ctl → Ctl) : (s.modCtl key l f).xqueue = s.xqueue := rfl
@[simp] theorem State.modCtl_regionBufs (key l : Nat) (f : Ctl → Ctl) : (s.modCtl key l f).regionBufs = s.regionBufs := rfl
@[simp] theorem State.modCtl_turns (key l : Nat) (f : Ctl → Ctl) : (s.modCtl key l f).turns = s.turns := rfl
@[simp] theorem State.modCtl_mem (key l : Nat) (f : Ctl → Ctl) : (s.modCtl key l f).mem = s.mem := rfl
@[simp] theorem State.modCtl_dirty (key l : Nat) (f : Ctl → Ctl) : (s.modCtl key l f).dirty = s.dirty := rfl
@[simp] theorem State.modCtl_aliases (key l : Nat) (f : Ctl → Ctl) : (s.modCtl key l f).aliases = s.aliases := rfl
@[simp] theorem State.modCtl_loc (key l : Nat) (f : Ctl → Ctl) : (s.modCtl key l f).loc = s.loc := rfl
@[simp] theorem State.modCtl_rings (key l : Nat) (f : Ctl → Ctl) : (s.modCtl key l f).rings = s.rings := rfl
@[simp] theorem State.modCtl_flights (key l : Nat) (f : Ctl → Ctl) : (s.modCtl key l f).flights = s.flights := rfl
@[simp] theorem State.modCtl_nextId (key l : Nat) (f : Ctl → Ctl) : (s.modCtl key l f).nextId = s.nextId := rfl
@[simp] theorem State.modCtl_acc (key l : Nat) (f : Ctl → Ctl) : (s.modCtl key l f).acc = s.acc := rfl
@[simp] theorem State.modCtl_busy (key l : Nat) (f : Ctl → Ctl) : (s.modCtl key l f).busy = s.busy := rfl
@[simp] theorem State.modCtl_colAcc (key l : Nat) (f : Ctl → Ctl) : (s.modCtl key l f).colAcc = s.colAcc := rfl
@[simp] theorem State.modCtl_caOwner (key l : Nat) (f : Ctl → Ctl) : (s.modCtl key l f).caOwner = s.caOwner := rfl
@[simp] theorem State.modCtl_caCtx (key l : Nat) (f : Ctl → Ctl) : (s.modCtl key l f).caCtx = s.caCtx := rfl
@[simp] theorem State.modCtl_pages (key l : Nat) (f : Ctl → Ctl) : (s.modCtl key l f).pages = s.pages := rfl
@[simp] theorem State.modCtl_pageTags (key l : Nat) (f : Ctl → Ctl) : (s.modCtl key l f).pageTags = s.pageTags := rfl
@[simp] theorem State.modCtl_shapes (key l : Nat) (f : Ctl → Ctl) : (s.modCtl key l f).shapes = s.shapes := rfl
@[simp] theorem State.modCtl_accords (key l : Nat) (f : Ctl → Ctl) : (s.modCtl key l f).accords = s.accords := rfl
@[simp] theorem State.modCtl_rtes (key l : Nat) (f : Ctl → Ctl) : (s.modCtl key l f).rtes = s.rtes := rfl
@[simp] theorem State.modCtl_orphans (key l : Nat) (f : Ctl → Ctl) : (s.modCtl key l f).orphans = s.orphans := rfl
@[simp] theorem State.modCtl_predictor (key l : Nat) (f : Ctl → Ctl) : (s.modCtl key l f).predictor = s.predictor := rfl
@[simp] theorem State.modCtl_poisonMem (key l : Nat) (f : Ctl → Ctl) : (s.modCtl key l f).poisonMem = s.poisonMem := rfl
@[simp] theorem State.modCtl_poisonNew (key l : Nat) (f : Ctl → Ctl) : (s.modCtl key l f).poisonNew = s.poisonNew := rfl
@[simp] theorem State.modCtl_zeroed (key l : Nat) (f : Ctl → Ctl) : (s.modCtl key l f).zeroed = s.zeroed := rfl
@[simp] theorem State.modCtl_poisonLoc (key l : Nat) (f : Ctl → Ctl) : (s.modCtl key l f).poisonLoc = s.poisonLoc := rfl
@[simp] theorem State.modCtl_poisonLane (key l : Nat) (f : Ctl → Ctl) : (s.modCtl key l f).poisonLane = s.poisonLane := rfl
@[simp] theorem State.modCtl_poisonScalar (key l : Nat) (f : Ctl → Ctl) : (s.modCtl key l f).poisonScalar = s.poisonScalar := rfl
@[simp] theorem State.modCtl_poisonAcc (key l : Nat) (f : Ctl → Ctl) : (s.modCtl key l f).poisonAcc = s.poisonAcc := rfl
@[simp] theorem State.modCtl_poisonCa (key l : Nat) (f : Ctl → Ctl) : (s.modCtl key l f).poisonCa = s.poisonCa := rfl
@[simp] theorem State.modCtl_poisonPage (key l : Nat) (f : Ctl → Ctl) : (s.modCtl key l f).poisonPage = s.poisonPage := rfl
@[simp] theorem State.modCtl_tlbs (key l : Nat) (f : Ctl → Ctl) : (s.modCtl key l f).tlbs = s.tlbs := rfl
@[simp] theorem State.modCtl_installed (key l : Nat) (f : Ctl → Ctl) : (s.modCtl key l f).installed = s.installed := rfl
@[simp] theorem State.modCtl_pkg (key l : Nat) (f : Ctl → Ctl) : (s.modCtl key l f).pkg = s.pkg := rfl
@[simp] theorem State.modCtl_failedLinks (key l : Nat) (f : Ctl → Ctl) : (s.modCtl key l f).failedLinks = s.failedLinks := rfl
@[simp] theorem State.modCtl_creg (key l : Nat) (f : Ctl → Ctl) : (s.modCtl key l f).creg = s.creg := rfl
@[simp] theorem State.modCtl_icache (key l : Nat) (f : Ctl → Ctl) : (s.modCtl key l f).icache = s.icache := rfl
@[simp] theorem State.modCtl_caches (key l : Nat) (f : Ctl → Ctl) : (s.modCtl key l f).caches = s.caches := rfl
@[simp] theorem State.modCtl_roomWait (key l : Nat) (f : Ctl → Ctl) : (s.modCtl key l f).roomWait = s.roomWait := rfl
@[simp] theorem State.modCtl_dir (key l : Nat) (f : Ctl → Ctl) : (s.modCtl key l f).dir = s.dir := rfl
@[simp] theorem State.modCtl_lines (key l : Nat) (f : Ctl → Ctl) : (s.modCtl key l f).lines = s.lines := rfl
@[simp] theorem State.modCtl_homeQueue (key l : Nat) (f : Ctl → Ctl) : (s.modCtl key l f).homeQueue = s.homeQueue := rfl
@[simp] theorem State.modCtl_protocolErrors (key l : Nat) (f : Ctl → Ctl) : (s.modCtl key l f).protocolErrors = s.protocolErrors := rfl
@[simp] theorem State.modCtl_migrated (key l : Nat) (f : Ctl → Ctl) : (s.modCtl key l f).migrated = s.migrated := rfl
@[simp] theorem State.modCtl_routing (key l : Nat) (f : Ctl → Ctl) : (s.modCtl key l f).routing = s.routing := rfl
@[simp] theorem State.modCtl_routingErrors (key l : Nat) (f : Ctl → Ctl) : (s.modCtl key l f).routingErrors = s.routingErrors := rfl
@[simp] theorem State.modCtl_invalidating (key l : Nat) (f : Ctl → Ctl) : (s.modCtl key l f).invalidating = s.invalidating := rfl
@[simp] theorem State.modCtl_regulators (key l : Nat) (f : Ctl → Ctl) : (s.modCtl key l f).regulators = s.regulators := rfl
@[simp] theorem State.modCtl_island (key l : Nat) (f : Ctl → Ctl) : (s.modCtl key l f).island = s.island := rfl
@[simp] theorem State.modCtl_pairNs (key l : Nat) (f : Ctl → Ctl) : (s.modCtl key l f).pairNs = s.pairNs := rfl
@[simp] theorem State.modCtl_pairCyc (key l : Nat) (f : Ctl → Ctl) : (s.modCtl key l f).pairCyc = s.pairCyc := rfl
@[simp] theorem State.modCtl_nextPair (key l : Nat) (f : Ctl → Ctl) : (s.modCtl key l f).nextPair = s.nextPair := rfl
@[simp] theorem State.modCtl_nextScan (key l : Nat) (f : Ctl → Ctl) : (s.modCtl key l f).nextScan = s.nextScan := rfl
@[simp] theorem State.modCtl_pairLatch (key l : Nat) (f : Ctl → Ctl) : (s.modCtl key l f).pairLatch = s.pairLatch := rfl
@[simp] theorem State.modCtl_rate (key l : Nat) (f : Ctl → Ctl) : (s.modCtl key l f).rate = s.rate := rfl
@[simp] theorem State.modCtl_corrected (key l : Nat) (f : Ctl → Ctl) : (s.modCtl key l f).corrected = s.corrected := rfl
@[simp] theorem State.modCtl_poisoned (key l : Nat) (f : Ctl → Ctl) : (s.modCtl key l f).poisoned = s.poisoned := rfl
@[simp] theorem State.modCtl_evaluations (key l : Nat) (f : Ctl → Ctl) : (s.modCtl key l f).evaluations = s.evaluations := rfl
@[simp] theorem State.modCtl_pciePart (key l : Nat) (f : Ctl → Ctl) : (s.modCtl key l f).pciePart = s.pciePart := rfl
@[simp] theorem State.modCtl_ingestDropped (key l : Nat) (f : Ctl → Ctl) : (s.modCtl key l f).ingestDropped = s.ingestDropped := rfl
@[simp] theorem State.modCtl_islandInterrupts (key l : Nat) (f : Ctl → Ctl) : (s.modCtl key l f).islandInterrupts = s.islandInterrupts := rfl
@[simp] theorem State.modCtl_msi (key l : Nat) (f : Ctl → Ctl) : (s.modCtl key l f).msi = s.msi := rfl

/-! ### setTok -/

@[simp] theorem State.setTok_ns (ck f n : Nat) : (s.setTok ck f n).ns = s.ns := rfl
@[simp] theorem State.setTok_cyc (ck f n : Nat) : (s.setTok ck f n).cyc = s.cyc := rfl
@[simp] theorem State.setTok_agenda (ck f n : Nat) : (s.setTok ck f n).agenda = s.agenda := rfl
@[simp] theorem State.setTok_cur (ck f n : Nat) : (s.setTok ck f n).cur = s.cur := rfl
@[simp] theorem State.setTok_rank (ck f n : Nat) : (s.setTok ck f n).rank = s.rank := rfl
@[simp] theorem State.setTok_free (ck f n : Nat) : (s.setTok ck f n).free = s.free := rfl
@[simp] theorem State.setTok_ctl (ck f n : Nat) : (s.setTok ck f n).ctl = s.ctl := rfl
@[simp] theorem State.setTok_sreg (ck f n : Nat) : (s.setTok ck f n).sreg = s.sreg := rfl
@[simp] theorem State.setTok_lreg (ck f n : Nat) : (s.setTok ck f n).lreg = s.lreg := rfl
@[simp] theorem State.setTok_preg (ck f n : Nat) : (s.setTok ck f n).preg = s.preg := rfl
@[simp] theorem State.setTok_fresh (ck f n : Nat) : (s.setTok ck f n).fresh = s.fresh := rfl
@[simp] theorem State.setTok_queues (ck f n : Nat) : (s.setTok ck f n).queues = s.queues := rfl
@[simp] theorem State.setTok_qbinds (ck f n : Nat) : (s.setTok ck f n).qbinds = s.qbinds := rfl
@[simp] theorem State.setTok_ctxJob (ck f n : Nat) : (s.setTok ck f n).ctxJob = s.ctxJob := rfl
@[simp] theorem State.setTok_engCtx (ck f n : Nat) : (s.setTok ck f n).engCtx = s.engCtx := rfl
@[simp] theorem State.setTok_slots (ck f n : Nat) : (s.setTok ck f n).slots = s.slots := rfl
@[simp] theorem State.setTok_waves (ck f n : Nat) : (s.setTok ck f n).waves = s.waves := rfl
@[simp] theorem State.setTok_groups (ck f n : Nat) : (s.setTok ck f n).groups = s.groups := rfl
@[simp] theorem State.setTok_xqueue (ck f n : Nat) : (s.setTok ck f n).xqueue = s.xqueue := rfl
@[simp] theorem State.setTok_regionBufs (ck f n : Nat) : (s.setTok ck f n).regionBufs = s.regionBufs := rfl
@[simp] theorem State.setTok_turns (ck f n : Nat) : (s.setTok ck f n).turns = s.turns := rfl
@[simp] theorem State.setTok_mem (ck f n : Nat) : (s.setTok ck f n).mem = s.mem := rfl
@[simp] theorem State.setTok_dirty (ck f n : Nat) : (s.setTok ck f n).dirty = s.dirty := rfl
@[simp] theorem State.setTok_aliases (ck f n : Nat) : (s.setTok ck f n).aliases = s.aliases := rfl
@[simp] theorem State.setTok_loc (ck f n : Nat) : (s.setTok ck f n).loc = s.loc := rfl
@[simp] theorem State.setTok_rings (ck f n : Nat) : (s.setTok ck f n).rings = s.rings := rfl
@[simp] theorem State.setTok_flights (ck f n : Nat) : (s.setTok ck f n).flights = s.flights := rfl
@[simp] theorem State.setTok_nextId (ck f n : Nat) : (s.setTok ck f n).nextId = s.nextId := rfl
@[simp] theorem State.setTok_acc (ck f n : Nat) : (s.setTok ck f n).acc = s.acc := rfl
@[simp] theorem State.setTok_busy (ck f n : Nat) : (s.setTok ck f n).busy = s.busy := rfl
@[simp] theorem State.setTok_colAcc (ck f n : Nat) : (s.setTok ck f n).colAcc = s.colAcc := rfl
@[simp] theorem State.setTok_caOwner (ck f n : Nat) : (s.setTok ck f n).caOwner = s.caOwner := rfl
@[simp] theorem State.setTok_caCtx (ck f n : Nat) : (s.setTok ck f n).caCtx = s.caCtx := rfl
@[simp] theorem State.setTok_pages (ck f n : Nat) : (s.setTok ck f n).pages = s.pages := rfl
@[simp] theorem State.setTok_pageTags (ck f n : Nat) : (s.setTok ck f n).pageTags = s.pageTags := rfl
@[simp] theorem State.setTok_shapes (ck f n : Nat) : (s.setTok ck f n).shapes = s.shapes := rfl
@[simp] theorem State.setTok_accords (ck f n : Nat) : (s.setTok ck f n).accords = s.accords := rfl
@[simp] theorem State.setTok_rtes (ck f n : Nat) : (s.setTok ck f n).rtes = s.rtes := rfl
@[simp] theorem State.setTok_orphans (ck f n : Nat) : (s.setTok ck f n).orphans = s.orphans := rfl
@[simp] theorem State.setTok_predictor (ck f n : Nat) : (s.setTok ck f n).predictor = s.predictor := rfl
@[simp] theorem State.setTok_poisonMem (ck f n : Nat) : (s.setTok ck f n).poisonMem = s.poisonMem := rfl
@[simp] theorem State.setTok_poisonNew (ck f n : Nat) : (s.setTok ck f n).poisonNew = s.poisonNew := rfl
@[simp] theorem State.setTok_zeroed (ck f n : Nat) : (s.setTok ck f n).zeroed = s.zeroed := rfl
@[simp] theorem State.setTok_poisonLoc (ck f n : Nat) : (s.setTok ck f n).poisonLoc = s.poisonLoc := rfl
@[simp] theorem State.setTok_poisonLane (ck f n : Nat) : (s.setTok ck f n).poisonLane = s.poisonLane := rfl
@[simp] theorem State.setTok_poisonScalar (ck f n : Nat) : (s.setTok ck f n).poisonScalar = s.poisonScalar := rfl
@[simp] theorem State.setTok_poisonAcc (ck f n : Nat) : (s.setTok ck f n).poisonAcc = s.poisonAcc := rfl
@[simp] theorem State.setTok_poisonCa (ck f n : Nat) : (s.setTok ck f n).poisonCa = s.poisonCa := rfl
@[simp] theorem State.setTok_poisonPage (ck f n : Nat) : (s.setTok ck f n).poisonPage = s.poisonPage := rfl
@[simp] theorem State.setTok_tlbs (ck f n : Nat) : (s.setTok ck f n).tlbs = s.tlbs := rfl
@[simp] theorem State.setTok_installed (ck f n : Nat) : (s.setTok ck f n).installed = s.installed := rfl
@[simp] theorem State.setTok_pkg (ck f n : Nat) : (s.setTok ck f n).pkg = s.pkg := rfl
@[simp] theorem State.setTok_failedLinks (ck f n : Nat) : (s.setTok ck f n).failedLinks = s.failedLinks := rfl
@[simp] theorem State.setTok_creg (ck f n : Nat) : (s.setTok ck f n).creg = s.creg := rfl
@[simp] theorem State.setTok_icache (ck f n : Nat) : (s.setTok ck f n).icache = s.icache := rfl
@[simp] theorem State.setTok_caches (ck f n : Nat) : (s.setTok ck f n).caches = s.caches := rfl
@[simp] theorem State.setTok_roomWait (ck f n : Nat) : (s.setTok ck f n).roomWait = s.roomWait := rfl
@[simp] theorem State.setTok_dir (ck f n : Nat) : (s.setTok ck f n).dir = s.dir := rfl
@[simp] theorem State.setTok_lines (ck f n : Nat) : (s.setTok ck f n).lines = s.lines := rfl
@[simp] theorem State.setTok_homeQueue (ck f n : Nat) : (s.setTok ck f n).homeQueue = s.homeQueue := rfl
@[simp] theorem State.setTok_protocolErrors (ck f n : Nat) : (s.setTok ck f n).protocolErrors = s.protocolErrors := rfl
@[simp] theorem State.setTok_migrated (ck f n : Nat) : (s.setTok ck f n).migrated = s.migrated := rfl
@[simp] theorem State.setTok_routing (ck f n : Nat) : (s.setTok ck f n).routing = s.routing := rfl
@[simp] theorem State.setTok_routingErrors (ck f n : Nat) : (s.setTok ck f n).routingErrors = s.routingErrors := rfl
@[simp] theorem State.setTok_invalidating (ck f n : Nat) : (s.setTok ck f n).invalidating = s.invalidating := rfl
@[simp] theorem State.setTok_regulators (ck f n : Nat) : (s.setTok ck f n).regulators = s.regulators := rfl
@[simp] theorem State.setTok_island (ck f n : Nat) : (s.setTok ck f n).island = s.island := rfl
@[simp] theorem State.setTok_pairNs (ck f n : Nat) : (s.setTok ck f n).pairNs = s.pairNs := rfl
@[simp] theorem State.setTok_pairCyc (ck f n : Nat) : (s.setTok ck f n).pairCyc = s.pairCyc := rfl
@[simp] theorem State.setTok_nextPair (ck f n : Nat) : (s.setTok ck f n).nextPair = s.nextPair := rfl
@[simp] theorem State.setTok_nextScan (ck f n : Nat) : (s.setTok ck f n).nextScan = s.nextScan := rfl
@[simp] theorem State.setTok_pairLatch (ck f n : Nat) : (s.setTok ck f n).pairLatch = s.pairLatch := rfl
@[simp] theorem State.setTok_rate (ck f n : Nat) : (s.setTok ck f n).rate = s.rate := rfl
@[simp] theorem State.setTok_corrected (ck f n : Nat) : (s.setTok ck f n).corrected = s.corrected := rfl
@[simp] theorem State.setTok_poisoned (ck f n : Nat) : (s.setTok ck f n).poisoned = s.poisoned := rfl
@[simp] theorem State.setTok_evaluations (ck f n : Nat) : (s.setTok ck f n).evaluations = s.evaluations := rfl
@[simp] theorem State.setTok_pciePart (ck f n : Nat) : (s.setTok ck f n).pciePart = s.pciePart := rfl
@[simp] theorem State.setTok_ingestDropped (ck f n : Nat) : (s.setTok ck f n).ingestDropped = s.ingestDropped := rfl
@[simp] theorem State.setTok_islandInterrupts (ck f n : Nat) : (s.setTok ck f n).islandInterrupts = s.islandInterrupts := rfl
@[simp] theorem State.setTok_msi (ck f n : Nat) : (s.setTok ck f n).msi = s.msi := rfl

/-! ### pushToken -/

@[simp] theorem State.pushToken_ns (ck f : Nat) : (s.pushToken ck f).ns = s.ns := rfl
@[simp] theorem State.pushToken_cyc (ck f : Nat) : (s.pushToken ck f).cyc = s.cyc := rfl
@[simp] theorem State.pushToken_agenda (ck f : Nat) : (s.pushToken ck f).agenda = s.agenda := rfl
@[simp] theorem State.pushToken_cur (ck f : Nat) : (s.pushToken ck f).cur = s.cur := rfl
@[simp] theorem State.pushToken_rank (ck f : Nat) : (s.pushToken ck f).rank = s.rank := rfl
@[simp] theorem State.pushToken_free (ck f : Nat) : (s.pushToken ck f).free = s.free := rfl
@[simp] theorem State.pushToken_ctl (ck f : Nat) : (s.pushToken ck f).ctl = s.ctl := rfl
@[simp] theorem State.pushToken_sreg (ck f : Nat) : (s.pushToken ck f).sreg = s.sreg := rfl
@[simp] theorem State.pushToken_lreg (ck f : Nat) : (s.pushToken ck f).lreg = s.lreg := rfl
@[simp] theorem State.pushToken_preg (ck f : Nat) : (s.pushToken ck f).preg = s.preg := rfl
@[simp] theorem State.pushToken_queues (ck f : Nat) : (s.pushToken ck f).queues = s.queues := rfl
@[simp] theorem State.pushToken_qbinds (ck f : Nat) : (s.pushToken ck f).qbinds = s.qbinds := rfl
@[simp] theorem State.pushToken_ctxJob (ck f : Nat) : (s.pushToken ck f).ctxJob = s.ctxJob := rfl
@[simp] theorem State.pushToken_engCtx (ck f : Nat) : (s.pushToken ck f).engCtx = s.engCtx := rfl
@[simp] theorem State.pushToken_slots (ck f : Nat) : (s.pushToken ck f).slots = s.slots := rfl
@[simp] theorem State.pushToken_waves (ck f : Nat) : (s.pushToken ck f).waves = s.waves := rfl
@[simp] theorem State.pushToken_groups (ck f : Nat) : (s.pushToken ck f).groups = s.groups := rfl
@[simp] theorem State.pushToken_xqueue (ck f : Nat) : (s.pushToken ck f).xqueue = s.xqueue := rfl
@[simp] theorem State.pushToken_regionBufs (ck f : Nat) : (s.pushToken ck f).regionBufs = s.regionBufs := rfl
@[simp] theorem State.pushToken_turns (ck f : Nat) : (s.pushToken ck f).turns = s.turns := rfl
@[simp] theorem State.pushToken_mem (ck f : Nat) : (s.pushToken ck f).mem = s.mem := rfl
@[simp] theorem State.pushToken_dirty (ck f : Nat) : (s.pushToken ck f).dirty = s.dirty := rfl
@[simp] theorem State.pushToken_aliases (ck f : Nat) : (s.pushToken ck f).aliases = s.aliases := rfl
@[simp] theorem State.pushToken_loc (ck f : Nat) : (s.pushToken ck f).loc = s.loc := rfl
@[simp] theorem State.pushToken_rings (ck f : Nat) : (s.pushToken ck f).rings = s.rings := rfl
@[simp] theorem State.pushToken_flights (ck f : Nat) : (s.pushToken ck f).flights = s.flights := rfl
@[simp] theorem State.pushToken_nextId (ck f : Nat) : (s.pushToken ck f).nextId = s.nextId := rfl
@[simp] theorem State.pushToken_acc (ck f : Nat) : (s.pushToken ck f).acc = s.acc := rfl
@[simp] theorem State.pushToken_busy (ck f : Nat) : (s.pushToken ck f).busy = s.busy := rfl
@[simp] theorem State.pushToken_colAcc (ck f : Nat) : (s.pushToken ck f).colAcc = s.colAcc := rfl
@[simp] theorem State.pushToken_caOwner (ck f : Nat) : (s.pushToken ck f).caOwner = s.caOwner := rfl
@[simp] theorem State.pushToken_caCtx (ck f : Nat) : (s.pushToken ck f).caCtx = s.caCtx := rfl
@[simp] theorem State.pushToken_pages (ck f : Nat) : (s.pushToken ck f).pages = s.pages := rfl
@[simp] theorem State.pushToken_pageTags (ck f : Nat) : (s.pushToken ck f).pageTags = s.pageTags := rfl
@[simp] theorem State.pushToken_shapes (ck f : Nat) : (s.pushToken ck f).shapes = s.shapes := rfl
@[simp] theorem State.pushToken_accords (ck f : Nat) : (s.pushToken ck f).accords = s.accords := rfl
@[simp] theorem State.pushToken_rtes (ck f : Nat) : (s.pushToken ck f).rtes = s.rtes := rfl
@[simp] theorem State.pushToken_orphans (ck f : Nat) : (s.pushToken ck f).orphans = s.orphans := rfl
@[simp] theorem State.pushToken_predictor (ck f : Nat) : (s.pushToken ck f).predictor = s.predictor := rfl
@[simp] theorem State.pushToken_poisonMem (ck f : Nat) : (s.pushToken ck f).poisonMem = s.poisonMem := rfl
@[simp] theorem State.pushToken_poisonNew (ck f : Nat) : (s.pushToken ck f).poisonNew = s.poisonNew := rfl
@[simp] theorem State.pushToken_zeroed (ck f : Nat) : (s.pushToken ck f).zeroed = s.zeroed := rfl
@[simp] theorem State.pushToken_poisonLoc (ck f : Nat) : (s.pushToken ck f).poisonLoc = s.poisonLoc := rfl
@[simp] theorem State.pushToken_poisonLane (ck f : Nat) : (s.pushToken ck f).poisonLane = s.poisonLane := rfl
@[simp] theorem State.pushToken_poisonScalar (ck f : Nat) : (s.pushToken ck f).poisonScalar = s.poisonScalar := rfl
@[simp] theorem State.pushToken_poisonAcc (ck f : Nat) : (s.pushToken ck f).poisonAcc = s.poisonAcc := rfl
@[simp] theorem State.pushToken_poisonCa (ck f : Nat) : (s.pushToken ck f).poisonCa = s.poisonCa := rfl
@[simp] theorem State.pushToken_poisonPage (ck f : Nat) : (s.pushToken ck f).poisonPage = s.poisonPage := rfl
@[simp] theorem State.pushToken_tlbs (ck f : Nat) : (s.pushToken ck f).tlbs = s.tlbs := rfl
@[simp] theorem State.pushToken_installed (ck f : Nat) : (s.pushToken ck f).installed = s.installed := rfl
@[simp] theorem State.pushToken_pkg (ck f : Nat) : (s.pushToken ck f).pkg = s.pkg := rfl
@[simp] theorem State.pushToken_failedLinks (ck f : Nat) : (s.pushToken ck f).failedLinks = s.failedLinks := rfl
@[simp] theorem State.pushToken_creg (ck f : Nat) : (s.pushToken ck f).creg = s.creg := rfl
@[simp] theorem State.pushToken_icache (ck f : Nat) : (s.pushToken ck f).icache = s.icache := rfl
@[simp] theorem State.pushToken_caches (ck f : Nat) : (s.pushToken ck f).caches = s.caches := rfl
@[simp] theorem State.pushToken_roomWait (ck f : Nat) : (s.pushToken ck f).roomWait = s.roomWait := rfl
@[simp] theorem State.pushToken_dir (ck f : Nat) : (s.pushToken ck f).dir = s.dir := rfl
@[simp] theorem State.pushToken_lines (ck f : Nat) : (s.pushToken ck f).lines = s.lines := rfl
@[simp] theorem State.pushToken_homeQueue (ck f : Nat) : (s.pushToken ck f).homeQueue = s.homeQueue := rfl
@[simp] theorem State.pushToken_protocolErrors (ck f : Nat) : (s.pushToken ck f).protocolErrors = s.protocolErrors := rfl
@[simp] theorem State.pushToken_migrated (ck f : Nat) : (s.pushToken ck f).migrated = s.migrated := rfl
@[simp] theorem State.pushToken_routing (ck f : Nat) : (s.pushToken ck f).routing = s.routing := rfl
@[simp] theorem State.pushToken_routingErrors (ck f : Nat) : (s.pushToken ck f).routingErrors = s.routingErrors := rfl
@[simp] theorem State.pushToken_invalidating (ck f : Nat) : (s.pushToken ck f).invalidating = s.invalidating := rfl
@[simp] theorem State.pushToken_regulators (ck f : Nat) : (s.pushToken ck f).regulators = s.regulators := rfl
@[simp] theorem State.pushToken_island (ck f : Nat) : (s.pushToken ck f).island = s.island := rfl
@[simp] theorem State.pushToken_pairNs (ck f : Nat) : (s.pushToken ck f).pairNs = s.pairNs := rfl
@[simp] theorem State.pushToken_pairCyc (ck f : Nat) : (s.pushToken ck f).pairCyc = s.pairCyc := rfl
@[simp] theorem State.pushToken_nextPair (ck f : Nat) : (s.pushToken ck f).nextPair = s.nextPair := rfl
@[simp] theorem State.pushToken_nextScan (ck f : Nat) : (s.pushToken ck f).nextScan = s.nextScan := rfl
@[simp] theorem State.pushToken_pairLatch (ck f : Nat) : (s.pushToken ck f).pairLatch = s.pairLatch := rfl
@[simp] theorem State.pushToken_rate (ck f : Nat) : (s.pushToken ck f).rate = s.rate := rfl
@[simp] theorem State.pushToken_corrected (ck f : Nat) : (s.pushToken ck f).corrected = s.corrected := rfl
@[simp] theorem State.pushToken_poisoned (ck f : Nat) : (s.pushToken ck f).poisoned = s.poisoned := rfl
@[simp] theorem State.pushToken_evaluations (ck f : Nat) : (s.pushToken ck f).evaluations = s.evaluations := rfl
@[simp] theorem State.pushToken_pciePart (ck f : Nat) : (s.pushToken ck f).pciePart = s.pciePart := rfl
@[simp] theorem State.pushToken_ingestDropped (ck f : Nat) : (s.pushToken ck f).ingestDropped = s.ingestDropped := rfl
@[simp] theorem State.pushToken_islandInterrupts (ck f : Nat) : (s.pushToken ck f).islandInterrupts = s.islandInterrupts := rfl
@[simp] theorem State.pushToken_msi (ck f : Nat) : (s.pushToken ck f).msi = s.msi := rfl

/-! ### setQueue -/

@[simp] theorem State.setQueue_ns (ck q : Nat) (l : List DWord) : (s.setQueue ck q l).ns = s.ns := rfl
@[simp] theorem State.setQueue_cyc (ck q : Nat) (l : List DWord) : (s.setQueue ck q l).cyc = s.cyc := rfl
@[simp] theorem State.setQueue_agenda (ck q : Nat) (l : List DWord) : (s.setQueue ck q l).agenda = s.agenda := rfl
@[simp] theorem State.setQueue_cur (ck q : Nat) (l : List DWord) : (s.setQueue ck q l).cur = s.cur := rfl
@[simp] theorem State.setQueue_rank (ck q : Nat) (l : List DWord) : (s.setQueue ck q l).rank = s.rank := rfl
@[simp] theorem State.setQueue_free (ck q : Nat) (l : List DWord) : (s.setQueue ck q l).free = s.free := rfl
@[simp] theorem State.setQueue_ctl (ck q : Nat) (l : List DWord) : (s.setQueue ck q l).ctl = s.ctl := rfl
@[simp] theorem State.setQueue_sreg (ck q : Nat) (l : List DWord) : (s.setQueue ck q l).sreg = s.sreg := rfl
@[simp] theorem State.setQueue_lreg (ck q : Nat) (l : List DWord) : (s.setQueue ck q l).lreg = s.lreg := rfl
@[simp] theorem State.setQueue_preg (ck q : Nat) (l : List DWord) : (s.setQueue ck q l).preg = s.preg := rfl
@[simp] theorem State.setQueue_tokens (ck q : Nat) (l : List DWord) : (s.setQueue ck q l).tokens = s.tokens := rfl
@[simp] theorem State.setQueue_fresh (ck q : Nat) (l : List DWord) : (s.setQueue ck q l).fresh = s.fresh := rfl
@[simp] theorem State.setQueue_qbinds (ck q : Nat) (l : List DWord) : (s.setQueue ck q l).qbinds = s.qbinds := rfl
@[simp] theorem State.setQueue_ctxJob (ck q : Nat) (l : List DWord) : (s.setQueue ck q l).ctxJob = s.ctxJob := rfl
@[simp] theorem State.setQueue_engCtx (ck q : Nat) (l : List DWord) : (s.setQueue ck q l).engCtx = s.engCtx := rfl
@[simp] theorem State.setQueue_slots (ck q : Nat) (l : List DWord) : (s.setQueue ck q l).slots = s.slots := rfl
@[simp] theorem State.setQueue_waves (ck q : Nat) (l : List DWord) : (s.setQueue ck q l).waves = s.waves := rfl
@[simp] theorem State.setQueue_groups (ck q : Nat) (l : List DWord) : (s.setQueue ck q l).groups = s.groups := rfl
@[simp] theorem State.setQueue_xqueue (ck q : Nat) (l : List DWord) : (s.setQueue ck q l).xqueue = s.xqueue := rfl
@[simp] theorem State.setQueue_regionBufs (ck q : Nat) (l : List DWord) : (s.setQueue ck q l).regionBufs = s.regionBufs := rfl
@[simp] theorem State.setQueue_turns (ck q : Nat) (l : List DWord) : (s.setQueue ck q l).turns = s.turns := rfl
@[simp] theorem State.setQueue_mem (ck q : Nat) (l : List DWord) : (s.setQueue ck q l).mem = s.mem := rfl
@[simp] theorem State.setQueue_dirty (ck q : Nat) (l : List DWord) : (s.setQueue ck q l).dirty = s.dirty := rfl
@[simp] theorem State.setQueue_aliases (ck q : Nat) (l : List DWord) : (s.setQueue ck q l).aliases = s.aliases := rfl
@[simp] theorem State.setQueue_loc (ck q : Nat) (l : List DWord) : (s.setQueue ck q l).loc = s.loc := rfl
@[simp] theorem State.setQueue_rings (ck q : Nat) (l : List DWord) : (s.setQueue ck q l).rings = s.rings := rfl
@[simp] theorem State.setQueue_flights (ck q : Nat) (l : List DWord) : (s.setQueue ck q l).flights = s.flights := rfl
@[simp] theorem State.setQueue_nextId (ck q : Nat) (l : List DWord) : (s.setQueue ck q l).nextId = s.nextId := rfl
@[simp] theorem State.setQueue_acc (ck q : Nat) (l : List DWord) : (s.setQueue ck q l).acc = s.acc := rfl
@[simp] theorem State.setQueue_busy (ck q : Nat) (l : List DWord) : (s.setQueue ck q l).busy = s.busy := rfl
@[simp] theorem State.setQueue_colAcc (ck q : Nat) (l : List DWord) : (s.setQueue ck q l).colAcc = s.colAcc := rfl
@[simp] theorem State.setQueue_caOwner (ck q : Nat) (l : List DWord) : (s.setQueue ck q l).caOwner = s.caOwner := rfl
@[simp] theorem State.setQueue_caCtx (ck q : Nat) (l : List DWord) : (s.setQueue ck q l).caCtx = s.caCtx := rfl
@[simp] theorem State.setQueue_pages (ck q : Nat) (l : List DWord) : (s.setQueue ck q l).pages = s.pages := rfl
@[simp] theorem State.setQueue_pageTags (ck q : Nat) (l : List DWord) : (s.setQueue ck q l).pageTags = s.pageTags := rfl
@[simp] theorem State.setQueue_shapes (ck q : Nat) (l : List DWord) : (s.setQueue ck q l).shapes = s.shapes := rfl
@[simp] theorem State.setQueue_accords (ck q : Nat) (l : List DWord) : (s.setQueue ck q l).accords = s.accords := rfl
@[simp] theorem State.setQueue_rtes (ck q : Nat) (l : List DWord) : (s.setQueue ck q l).rtes = s.rtes := rfl
@[simp] theorem State.setQueue_orphans (ck q : Nat) (l : List DWord) : (s.setQueue ck q l).orphans = s.orphans := rfl
@[simp] theorem State.setQueue_predictor (ck q : Nat) (l : List DWord) : (s.setQueue ck q l).predictor = s.predictor := rfl
@[simp] theorem State.setQueue_poisonMem (ck q : Nat) (l : List DWord) : (s.setQueue ck q l).poisonMem = s.poisonMem := rfl
@[simp] theorem State.setQueue_poisonNew (ck q : Nat) (l : List DWord) : (s.setQueue ck q l).poisonNew = s.poisonNew := rfl
@[simp] theorem State.setQueue_zeroed (ck q : Nat) (l : List DWord) : (s.setQueue ck q l).zeroed = s.zeroed := rfl
@[simp] theorem State.setQueue_poisonLoc (ck q : Nat) (l : List DWord) : (s.setQueue ck q l).poisonLoc = s.poisonLoc := rfl
@[simp] theorem State.setQueue_poisonLane (ck q : Nat) (l : List DWord) : (s.setQueue ck q l).poisonLane = s.poisonLane := rfl
@[simp] theorem State.setQueue_poisonScalar (ck q : Nat) (l : List DWord) : (s.setQueue ck q l).poisonScalar = s.poisonScalar := rfl
@[simp] theorem State.setQueue_poisonAcc (ck q : Nat) (l : List DWord) : (s.setQueue ck q l).poisonAcc = s.poisonAcc := rfl
@[simp] theorem State.setQueue_poisonCa (ck q : Nat) (l : List DWord) : (s.setQueue ck q l).poisonCa = s.poisonCa := rfl
@[simp] theorem State.setQueue_poisonPage (ck q : Nat) (l : List DWord) : (s.setQueue ck q l).poisonPage = s.poisonPage := rfl
@[simp] theorem State.setQueue_tlbs (ck q : Nat) (l : List DWord) : (s.setQueue ck q l).tlbs = s.tlbs := rfl
@[simp] theorem State.setQueue_installed (ck q : Nat) (l : List DWord) : (s.setQueue ck q l).installed = s.installed := rfl
@[simp] theorem State.setQueue_pkg (ck q : Nat) (l : List DWord) : (s.setQueue ck q l).pkg = s.pkg := rfl
@[simp] theorem State.setQueue_failedLinks (ck q : Nat) (l : List DWord) : (s.setQueue ck q l).failedLinks = s.failedLinks := rfl
@[simp] theorem State.setQueue_creg (ck q : Nat) (l : List DWord) : (s.setQueue ck q l).creg = s.creg := rfl
@[simp] theorem State.setQueue_icache (ck q : Nat) (l : List DWord) : (s.setQueue ck q l).icache = s.icache := rfl
@[simp] theorem State.setQueue_caches (ck q : Nat) (l : List DWord) : (s.setQueue ck q l).caches = s.caches := rfl
@[simp] theorem State.setQueue_roomWait (ck q : Nat) (l : List DWord) : (s.setQueue ck q l).roomWait = s.roomWait := rfl
@[simp] theorem State.setQueue_dir (ck q : Nat) (l : List DWord) : (s.setQueue ck q l).dir = s.dir := rfl
@[simp] theorem State.setQueue_lines (ck q : Nat) (l : List DWord) : (s.setQueue ck q l).lines = s.lines := rfl
@[simp] theorem State.setQueue_homeQueue (ck q : Nat) (l : List DWord) : (s.setQueue ck q l).homeQueue = s.homeQueue := rfl
@[simp] theorem State.setQueue_protocolErrors (ck q : Nat) (l : List DWord) : (s.setQueue ck q l).protocolErrors = s.protocolErrors := rfl
@[simp] theorem State.setQueue_migrated (ck q : Nat) (l : List DWord) : (s.setQueue ck q l).migrated = s.migrated := rfl
@[simp] theorem State.setQueue_routing (ck q : Nat) (l : List DWord) : (s.setQueue ck q l).routing = s.routing := rfl
@[simp] theorem State.setQueue_routingErrors (ck q : Nat) (l : List DWord) : (s.setQueue ck q l).routingErrors = s.routingErrors := rfl
@[simp] theorem State.setQueue_invalidating (ck q : Nat) (l : List DWord) : (s.setQueue ck q l).invalidating = s.invalidating := rfl
@[simp] theorem State.setQueue_regulators (ck q : Nat) (l : List DWord) : (s.setQueue ck q l).regulators = s.regulators := rfl
@[simp] theorem State.setQueue_island (ck q : Nat) (l : List DWord) : (s.setQueue ck q l).island = s.island := rfl
@[simp] theorem State.setQueue_pairNs (ck q : Nat) (l : List DWord) : (s.setQueue ck q l).pairNs = s.pairNs := rfl
@[simp] theorem State.setQueue_pairCyc (ck q : Nat) (l : List DWord) : (s.setQueue ck q l).pairCyc = s.pairCyc := rfl
@[simp] theorem State.setQueue_nextPair (ck q : Nat) (l : List DWord) : (s.setQueue ck q l).nextPair = s.nextPair := rfl
@[simp] theorem State.setQueue_nextScan (ck q : Nat) (l : List DWord) : (s.setQueue ck q l).nextScan = s.nextScan := rfl
@[simp] theorem State.setQueue_pairLatch (ck q : Nat) (l : List DWord) : (s.setQueue ck q l).pairLatch = s.pairLatch := rfl
@[simp] theorem State.setQueue_rate (ck q : Nat) (l : List DWord) : (s.setQueue ck q l).rate = s.rate := rfl
@[simp] theorem State.setQueue_corrected (ck q : Nat) (l : List DWord) : (s.setQueue ck q l).corrected = s.corrected := rfl
@[simp] theorem State.setQueue_poisoned (ck q : Nat) (l : List DWord) : (s.setQueue ck q l).poisoned = s.poisoned := rfl
@[simp] theorem State.setQueue_evaluations (ck q : Nat) (l : List DWord) : (s.setQueue ck q l).evaluations = s.evaluations := rfl
@[simp] theorem State.setQueue_pciePart (ck q : Nat) (l : List DWord) : (s.setQueue ck q l).pciePart = s.pciePart := rfl
@[simp] theorem State.setQueue_ingestDropped (ck q : Nat) (l : List DWord) : (s.setQueue ck q l).ingestDropped = s.ingestDropped := rfl
@[simp] theorem State.setQueue_islandInterrupts (ck q : Nat) (l : List DWord) : (s.setQueue ck q l).islandInterrupts = s.islandInterrupts := rfl
@[simp] theorem State.setQueue_msi (ck q : Nat) (l : List DWord) : (s.setQueue ck q l).msi = s.msi := rfl

/-! ### pushQueue -/

@[simp] theorem State.pushQueue_ns (ck q : Nat) (v : DWord) : (s.pushQueue ck q v).ns = s.ns := rfl
@[simp] theorem State.pushQueue_cyc (ck q : Nat) (v : DWord) : (s.pushQueue ck q v).cyc = s.cyc := rfl
@[simp] theorem State.pushQueue_agenda (ck q : Nat) (v : DWord) : (s.pushQueue ck q v).agenda = s.agenda := rfl
@[simp] theorem State.pushQueue_cur (ck q : Nat) (v : DWord) : (s.pushQueue ck q v).cur = s.cur := rfl
@[simp] theorem State.pushQueue_rank (ck q : Nat) (v : DWord) : (s.pushQueue ck q v).rank = s.rank := rfl
@[simp] theorem State.pushQueue_free (ck q : Nat) (v : DWord) : (s.pushQueue ck q v).free = s.free := rfl
@[simp] theorem State.pushQueue_ctl (ck q : Nat) (v : DWord) : (s.pushQueue ck q v).ctl = s.ctl := rfl
@[simp] theorem State.pushQueue_sreg (ck q : Nat) (v : DWord) : (s.pushQueue ck q v).sreg = s.sreg := rfl
@[simp] theorem State.pushQueue_lreg (ck q : Nat) (v : DWord) : (s.pushQueue ck q v).lreg = s.lreg := rfl
@[simp] theorem State.pushQueue_preg (ck q : Nat) (v : DWord) : (s.pushQueue ck q v).preg = s.preg := rfl
@[simp] theorem State.pushQueue_tokens (ck q : Nat) (v : DWord) : (s.pushQueue ck q v).tokens = s.tokens := rfl
@[simp] theorem State.pushQueue_qbinds (ck q : Nat) (v : DWord) : (s.pushQueue ck q v).qbinds = s.qbinds := rfl
@[simp] theorem State.pushQueue_ctxJob (ck q : Nat) (v : DWord) : (s.pushQueue ck q v).ctxJob = s.ctxJob := rfl
@[simp] theorem State.pushQueue_engCtx (ck q : Nat) (v : DWord) : (s.pushQueue ck q v).engCtx = s.engCtx := rfl
@[simp] theorem State.pushQueue_slots (ck q : Nat) (v : DWord) : (s.pushQueue ck q v).slots = s.slots := rfl
@[simp] theorem State.pushQueue_waves (ck q : Nat) (v : DWord) : (s.pushQueue ck q v).waves = s.waves := rfl
@[simp] theorem State.pushQueue_groups (ck q : Nat) (v : DWord) : (s.pushQueue ck q v).groups = s.groups := rfl
@[simp] theorem State.pushQueue_xqueue (ck q : Nat) (v : DWord) : (s.pushQueue ck q v).xqueue = s.xqueue := rfl
@[simp] theorem State.pushQueue_regionBufs (ck q : Nat) (v : DWord) : (s.pushQueue ck q v).regionBufs = s.regionBufs := rfl
@[simp] theorem State.pushQueue_turns (ck q : Nat) (v : DWord) : (s.pushQueue ck q v).turns = s.turns := rfl
@[simp] theorem State.pushQueue_mem (ck q : Nat) (v : DWord) : (s.pushQueue ck q v).mem = s.mem := rfl
@[simp] theorem State.pushQueue_dirty (ck q : Nat) (v : DWord) : (s.pushQueue ck q v).dirty = s.dirty := rfl
@[simp] theorem State.pushQueue_aliases (ck q : Nat) (v : DWord) : (s.pushQueue ck q v).aliases = s.aliases := rfl
@[simp] theorem State.pushQueue_loc (ck q : Nat) (v : DWord) : (s.pushQueue ck q v).loc = s.loc := rfl
@[simp] theorem State.pushQueue_rings (ck q : Nat) (v : DWord) : (s.pushQueue ck q v).rings = s.rings := rfl
@[simp] theorem State.pushQueue_flights (ck q : Nat) (v : DWord) : (s.pushQueue ck q v).flights = s.flights := rfl
@[simp] theorem State.pushQueue_nextId (ck q : Nat) (v : DWord) : (s.pushQueue ck q v).nextId = s.nextId := rfl
@[simp] theorem State.pushQueue_acc (ck q : Nat) (v : DWord) : (s.pushQueue ck q v).acc = s.acc := rfl
@[simp] theorem State.pushQueue_busy (ck q : Nat) (v : DWord) : (s.pushQueue ck q v).busy = s.busy := rfl
@[simp] theorem State.pushQueue_colAcc (ck q : Nat) (v : DWord) : (s.pushQueue ck q v).colAcc = s.colAcc := rfl
@[simp] theorem State.pushQueue_caOwner (ck q : Nat) (v : DWord) : (s.pushQueue ck q v).caOwner = s.caOwner := rfl
@[simp] theorem State.pushQueue_caCtx (ck q : Nat) (v : DWord) : (s.pushQueue ck q v).caCtx = s.caCtx := rfl
@[simp] theorem State.pushQueue_pages (ck q : Nat) (v : DWord) : (s.pushQueue ck q v).pages = s.pages := rfl
@[simp] theorem State.pushQueue_pageTags (ck q : Nat) (v : DWord) : (s.pushQueue ck q v).pageTags = s.pageTags := rfl
@[simp] theorem State.pushQueue_shapes (ck q : Nat) (v : DWord) : (s.pushQueue ck q v).shapes = s.shapes := rfl
@[simp] theorem State.pushQueue_accords (ck q : Nat) (v : DWord) : (s.pushQueue ck q v).accords = s.accords := rfl
@[simp] theorem State.pushQueue_rtes (ck q : Nat) (v : DWord) : (s.pushQueue ck q v).rtes = s.rtes := rfl
@[simp] theorem State.pushQueue_orphans (ck q : Nat) (v : DWord) : (s.pushQueue ck q v).orphans = s.orphans := rfl
@[simp] theorem State.pushQueue_predictor (ck q : Nat) (v : DWord) : (s.pushQueue ck q v).predictor = s.predictor := rfl
@[simp] theorem State.pushQueue_poisonMem (ck q : Nat) (v : DWord) : (s.pushQueue ck q v).poisonMem = s.poisonMem := rfl
@[simp] theorem State.pushQueue_poisonNew (ck q : Nat) (v : DWord) : (s.pushQueue ck q v).poisonNew = s.poisonNew := rfl
@[simp] theorem State.pushQueue_zeroed (ck q : Nat) (v : DWord) : (s.pushQueue ck q v).zeroed = s.zeroed := rfl
@[simp] theorem State.pushQueue_poisonLoc (ck q : Nat) (v : DWord) : (s.pushQueue ck q v).poisonLoc = s.poisonLoc := rfl
@[simp] theorem State.pushQueue_poisonLane (ck q : Nat) (v : DWord) : (s.pushQueue ck q v).poisonLane = s.poisonLane := rfl
@[simp] theorem State.pushQueue_poisonScalar (ck q : Nat) (v : DWord) : (s.pushQueue ck q v).poisonScalar = s.poisonScalar := rfl
@[simp] theorem State.pushQueue_poisonAcc (ck q : Nat) (v : DWord) : (s.pushQueue ck q v).poisonAcc = s.poisonAcc := rfl
@[simp] theorem State.pushQueue_poisonCa (ck q : Nat) (v : DWord) : (s.pushQueue ck q v).poisonCa = s.poisonCa := rfl
@[simp] theorem State.pushQueue_poisonPage (ck q : Nat) (v : DWord) : (s.pushQueue ck q v).poisonPage = s.poisonPage := rfl
@[simp] theorem State.pushQueue_tlbs (ck q : Nat) (v : DWord) : (s.pushQueue ck q v).tlbs = s.tlbs := rfl
@[simp] theorem State.pushQueue_installed (ck q : Nat) (v : DWord) : (s.pushQueue ck q v).installed = s.installed := rfl
@[simp] theorem State.pushQueue_pkg (ck q : Nat) (v : DWord) : (s.pushQueue ck q v).pkg = s.pkg := rfl
@[simp] theorem State.pushQueue_failedLinks (ck q : Nat) (v : DWord) : (s.pushQueue ck q v).failedLinks = s.failedLinks := rfl
@[simp] theorem State.pushQueue_creg (ck q : Nat) (v : DWord) : (s.pushQueue ck q v).creg = s.creg := rfl
@[simp] theorem State.pushQueue_icache (ck q : Nat) (v : DWord) : (s.pushQueue ck q v).icache = s.icache := rfl
@[simp] theorem State.pushQueue_caches (ck q : Nat) (v : DWord) : (s.pushQueue ck q v).caches = s.caches := rfl
@[simp] theorem State.pushQueue_roomWait (ck q : Nat) (v : DWord) : (s.pushQueue ck q v).roomWait = s.roomWait := rfl
@[simp] theorem State.pushQueue_dir (ck q : Nat) (v : DWord) : (s.pushQueue ck q v).dir = s.dir := rfl
@[simp] theorem State.pushQueue_lines (ck q : Nat) (v : DWord) : (s.pushQueue ck q v).lines = s.lines := rfl
@[simp] theorem State.pushQueue_homeQueue (ck q : Nat) (v : DWord) : (s.pushQueue ck q v).homeQueue = s.homeQueue := rfl
@[simp] theorem State.pushQueue_protocolErrors (ck q : Nat) (v : DWord) : (s.pushQueue ck q v).protocolErrors = s.protocolErrors := rfl
@[simp] theorem State.pushQueue_migrated (ck q : Nat) (v : DWord) : (s.pushQueue ck q v).migrated = s.migrated := rfl
@[simp] theorem State.pushQueue_routing (ck q : Nat) (v : DWord) : (s.pushQueue ck q v).routing = s.routing := rfl
@[simp] theorem State.pushQueue_routingErrors (ck q : Nat) (v : DWord) : (s.pushQueue ck q v).routingErrors = s.routingErrors := rfl
@[simp] theorem State.pushQueue_invalidating (ck q : Nat) (v : DWord) : (s.pushQueue ck q v).invalidating = s.invalidating := rfl
@[simp] theorem State.pushQueue_regulators (ck q : Nat) (v : DWord) : (s.pushQueue ck q v).regulators = s.regulators := rfl
@[simp] theorem State.pushQueue_island (ck q : Nat) (v : DWord) : (s.pushQueue ck q v).island = s.island := rfl
@[simp] theorem State.pushQueue_pairNs (ck q : Nat) (v : DWord) : (s.pushQueue ck q v).pairNs = s.pairNs := rfl
@[simp] theorem State.pushQueue_pairCyc (ck q : Nat) (v : DWord) : (s.pushQueue ck q v).pairCyc = s.pairCyc := rfl
@[simp] theorem State.pushQueue_nextPair (ck q : Nat) (v : DWord) : (s.pushQueue ck q v).nextPair = s.nextPair := rfl
@[simp] theorem State.pushQueue_nextScan (ck q : Nat) (v : DWord) : (s.pushQueue ck q v).nextScan = s.nextScan := rfl
@[simp] theorem State.pushQueue_pairLatch (ck q : Nat) (v : DWord) : (s.pushQueue ck q v).pairLatch = s.pairLatch := rfl
@[simp] theorem State.pushQueue_rate (ck q : Nat) (v : DWord) : (s.pushQueue ck q v).rate = s.rate := rfl
@[simp] theorem State.pushQueue_corrected (ck q : Nat) (v : DWord) : (s.pushQueue ck q v).corrected = s.corrected := rfl
@[simp] theorem State.pushQueue_poisoned (ck q : Nat) (v : DWord) : (s.pushQueue ck q v).poisoned = s.poisoned := rfl
@[simp] theorem State.pushQueue_evaluations (ck q : Nat) (v : DWord) : (s.pushQueue ck q v).evaluations = s.evaluations := rfl
@[simp] theorem State.pushQueue_pciePart (ck q : Nat) (v : DWord) : (s.pushQueue ck q v).pciePart = s.pciePart := rfl
@[simp] theorem State.pushQueue_ingestDropped (ck q : Nat) (v : DWord) : (s.pushQueue ck q v).ingestDropped = s.ingestDropped := rfl
@[simp] theorem State.pushQueue_islandInterrupts (ck q : Nat) (v : DWord) : (s.pushQueue ck q v).islandInterrupts = s.islandInterrupts := rfl
@[simp] theorem State.pushQueue_msi (ck q : Nat) (v : DWord) : (s.pushQueue ck q v).msi = s.msi := rfl

/-! ### setSlot -/

@[simp] theorem State.setSlot_ns (k : Nat) (x : Slot) : (s.setSlot k x).ns = s.ns := rfl
@[simp] theorem State.setSlot_cyc (k : Nat) (x : Slot) : (s.setSlot k x).cyc = s.cyc := rfl
@[simp] theorem State.setSlot_agenda (k : Nat) (x : Slot) : (s.setSlot k x).agenda = s.agenda := rfl
@[simp] theorem State.setSlot_cur (k : Nat) (x : Slot) : (s.setSlot k x).cur = s.cur := rfl
@[simp] theorem State.setSlot_rank (k : Nat) (x : Slot) : (s.setSlot k x).rank = s.rank := rfl
@[simp] theorem State.setSlot_free (k : Nat) (x : Slot) : (s.setSlot k x).free = s.free := rfl
@[simp] theorem State.setSlot_ctl (k : Nat) (x : Slot) : (s.setSlot k x).ctl = s.ctl := rfl
@[simp] theorem State.setSlot_sreg (k : Nat) (x : Slot) : (s.setSlot k x).sreg = s.sreg := rfl
@[simp] theorem State.setSlot_lreg (k : Nat) (x : Slot) : (s.setSlot k x).lreg = s.lreg := rfl
@[simp] theorem State.setSlot_preg (k : Nat) (x : Slot) : (s.setSlot k x).preg = s.preg := rfl
@[simp] theorem State.setSlot_tokens (k : Nat) (x : Slot) : (s.setSlot k x).tokens = s.tokens := rfl
@[simp] theorem State.setSlot_fresh (k : Nat) (x : Slot) : (s.setSlot k x).fresh = s.fresh := rfl
@[simp] theorem State.setSlot_queues (k : Nat) (x : Slot) : (s.setSlot k x).queues = s.queues := rfl
@[simp] theorem State.setSlot_qbinds (k : Nat) (x : Slot) : (s.setSlot k x).qbinds = s.qbinds := rfl
@[simp] theorem State.setSlot_ctxJob (k : Nat) (x : Slot) : (s.setSlot k x).ctxJob = s.ctxJob := rfl
@[simp] theorem State.setSlot_engCtx (k : Nat) (x : Slot) : (s.setSlot k x).engCtx = s.engCtx := rfl
@[simp] theorem State.setSlot_waves (k : Nat) (x : Slot) : (s.setSlot k x).waves = s.waves := rfl
@[simp] theorem State.setSlot_groups (k : Nat) (x : Slot) : (s.setSlot k x).groups = s.groups := rfl
@[simp] theorem State.setSlot_xqueue (k : Nat) (x : Slot) : (s.setSlot k x).xqueue = s.xqueue := rfl
@[simp] theorem State.setSlot_regionBufs (k : Nat) (x : Slot) : (s.setSlot k x).regionBufs = s.regionBufs := rfl
@[simp] theorem State.setSlot_turns (k : Nat) (x : Slot) : (s.setSlot k x).turns = s.turns := rfl
@[simp] theorem State.setSlot_mem (k : Nat) (x : Slot) : (s.setSlot k x).mem = s.mem := rfl
@[simp] theorem State.setSlot_dirty (k : Nat) (x : Slot) : (s.setSlot k x).dirty = s.dirty := rfl
@[simp] theorem State.setSlot_aliases (k : Nat) (x : Slot) : (s.setSlot k x).aliases = s.aliases := rfl
@[simp] theorem State.setSlot_loc (k : Nat) (x : Slot) : (s.setSlot k x).loc = s.loc := rfl
@[simp] theorem State.setSlot_rings (k : Nat) (x : Slot) : (s.setSlot k x).rings = s.rings := rfl
@[simp] theorem State.setSlot_flights (k : Nat) (x : Slot) : (s.setSlot k x).flights = s.flights := rfl
@[simp] theorem State.setSlot_nextId (k : Nat) (x : Slot) : (s.setSlot k x).nextId = s.nextId := rfl
@[simp] theorem State.setSlot_acc (k : Nat) (x : Slot) : (s.setSlot k x).acc = s.acc := rfl
@[simp] theorem State.setSlot_busy (k : Nat) (x : Slot) : (s.setSlot k x).busy = s.busy := rfl
@[simp] theorem State.setSlot_colAcc (k : Nat) (x : Slot) : (s.setSlot k x).colAcc = s.colAcc := rfl
@[simp] theorem State.setSlot_caOwner (k : Nat) (x : Slot) : (s.setSlot k x).caOwner = s.caOwner := rfl
@[simp] theorem State.setSlot_caCtx (k : Nat) (x : Slot) : (s.setSlot k x).caCtx = s.caCtx := rfl
@[simp] theorem State.setSlot_pages (k : Nat) (x : Slot) : (s.setSlot k x).pages = s.pages := rfl
@[simp] theorem State.setSlot_pageTags (k : Nat) (x : Slot) : (s.setSlot k x).pageTags = s.pageTags := rfl
@[simp] theorem State.setSlot_shapes (k : Nat) (x : Slot) : (s.setSlot k x).shapes = s.shapes := rfl
@[simp] theorem State.setSlot_accords (k : Nat) (x : Slot) : (s.setSlot k x).accords = s.accords := rfl
@[simp] theorem State.setSlot_rtes (k : Nat) (x : Slot) : (s.setSlot k x).rtes = s.rtes := rfl
@[simp] theorem State.setSlot_orphans (k : Nat) (x : Slot) : (s.setSlot k x).orphans = s.orphans := rfl
@[simp] theorem State.setSlot_predictor (k : Nat) (x : Slot) : (s.setSlot k x).predictor = s.predictor := rfl
@[simp] theorem State.setSlot_poisonMem (k : Nat) (x : Slot) : (s.setSlot k x).poisonMem = s.poisonMem := rfl
@[simp] theorem State.setSlot_poisonNew (k : Nat) (x : Slot) : (s.setSlot k x).poisonNew = s.poisonNew := rfl
@[simp] theorem State.setSlot_zeroed (k : Nat) (x : Slot) : (s.setSlot k x).zeroed = s.zeroed := rfl
@[simp] theorem State.setSlot_poisonLoc (k : Nat) (x : Slot) : (s.setSlot k x).poisonLoc = s.poisonLoc := rfl
@[simp] theorem State.setSlot_poisonLane (k : Nat) (x : Slot) : (s.setSlot k x).poisonLane = s.poisonLane := rfl
@[simp] theorem State.setSlot_poisonScalar (k : Nat) (x : Slot) : (s.setSlot k x).poisonScalar = s.poisonScalar := rfl
@[simp] theorem State.setSlot_poisonAcc (k : Nat) (x : Slot) : (s.setSlot k x).poisonAcc = s.poisonAcc := rfl
@[simp] theorem State.setSlot_poisonCa (k : Nat) (x : Slot) : (s.setSlot k x).poisonCa = s.poisonCa := rfl
@[simp] theorem State.setSlot_poisonPage (k : Nat) (x : Slot) : (s.setSlot k x).poisonPage = s.poisonPage := rfl
@[simp] theorem State.setSlot_tlbs (k : Nat) (x : Slot) : (s.setSlot k x).tlbs = s.tlbs := rfl
@[simp] theorem State.setSlot_installed (k : Nat) (x : Slot) : (s.setSlot k x).installed = s.installed := rfl
@[simp] theorem State.setSlot_pkg (k : Nat) (x : Slot) : (s.setSlot k x).pkg = s.pkg := rfl
@[simp] theorem State.setSlot_failedLinks (k : Nat) (x : Slot) : (s.setSlot k x).failedLinks = s.failedLinks := rfl
@[simp] theorem State.setSlot_creg (k : Nat) (x : Slot) : (s.setSlot k x).creg = s.creg := rfl
@[simp] theorem State.setSlot_icache (k : Nat) (x : Slot) : (s.setSlot k x).icache = s.icache := rfl
@[simp] theorem State.setSlot_caches (k : Nat) (x : Slot) : (s.setSlot k x).caches = s.caches := rfl
@[simp] theorem State.setSlot_roomWait (k : Nat) (x : Slot) : (s.setSlot k x).roomWait = s.roomWait := rfl
@[simp] theorem State.setSlot_dir (k : Nat) (x : Slot) : (s.setSlot k x).dir = s.dir := rfl
@[simp] theorem State.setSlot_lines (k : Nat) (x : Slot) : (s.setSlot k x).lines = s.lines := rfl
@[simp] theorem State.setSlot_homeQueue (k : Nat) (x : Slot) : (s.setSlot k x).homeQueue = s.homeQueue := rfl
@[simp] theorem State.setSlot_protocolErrors (k : Nat) (x : Slot) : (s.setSlot k x).protocolErrors = s.protocolErrors := rfl
@[simp] theorem State.setSlot_migrated (k : Nat) (x : Slot) : (s.setSlot k x).migrated = s.migrated := rfl
@[simp] theorem State.setSlot_routing (k : Nat) (x : Slot) : (s.setSlot k x).routing = s.routing := rfl
@[simp] theorem State.setSlot_routingErrors (k : Nat) (x : Slot) : (s.setSlot k x).routingErrors = s.routingErrors := rfl
@[simp] theorem State.setSlot_invalidating (k : Nat) (x : Slot) : (s.setSlot k x).invalidating = s.invalidating := rfl
@[simp] theorem State.setSlot_regulators (k : Nat) (x : Slot) : (s.setSlot k x).regulators = s.regulators := rfl
@[simp] theorem State.setSlot_island (k : Nat) (x : Slot) : (s.setSlot k x).island = s.island := rfl
@[simp] theorem State.setSlot_pairNs (k : Nat) (x : Slot) : (s.setSlot k x).pairNs = s.pairNs := rfl
@[simp] theorem State.setSlot_pairCyc (k : Nat) (x : Slot) : (s.setSlot k x).pairCyc = s.pairCyc := rfl
@[simp] theorem State.setSlot_nextPair (k : Nat) (x : Slot) : (s.setSlot k x).nextPair = s.nextPair := rfl
@[simp] theorem State.setSlot_nextScan (k : Nat) (x : Slot) : (s.setSlot k x).nextScan = s.nextScan := rfl
@[simp] theorem State.setSlot_pairLatch (k : Nat) (x : Slot) : (s.setSlot k x).pairLatch = s.pairLatch := rfl
@[simp] theorem State.setSlot_rate (k : Nat) (x : Slot) : (s.setSlot k x).rate = s.rate := rfl
@[simp] theorem State.setSlot_corrected (k : Nat) (x : Slot) : (s.setSlot k x).corrected = s.corrected := rfl
@[simp] theorem State.setSlot_poisoned (k : Nat) (x : Slot) : (s.setSlot k x).poisoned = s.poisoned := rfl
@[simp] theorem State.setSlot_evaluations (k : Nat) (x : Slot) : (s.setSlot k x).evaluations = s.evaluations := rfl
@[simp] theorem State.setSlot_pciePart (k : Nat) (x : Slot) : (s.setSlot k x).pciePart = s.pciePart := rfl
@[simp] theorem State.setSlot_ingestDropped (k : Nat) (x : Slot) : (s.setSlot k x).ingestDropped = s.ingestDropped := rfl
@[simp] theorem State.setSlot_islandInterrupts (k : Nat) (x : Slot) : (s.setSlot k x).islandInterrupts = s.islandInterrupts := rfl
@[simp] theorem State.setSlot_msi (k : Nat) (x : Slot) : (s.setSlot k x).msi = s.msi := rfl

/-! ### modSlot -/

@[simp] theorem State.modSlot_ns (k : Nat) (f : Slot → Slot) : (s.modSlot k f).ns = s.ns := rfl
@[simp] theorem State.modSlot_cyc (k : Nat) (f : Slot → Slot) : (s.modSlot k f).cyc = s.cyc := rfl
@[simp] theorem State.modSlot_agenda (k : Nat) (f : Slot → Slot) : (s.modSlot k f).agenda = s.agenda := rfl
@[simp] theorem State.modSlot_cur (k : Nat) (f : Slot → Slot) : (s.modSlot k f).cur = s.cur := rfl
@[simp] theorem State.modSlot_rank (k : Nat) (f : Slot → Slot) : (s.modSlot k f).rank = s.rank := rfl
@[simp] theorem State.modSlot_free (k : Nat) (f : Slot → Slot) : (s.modSlot k f).free = s.free := rfl
@[simp] theorem State.modSlot_ctl (k : Nat) (f : Slot → Slot) : (s.modSlot k f).ctl = s.ctl := rfl
@[simp] theorem State.modSlot_sreg (k : Nat) (f : Slot → Slot) : (s.modSlot k f).sreg = s.sreg := rfl
@[simp] theorem State.modSlot_lreg (k : Nat) (f : Slot → Slot) : (s.modSlot k f).lreg = s.lreg := rfl
@[simp] theorem State.modSlot_preg (k : Nat) (f : Slot → Slot) : (s.modSlot k f).preg = s.preg := rfl
@[simp] theorem State.modSlot_tokens (k : Nat) (f : Slot → Slot) : (s.modSlot k f).tokens = s.tokens := rfl
@[simp] theorem State.modSlot_fresh (k : Nat) (f : Slot → Slot) : (s.modSlot k f).fresh = s.fresh := rfl
@[simp] theorem State.modSlot_queues (k : Nat) (f : Slot → Slot) : (s.modSlot k f).queues = s.queues := rfl
@[simp] theorem State.modSlot_qbinds (k : Nat) (f : Slot → Slot) : (s.modSlot k f).qbinds = s.qbinds := rfl
@[simp] theorem State.modSlot_ctxJob (k : Nat) (f : Slot → Slot) : (s.modSlot k f).ctxJob = s.ctxJob := rfl
@[simp] theorem State.modSlot_engCtx (k : Nat) (f : Slot → Slot) : (s.modSlot k f).engCtx = s.engCtx := rfl
@[simp] theorem State.modSlot_waves (k : Nat) (f : Slot → Slot) : (s.modSlot k f).waves = s.waves := rfl
@[simp] theorem State.modSlot_groups (k : Nat) (f : Slot → Slot) : (s.modSlot k f).groups = s.groups := rfl
@[simp] theorem State.modSlot_xqueue (k : Nat) (f : Slot → Slot) : (s.modSlot k f).xqueue = s.xqueue := rfl
@[simp] theorem State.modSlot_regionBufs (k : Nat) (f : Slot → Slot) : (s.modSlot k f).regionBufs = s.regionBufs := rfl
@[simp] theorem State.modSlot_turns (k : Nat) (f : Slot → Slot) : (s.modSlot k f).turns = s.turns := rfl
@[simp] theorem State.modSlot_mem (k : Nat) (f : Slot → Slot) : (s.modSlot k f).mem = s.mem := rfl
@[simp] theorem State.modSlot_dirty (k : Nat) (f : Slot → Slot) : (s.modSlot k f).dirty = s.dirty := rfl
@[simp] theorem State.modSlot_aliases (k : Nat) (f : Slot → Slot) : (s.modSlot k f).aliases = s.aliases := rfl
@[simp] theorem State.modSlot_loc (k : Nat) (f : Slot → Slot) : (s.modSlot k f).loc = s.loc := rfl
@[simp] theorem State.modSlot_rings (k : Nat) (f : Slot → Slot) : (s.modSlot k f).rings = s.rings := rfl
@[simp] theorem State.modSlot_flights (k : Nat) (f : Slot → Slot) : (s.modSlot k f).flights = s.flights := rfl
@[simp] theorem State.modSlot_nextId (k : Nat) (f : Slot → Slot) : (s.modSlot k f).nextId = s.nextId := rfl
@[simp] theorem State.modSlot_acc (k : Nat) (f : Slot → Slot) : (s.modSlot k f).acc = s.acc := rfl
@[simp] theorem State.modSlot_busy (k : Nat) (f : Slot → Slot) : (s.modSlot k f).busy = s.busy := rfl
@[simp] theorem State.modSlot_colAcc (k : Nat) (f : Slot → Slot) : (s.modSlot k f).colAcc = s.colAcc := rfl
@[simp] theorem State.modSlot_caOwner (k : Nat) (f : Slot → Slot) : (s.modSlot k f).caOwner = s.caOwner := rfl
@[simp] theorem State.modSlot_caCtx (k : Nat) (f : Slot → Slot) : (s.modSlot k f).caCtx = s.caCtx := rfl
@[simp] theorem State.modSlot_pages (k : Nat) (f : Slot → Slot) : (s.modSlot k f).pages = s.pages := rfl
@[simp] theorem State.modSlot_pageTags (k : Nat) (f : Slot → Slot) : (s.modSlot k f).pageTags = s.pageTags := rfl
@[simp] theorem State.modSlot_shapes (k : Nat) (f : Slot → Slot) : (s.modSlot k f).shapes = s.shapes := rfl
@[simp] theorem State.modSlot_accords (k : Nat) (f : Slot → Slot) : (s.modSlot k f).accords = s.accords := rfl
@[simp] theorem State.modSlot_rtes (k : Nat) (f : Slot → Slot) : (s.modSlot k f).rtes = s.rtes := rfl
@[simp] theorem State.modSlot_orphans (k : Nat) (f : Slot → Slot) : (s.modSlot k f).orphans = s.orphans := rfl
@[simp] theorem State.modSlot_predictor (k : Nat) (f : Slot → Slot) : (s.modSlot k f).predictor = s.predictor := rfl
@[simp] theorem State.modSlot_poisonMem (k : Nat) (f : Slot → Slot) : (s.modSlot k f).poisonMem = s.poisonMem := rfl
@[simp] theorem State.modSlot_poisonNew (k : Nat) (f : Slot → Slot) : (s.modSlot k f).poisonNew = s.poisonNew := rfl
@[simp] theorem State.modSlot_zeroed (k : Nat) (f : Slot → Slot) : (s.modSlot k f).zeroed = s.zeroed := rfl
@[simp] theorem State.modSlot_poisonLoc (k : Nat) (f : Slot → Slot) : (s.modSlot k f).poisonLoc = s.poisonLoc := rfl
@[simp] theorem State.modSlot_poisonLane (k : Nat) (f : Slot → Slot) : (s.modSlot k f).poisonLane = s.poisonLane := rfl
@[simp] theorem State.modSlot_poisonScalar (k : Nat) (f : Slot → Slot) : (s.modSlot k f).poisonScalar = s.poisonScalar := rfl
@[simp] theorem State.modSlot_poisonAcc (k : Nat) (f : Slot → Slot) : (s.modSlot k f).poisonAcc = s.poisonAcc := rfl
@[simp] theorem State.modSlot_poisonCa (k : Nat) (f : Slot → Slot) : (s.modSlot k f).poisonCa = s.poisonCa := rfl
@[simp] theorem State.modSlot_poisonPage (k : Nat) (f : Slot → Slot) : (s.modSlot k f).poisonPage = s.poisonPage := rfl
@[simp] theorem State.modSlot_tlbs (k : Nat) (f : Slot → Slot) : (s.modSlot k f).tlbs = s.tlbs := rfl
@[simp] theorem State.modSlot_installed (k : Nat) (f : Slot → Slot) : (s.modSlot k f).installed = s.installed := rfl
@[simp] theorem State.modSlot_pkg (k : Nat) (f : Slot → Slot) : (s.modSlot k f).pkg = s.pkg := rfl
@[simp] theorem State.modSlot_failedLinks (k : Nat) (f : Slot → Slot) : (s.modSlot k f).failedLinks = s.failedLinks := rfl
@[simp] theorem State.modSlot_creg (k : Nat) (f : Slot → Slot) : (s.modSlot k f).creg = s.creg := rfl
@[simp] theorem State.modSlot_icache (k : Nat) (f : Slot → Slot) : (s.modSlot k f).icache = s.icache := rfl
@[simp] theorem State.modSlot_caches (k : Nat) (f : Slot → Slot) : (s.modSlot k f).caches = s.caches := rfl
@[simp] theorem State.modSlot_roomWait (k : Nat) (f : Slot → Slot) : (s.modSlot k f).roomWait = s.roomWait := rfl
@[simp] theorem State.modSlot_dir (k : Nat) (f : Slot → Slot) : (s.modSlot k f).dir = s.dir := rfl
@[simp] theorem State.modSlot_lines (k : Nat) (f : Slot → Slot) : (s.modSlot k f).lines = s.lines := rfl
@[simp] theorem State.modSlot_homeQueue (k : Nat) (f : Slot → Slot) : (s.modSlot k f).homeQueue = s.homeQueue := rfl
@[simp] theorem State.modSlot_protocolErrors (k : Nat) (f : Slot → Slot) : (s.modSlot k f).protocolErrors = s.protocolErrors := rfl
@[simp] theorem State.modSlot_migrated (k : Nat) (f : Slot → Slot) : (s.modSlot k f).migrated = s.migrated := rfl
@[simp] theorem State.modSlot_routing (k : Nat) (f : Slot → Slot) : (s.modSlot k f).routing = s.routing := rfl
@[simp] theorem State.modSlot_routingErrors (k : Nat) (f : Slot → Slot) : (s.modSlot k f).routingErrors = s.routingErrors := rfl
@[simp] theorem State.modSlot_invalidating (k : Nat) (f : Slot → Slot) : (s.modSlot k f).invalidating = s.invalidating := rfl
@[simp] theorem State.modSlot_regulators (k : Nat) (f : Slot → Slot) : (s.modSlot k f).regulators = s.regulators := rfl
@[simp] theorem State.modSlot_island (k : Nat) (f : Slot → Slot) : (s.modSlot k f).island = s.island := rfl
@[simp] theorem State.modSlot_pairNs (k : Nat) (f : Slot → Slot) : (s.modSlot k f).pairNs = s.pairNs := rfl
@[simp] theorem State.modSlot_pairCyc (k : Nat) (f : Slot → Slot) : (s.modSlot k f).pairCyc = s.pairCyc := rfl
@[simp] theorem State.modSlot_nextPair (k : Nat) (f : Slot → Slot) : (s.modSlot k f).nextPair = s.nextPair := rfl
@[simp] theorem State.modSlot_nextScan (k : Nat) (f : Slot → Slot) : (s.modSlot k f).nextScan = s.nextScan := rfl
@[simp] theorem State.modSlot_pairLatch (k : Nat) (f : Slot → Slot) : (s.modSlot k f).pairLatch = s.pairLatch := rfl
@[simp] theorem State.modSlot_rate (k : Nat) (f : Slot → Slot) : (s.modSlot k f).rate = s.rate := rfl
@[simp] theorem State.modSlot_corrected (k : Nat) (f : Slot → Slot) : (s.modSlot k f).corrected = s.corrected := rfl
@[simp] theorem State.modSlot_poisoned (k : Nat) (f : Slot → Slot) : (s.modSlot k f).poisoned = s.poisoned := rfl
@[simp] theorem State.modSlot_evaluations (k : Nat) (f : Slot → Slot) : (s.modSlot k f).evaluations = s.evaluations := rfl
@[simp] theorem State.modSlot_pciePart (k : Nat) (f : Slot → Slot) : (s.modSlot k f).pciePart = s.pciePart := rfl
@[simp] theorem State.modSlot_ingestDropped (k : Nat) (f : Slot → Slot) : (s.modSlot k f).ingestDropped = s.ingestDropped := rfl
@[simp] theorem State.modSlot_islandInterrupts (k : Nat) (f : Slot → Slot) : (s.modSlot k f).islandInterrupts = s.islandInterrupts := rfl
@[simp] theorem State.modSlot_msi (k : Nat) (f : Slot → Slot) : (s.modSlot k f).msi = s.msi := rfl

/-! ### setRing -/

@[simp] theorem State.setRing_ns (core n : Nat) (r : Ring) : (s.setRing core n r).ns = s.ns := rfl
@[simp] theorem State.setRing_cyc (core n : Nat) (r : Ring) : (s.setRing core n r).cyc = s.cyc := rfl
@[simp] theorem State.setRing_agenda (core n : Nat) (r : Ring) : (s.setRing core n r).agenda = s.agenda := rfl
@[simp] theorem State.setRing_cur (core n : Nat) (r : Ring) : (s.setRing core n r).cur = s.cur := rfl
@[simp] theorem State.setRing_rank (core n : Nat) (r : Ring) : (s.setRing core n r).rank = s.rank := rfl
@[simp] theorem State.setRing_free (core n : Nat) (r : Ring) : (s.setRing core n r).free = s.free := rfl
@[simp] theorem State.setRing_ctl (core n : Nat) (r : Ring) : (s.setRing core n r).ctl = s.ctl := rfl
@[simp] theorem State.setRing_sreg (core n : Nat) (r : Ring) : (s.setRing core n r).sreg = s.sreg := rfl
@[simp] theorem State.setRing_lreg (core n : Nat) (r : Ring) : (s.setRing core n r).lreg = s.lreg := rfl
@[simp] theorem State.setRing_preg (core n : Nat) (r : Ring) : (s.setRing core n r).preg = s.preg := rfl
@[simp] theorem State.setRing_tokens (core n : Nat) (r : Ring) : (s.setRing core n r).tokens = s.tokens := rfl
@[simp] theorem State.setRing_fresh (core n : Nat) (r : Ring) : (s.setRing core n r).fresh = s.fresh := rfl
@[simp] theorem State.setRing_queues (core n : Nat) (r : Ring) : (s.setRing core n r).queues = s.queues := rfl
@[simp] theorem State.setRing_qbinds (core n : Nat) (r : Ring) : (s.setRing core n r).qbinds = s.qbinds := rfl
@[simp] theorem State.setRing_ctxJob (core n : Nat) (r : Ring) : (s.setRing core n r).ctxJob = s.ctxJob := rfl
@[simp] theorem State.setRing_engCtx (core n : Nat) (r : Ring) : (s.setRing core n r).engCtx = s.engCtx := rfl
@[simp] theorem State.setRing_slots (core n : Nat) (r : Ring) : (s.setRing core n r).slots = s.slots := rfl
@[simp] theorem State.setRing_waves (core n : Nat) (r : Ring) : (s.setRing core n r).waves = s.waves := rfl
@[simp] theorem State.setRing_groups (core n : Nat) (r : Ring) : (s.setRing core n r).groups = s.groups := rfl
@[simp] theorem State.setRing_xqueue (core n : Nat) (r : Ring) : (s.setRing core n r).xqueue = s.xqueue := rfl
@[simp] theorem State.setRing_regionBufs (core n : Nat) (r : Ring) : (s.setRing core n r).regionBufs = s.regionBufs := rfl
@[simp] theorem State.setRing_turns (core n : Nat) (r : Ring) : (s.setRing core n r).turns = s.turns := rfl
@[simp] theorem State.setRing_mem (core n : Nat) (r : Ring) : (s.setRing core n r).mem = s.mem := rfl
@[simp] theorem State.setRing_dirty (core n : Nat) (r : Ring) : (s.setRing core n r).dirty = s.dirty := rfl
@[simp] theorem State.setRing_aliases (core n : Nat) (r : Ring) : (s.setRing core n r).aliases = s.aliases := rfl
@[simp] theorem State.setRing_loc (core n : Nat) (r : Ring) : (s.setRing core n r).loc = s.loc := rfl
@[simp] theorem State.setRing_flights (core n : Nat) (r : Ring) : (s.setRing core n r).flights = s.flights := rfl
@[simp] theorem State.setRing_nextId (core n : Nat) (r : Ring) : (s.setRing core n r).nextId = s.nextId := rfl
@[simp] theorem State.setRing_acc (core n : Nat) (r : Ring) : (s.setRing core n r).acc = s.acc := rfl
@[simp] theorem State.setRing_busy (core n : Nat) (r : Ring) : (s.setRing core n r).busy = s.busy := rfl
@[simp] theorem State.setRing_colAcc (core n : Nat) (r : Ring) : (s.setRing core n r).colAcc = s.colAcc := rfl
@[simp] theorem State.setRing_caOwner (core n : Nat) (r : Ring) : (s.setRing core n r).caOwner = s.caOwner := rfl
@[simp] theorem State.setRing_caCtx (core n : Nat) (r : Ring) : (s.setRing core n r).caCtx = s.caCtx := rfl
@[simp] theorem State.setRing_pages (core n : Nat) (r : Ring) : (s.setRing core n r).pages = s.pages := rfl
@[simp] theorem State.setRing_pageTags (core n : Nat) (r : Ring) : (s.setRing core n r).pageTags = s.pageTags := rfl
@[simp] theorem State.setRing_shapes (core n : Nat) (r : Ring) : (s.setRing core n r).shapes = s.shapes := rfl
@[simp] theorem State.setRing_accords (core n : Nat) (r : Ring) : (s.setRing core n r).accords = s.accords := rfl
@[simp] theorem State.setRing_rtes (core n : Nat) (r : Ring) : (s.setRing core n r).rtes = s.rtes := rfl
@[simp] theorem State.setRing_orphans (core n : Nat) (r : Ring) : (s.setRing core n r).orphans = s.orphans := rfl
@[simp] theorem State.setRing_predictor (core n : Nat) (r : Ring) : (s.setRing core n r).predictor = s.predictor := rfl
@[simp] theorem State.setRing_poisonMem (core n : Nat) (r : Ring) : (s.setRing core n r).poisonMem = s.poisonMem := rfl
@[simp] theorem State.setRing_poisonNew (core n : Nat) (r : Ring) : (s.setRing core n r).poisonNew = s.poisonNew := rfl
@[simp] theorem State.setRing_zeroed (core n : Nat) (r : Ring) : (s.setRing core n r).zeroed = s.zeroed := rfl
@[simp] theorem State.setRing_poisonLoc (core n : Nat) (r : Ring) : (s.setRing core n r).poisonLoc = s.poisonLoc := rfl
@[simp] theorem State.setRing_poisonLane (core n : Nat) (r : Ring) : (s.setRing core n r).poisonLane = s.poisonLane := rfl
@[simp] theorem State.setRing_poisonScalar (core n : Nat) (r : Ring) : (s.setRing core n r).poisonScalar = s.poisonScalar := rfl
@[simp] theorem State.setRing_poisonAcc (core n : Nat) (r : Ring) : (s.setRing core n r).poisonAcc = s.poisonAcc := rfl
@[simp] theorem State.setRing_poisonCa (core n : Nat) (r : Ring) : (s.setRing core n r).poisonCa = s.poisonCa := rfl
@[simp] theorem State.setRing_poisonPage (core n : Nat) (r : Ring) : (s.setRing core n r).poisonPage = s.poisonPage := rfl
@[simp] theorem State.setRing_tlbs (core n : Nat) (r : Ring) : (s.setRing core n r).tlbs = s.tlbs := rfl
@[simp] theorem State.setRing_installed (core n : Nat) (r : Ring) : (s.setRing core n r).installed = s.installed := rfl
@[simp] theorem State.setRing_pkg (core n : Nat) (r : Ring) : (s.setRing core n r).pkg = s.pkg := rfl
@[simp] theorem State.setRing_failedLinks (core n : Nat) (r : Ring) : (s.setRing core n r).failedLinks = s.failedLinks := rfl
@[simp] theorem State.setRing_creg (core n : Nat) (r : Ring) : (s.setRing core n r).creg = s.creg := rfl
@[simp] theorem State.setRing_icache (core n : Nat) (r : Ring) : (s.setRing core n r).icache = s.icache := rfl
@[simp] theorem State.setRing_caches (core n : Nat) (r : Ring) : (s.setRing core n r).caches = s.caches := rfl
@[simp] theorem State.setRing_roomWait (core n : Nat) (r : Ring) : (s.setRing core n r).roomWait = s.roomWait := rfl
@[simp] theorem State.setRing_dir (core n : Nat) (r : Ring) : (s.setRing core n r).dir = s.dir := rfl
@[simp] theorem State.setRing_lines (core n : Nat) (r : Ring) : (s.setRing core n r).lines = s.lines := rfl
@[simp] theorem State.setRing_homeQueue (core n : Nat) (r : Ring) : (s.setRing core n r).homeQueue = s.homeQueue := rfl
@[simp] theorem State.setRing_protocolErrors (core n : Nat) (r : Ring) : (s.setRing core n r).protocolErrors = s.protocolErrors := rfl
@[simp] theorem State.setRing_migrated (core n : Nat) (r : Ring) : (s.setRing core n r).migrated = s.migrated := rfl
@[simp] theorem State.setRing_routing (core n : Nat) (r : Ring) : (s.setRing core n r).routing = s.routing := rfl
@[simp] theorem State.setRing_routingErrors (core n : Nat) (r : Ring) : (s.setRing core n r).routingErrors = s.routingErrors := rfl
@[simp] theorem State.setRing_invalidating (core n : Nat) (r : Ring) : (s.setRing core n r).invalidating = s.invalidating := rfl
@[simp] theorem State.setRing_regulators (core n : Nat) (r : Ring) : (s.setRing core n r).regulators = s.regulators := rfl
@[simp] theorem State.setRing_island (core n : Nat) (r : Ring) : (s.setRing core n r).island = s.island := rfl
@[simp] theorem State.setRing_pairNs (core n : Nat) (r : Ring) : (s.setRing core n r).pairNs = s.pairNs := rfl
@[simp] theorem State.setRing_pairCyc (core n : Nat) (r : Ring) : (s.setRing core n r).pairCyc = s.pairCyc := rfl
@[simp] theorem State.setRing_nextPair (core n : Nat) (r : Ring) : (s.setRing core n r).nextPair = s.nextPair := rfl
@[simp] theorem State.setRing_nextScan (core n : Nat) (r : Ring) : (s.setRing core n r).nextScan = s.nextScan := rfl
@[simp] theorem State.setRing_pairLatch (core n : Nat) (r : Ring) : (s.setRing core n r).pairLatch = s.pairLatch := rfl
@[simp] theorem State.setRing_rate (core n : Nat) (r : Ring) : (s.setRing core n r).rate = s.rate := rfl
@[simp] theorem State.setRing_corrected (core n : Nat) (r : Ring) : (s.setRing core n r).corrected = s.corrected := rfl
@[simp] theorem State.setRing_poisoned (core n : Nat) (r : Ring) : (s.setRing core n r).poisoned = s.poisoned := rfl
@[simp] theorem State.setRing_evaluations (core n : Nat) (r : Ring) : (s.setRing core n r).evaluations = s.evaluations := rfl
@[simp] theorem State.setRing_pciePart (core n : Nat) (r : Ring) : (s.setRing core n r).pciePart = s.pciePart := rfl
@[simp] theorem State.setRing_ingestDropped (core n : Nat) (r : Ring) : (s.setRing core n r).ingestDropped = s.ingestDropped := rfl
@[simp] theorem State.setRing_islandInterrupts (core n : Nat) (r : Ring) : (s.setRing core n r).islandInterrupts = s.islandInterrupts := rfl
@[simp] theorem State.setRing_msi (core n : Nat) (r : Ring) : (s.setRing core n r).msi = s.msi := rfl

/-! ### setCreg -/

@[simp] theorem State.setCreg_ns (a : Nat) (v : DWord) : (s.setCreg a v).ns = s.ns := rfl
@[simp] theorem State.setCreg_cyc (a : Nat) (v : DWord) : (s.setCreg a v).cyc = s.cyc := rfl
@[simp] theorem State.setCreg_agenda (a : Nat) (v : DWord) : (s.setCreg a v).agenda = s.agenda := rfl
@[simp] theorem State.setCreg_cur (a : Nat) (v : DWord) : (s.setCreg a v).cur = s.cur := rfl
@[simp] theorem State.setCreg_rank (a : Nat) (v : DWord) : (s.setCreg a v).rank = s.rank := rfl
@[simp] theorem State.setCreg_free (a : Nat) (v : DWord) : (s.setCreg a v).free = s.free := rfl
@[simp] theorem State.setCreg_ctl (a : Nat) (v : DWord) : (s.setCreg a v).ctl = s.ctl := rfl
@[simp] theorem State.setCreg_sreg (a : Nat) (v : DWord) : (s.setCreg a v).sreg = s.sreg := rfl
@[simp] theorem State.setCreg_lreg (a : Nat) (v : DWord) : (s.setCreg a v).lreg = s.lreg := rfl
@[simp] theorem State.setCreg_preg (a : Nat) (v : DWord) : (s.setCreg a v).preg = s.preg := rfl
@[simp] theorem State.setCreg_tokens (a : Nat) (v : DWord) : (s.setCreg a v).tokens = s.tokens := rfl
@[simp] theorem State.setCreg_fresh (a : Nat) (v : DWord) : (s.setCreg a v).fresh = s.fresh := rfl
@[simp] theorem State.setCreg_queues (a : Nat) (v : DWord) : (s.setCreg a v).queues = s.queues := rfl
@[simp] theorem State.setCreg_qbinds (a : Nat) (v : DWord) : (s.setCreg a v).qbinds = s.qbinds := rfl
@[simp] theorem State.setCreg_ctxJob (a : Nat) (v : DWord) : (s.setCreg a v).ctxJob = s.ctxJob := rfl
@[simp] theorem State.setCreg_engCtx (a : Nat) (v : DWord) : (s.setCreg a v).engCtx = s.engCtx := rfl
@[simp] theorem State.setCreg_slots (a : Nat) (v : DWord) : (s.setCreg a v).slots = s.slots := rfl
@[simp] theorem State.setCreg_waves (a : Nat) (v : DWord) : (s.setCreg a v).waves = s.waves := rfl
@[simp] theorem State.setCreg_groups (a : Nat) (v : DWord) : (s.setCreg a v).groups = s.groups := rfl
@[simp] theorem State.setCreg_xqueue (a : Nat) (v : DWord) : (s.setCreg a v).xqueue = s.xqueue := rfl
@[simp] theorem State.setCreg_regionBufs (a : Nat) (v : DWord) : (s.setCreg a v).regionBufs = s.regionBufs := rfl
@[simp] theorem State.setCreg_turns (a : Nat) (v : DWord) : (s.setCreg a v).turns = s.turns := rfl
@[simp] theorem State.setCreg_mem (a : Nat) (v : DWord) : (s.setCreg a v).mem = s.mem := rfl
@[simp] theorem State.setCreg_dirty (a : Nat) (v : DWord) : (s.setCreg a v).dirty = s.dirty := rfl
@[simp] theorem State.setCreg_aliases (a : Nat) (v : DWord) : (s.setCreg a v).aliases = s.aliases := rfl
@[simp] theorem State.setCreg_loc (a : Nat) (v : DWord) : (s.setCreg a v).loc = s.loc := rfl
@[simp] theorem State.setCreg_rings (a : Nat) (v : DWord) : (s.setCreg a v).rings = s.rings := rfl
@[simp] theorem State.setCreg_flights (a : Nat) (v : DWord) : (s.setCreg a v).flights = s.flights := rfl
@[simp] theorem State.setCreg_nextId (a : Nat) (v : DWord) : (s.setCreg a v).nextId = s.nextId := rfl
@[simp] theorem State.setCreg_acc (a : Nat) (v : DWord) : (s.setCreg a v).acc = s.acc := rfl
@[simp] theorem State.setCreg_busy (a : Nat) (v : DWord) : (s.setCreg a v).busy = s.busy := rfl
@[simp] theorem State.setCreg_colAcc (a : Nat) (v : DWord) : (s.setCreg a v).colAcc = s.colAcc := rfl
@[simp] theorem State.setCreg_caOwner (a : Nat) (v : DWord) : (s.setCreg a v).caOwner = s.caOwner := rfl
@[simp] theorem State.setCreg_caCtx (a : Nat) (v : DWord) : (s.setCreg a v).caCtx = s.caCtx := rfl
@[simp] theorem State.setCreg_pages (a : Nat) (v : DWord) : (s.setCreg a v).pages = s.pages := rfl
@[simp] theorem State.setCreg_pageTags (a : Nat) (v : DWord) : (s.setCreg a v).pageTags = s.pageTags := rfl
@[simp] theorem State.setCreg_shapes (a : Nat) (v : DWord) : (s.setCreg a v).shapes = s.shapes := rfl
@[simp] theorem State.setCreg_accords (a : Nat) (v : DWord) : (s.setCreg a v).accords = s.accords := rfl
@[simp] theorem State.setCreg_rtes (a : Nat) (v : DWord) : (s.setCreg a v).rtes = s.rtes := rfl
@[simp] theorem State.setCreg_orphans (a : Nat) (v : DWord) : (s.setCreg a v).orphans = s.orphans := rfl
@[simp] theorem State.setCreg_predictor (a : Nat) (v : DWord) : (s.setCreg a v).predictor = s.predictor := rfl
@[simp] theorem State.setCreg_poisonMem (a : Nat) (v : DWord) : (s.setCreg a v).poisonMem = s.poisonMem := rfl
@[simp] theorem State.setCreg_poisonNew (a : Nat) (v : DWord) : (s.setCreg a v).poisonNew = s.poisonNew := rfl
@[simp] theorem State.setCreg_zeroed (a : Nat) (v : DWord) : (s.setCreg a v).zeroed = s.zeroed := rfl
@[simp] theorem State.setCreg_poisonLoc (a : Nat) (v : DWord) : (s.setCreg a v).poisonLoc = s.poisonLoc := rfl
@[simp] theorem State.setCreg_poisonLane (a : Nat) (v : DWord) : (s.setCreg a v).poisonLane = s.poisonLane := rfl
@[simp] theorem State.setCreg_poisonScalar (a : Nat) (v : DWord) : (s.setCreg a v).poisonScalar = s.poisonScalar := rfl
@[simp] theorem State.setCreg_poisonAcc (a : Nat) (v : DWord) : (s.setCreg a v).poisonAcc = s.poisonAcc := rfl
@[simp] theorem State.setCreg_poisonCa (a : Nat) (v : DWord) : (s.setCreg a v).poisonCa = s.poisonCa := rfl
@[simp] theorem State.setCreg_poisonPage (a : Nat) (v : DWord) : (s.setCreg a v).poisonPage = s.poisonPage := rfl
@[simp] theorem State.setCreg_tlbs (a : Nat) (v : DWord) : (s.setCreg a v).tlbs = s.tlbs := rfl
@[simp] theorem State.setCreg_installed (a : Nat) (v : DWord) : (s.setCreg a v).installed = s.installed := rfl
@[simp] theorem State.setCreg_pkg (a : Nat) (v : DWord) : (s.setCreg a v).pkg = s.pkg := rfl
@[simp] theorem State.setCreg_failedLinks (a : Nat) (v : DWord) : (s.setCreg a v).failedLinks = s.failedLinks := rfl
@[simp] theorem State.setCreg_icache (a : Nat) (v : DWord) : (s.setCreg a v).icache = s.icache := rfl
@[simp] theorem State.setCreg_caches (a : Nat) (v : DWord) : (s.setCreg a v).caches = s.caches := rfl
@[simp] theorem State.setCreg_roomWait (a : Nat) (v : DWord) : (s.setCreg a v).roomWait = s.roomWait := rfl
@[simp] theorem State.setCreg_dir (a : Nat) (v : DWord) : (s.setCreg a v).dir = s.dir := rfl
@[simp] theorem State.setCreg_lines (a : Nat) (v : DWord) : (s.setCreg a v).lines = s.lines := rfl
@[simp] theorem State.setCreg_homeQueue (a : Nat) (v : DWord) : (s.setCreg a v).homeQueue = s.homeQueue := rfl
@[simp] theorem State.setCreg_protocolErrors (a : Nat) (v : DWord) : (s.setCreg a v).protocolErrors = s.protocolErrors := rfl
@[simp] theorem State.setCreg_migrated (a : Nat) (v : DWord) : (s.setCreg a v).migrated = s.migrated := rfl
@[simp] theorem State.setCreg_routing (a : Nat) (v : DWord) : (s.setCreg a v).routing = s.routing := rfl
@[simp] theorem State.setCreg_routingErrors (a : Nat) (v : DWord) : (s.setCreg a v).routingErrors = s.routingErrors := rfl
@[simp] theorem State.setCreg_invalidating (a : Nat) (v : DWord) : (s.setCreg a v).invalidating = s.invalidating := rfl
@[simp] theorem State.setCreg_regulators (a : Nat) (v : DWord) : (s.setCreg a v).regulators = s.regulators := rfl
@[simp] theorem State.setCreg_island (a : Nat) (v : DWord) : (s.setCreg a v).island = s.island := rfl
@[simp] theorem State.setCreg_pairNs (a : Nat) (v : DWord) : (s.setCreg a v).pairNs = s.pairNs := rfl
@[simp] theorem State.setCreg_pairCyc (a : Nat) (v : DWord) : (s.setCreg a v).pairCyc = s.pairCyc := rfl
@[simp] theorem State.setCreg_nextPair (a : Nat) (v : DWord) : (s.setCreg a v).nextPair = s.nextPair := rfl
@[simp] theorem State.setCreg_nextScan (a : Nat) (v : DWord) : (s.setCreg a v).nextScan = s.nextScan := rfl
@[simp] theorem State.setCreg_pairLatch (a : Nat) (v : DWord) : (s.setCreg a v).pairLatch = s.pairLatch := rfl
@[simp] theorem State.setCreg_rate (a : Nat) (v : DWord) : (s.setCreg a v).rate = s.rate := rfl
@[simp] theorem State.setCreg_corrected (a : Nat) (v : DWord) : (s.setCreg a v).corrected = s.corrected := rfl
@[simp] theorem State.setCreg_poisoned (a : Nat) (v : DWord) : (s.setCreg a v).poisoned = s.poisoned := rfl
@[simp] theorem State.setCreg_evaluations (a : Nat) (v : DWord) : (s.setCreg a v).evaluations = s.evaluations := rfl
@[simp] theorem State.setCreg_pciePart (a : Nat) (v : DWord) : (s.setCreg a v).pciePart = s.pciePart := rfl
@[simp] theorem State.setCreg_ingestDropped (a : Nat) (v : DWord) : (s.setCreg a v).ingestDropped = s.ingestDropped := rfl
@[simp] theorem State.setCreg_islandInterrupts (a : Nat) (v : DWord) : (s.setCreg a v).islandInterrupts = s.islandInterrupts := rfl
@[simp] theorem State.setCreg_msi (a : Nat) (v : DWord) : (s.setCreg a v).msi = s.msi := rfl

/-! ### launch -/

@[simp] theorem State.launch_ns (f : Flight) : (s.launch f).ns = s.ns := rfl
@[simp] theorem State.launch_cyc (f : Flight) : (s.launch f).cyc = s.cyc := rfl
@[simp] theorem State.launch_agenda (f : Flight) : (s.launch f).agenda = s.agenda := rfl
@[simp] theorem State.launch_cur (f : Flight) : (s.launch f).cur = s.cur := rfl
@[simp] theorem State.launch_rank (f : Flight) : (s.launch f).rank = s.rank := rfl
@[simp] theorem State.launch_free (f : Flight) : (s.launch f).free = s.free := rfl
@[simp] theorem State.launch_ctl (f : Flight) : (s.launch f).ctl = s.ctl := rfl
@[simp] theorem State.launch_sreg (f : Flight) : (s.launch f).sreg = s.sreg := rfl
@[simp] theorem State.launch_lreg (f : Flight) : (s.launch f).lreg = s.lreg := rfl
@[simp] theorem State.launch_preg (f : Flight) : (s.launch f).preg = s.preg := rfl
@[simp] theorem State.launch_tokens (f : Flight) : (s.launch f).tokens = s.tokens := rfl
@[simp] theorem State.launch_fresh (f : Flight) : (s.launch f).fresh = s.fresh := rfl
@[simp] theorem State.launch_queues (f : Flight) : (s.launch f).queues = s.queues := rfl
@[simp] theorem State.launch_qbinds (f : Flight) : (s.launch f).qbinds = s.qbinds := rfl
@[simp] theorem State.launch_ctxJob (f : Flight) : (s.launch f).ctxJob = s.ctxJob := rfl
@[simp] theorem State.launch_engCtx (f : Flight) : (s.launch f).engCtx = s.engCtx := rfl
@[simp] theorem State.launch_slots (f : Flight) : (s.launch f).slots = s.slots := rfl
@[simp] theorem State.launch_waves (f : Flight) : (s.launch f).waves = s.waves := rfl
@[simp] theorem State.launch_groups (f : Flight) : (s.launch f).groups = s.groups := rfl
@[simp] theorem State.launch_xqueue (f : Flight) : (s.launch f).xqueue = s.xqueue := rfl
@[simp] theorem State.launch_regionBufs (f : Flight) : (s.launch f).regionBufs = s.regionBufs := rfl
@[simp] theorem State.launch_turns (f : Flight) : (s.launch f).turns = s.turns := rfl
@[simp] theorem State.launch_mem (f : Flight) : (s.launch f).mem = s.mem := rfl
@[simp] theorem State.launch_dirty (f : Flight) : (s.launch f).dirty = s.dirty := rfl
@[simp] theorem State.launch_aliases (f : Flight) : (s.launch f).aliases = s.aliases := rfl
@[simp] theorem State.launch_loc (f : Flight) : (s.launch f).loc = s.loc := rfl
@[simp] theorem State.launch_rings (f : Flight) : (s.launch f).rings = s.rings := rfl
@[simp] theorem State.launch_acc (f : Flight) : (s.launch f).acc = s.acc := rfl
@[simp] theorem State.launch_busy (f : Flight) : (s.launch f).busy = s.busy := rfl
@[simp] theorem State.launch_colAcc (f : Flight) : (s.launch f).colAcc = s.colAcc := rfl
@[simp] theorem State.launch_caOwner (f : Flight) : (s.launch f).caOwner = s.caOwner := rfl
@[simp] theorem State.launch_caCtx (f : Flight) : (s.launch f).caCtx = s.caCtx := rfl
@[simp] theorem State.launch_pages (f : Flight) : (s.launch f).pages = s.pages := rfl
@[simp] theorem State.launch_pageTags (f : Flight) : (s.launch f).pageTags = s.pageTags := rfl
@[simp] theorem State.launch_shapes (f : Flight) : (s.launch f).shapes = s.shapes := rfl
@[simp] theorem State.launch_accords (f : Flight) : (s.launch f).accords = s.accords := rfl
@[simp] theorem State.launch_rtes (f : Flight) : (s.launch f).rtes = s.rtes := rfl
@[simp] theorem State.launch_orphans (f : Flight) : (s.launch f).orphans = s.orphans := rfl
@[simp] theorem State.launch_predictor (f : Flight) : (s.launch f).predictor = s.predictor := rfl
@[simp] theorem State.launch_poisonMem (f : Flight) : (s.launch f).poisonMem = s.poisonMem := rfl
@[simp] theorem State.launch_poisonNew (f : Flight) : (s.launch f).poisonNew = s.poisonNew := rfl
@[simp] theorem State.launch_zeroed (f : Flight) : (s.launch f).zeroed = s.zeroed := rfl
@[simp] theorem State.launch_poisonLoc (f : Flight) : (s.launch f).poisonLoc = s.poisonLoc := rfl
@[simp] theorem State.launch_poisonLane (f : Flight) : (s.launch f).poisonLane = s.poisonLane := rfl
@[simp] theorem State.launch_poisonScalar (f : Flight) : (s.launch f).poisonScalar = s.poisonScalar := rfl
@[simp] theorem State.launch_poisonAcc (f : Flight) : (s.launch f).poisonAcc = s.poisonAcc := rfl
@[simp] theorem State.launch_poisonCa (f : Flight) : (s.launch f).poisonCa = s.poisonCa := rfl
@[simp] theorem State.launch_poisonPage (f : Flight) : (s.launch f).poisonPage = s.poisonPage := rfl
@[simp] theorem State.launch_tlbs (f : Flight) : (s.launch f).tlbs = s.tlbs := rfl
@[simp] theorem State.launch_installed (f : Flight) : (s.launch f).installed = s.installed := rfl
@[simp] theorem State.launch_pkg (f : Flight) : (s.launch f).pkg = s.pkg := rfl
@[simp] theorem State.launch_failedLinks (f : Flight) : (s.launch f).failedLinks = s.failedLinks := rfl
@[simp] theorem State.launch_creg (f : Flight) : (s.launch f).creg = s.creg := rfl
@[simp] theorem State.launch_icache (f : Flight) : (s.launch f).icache = s.icache := rfl
@[simp] theorem State.launch_caches (f : Flight) : (s.launch f).caches = s.caches := rfl
@[simp] theorem State.launch_roomWait (f : Flight) : (s.launch f).roomWait = s.roomWait := rfl
@[simp] theorem State.launch_dir (f : Flight) : (s.launch f).dir = s.dir := rfl
@[simp] theorem State.launch_lines (f : Flight) : (s.launch f).lines = s.lines := rfl
@[simp] theorem State.launch_homeQueue (f : Flight) : (s.launch f).homeQueue = s.homeQueue := rfl
@[simp] theorem State.launch_protocolErrors (f : Flight) : (s.launch f).protocolErrors = s.protocolErrors := rfl
@[simp] theorem State.launch_migrated (f : Flight) : (s.launch f).migrated = s.migrated := rfl
@[simp] theorem State.launch_routing (f : Flight) : (s.launch f).routing = s.routing := rfl
@[simp] theorem State.launch_routingErrors (f : Flight) : (s.launch f).routingErrors = s.routingErrors := rfl
@[simp] theorem State.launch_invalidating (f : Flight) : (s.launch f).invalidating = s.invalidating := rfl
@[simp] theorem State.launch_regulators (f : Flight) : (s.launch f).regulators = s.regulators := rfl
@[simp] theorem State.launch_island (f : Flight) : (s.launch f).island = s.island := rfl
@[simp] theorem State.launch_pairNs (f : Flight) : (s.launch f).pairNs = s.pairNs := rfl
@[simp] theorem State.launch_pairCyc (f : Flight) : (s.launch f).pairCyc = s.pairCyc := rfl
@[simp] theorem State.launch_nextPair (f : Flight) : (s.launch f).nextPair = s.nextPair := rfl
@[simp] theorem State.launch_nextScan (f : Flight) : (s.launch f).nextScan = s.nextScan := rfl
@[simp] theorem State.launch_pairLatch (f : Flight) : (s.launch f).pairLatch = s.pairLatch := rfl
@[simp] theorem State.launch_rate (f : Flight) : (s.launch f).rate = s.rate := rfl
@[simp] theorem State.launch_corrected (f : Flight) : (s.launch f).corrected = s.corrected := rfl
@[simp] theorem State.launch_poisoned (f : Flight) : (s.launch f).poisoned = s.poisoned := rfl
@[simp] theorem State.launch_evaluations (f : Flight) : (s.launch f).evaluations = s.evaluations := rfl
@[simp] theorem State.launch_pciePart (f : Flight) : (s.launch f).pciePart = s.pciePart := rfl
@[simp] theorem State.launch_ingestDropped (f : Flight) : (s.launch f).ingestDropped = s.ingestDropped := rfl
@[simp] theorem State.launch_islandInterrupts (f : Flight) : (s.launch f).islandInterrupts = s.islandInterrupts := rfl
@[simp] theorem State.launch_msi (f : Flight) : (s.launch f).msi = s.msi := rfl

/-! ### land -/

@[simp] theorem State.land_ns (id : Nat) : (s.land id).ns = s.ns := rfl
@[simp] theorem State.land_cyc (id : Nat) : (s.land id).cyc = s.cyc := rfl
@[simp] theorem State.land_agenda (id : Nat) : (s.land id).agenda = s.agenda := rfl
@[simp] theorem State.land_cur (id : Nat) : (s.land id).cur = s.cur := rfl
@[simp] theorem State.land_rank (id : Nat) : (s.land id).rank = s.rank := rfl
@[simp] theorem State.land_free (id : Nat) : (s.land id).free = s.free := rfl
@[simp] theorem State.land_ctl (id : Nat) : (s.land id).ctl = s.ctl := rfl
@[simp] theorem State.land_sreg (id : Nat) : (s.land id).sreg = s.sreg := rfl
@[simp] theorem State.land_lreg (id : Nat) : (s.land id).lreg = s.lreg := rfl
@[simp] theorem State.land_preg (id : Nat) : (s.land id).preg = s.preg := rfl
@[simp] theorem State.land_tokens (id : Nat) : (s.land id).tokens = s.tokens := rfl
@[simp] theorem State.land_fresh (id : Nat) : (s.land id).fresh = s.fresh := rfl
@[simp] theorem State.land_queues (id : Nat) : (s.land id).queues = s.queues := rfl
@[simp] theorem State.land_qbinds (id : Nat) : (s.land id).qbinds = s.qbinds := rfl
@[simp] theorem State.land_ctxJob (id : Nat) : (s.land id).ctxJob = s.ctxJob := rfl
@[simp] theorem State.land_engCtx (id : Nat) : (s.land id).engCtx = s.engCtx := rfl
@[simp] theorem State.land_slots (id : Nat) : (s.land id).slots = s.slots := rfl
@[simp] theorem State.land_waves (id : Nat) : (s.land id).waves = s.waves := rfl
@[simp] theorem State.land_groups (id : Nat) : (s.land id).groups = s.groups := rfl
@[simp] theorem State.land_xqueue (id : Nat) : (s.land id).xqueue = s.xqueue := rfl
@[simp] theorem State.land_regionBufs (id : Nat) : (s.land id).regionBufs = s.regionBufs := rfl
@[simp] theorem State.land_turns (id : Nat) : (s.land id).turns = s.turns := rfl
@[simp] theorem State.land_mem (id : Nat) : (s.land id).mem = s.mem := rfl
@[simp] theorem State.land_dirty (id : Nat) : (s.land id).dirty = s.dirty := rfl
@[simp] theorem State.land_aliases (id : Nat) : (s.land id).aliases = s.aliases := rfl
@[simp] theorem State.land_loc (id : Nat) : (s.land id).loc = s.loc := rfl
@[simp] theorem State.land_rings (id : Nat) : (s.land id).rings = s.rings := rfl
@[simp] theorem State.land_nextId (id : Nat) : (s.land id).nextId = s.nextId := rfl
@[simp] theorem State.land_acc (id : Nat) : (s.land id).acc = s.acc := rfl
@[simp] theorem State.land_busy (id : Nat) : (s.land id).busy = s.busy := rfl
@[simp] theorem State.land_colAcc (id : Nat) : (s.land id).colAcc = s.colAcc := rfl
@[simp] theorem State.land_caOwner (id : Nat) : (s.land id).caOwner = s.caOwner := rfl
@[simp] theorem State.land_caCtx (id : Nat) : (s.land id).caCtx = s.caCtx := rfl
@[simp] theorem State.land_pages (id : Nat) : (s.land id).pages = s.pages := rfl
@[simp] theorem State.land_pageTags (id : Nat) : (s.land id).pageTags = s.pageTags := rfl
@[simp] theorem State.land_shapes (id : Nat) : (s.land id).shapes = s.shapes := rfl
@[simp] theorem State.land_accords (id : Nat) : (s.land id).accords = s.accords := rfl
@[simp] theorem State.land_rtes (id : Nat) : (s.land id).rtes = s.rtes := rfl
@[simp] theorem State.land_orphans (id : Nat) : (s.land id).orphans = s.orphans := rfl
@[simp] theorem State.land_predictor (id : Nat) : (s.land id).predictor = s.predictor := rfl
@[simp] theorem State.land_poisonMem (id : Nat) : (s.land id).poisonMem = s.poisonMem := rfl
@[simp] theorem State.land_poisonNew (id : Nat) : (s.land id).poisonNew = s.poisonNew := rfl
@[simp] theorem State.land_zeroed (id : Nat) : (s.land id).zeroed = s.zeroed := rfl
@[simp] theorem State.land_poisonLoc (id : Nat) : (s.land id).poisonLoc = s.poisonLoc := rfl
@[simp] theorem State.land_poisonLane (id : Nat) : (s.land id).poisonLane = s.poisonLane := rfl
@[simp] theorem State.land_poisonScalar (id : Nat) : (s.land id).poisonScalar = s.poisonScalar := rfl
@[simp] theorem State.land_poisonAcc (id : Nat) : (s.land id).poisonAcc = s.poisonAcc := rfl
@[simp] theorem State.land_poisonCa (id : Nat) : (s.land id).poisonCa = s.poisonCa := rfl
@[simp] theorem State.land_poisonPage (id : Nat) : (s.land id).poisonPage = s.poisonPage := rfl
@[simp] theorem State.land_tlbs (id : Nat) : (s.land id).tlbs = s.tlbs := rfl
@[simp] theorem State.land_installed (id : Nat) : (s.land id).installed = s.installed := rfl
@[simp] theorem State.land_pkg (id : Nat) : (s.land id).pkg = s.pkg := rfl
@[simp] theorem State.land_failedLinks (id : Nat) : (s.land id).failedLinks = s.failedLinks := rfl
@[simp] theorem State.land_creg (id : Nat) : (s.land id).creg = s.creg := rfl
@[simp] theorem State.land_icache (id : Nat) : (s.land id).icache = s.icache := rfl
@[simp] theorem State.land_caches (id : Nat) : (s.land id).caches = s.caches := rfl
@[simp] theorem State.land_roomWait (id : Nat) : (s.land id).roomWait = s.roomWait := rfl
@[simp] theorem State.land_dir (id : Nat) : (s.land id).dir = s.dir := rfl
@[simp] theorem State.land_lines (id : Nat) : (s.land id).lines = s.lines := rfl
@[simp] theorem State.land_homeQueue (id : Nat) : (s.land id).homeQueue = s.homeQueue := rfl
@[simp] theorem State.land_protocolErrors (id : Nat) : (s.land id).protocolErrors = s.protocolErrors := rfl
@[simp] theorem State.land_migrated (id : Nat) : (s.land id).migrated = s.migrated := rfl
@[simp] theorem State.land_routing (id : Nat) : (s.land id).routing = s.routing := rfl
@[simp] theorem State.land_routingErrors (id : Nat) : (s.land id).routingErrors = s.routingErrors := rfl
@[simp] theorem State.land_invalidating (id : Nat) : (s.land id).invalidating = s.invalidating := rfl
@[simp] theorem State.land_regulators (id : Nat) : (s.land id).regulators = s.regulators := rfl
@[simp] theorem State.land_island (id : Nat) : (s.land id).island = s.island := rfl
@[simp] theorem State.land_pairNs (id : Nat) : (s.land id).pairNs = s.pairNs := rfl
@[simp] theorem State.land_pairCyc (id : Nat) : (s.land id).pairCyc = s.pairCyc := rfl
@[simp] theorem State.land_nextPair (id : Nat) : (s.land id).nextPair = s.nextPair := rfl
@[simp] theorem State.land_nextScan (id : Nat) : (s.land id).nextScan = s.nextScan := rfl
@[simp] theorem State.land_pairLatch (id : Nat) : (s.land id).pairLatch = s.pairLatch := rfl
@[simp] theorem State.land_rate (id : Nat) : (s.land id).rate = s.rate := rfl
@[simp] theorem State.land_corrected (id : Nat) : (s.land id).corrected = s.corrected := rfl
@[simp] theorem State.land_poisoned (id : Nat) : (s.land id).poisoned = s.poisoned := rfl
@[simp] theorem State.land_evaluations (id : Nat) : (s.land id).evaluations = s.evaluations := rfl
@[simp] theorem State.land_pciePart (id : Nat) : (s.land id).pciePart = s.pciePart := rfl
@[simp] theorem State.land_ingestDropped (id : Nat) : (s.land id).ingestDropped = s.ingestDropped := rfl
@[simp] theorem State.land_islandInterrupts (id : Nat) : (s.land id).islandInterrupts = s.islandInterrupts := rfl
@[simp] theorem State.land_msi (id : Nat) : (s.land id).msi = s.msi := rfl

/-! ### setFlight -/

@[simp] theorem State.setFlight_ns (id : Nat) (f : Flight) : (s.setFlight id f).ns = s.ns := rfl
@[simp] theorem State.setFlight_cyc (id : Nat) (f : Flight) : (s.setFlight id f).cyc = s.cyc := rfl
@[simp] theorem State.setFlight_agenda (id : Nat) (f : Flight) : (s.setFlight id f).agenda = s.agenda := rfl
@[simp] theorem State.setFlight_cur (id : Nat) (f : Flight) : (s.setFlight id f).cur = s.cur := rfl
@[simp] theorem State.setFlight_rank (id : Nat) (f : Flight) : (s.setFlight id f).rank = s.rank := rfl
@[simp] theorem State.setFlight_free (id : Nat) (f : Flight) : (s.setFlight id f).free = s.free := rfl
@[simp] theorem State.setFlight_ctl (id : Nat) (f : Flight) : (s.setFlight id f).ctl = s.ctl := rfl
@[simp] theorem State.setFlight_sreg (id : Nat) (f : Flight) : (s.setFlight id f).sreg = s.sreg := rfl
@[simp] theorem State.setFlight_lreg (id : Nat) (f : Flight) : (s.setFlight id f).lreg = s.lreg := rfl
@[simp] theorem State.setFlight_preg (id : Nat) (f : Flight) : (s.setFlight id f).preg = s.preg := rfl
@[simp] theorem State.setFlight_tokens (id : Nat) (f : Flight) : (s.setFlight id f).tokens = s.tokens := rfl
@[simp] theorem State.setFlight_fresh (id : Nat) (f : Flight) : (s.setFlight id f).fresh = s.fresh := rfl
@[simp] theorem State.setFlight_queues (id : Nat) (f : Flight) : (s.setFlight id f).queues = s.queues := rfl
@[simp] theorem State.setFlight_qbinds (id : Nat) (f : Flight) : (s.setFlight id f).qbinds = s.qbinds := rfl
@[simp] theorem State.setFlight_ctxJob (id : Nat) (f : Flight) : (s.setFlight id f).ctxJob = s.ctxJob := rfl
@[simp] theorem State.setFlight_engCtx (id : Nat) (f : Flight) : (s.setFlight id f).engCtx = s.engCtx := rfl
@[simp] theorem State.setFlight_slots (id : Nat) (f : Flight) : (s.setFlight id f).slots = s.slots := rfl
@[simp] theorem State.setFlight_waves (id : Nat) (f : Flight) : (s.setFlight id f).waves = s.waves := rfl
@[simp] theorem State.setFlight_groups (id : Nat) (f : Flight) : (s.setFlight id f).groups = s.groups := rfl
@[simp] theorem State.setFlight_xqueue (id : Nat) (f : Flight) : (s.setFlight id f).xqueue = s.xqueue := rfl
@[simp] theorem State.setFlight_regionBufs (id : Nat) (f : Flight) : (s.setFlight id f).regionBufs = s.regionBufs := rfl
@[simp] theorem State.setFlight_turns (id : Nat) (f : Flight) : (s.setFlight id f).turns = s.turns := rfl
@[simp] theorem State.setFlight_mem (id : Nat) (f : Flight) : (s.setFlight id f).mem = s.mem := rfl
@[simp] theorem State.setFlight_dirty (id : Nat) (f : Flight) : (s.setFlight id f).dirty = s.dirty := rfl
@[simp] theorem State.setFlight_aliases (id : Nat) (f : Flight) : (s.setFlight id f).aliases = s.aliases := rfl
@[simp] theorem State.setFlight_loc (id : Nat) (f : Flight) : (s.setFlight id f).loc = s.loc := rfl
@[simp] theorem State.setFlight_rings (id : Nat) (f : Flight) : (s.setFlight id f).rings = s.rings := rfl
@[simp] theorem State.setFlight_nextId (id : Nat) (f : Flight) : (s.setFlight id f).nextId = s.nextId := rfl
@[simp] theorem State.setFlight_acc (id : Nat) (f : Flight) : (s.setFlight id f).acc = s.acc := rfl
@[simp] theorem State.setFlight_busy (id : Nat) (f : Flight) : (s.setFlight id f).busy = s.busy := rfl
@[simp] theorem State.setFlight_colAcc (id : Nat) (f : Flight) : (s.setFlight id f).colAcc = s.colAcc := rfl
@[simp] theorem State.setFlight_caOwner (id : Nat) (f : Flight) : (s.setFlight id f).caOwner = s.caOwner := rfl
@[simp] theorem State.setFlight_caCtx (id : Nat) (f : Flight) : (s.setFlight id f).caCtx = s.caCtx := rfl
@[simp] theorem State.setFlight_pages (id : Nat) (f : Flight) : (s.setFlight id f).pages = s.pages := rfl
@[simp] theorem State.setFlight_pageTags (id : Nat) (f : Flight) : (s.setFlight id f).pageTags = s.pageTags := rfl
@[simp] theorem State.setFlight_shapes (id : Nat) (f : Flight) : (s.setFlight id f).shapes = s.shapes := rfl
@[simp] theorem State.setFlight_accords (id : Nat) (f : Flight) : (s.setFlight id f).accords = s.accords := rfl
@[simp] theorem State.setFlight_rtes (id : Nat) (f : Flight) : (s.setFlight id f).rtes = s.rtes := rfl
@[simp] theorem State.setFlight_orphans (id : Nat) (f : Flight) : (s.setFlight id f).orphans = s.orphans := rfl
@[simp] theorem State.setFlight_predictor (id : Nat) (f : Flight) : (s.setFlight id f).predictor = s.predictor := rfl
@[simp] theorem State.setFlight_poisonMem (id : Nat) (f : Flight) : (s.setFlight id f).poisonMem = s.poisonMem := rfl
@[simp] theorem State.setFlight_poisonNew (id : Nat) (f : Flight) : (s.setFlight id f).poisonNew = s.poisonNew := rfl
@[simp] theorem State.setFlight_zeroed (id : Nat) (f : Flight) : (s.setFlight id f).zeroed = s.zeroed := rfl
@[simp] theorem State.setFlight_poisonLoc (id : Nat) (f : Flight) : (s.setFlight id f).poisonLoc = s.poisonLoc := rfl
@[simp] theorem State.setFlight_poisonLane (id : Nat) (f : Flight) : (s.setFlight id f).poisonLane = s.poisonLane := rfl
@[simp] theorem State.setFlight_poisonScalar (id : Nat) (f : Flight) : (s.setFlight id f).poisonScalar = s.poisonScalar := rfl
@[simp] theorem State.setFlight_poisonAcc (id : Nat) (f : Flight) : (s.setFlight id f).poisonAcc = s.poisonAcc := rfl
@[simp] theorem State.setFlight_poisonCa (id : Nat) (f : Flight) : (s.setFlight id f).poisonCa = s.poisonCa := rfl
@[simp] theorem State.setFlight_poisonPage (id : Nat) (f : Flight) : (s.setFlight id f).poisonPage = s.poisonPage := rfl
@[simp] theorem State.setFlight_tlbs (id : Nat) (f : Flight) : (s.setFlight id f).tlbs = s.tlbs := rfl
@[simp] theorem State.setFlight_installed (id : Nat) (f : Flight) : (s.setFlight id f).installed = s.installed := rfl
@[simp] theorem State.setFlight_pkg (id : Nat) (f : Flight) : (s.setFlight id f).pkg = s.pkg := rfl
@[simp] theorem State.setFlight_failedLinks (id : Nat) (f : Flight) : (s.setFlight id f).failedLinks = s.failedLinks := rfl
@[simp] theorem State.setFlight_creg (id : Nat) (f : Flight) : (s.setFlight id f).creg = s.creg := rfl
@[simp] theorem State.setFlight_icache (id : Nat) (f : Flight) : (s.setFlight id f).icache = s.icache := rfl
@[simp] theorem State.setFlight_caches (id : Nat) (f : Flight) : (s.setFlight id f).caches = s.caches := rfl
@[simp] theorem State.setFlight_roomWait (id : Nat) (f : Flight) : (s.setFlight id f).roomWait = s.roomWait := rfl
@[simp] theorem State.setFlight_dir (id : Nat) (f : Flight) : (s.setFlight id f).dir = s.dir := rfl
@[simp] theorem State.setFlight_lines (id : Nat) (f : Flight) : (s.setFlight id f).lines = s.lines := rfl
@[simp] theorem State.setFlight_homeQueue (id : Nat) (f : Flight) : (s.setFlight id f).homeQueue = s.homeQueue := rfl
@[simp] theorem State.setFlight_protocolErrors (id : Nat) (f : Flight) : (s.setFlight id f).protocolErrors = s.protocolErrors := rfl
@[simp] theorem State.setFlight_migrated (id : Nat) (f : Flight) : (s.setFlight id f).migrated = s.migrated := rfl
@[simp] theorem State.setFlight_routing (id : Nat) (f : Flight) : (s.setFlight id f).routing = s.routing := rfl
@[simp] theorem State.setFlight_routingErrors (id : Nat) (f : Flight) : (s.setFlight id f).routingErrors = s.routingErrors := rfl
@[simp] theorem State.setFlight_invalidating (id : Nat) (f : Flight) : (s.setFlight id f).invalidating = s.invalidating := rfl
@[simp] theorem State.setFlight_regulators (id : Nat) (f : Flight) : (s.setFlight id f).regulators = s.regulators := rfl
@[simp] theorem State.setFlight_island (id : Nat) (f : Flight) : (s.setFlight id f).island = s.island := rfl
@[simp] theorem State.setFlight_pairNs (id : Nat) (f : Flight) : (s.setFlight id f).pairNs = s.pairNs := rfl
@[simp] theorem State.setFlight_pairCyc (id : Nat) (f : Flight) : (s.setFlight id f).pairCyc = s.pairCyc := rfl
@[simp] theorem State.setFlight_nextPair (id : Nat) (f : Flight) : (s.setFlight id f).nextPair = s.nextPair := rfl
@[simp] theorem State.setFlight_nextScan (id : Nat) (f : Flight) : (s.setFlight id f).nextScan = s.nextScan := rfl
@[simp] theorem State.setFlight_pairLatch (id : Nat) (f : Flight) : (s.setFlight id f).pairLatch = s.pairLatch := rfl
@[simp] theorem State.setFlight_rate (id : Nat) (f : Flight) : (s.setFlight id f).rate = s.rate := rfl
@[simp] theorem State.setFlight_corrected (id : Nat) (f : Flight) : (s.setFlight id f).corrected = s.corrected := rfl
@[simp] theorem State.setFlight_poisoned (id : Nat) (f : Flight) : (s.setFlight id f).poisoned = s.poisoned := rfl
@[simp] theorem State.setFlight_evaluations (id : Nat) (f : Flight) : (s.setFlight id f).evaluations = s.evaluations := rfl
@[simp] theorem State.setFlight_pciePart (id : Nat) (f : Flight) : (s.setFlight id f).pciePart = s.pciePart := rfl
@[simp] theorem State.setFlight_ingestDropped (id : Nat) (f : Flight) : (s.setFlight id f).ingestDropped = s.ingestDropped := rfl
@[simp] theorem State.setFlight_islandInterrupts (id : Nat) (f : Flight) : (s.setFlight id f).islandInterrupts = s.islandInterrupts := rfl
@[simp] theorem State.setFlight_msi (id : Nat) (f : Flight) : (s.setFlight id f).msi = s.msi := rfl

/-! ### Reads after writes -/

@[simp] theorem State.sget_sset_same (key n : Nat) (v : DWord) : (s.sset key n v).sget key n = v := by
  simp [State.sget, State.sset]

theorem State.sget_sset (key n j m : Nat) (v : DWord) :
    (s.sset key n v).sget j m = if 64 * j + m = 64 * key + n then v else s.sget j m := by
  simp [State.sget, State.sset, Tab.get_set]

@[simp] theorem State.lget_lset_same (key r l : Nat) (v : Word) : (s.lset key r l v).lget key r l = v := by
  simp [State.lget, State.lset]

theorem State.lget_lset (key r l j q m : Nat) (v : Word) :
    (s.lset key r l v).lget j q m = if laneKey j q m = laneKey key r l then v else s.lget j q m := by
  simp [State.lget, State.lset, Tab.get_set]

@[simp] theorem State.ctlAt_setCtl_same (key l : Nat) (c : Ctl) : (s.setCtl key l c).ctlAt key l = c := by
  simp [State.ctlAt, State.setCtl]

theorem State.ctlAt_setCtl (key l j m : Nat) (c : Ctl) :
    (s.setCtl key l c).ctlAt j m = if ctlKey j m = ctlKey key l then c else s.ctlAt j m := by
  simp [State.ctlAt, State.setCtl, Tab.get_put]

@[simp] theorem State.ctlAt_modCtl_same (key l : Nat) (f : Ctl → Ctl) :
    (s.modCtl key l f).ctlAt key l = f (s.ctlAt key l) := by simp [State.modCtl]

@[simp] theorem State.setCtl_setCtl (key l : Nat) (c d : Ctl) : (s.setCtl key l c).setCtl key l d = s.setCtl key l d := by
  simp [State.setCtl]

@[simp] theorem State.modCtl_modCtl (key l : Nat) (f g : Ctl → Ctl) :
    (s.modCtl key l f).modCtl key l g = s.modCtl key l (fun c => g (f c)) := by simp [State.modCtl]

@[simp] theorem State.slotAt_setSlot_same (k : Nat) (x : Slot) : (s.setSlot k x).slotAt k = x := by
  simp [State.slotAt, State.setSlot]

theorem State.slotAt_setSlot (k j : Nat) (x : Slot) :
    (s.setSlot k x).slotAt j = if j = k then x else s.slotAt j := by
  simp [State.slotAt, State.setSlot, Tab.get_put]

@[simp] theorem State.tok_setTok_same (ck f n : Nat) : (s.setTok ck f n).tok ck f = n := by
  simp [State.tok, State.setTok]

theorem State.tok_setTok (ck f n j g : Nat) :
    (s.setTok ck f n).tok j g = if 8 * j + g = 8 * ck + f then n else s.tok j g := by
  simp [State.tok, State.setTok, Tab.get_set]

@[simp] theorem State.queue_setQueue_same (ck q : Nat) (l : List DWord) : (s.setQueue ck q l).queue ck q = l := by
  simp [State.queue, State.setQueue]

theorem State.queue_setQueue (ck q j r : Nat) (l : List DWord) :
    (s.setQueue ck q l).queue j r = if 16 * j + r = 16 * ck + q then l else s.queue j r := by
  simp [State.queue, State.setQueue, Tab.get_set]

@[simp] theorem State.creg_setCreg_same (a : Nat) (v : DWord) : (s.setCreg a v).creg_ a = v := by
  simp [State.creg_, State.setCreg]

@[simp] theorem State.find_launch (f : Flight) : (s.launch f).flights.find s.nextId = some f := by
  simp [State.launch]

@[simp] theorem State.find_land (id : Nat) : (s.land id).flights.find id = none := by simp [State.land]

end Sys2Proof.Machine
end

