-- ==== Sys2Proof/Laws/Issue.lean ====
section
/-! SUPPORT. What the issue of an instruction comes to when nothing is in its way: for a stream, and for the threads of a
wave. The provers cite these instead of unfolding the issue. -/

namespace Sys2Proof.Machine

/-! ### Encodings -/

/-- What an operation must be for its word to raise no encoding fault where it runs (R58). -/
def Op.good (op : Op) (key : Nat) (g : BitVec 4) : Prop :=
  op.ill = false ∧ bitN op.illOn (if isWave key then 5 else keyEng key) = false ∧ op.legalOn key = true ∧
  op.illegalOperand key = false ∧ op.g = g.toNat

/-- A word stands where it may in its body (R43 reasons 6 and 7), a fence follows no amod that names a place (R55), and eret
stands in a handler (R379). -/
def Op.placed (op : Op) (c : Ctl) : Prop :=
  (op.wait = true → c.lastInBody op.half = true) ∧ (op.notLast = true → c.lastInBody op.half = false) ∧
  (op.noPlace = true → ∀ a, c.amod = some a → a.place = 0) ∧ (op.inHandler = true → c.handling = true)

theorem Op.good_fault {op : Op} {key : Nat} {g : BitVec 4} {u : Bool} (h : op.good key g) (s : State) (l : Nat)
    (hp : op.placed (s.ctlAt key l)) (hu : u = true → op.atomic = true) (hc : (s.ctlAt key l).clear u) (h0 : isWave key = false → keyEng key = 0 → g = 0)
    (h1 : isWave key = true → op.half = 1 → g = 0) : s.encodingFault op key l = none := by
  obtain ⟨hi, ho, hl, hop, hg⟩ := h
  obtain ⟨-, -, ha, -⟩ := hc
  have ha : ((s.ctlAt key l).amod.isSome && !op.atomic) = false := by
    cases u
    · simp [ha rfl]
    · simp [hu rfl]
  have p1 : (op.wait && !(s.ctlAt key l).lastInBody op.half) = false := by
    cases hw : op.wait
    · rfl
    · simp [hp.1 hw]
  have p2 : (op.notLast && (s.ctlAt key l).lastInBody op.half) = false := by
    cases hw : op.notLast
    · rfl
    · simp [hp.2.1 hw]
  have p3 : (op.noPlace && ((s.ctlAt key l).amod.any fun a => a.place != 0)) = false := by
    cases hw : op.noPlace
    · rfl
    · cases hm : (s.ctlAt key l).amod with
      | none => rfl
      | some a => simp [hp.2.2.1 hw a hm]
  have p4 : (op.inHandler && !(s.ctlAt key l).handling) = false := by
    cases hw : op.inHandler
    · rfl
    · simp [hp.2.2.2 hw]
  unfold State.encodingFault
  simp only [hi, ho, hl, hop, ha, hg, p1, p2, p3, p4]
  have e1 : (!isWave key && keyEng key == 0 && g.toNat != 0) = false := by
    cases hk : isWave key
    · by_cases hz : keyEng key = 0
      · simp [h0 hk hz]
      · simp [hz]
    · simp
  have e2 : (isWave key && op.half == 1 && g.toNat != 0) = false := by
    cases hk : isWave key
    · simp
    · by_cases hz : op.half = 1
      · simp [h1 hk hz]
      · simp [hz]
  simp [e1, e2]

/-- A word without an encoding fault raises none in a region either. -/
theorem State.wordFault_none {s : State} {op : Op} {key l : Nat} (h : s.encodingFault op key l = none) :
    s.wordFault op key l = none := by
  simp [State.wordFault, h]

/-! ### Readouts -/

/-- A stream with no readout on its way has none to finish. -/
theorem State.finishReadouts_none (s : State) (key : Nat) (h : s.readoutsOut key = 0) : s.finishReadouts key = s := by
  have hall : ∀ e ∈ s.flights, ∀ r, e.2 = .readout r → (r.key == key && r.job == s.jobOf key 0) = false := by
    intro e he r hr
    have := List.filter_eq_nil_iff.1 (List.length_eq_zero_iff.1 h) e he
    rw [hr] at this
    exact Bool.eq_false_iff.2 this
  have go : ∀ l : List (Nat × Flight), (∀ e ∈ l, e ∈ s.flights) → l.foldl (fun s e => match e.2 with
      | .readout r => if r.key == key && r.job == s.jobOf key 0 then s.finishReadout e.1 r else s
      | _ => s) s = s := by
    intro l
    induction l with
    | nil => intro _; rfl
    | cons e l ih =>
      intro hl
      have he := hall e (hl e List.mem_cons_self)
      rw [List.foldl_cons]
      have hstep : (match e.2 with
          | .readout r => if r.key == key && r.job == s.jobOf key 0 then s.finishReadout e.1 r else s
          | _ => s) = s := by
        cases hf : e.2
        case readout r => exact if_neg (Bool.eq_false_iff.1 (he r hf))
        all_goals rfl
      rw [hstep]
      exact ih fun x hx => hl x (List.mem_cons_of_mem _ hx)
  exact go s.flights fun _ h => h

/-! ### Tokens -/

theorem State.popTokens_ctl (s : State) (key g : Nat) : (s.popTokens key g).ctl = s.ctl := by
  unfold State.popTokens
  dsimp only
  split <;> split <;> rfl

/-! ### A stream's retirement -/

@[simp] theorem Ctl.advance_retire (c : Ctl) (h : Nat) : (c.advance h).retire = c.retire := by
  unfold Ctl.advance; dsimp only; (repeat' split) <;> rfl

@[simp] theorem Ctl.past_retire (c : Ctl) (h : Nat) : (c.past h).retire = c.retire := by simp [Ctl.past]

@[simp] theorem Ctl.past_stall (c : Ctl) (h : Nat) : (c.past h).stall = c.stall := by
  unfold Ctl.past Ctl.advance; dsimp only; (repeat' split) <;> rfl

theorem Ctl.settled_eta {c : Ctl} (h1 : c.stall = []) (h2 : c.retire = none) : { c with stall := [], retire := none } = c := by
  cases c
  dsimp only at h1 h2
  subst h1 h2
  rfl

theorem State.pushTokens_setCtl (s : State) (key l ck : Nat) (c : Ctl) (fs : List Nat) :
    fs.foldl (fun s f => s.pushToken ck f) (s.setCtl key l c) =
      (fs.foldl (fun s f => s.pushToken ck f) s).setCtl key l c := by
  induction fs generalizing s with
  | nil => rfl
  | cons f fs ih => exact ih (s.pushToken ck f)

theorem State.pushQueues_setCtl (s : State) (key l ck : Nat) (c : Ctl) (qs : List (Nat × DWord)) :
    qs.foldl (fun s q => s.pushQueue ck q.1 q.2) (s.setCtl key l c) =
      (qs.foldl (fun s q => s.pushQueue ck q.1 q.2) s).setCtl key l c := by
  induction qs generalizing s with
  | nil => rfl
  | cons f fs ih => exact ih (s.pushQueue ck f.1 f.2)

theorem State.pushTokens_ctl (s : State) (ck : Nat) (fs : List Nat) :
    (fs.foldl (fun s f => s.pushToken ck f) s).ctl = s.ctl := by
  induction fs generalizing s with
  | nil => rfl
  | cons f fs ih => exact ih (s.pushToken ck f)

theorem State.pushQueues_ctl (s : State) (ck : Nat) (qs : List (Nat × DWord)) :
    (qs.foldl (fun s q => s.pushQueue ck q.1 q.2) s).ctl = s.ctl := by
  induction qs generalizing s with
  | nil => rfl
  | cons f fs ih => exact ih (s.pushQueue ck f.1 f.2)

theorem State.pushTokens_same (s : State) (ck : Nat) (fs : List Nat) :
    fs.foldl (fun s f => s.pushToken ck f) s = 
      { s with tokens := (fs.foldl (fun s f => s.pushToken ck f) s).tokens,
               fresh := (fs.foldl (fun s f => s.pushToken ck f) s).fresh } := by
  induction fs generalizing s with
  | nil => rfl
  | cons f fs ih => rw [List.foldl_cons, ih]; rfl

theorem State.pushQueues_same (s : State) (ck : Nat) (qs : List (Nat × DWord)) :
    qs.foldl (fun s q => s.pushQueue ck q.1 q.2) s =
      { s with queues := (qs.foldl (fun s q => s.pushQueue ck q.1 q.2) s).queues,
               fresh := (qs.foldl (fun s q => s.pushQueue ck q.1 q.2) s).fresh } := by
  induction qs generalizing s with
  | nil => rfl
  | cons f fs ih => rw [List.foldl_cons, ih]; rfl

theorem State.locWriteRaw_setCtl (s : State) (key l k : Nat) (c : Ctl) (bs : List Byte) :
    (s.setCtl key l c).locWriteRaw k bs = (s.locWriteRaw k bs).setCtl key l c := by
  induction bs generalizing s k with
  | nil => rfl
  | cons b bs ih => exact ih { s with loc := s.loc.set 0 k b } (k + 1)

theorem State.locWriteRaw_ctl (s : State) (k : Nat) (bs : List Byte) : (s.locWriteRaw k bs).ctl = s.ctl := by
  induction bs generalizing s k with
  | nil => rfl
  | cons b bs ih => exact ih _ _

theorem State.locWrite_setCtl (s : State) (key l k : Nat) (c : Ctl) (bs : List Byte) :
    (s.setCtl key l c).locWrite k bs = (s.locWrite k bs).setCtl key l c := by
  unfold State.locWrite
  dsimp only
  rw [State.locWriteRaw_setCtl]
  rfl

theorem State.setCtl_setRing (s : State) (key l core n : Nat) (c : Ctl) (r : Ring) :
    (s.setCtl key l c).setRing core n r = (s.setRing core n r).setCtl key l c := rfl

theorem State.ringAppend_setCtl (s : State) (key l core n : Nat) (c : Ctl) (bs : List Byte) :
    (s.setCtl key l c).ringAppend core n bs = (s.ringAppend core n bs).setCtl key l c := by
  unfold State.ringAppend
  dsimp only
  rw [← State.setCtl_setRing, ← State.locWrite_setCtl]
  rfl

theorem State.ringAppend_ctl (s : State) (core n : Nat) (bs : List Byte) : (s.ringAppend core n bs).ctl = s.ctl := by
  unfold State.ringAppend State.locWrite
  exact State.locWriteRaw_ctl _ _ _

/-- Control state in which a stream's ring bindings, job and open region stand as before. -/
def Ctl.boundAs (c d : Ctl) : Prop := c.ringIn = d.ringIn ∧ c.job = d.job ∧ c.region = d.region

theorem State.ringBinding_setCtl {s : State} {key : Nat} {c : Ctl} (h : c.boundAs (s.ctlAt key 0)) (k : Nat) :
    (s.setCtl key 0 c).ringBinding key k = s.ringBinding key k := by
  simp only [State.ringBinding, State.ctlAt_setCtl_same, h.1]

theorem State.pushesHere_setCtl {s : State} {key : Nat} {c : Ctl} (h : c.boundAs (s.ctlAt key 0)) (k : Nat) :
    (s.setCtl key 0 c).pushesHere key k = s.pushesHere key k := by
  simp only [State.pushesHere, State.ringBinding_setCtl h]

theorem State.pushAccepted_setCtl {s : State} {key : Nat} {c : Ctl} (h : c.boundAs (s.ctlAt key 0)) (k core : Nat) :
    (s.setCtl key 0 c).pushAccepted key k core = s.pushAccepted key k core := by
  have hc : (s.setCtl key 0 c).cardOf key 0 = s.cardOf key 0 := by
    simp only [State.cardOf, State.ctlAt_setCtl_same, h.2.1]; rfl
  simp only [State.pushAccepted, State.ringBinding_setCtl h, hc]
  rfl

theorem State.pushNeeds_setCtl {s : State} {key : Nat} {c : Ctl} (h : c.boundAs (s.ctlAt key 0)) (r : Retire) :
    (s.setCtl key 0 c).pushNeeds key r = s.pushNeeds key r := by
  simp only [State.pushNeeds, State.pushesHere_setCtl h, State.pushAccepted_setCtl h, State.ringBinding_setCtl h]

/-- What regions keep room for in a queue does not change with a control state whose region stands as before. -/
theorem State.regionEntries_setCtl {s : State} {key l : Nat} {c : Ctl} (h : c.region = (s.ctlAt key l).region) (ck q : Nat) :
    (s.setCtl key l c).regionEntries ck q = s.regionEntries ck q := by
  have hr : ((s.setCtl key l c).ctlAt (5 * ck) 0).region = (s.ctlAt (5 * ck) 0).region := by
    by_cases hk : ctlKey (5 * ck) 0 = ctlKey key l
    · simp only [State.ctlAt, hk, State.setCtl, Tab.get_put_same]; exact h
    · simp only [State.ctlAt, State.setCtl, Tab.get_put_other _ _ _ hk]
  simp only [State.regionEntries, hr]

theorem State.needMet_setCtl (s : State) (key : Nat) (c : Ctl) (r : Retire) (hb : c.boundAs (s.ctlAt key 0)) {n : Need}
    (h : n ∈ s.pushNeeds key r) : (s.setCtl key 0 c).needMet key n = s.needMet key n := by
  unfold State.pushNeeds at h
  rcases List.mem_append.1 h with h | h
  · rcases List.mem_append.1 h with h | h
    · obtain ⟨f, -, rfl⟩ := List.mem_map.1 h; rfl
    · obtain ⟨q, -, rfl⟩ := List.mem_map.1 h
      simp only [State.needMet, State.regionEntries_setCtl hb.2.2]
      rfl
  · obtain ⟨e, -, he⟩ := List.mem_filterMap.1 h
    split at he
    · split at he
      · cases he; rfl
      · cases he
    · cases he; rfl

theorem State.pushElement_takes {s : State} {key : Nat} {e : Nat × List Word}
    (h : s.pushAccepted key e.1 (keyCore key) = true) : s.pushElement key e = (s.takes key e, none) := by
  unfold State.pushElement State.takes
  simp [h]

theorem State.takes_setCtl {s : State} {key : Nat} {c : Ctl} (h : c.boundAs (s.ctlAt key 0)) (e : Nat × List Word) :
    (s.setCtl key 0 c).takes key e = (s.takes key e).setCtl key 0 c := by
  simp only [State.takes, State.ringBinding_setCtl h]
  exact State.ringAppend_setCtl _ _ _ _ _ _ _

/-- What a retirement pushes in the end: queue entries, elements, tokens. -/
def State.pushed (s : State) (key : Nat) (r : Retire) : State :=
  r.fifos.foldl (fun s f => s.pushToken (keyCtxKey key) f)
    (r.elems.foldl (fun s e => s.takes key e)
      (r.queues.foldl (fun s q => s.pushQueue (keyCtxKey key) q.1 q.2) s))

/-- At most one element is pushed, to a ring of the stream's own core that accepts it. -/
def State.elemsGood (s : State) (key : Nat) (r : Retire) : Prop :=
  r.elems.length ≤ 1 ∧ ∀ e ∈ r.elems, s.pushAccepted key e.1 (keyCore key) = true

theorem State.pushAccepted_pushes (s : State) (key k core ck : Nat) (qs : List (Nat × DWord)) :
    (qs.foldl (fun s q => s.pushQueue ck q.1 q.2) s).pushAccepted key k core = s.pushAccepted key k core := by
  rw [State.pushQueues_same]
  rfl

/-- No queue entry waits for a region's commit where none is open, or none is pushed. -/
theorem State.regionPushes_none (s : State) (key : Nat) (c : Ctl) (r : Retire) (h : c.region = none ∨ r.queues = []) :
    (s.setCtl key 0 c).regionPushes key r = (s.setCtl key 0 c, r) := by
  unfold State.regionPushes
  rw [State.ctlAt_setCtl_same]
  cases hg : c.region with
  | none => rfl
  | some g =>
    have hq : r.queues = [] := h.resolve_left (by rw [hg]; exact nofun)
    have hr : ({ r with queues := [] } : Retire) = r := by cases r; dsimp only at hq; rw [hq]
    have hc : ({ c with region := some { g with pushes := g.pushes ++ r.queues } } : Ctl) = c := by
      cases c; dsimp only at hg; rw [hg, hq, List.append_nil]
    simp only [State.modCtl, State.ctlAt_setCtl_same, State.setCtl_setCtl, hc, hr]

/-- Pushes that have room are made at once, and a hold opens its region (R95). -/
theorem State.settle_pushes (s : State) (key : Nat) (c : Ctl) (r : Retire) (hr : c.retire = some r)
    (hb : c.boundAs (s.ctlAt key 0)) (he : s.elemsGood key r) (hg : c.region = none ∨ r.queues = [])
    (ht : r.trap = none) (hneed : ∀ n ∈ s.pushNeeds key r, s.needMet key n = true) :
    (s.setCtl key 0 c).settle key = (s.pushed key r).setCtl key 0 (({ c with retire := none } : Ctl).heldFor s.cyc r.hold) := by
  have hn : (s.setCtl key 0 c).retireNeeds key r = [] := by
    unfold State.retireNeeds
    rw [List.filter_eq_nil_iff, State.pushNeeds_setCtl hb]
    intro n hmem
    rw [State.needMet_setCtl s key c r hb hmem]
    simp [hneed n hmem]
  unfold State.settle
  simp only [State.ctlAt_setCtl_same, hr, hn, State.regionPushes_none s key c r hg, State.makePushes, ht,
    State.pushTokens_setCtl, State.pushQueues_setCtl]
  obtain ⟨hlen, hacc⟩ := he
  rcases h : r.elems with _ | ⟨e, es⟩
  · simp only [List.foldl_nil, State.pushTokens_setCtl, State.modCtl, State.setCtl_setCtl, State.pushed, h,
      State.ctlAt_setCtl_same]
    rfl
  · have hes : es = [] := by
      rw [h] at hlen
      exact List.length_eq_zero_iff.1 (by simpa using hlen)
    subst hes
    have hq : (r.queues.foldl (fun s q => s.pushQueue (keyCtxKey key) q.1 q.2) s).ctlAt key 0 = s.ctlAt key 0 := by
      simp only [State.ctlAt, State.pushQueues_ctl]
    have hb' := hb
    rw [← hq] at hb'
    have hacc' := hacc e (by rw [h]; simp)
    rw [← State.pushAccepted_pushes s key e.1 (keyCore key) (keyCtxKey key) r.queues,
      ← State.pushAccepted_setCtl hb'] at hacc'
    simp only [List.foldl_cons, List.foldl_nil, State.pushed, h, State.pushElement_takes hacc', State.takes_setCtl hb',
      State.pushTokens_setCtl, State.modCtl, State.setCtl_setCtl, State.ctlAt_setCtl_same]
    rfl

/-- How a stream moves when its instruction ends: it stays where the effect has put it, branches, or moves on. -/
def Eff.move (e : Eff) (half l : Nat) (c : Ctl) : Ctl :=
  if e.held.contains l then c
  else
    match e.jumps.find? (·.1 == l) with
    | some j => { c with amod := none }.jump j.2
    | none => c.past half

@[simp] theorem Ctl.jump_retire (c : Ctl) (t : DWord) : (c.jump t).retire = c.retire := rfl

@[simp] theorem Eff.move_retire (e : Eff) (half l : Nat) (c : Ctl) : (e.move half l c).retire = c.retire := by
  unfold Eff.move
  (repeat' split) <;> simp

@[simp] theorem Eff.move_stall (e : Eff) (half l : Nat) (c : Ctl) : (e.move half l c).stall = c.stall := by
  unfold Eff.move
  (repeat' split) <;> simp [Ctl.jump]

theorem Ctl.advance_boundAs (c : Ctl) (h : Nat) : (c.advance h).boundAs c := by
  unfold Ctl.advance; dsimp only; (repeat' split) <;> exact ⟨rfl, rfl, rfl⟩

theorem Eff.move_boundAs (e : Eff) (half l : Nat) (c : Ctl) : (e.move half l c).boundAs c := by
  unfold Eff.move
  (repeat' split)
  · exact ⟨rfl, rfl, rfl⟩
  · exact ⟨rfl, rfl, rfl⟩
  · exact Ctl.advance_boundAs { c with amod := none } half

/-- A stream with nothing left to retire does not cede its engine. -/
theorem State.cedes_none {s : State} {key : Nat} (h : (s.ctlAt key 0).retire = none) : s.cedes key = s := by
  simp [State.cedes, h]

@[simp] theorem Ctl.heldFor_retire (c : Ctl) (cyc : Nat) (n : Option Nat) : (c.heldFor cyc n).retire = c.retire := by
  cases n with
  | none => rfl
  | some n => unfold Ctl.heldFor Ctl.holdFor; dsimp only; split <;> rfl

/-- The pushes of a retirement that has room are made, and the stream moves on. -/
theorem State.retireStream_eff (s : State) (op : Op) (key : Nat) (e : Eff) (iaddr : DWord) (r : Retire)
    (hr : (s.ctlAt key 0).retire.getD {} = r) (he : s.elemsGood key r)
    (hg : (s.ctlAt key 0).region = none ∨ r.queues = []) (ht : e.traps = [])
    (hneed : ∀ n ∈ s.pushNeeds key { r with fifos := if op.completes then [] else pushFifos key (op.tokens key) },
      s.needMet key n = true) :
    s.retireStream op key e iaddr =
      (s.pushed key { r with fifos := if op.completes then [] else pushFifos key (op.tokens key) }).modCtl key 0
          fun c => ({ e.move op.half 0 c with stall := [], retire := none } : Ctl).heldFor s.cyc r.hold := by
  let r1 : Retire := { r with
    fifos := if op.completes then [] else pushFifos key (op.tokens key), trap := none, iaddr := iaddr, since := s.cyc }
  have h1 : s.retireStream op key e iaddr =
      ((s.setCtl key 0 { e.move op.half 0 (s.ctlAt key 0) with retire := some r1, stall := [] }).settle key).cedes key := by
    have h0 : (e.move op.half 0 (s.ctlAt key 0)).retire = (s.ctlAt key 0).retire := Eff.move_retire _ _ _ _
    have h2 : r1 = { (e.move op.half 0 (s.ctlAt key 0)).retire.getD {} with
        fifos := if op.completes then [] else pushFifos key (op.tokens key), trap := none, iaddr := iaddr, since := s.cyc } := by
      rw [h0, hr]
    rw [h2]
    simp only [State.retireStream, ht]
    by_cases hh : e.held.contains 0 = true
    · simp only [Eff.move, hh, if_true, State.modCtl]
      rfl
    · simp only [Eff.move, hh, if_false, State.moveOn, Bool.false_eq_true, State.modCtl, State.setCtl_setCtl,
        State.ctlAt_setCtl_same]
      cases e.jumps.find? (·.1 == 0) <;> rfl
  have hctl : ∀ (es : List (Nat × List Word)) (t : State), (es.foldl (fun s e => s.takes key e) t).ctl = t.ctl := by
    intro es
    induction es with
    | nil => intro t; rfl
    | cons e es ih => intro t; rw [List.foldl_cons, ih]; exact State.ringAppend_ctl _ _ _ _
  have hb : ({ e.move op.half 0 (s.ctlAt key 0) with retire := some r1, stall := [] } : Ctl).boundAs (s.ctlAt key 0) :=
    Eff.move_boundAs e op.half 0 _
  have hg1 : ({ e.move op.half 0 (s.ctlAt key 0) with retire := some r1, stall := [] } : Ctl).region = none ∨
      r1.queues = [] := hg.imp_left fun h => hb.2.2.trans h
  rw [h1, State.settle_pushes s key _ r1 rfl hb he hg1 rfl]
  · simp only [State.modCtl]
    have : (s.pushed key { r with fifos := if op.completes then [] else pushFifos key (op.tokens key) }).ctlAt key 0 =
        s.ctlAt key 0 := by
      simp only [State.ctlAt, State.pushed, State.pushTokens_ctl, hctl, State.pushQueues_ctl]
    rw [this]
    exact State.cedes_none (by simp [State.ctlAt_setCtl_same])
  · intro n hn
    exact hneed n hn

/-! ### Operands -/

theorem isQueue_wave {key x : Nat} (h : isWave key = true) : isQueue key x = false := by simp [isQueue, h]

/-- The scalars of a wave are read without a trace. -/
theorem State.popScalars_wave (s : State) (key : Nat) (h : isWave key = true) (l : List Nat) :
    s.popScalars key l = (s, l.map fun x => s.sget key x) := by
  induction l with
  | nil => rfl
  | cons x l ih => simp [State.popScalars, isQueue_wave h, ih]

/-- A lane source as a wave reads it. -/
def State.laneVals (s : State) (key x : Nat) : List Word :=
  if x = 0x3C then (upTo (laneCount key)).map (fun _ => 0) else (upTo (laneCount key)).map (fun l => s.lget key x l)

/-- Lane sources other than the input streams are read without a trace. -/
theorem State.popLanes_plain (s : State) (key : Nat) (l : List Nat) (h : ∀ x ∈ l, x ≠ 0x3A ∧ x ≠ 0x3B) :
    s.popLanes key l = (s, l.map fun x => s.laneVals key x) := by
  induction l with
  | nil => rfl
  | cons x l ih =>
    have hx := h x List.mem_cons_self
    have hl := ih fun y hy => h y (List.mem_cons_of_mem _ hy)
    simp only [State.popLanes, hl, State.laneVals, List.map_cons]
    by_cases h0 : x = 0x3C
    · simp [h0]
    · simp [h0, hx.1, hx.2]

theorem mem_popNeeds {s : State} {key g : Nat} {a b : List Nat} {n : Need} :
    n ∈ s.popNeeds key g a b ↔ n ∈ s.popNeeds key g [] [] ∨ n ∈ s.popNeeds key 0 a [] ∨ n ∈ s.popNeeds key 0 [] b := by
  have h3 : bitN 0 3 = false := by decide
  have h2 : bitN 0 2 = false := by decide
  unfold State.popNeeds
  simp only [h3, h2, List.filter_nil, List.map_nil, List.append_nil, List.nil_append, List.mem_append, Bool.false_eq_true,
    if_false]
  constructor <;> intro h
  · rcases h with (h | h) | h
    · exact .inl h
    · exact .inr (.inl h)
    · exact .inr (.inr h)
  · rcases h with h | h | h
    · exact .inl (.inl h)
    · exact .inl (.inr h)
    · exact .inr h

theorem Op.good_tokens {op : Op} {key : Nat} {g : BitVec 4} (h : op.good key g) (hk : isWave key = false)
    (h0 : keyEng key = 0 → g = 0) : op.tokens key = g.toNat := by
  unfold Op.tokens
  rw [hk, h.2.2.2.2]
  by_cases hz : keyEng key = 0
  · simp [hz, h0 hz]
  · simp [hz]

/-! ### A stream issues -/

/-- An effect that is whole at once: no fault, nothing waited for, no trap, nothing that retires later. -/
def Eff.whole (e : Eff) : Prop :=
  e.faults = [] ∧ e.needs = [] ∧ e.final = false ∧ e.pending = false ∧ e.traps = []

/-- A stream's instruction with nothing in its way: it has its effect, its queue entries and tokens are pushed (those of a
completing instruction not yet), and the stream moves on. -/
theorem State.issue_pushing {s : State} {op : Op} {key : Nat} {g : BitVec 4} {u : Bool}
    {body : Iss → State → List DWord → List (List Word) → Eff} {e : Eff} {r : Retire}
    (hi : s.issuing key [0] u) (hu : u = true → op.atomic = true) (hk : isWave key = false) (hg : op.good key g) (hp : op.placed (s.ctlAt key 0))
    (hcmp : op.completes = true → (s.ctlAt key 0).pp.length < 64)
    (ha : s.admits key [0] g op.half) (hbind : s.bindingFault op key = none)
    (hneed : ∀ n ∈ s.popNeeds key 0 op.ssrc [] ++ s.popNeeds key 0 [] op.lsrc, s.needMet key n = true)
    (hpois : s.sourceFault op key = none) (hq2 : s.pushing op key = true → s.readoutsOut key = 0)
    (hpend : ∀ x ∈ op.ssrc ++ op.sdst, x < 32 → op.chain ≠ some x → x ∉ (s.ctlAt key 0).pendRegs)
    (hbody :
      let p := (s.popTokens key g.toNat).popScalars key op.ssrc
      let q := p.1.popLanes key op.lsrc
      body { key := key, threads := [0], lanes := upTo (laneCount key) } q.1 p.2 q.2 = e)
    (hw : e.whole)
    (ht : e.st.tokens = (s.popTokens key g.toNat).tokens) (hr : (e.st.ctlAt key 0).retire.getD {} = r)
    (he : e.st.elemsGood key r) (hrg : (e.st.ctlAt key 0).region = none ∨ r.queues = [])
    (hq : ∀ x ∈ r.queues, e.st.needMet key (.queueRoom x.1) = true)
    (hel : ∀ x ∈ r.elems, e.st.pushesHere key x.1 = true ∧
      e.st.needMet key (.elementRoom (bits (e.st.ringBinding key x.1) 0 5)) = true) :
    s.issue op body = .next ((e.st.pushed key { r with fifos := if op.completes then [] else pushFifos key g.toNat }).modCtl
      key 0 fun c => ({ e.move op.half 0 c with stall := [], retire := none } : Ctl).heldFor e.st.cyc r.hold) := by
  obtain ⟨hcur, -, -, hclr⟩ := hi
  have hc : (s.ctlAt key 0).clear u := hclr 0 (by simp)
  have hc' := hc
  obtain ⟨hreg, harm, -, -, -, hdef⟩ := hc'
  have ha' := ha
  rw [State.admits, hk] at ha'
  simp only [Bool.false_eq_true, if_false] at ha'
  obtain ⟨hce, hpop, hroom, -⟩ := ha'
  have htok : op.tokens key = g.toNat := Op.good_tokens hg hk hce
  have henc : s.wordFault op key 0 = none := State.wordFault_none <|
    Op.good_fault hg s 0 hp hu hc (fun _ => hce) (fun h => by rw [hk] at h; cases h)
  have hnd : s.hasDeferred key 0 true = false := by simp [State.hasDeferred, hdef]
  have hneeds : (s.popNeeds key g.toNat op.ssrc op.lsrc ++
        (if op.completes then [Need.recordRoom] else []) ++
        (((op.ssrc ++ op.sdst).filter fun x => x < 32 && op.chain != some x).map Need.register)).filter
          (fun n => !s.needMet key n) = [] := by
    rw [List.filter_eq_nil_iff]
    intro n hn
    rcases List.mem_append.1 hn with h | h
    · rcases List.mem_append.1 h with h | h
      · rcases mem_popNeeds.1 h with h | h
        · simp [hpop n h]
        · simp [hneed n (List.mem_append.2 h)]
      · by_cases hcp : op.completes = true
        · rw [if_pos hcp] at h
          simp only [List.mem_singleton] at h
          subst h
          simp [State.needMet, hcmp hcp]
        · rw [if_neg hcp] at h; cases h
    · obtain ⟨x, hx, rfl⟩ := List.mem_map.1 h
      obtain ⟨hx, hc⟩ := List.mem_filter.1 hx
      simp only [Bool.and_eq_true, decide_eq_true_eq, bne_iff_ne, ne_eq] at hc
      simp [State.needMet, hpend x hx hc.1 hc.2]
  obtain ⟨w1, w2, w3, w4, w5⟩ := hw
  unfold State.issue
  rw [hcur]
  simp only [hk]
  unfold State.issueStream
  rw [henc]
  simp only [hreg, harm, Option.isSome_none, Bool.false_and, Bool.false_eq_true, if_false]
  unfold State.issueReady
  rw [hbind, htok]
  have hro : (if s.pushing op key = true then s.finishReadouts key else s) = s := by
    split
    · exact State.finishReadouts_none s key (hq2 ‹_›)
    · rfl
  dsimp only
  rw [hro, hneeds]
  simp only [hnd, Bool.and_false, Bool.false_eq_true, if_false, bne_self_eq_false, hpois, Option.isSome_none, Bool.false_and,
    Bool.or_false]
  have hb := hbody
  simp only [State.regionCheck, hreg]
  dsimp only at hb
  rw [hb]
  have hret := State.retireStream_eff e.st op key e (s.ctlAt key 0).pc r hr he hrg w5 (by
    intro n hn
    rw [htok] at hn
    simp only [State.pushNeeds] at hn
    rcases List.mem_append.1 hn with h | h
    · rcases List.mem_append.1 h with h | h
      · by_cases hcp : op.completes = true
        · rw [if_pos hcp] at h; cases h
        · rw [if_neg hcp] at h
          obtain ⟨f, hf, rfl⟩ := List.mem_map.1 h
          simp only [State.needMet, State.tok, ht]
          exact decide_eq_true (hroom f hf)
      · obtain ⟨x, hmem, rfl⟩ := List.mem_map.1 h
        exact hq x hmem
    · obtain ⟨x, hmem, hx⟩ := List.mem_filterMap.1 h
      rw [if_pos (hel x hmem).1, if_pos (he.2 x hmem)] at hx
      cases hx
      exact (hel x hmem).2)
  rw [htok] at hret
  simp [w1, w2, w3, w4, hret]

/-- A stream's instruction with nothing in its way, whose effect leaves no push of its own. -/
theorem State.issue_stream {s : State} {op : Op} {key : Nat} {g : BitVec 4} {u : Bool}
    {body : Iss → State → List DWord → List (List Word) → Eff} {e : Eff}
    (hi : s.issuing key [0] u) (hu : u = true → op.atomic = true) (hk : isWave key = false) (hg : op.good key g) (hp : op.placed (s.ctlAt key 0))
    (hcmp : op.completes = true → (s.ctlAt key 0).pp.length < 64)
    (ha : s.admits key [0] g op.half) (hbind : s.bindingFault op key = none)
    (hneed : ∀ n ∈ s.popNeeds key 0 op.ssrc [] ++ s.popNeeds key 0 [] op.lsrc, s.needMet key n = true)
    (hpois : s.sourceFault op key = none) (hq2 : s.pushing op key = true → s.readoutsOut key = 0)
    (hpend : ∀ x ∈ op.ssrc ++ op.sdst, x < 32 → op.chain ≠ some x → x ∉ (s.ctlAt key 0).pendRegs)
    (hbody :
      let p := (s.popTokens key g.toNat).popScalars key op.ssrc
      let q := p.1.popLanes key op.lsrc
      body { key := key, threads := [0], lanes := upTo (laneCount key) } q.1 p.2 q.2 = e)
    (hw : e.whole) (ht : e.st.tokens = (s.popTokens key g.toNat).tokens) (hr : (e.st.ctlAt key 0).retire = none)
    (hs : (e.st.ctlAt key 0).stall = []) :
    s.issue op body = .next (e.st.concluded key [0] (if op.completes then [] else pushFifos key g.toNat)
      fun l c => e.move op.half l c) := by
  rw [State.issue_pushing (r := {}) hi hu hk hg hp hcmp ha hbind hneed hpois hq2 hpend hbody hw ht (by rw [hr]; rfl)
    ⟨Nat.zero_le 1, by simp⟩ (.inr rfl) (by simp) (by simp)]
  simp only [State.concluded, hk, Bool.false_eq_true, if_false, State.pushed, List.foldl_nil, State.modCtl]
  generalize (if op.completes then [] else pushFifos key g.toNat) = fs
  have : (List.foldl (fun s f => s.pushToken (keyCtxKey key) f) e.st fs).ctlAt key 0 =
      e.st.ctlAt key 0 := by simp only [State.ctlAt, State.pushTokens_ctl]
  rw [this]
  have h1 := Eff.move_retire e op.half 0 (e.st.ctlAt key 0)
  have h2 := Eff.move_stall e op.half 0 (e.st.ctlAt key 0)
  rw [hr] at h1; rw [hs] at h2
  rw [Ctl.settled_eta h2 h1]
  rfl

/-! ### A wave issues -/

/-- A fold over marked values each of which changes nothing. -/
theorem foldl_map_noop {α β γ : Type} (f : β → α × γ → β) (c : γ) (hf : ∀ b a, f b (a, c) = b) (l : List α) (b : β) :
    (l.map fun a => (a, c)).foldl f b = b := by
  induction l generalizing b with
  | nil => rfl
  | cons a l ih => rw [List.map_cons, List.foldl_cons, hf, ih]

/-- Marked values all of which are kept. -/
theorem filterMap_map_some {α γ : Type} (f : α × γ → Option α) (c : γ) (hf : ∀ a, f (a, c) = some a) (l : List α) :
    (l.map fun a => (a, c)).filterMap f = l := by
  induction l with
  | nil => rfl
  | cons a l ih => rw [List.map_cons, List.filterMap_cons, hf, ih]

/-- The instruction of a wave with nothing in its way, for threads that all execute it: it has its effect and they move on;
a backward branch changes the wave's next main set (R143). -/
theorem State.issue_wave {s : State} {op : Op} {key : Nat} {set : List Nat} {g : BitVec 4} {u : Bool}
    {body : Iss → State → List DWord → List (List Word) → Eff} {e : Eff}
    (hi : s.issuing key set u) (hu : u = true → op.atomic = true) (hk : isWave key = true) (hg : op.good key g) (hp : ∀ l ∈ set, op.placed (s.ctlAt key l))
    (ha : s.admits key set g op.half) (hext : s.extendedFault op key = false)
    (hhalf : op.half = 1 ∨ op.half = 2)
    (hpois : ∀ l ∈ set, s.sourcesPoisoned op key l = false)
    (hbody : body { key := key, threads := set, lanes := set } (s.countIssue key set.length op.laneOperation)
      (s.popScalars key op.ssrc).2 (s.popLanes key op.lsrc).2 = e)
    (hw : e.whole) :
    s.issue op body = .next ((e.st.noteBackward op key e.jumps (s.ctlAt key (set.headD 0)).pc).concluded key
      (set.filter fun l => !e.held.contains l) [] fun l c => e.move op.half l c) := by
  obtain ⟨hcur, hne, -, hclr⟩ := hi
  have ha' := ha
  rw [State.admits, hk] at ha'
  simp only [if_true] at ha'
  have hshort : op.half = 1 → g = 0 := fun h => by rw [if_neg (by omega)] at ha'; exact ha'
  have hon : ∀ l ∈ set, s.guardOn op key l = true := by
    intro l hl
    unfold State.guardOn
    rw [hk]
    rcases hhalf with h | h
    · simp [h]
    · rw [h, if_pos rfl] at ha'
      have := ha' l hl
      rw [hg.2.2.2.2]
      simp only [h]
      have e : bits g 0 3 = g.toNat % 8 := by simp [bits, bitsN]
      rw [e] at this
      simpa [bit] using this
  have henc : ∀ l ∈ set, s.wordFault op key l = none := fun l hl => State.wordFault_none <|
    Op.good_fault hg s l (hp l hl) hu (hclr l hl) (fun h => by rw [hk] at h; cases h) (fun _ => hshort)
  have f1 : set.filter (fun l => s.guardOn op key l) = set := List.filter_eq_self.2 hon
  have f2 : set.filter (fun l => !s.guardOn op key l) = [] :=
    List.filter_eq_nil_iff.2 fun l hl => by simp [hon l hl]
  have f3 : set.filterMap (fun l => (s.wordFault op key l).map (l, ·)) = [] :=
    List.filterMap_eq_nil_iff.2 fun l hl => by simp [henc l hl]
  have f4 : set.filter (fun l => (s.wordFault op key l).isNone) = set :=
    List.filter_eq_self.2 fun l hl => by simp [henc l hl]
  have f5 : set.filter (fun l => s.sourcesPoisoned op key l) = [] :=
    List.filter_eq_nil_iff.2 fun l hl => by simp [hpois l hl]
  have f6 : set.filter (fun l => !s.sourcesPoisoned op key l) = set :=
    List.filter_eq_self.2 fun l hl => by simp [hpois l hl]
  have hrc : ∀ l ∈ set, ∀ sv lv, s.regionCheck op key l sv lv = .ok none := fun l hl sv lv => by
    unfold State.regionCheck; rw [(hclr l hl).1]
  have f7 : ∀ sv lv, set.map (fun l => (l, s.regionCheck op key l sv lv)) = set.map fun l => (l, .ok none) := fun sv lv =>
    List.map_congr_left fun l hl => by rw [hrc l hl]
  have hper : ∀ l ∈ set, s.regionPermits op key l = true := fun l hl => by
    unfold State.regionPermits; rw [(hclr l hl).1]; rfl
  have f8 : set.filter (fun l => s.regionPermits op key l) = set := List.filter_eq_self.2 hper
  have f9 : set.filter (fun l => !s.regionPermits op key l) = [] :=
    List.filter_eq_nil_iff.2 fun l hl => by simp [hper l hl]
  have hemp : set.isEmpty = false := by simpa using hne
  obtain ⟨w1, w2, w3, w4, w5⟩ := hw
  unfold State.issue
  rw [hcur]
  simp only [hk]
  unfold State.issueWave
  simp only [f1, f2, f3, f4, f8, f9, f5, f6, f7, hext, List.foldl_nil, List.map_nil, Bool.false_eq_true, if_false, State.faultThreads]
  rw [foldl_map_noop, filterMap_map_some, hemp]
  · simp only [if_true, Bool.false_eq_true, if_false]
    rw [hbody]
    simp only [State.retireWave, w1, w5, List.map_nil, List.append_nil, List.foldl_nil, State.faultThreads,
      State.concluded, hk, if_true]
    congr 1
    generalize e.st.noteBackward op key e.jumps (s.ctlAt key (set.headD 0)).pc = t
    have hmv : ∀ (xs : List Nat) (t : State), (∀ l ∈ xs, e.held.contains l = false) →
        xs.foldl (fun s l => s.moveOn op key e.jumps l) t =
        xs.foldl (fun s l => s.modCtl key l fun c => e.move op.half l c) t := by
      intro xs
      induction xs with
      | nil => intros; rfl
      | cons x xs ih =>
        intro t hx
        have h0 : t.moveOn op key e.jumps x = t.modCtl key x fun c => e.move op.half x c := by
          simp only [State.moveOn, Eff.move, hx x List.mem_cons_self, Bool.false_eq_true, if_false]
          cases e.jumps.find? (·.1 == x) <;> rfl
        rw [List.foldl_cons, List.foldl_cons, h0]
        exact ih _ fun l hl => hx l (List.mem_cons_of_mem _ hl)
    exact hmv _ t fun l hl => by simpa using (List.mem_filter.1 hl).2
  · intro l; rfl
  · intro t l; rfl

end Sys2Proof.Machine
end

