-- ==== Sys2Proof/Laws/Forms.lean ====
section
/-! SUPPORT. What an instruction over registers comes to when nothing is in its way: the one lemma from which the laws of the
scalar, lane, predicate and float forms follow. -/

namespace Sys2Proof.Machine

/-! ### Ready operands -/

theorem State.bindingFault_none {s : State} {op : Op} {key : Nat}
    (h1 : ∀ x ∈ op.ssrc, s.queueCheck key x false = none) (h2 : ∀ x ∈ op.sdst, s.queueCheck key x true = none)
    (h3 : isWave key = false → ∀ x ∈ op.lsrc, x = 0x3A ∨ x = 0x3B → s.ringCheck key (x - 0x3A) = none)
    (h4 : isWave key = false → ∀ x ∈ op.ldst, x = 0x3A ∨ x = 0x3B → s.ringCheck key (x - 0x38) = none) :
    s.bindingFault op key = none := by
  have q : op.ssrc.filterMap (fun x => s.queueCheck key x false) ++ op.sdst.filterMap (fun x => s.queueCheck key x true) = [] := by
    rw [List.append_eq_nil_iff]
    exact ⟨List.filterMap_eq_nil_iff.2 h1, List.filterMap_eq_nil_iff.2 h2⟩
  unfold State.bindingFault
  simp only [q, List.find?_nil]
  cases hk : isWave key
  · have d : ((op.ldst.filter fun x => x == 0x3A || x == 0x3B).map (· - 0x38)).filterMap (fun k => s.ringCheck key k) = [] := by
      rw [List.filterMap_eq_nil_iff]
      intro k hk'
      obtain ⟨x, hx, rfl⟩ := List.mem_map.1 hk'
      obtain ⟨hx1, hx2⟩ := List.mem_filter.1 hx
      exact h4 hk x hx1 (by simpa using hx2)
    have u : ((op.lsrc.filter fun x => x == 0x3A || x == 0x3B).map (· - 0x3A)).filterMap (fun k => s.ringCheck key k) = [] := by
      rw [List.filterMap_eq_nil_iff]
      intro k hk'
      obtain ⟨x, hx, rfl⟩ := List.mem_map.1 hk'
      obtain ⟨hx1, hx2⟩ := List.mem_filter.1 hx
      exact h3 hk x hx1 (by simpa using hx2)
    simp [List.filterMap_append, d, u]
  · simp

theorem State.popTokens_same (s : State) (key g : Nat) :
    s.popTokens key g = { s with tokens := (s.popTokens key g).tokens } := by
  unfold State.popTokens
  dsimp only
  split <;> split <;> rfl

theorem State.countIssue_same (s : State) (key n : Nat) (lane : Bool) :
    s.countIssue key n lane = { s with slots := (s.countIssue key n lane).slots } := by
  unfold State.countIssue
  split <;> rfl

theorem State.operandsReady.bind {s : State} {key : Nat} {set links : List Nat} {op : Op} (h : s.operandsReady key set op.ssrc op.sdst op.lsrc op.ldst links) :
    s.bindingFault op key = none := by
  obtain ⟨⟨-, h1, h2, -, -⟩, h3, -⟩ := h
  refine State.bindingFault_none (fun x hx => (h1 x hx).1) h2 (fun _ x hx => ?_) (fun _ x hx hx' => ?_)
  · rcases h3 with h | h
    · rw [h.1] at hx; cases hx
    · exact h.2.2.2.1 x hx
  · rcases h3 with h | h
    · rw [h.2] at hx; cases hx
    · exact (h.2.2.2.2.1 x hx hx').1

theorem State.operandsReady.needs {s : State} {key : Nat} {set links : List Nat} {op : Op} (h : s.operandsReady key set op.ssrc op.sdst op.lsrc op.ldst links) :
    ∀ n ∈ s.popNeeds key 0 op.ssrc [] ++ s.popNeeds key 0 [] op.lsrc, s.needMet key n = true := by
  obtain ⟨⟨-, -, -, h1, -⟩, h3, -⟩ := h
  intro n hn
  rcases List.mem_append.1 hn with hn | hn
  · exact h1 n hn
  · rcases h3 with h | h
    · rw [h.1] at hn
      exact absurd hn (by simp [State.popNeeds, bitN])
    · exact h.2.2.2.2.2.1 n hn

theorem State.operandsReady.sound {s : State} {key : Nat} {set links : List Nat} {op : Op} (h : s.operandsReady key set op.ssrc op.sdst op.lsrc op.ldst links)
    {l : Nat} (hl : l ∈ set) : s.sourcesPoisoned op key l = false := by
  obtain ⟨⟨-, h1, -, -, -⟩, h3, -⟩ := h
  unfold State.sourcesPoisoned
  rw [Bool.or_eq_false_iff]
  constructor
  · rw [List.any_eq_false]
    intro x hx
    cases hq : isQueue key x
    · simp [(h1 x hx).2 hq]
    · simp
  · rw [List.any_eq_false]
    intro x hx
    rcases h3 with h | h
    · rw [h.1] at hx; cases hx
    · have hp := h.2.2.2.2.2.2.1 x hx
      by_cases hlt : x < 0x3A
      · cases hk : isWave key
        · have : (upTo (laneCount key)).any (fun l => s.poisonLane.has (laneKey key x l)) = false := by
            rw [List.any_eq_false]
            intro m _
            simp [hp hlt m (fun h => by rw [hk] at h; cases h)]
          simp [this]
        · simp [hp hlt l (fun _ => hl)]
      · simp [hlt]

theorem State.operandsReady.sourced {s : State} {key : Nat} {set links : List Nat} {op : Op} (h : s.operandsReady key set op.ssrc op.sdst op.lsrc op.ldst links)
    (hl : 0 ∈ set) (hk : isWave key = false) : s.sourceFault op key = none := by
  unfold State.sourceFault
  rw [h.sound hl]
  rcases h.2.1 with h | h
  · rw [h.1]; rfl
  · rw [h.2.2.2.2.2.2.2 hk]; rfl

/-- A matrix-engine stream that makes pushes as it retires has no readout on its way (R292). -/
theorem State.operandsReady.quiet {s : State} {key : Nat} {set links : List Nat} {op : Op} {g : BitVec 4}
    (h : s.operandsReady key set op.ssrc op.sdst op.lsrc op.ldst links) (ha : s.admits key set g op.half) (hg : op.good key g) :
    s.pushing op key = true → s.readoutsOut key = 0 := by
  intro hp
  unfold State.pushing at hp
  simp only [Bool.and_eq_true, beq_iff_eq, Bool.not_eq_true', Bool.or_eq_true, bne_iff_ne, ne_eq] at hp
  obtain ⟨⟨he, hk⟩, hp⟩ := hp
  rw [State.admits, hk] at ha
  simp only [Bool.false_eq_true, if_false] at ha
  rcases hp with ⟨-, hp⟩ | hp
  · rw [Op.good_tokens hg hk ha.1] at hp
    exact ha.2.2.2 he hp
  · obtain ⟨x, hx, hq⟩ := List.any_eq_true.1 hp
    exact (h.1.2.2.2.2 x hx hq).2 he

theorem State.operandsReady.extended {s : State} {key : Nat} {set links : List Nat} {op : Op} (h : s.operandsReady key set op.ssrc op.sdst op.lsrc op.ldst links) :
    s.extendedFault op key = false := by
  unfold State.extendedFault
  cases hk : isWave key
  · simp
  · rcases h.2.1 with h | h
    · simp [h.1, h.2]
    · by_cases hx : (op.lsrc ++ op.ldst).any (fun x => 24 ≤ x && x < 48) = true
      · obtain ⟨x, hm, hx⟩ := List.any_eq_true.1 hx
        simp only [Bool.and_eq_true, decide_eq_true_eq] at hx
        obtain ⟨w, hw, hb⟩ := h.2.2.1 x hm hk hx.1 hx.2
        simp [hw]
        exact fun _ => hb
      · simp [Bool.eq_false_iff.2 hx]

/-! ### An instruction over registers -/

theorem State.laneVals_countIssue (s : State) (key n x : Nat) (lane : Bool) :
    (s.countIssue key n lane).laneVals key x = s.laneVals key x := by rw [State.countIssue_same]; rfl

theorem State.sget_countIssue (s : State) (key n x : Nat) (lane : Bool) :
    (s.countIssue key n lane).sget key x = s.sget key x := by rw [State.countIssue_same]; rfl

theorem State.operandsReady.pend {s : State} {key : Nat} {set links : List Nat} {op : Op}
    (h : s.operandsReady key set op.ssrc op.sdst op.lsrc op.ldst links) (hk : isWave key = false)
    (hl : ∀ x ∈ links, op.chain = some x) :
    ∀ x ∈ op.ssrc ++ op.sdst, x < 32 → op.chain ≠ some x → x ∉ (s.ctlAt key 0).pendRegs :=
  fun x hx hlt hc => h.2.2 hk x hx hlt fun hm => hc (hl x hm)

/-- An instruction with nothing in its way has its effect on what it reads, and ends as the effect says. -/
theorem State.issue_whole {s : State} {op : Op} {key : Nat} {set links : List Nat} {g : BitVec 4} {u : Bool}
    {body : Iss → State → List DWord → List (List Word) → Eff} {e : Eff}
    (hi : s.issuing key set u) (hu : u = true → op.atomic = true) (hg : op.good key g) (hp : ∀ l ∈ set, op.placed (s.ctlAt key l))
    (hh : op.half = 1 ∨ op.half = 2) (hcmp : op.completes = true → (s.ctlAt key 0).pp.length < 64)
    (ha : s.admits key set g op.half) (ho : s.operandsReady key set op.ssrc op.sdst op.lsrc op.ldst links)
    (hlk : ∀ x ∈ links, op.chain = some x)
    (hbody :
      let r := s.reads key set g op.laneOperation op.ssrc op.lsrc
      body { key := key, threads := set, lanes := issueLanes key set } r.1 r.2.1 r.2.2 = e)
    (hw : e.whole)
    (ht : isWave key = false → e.st.tokens = (s.popTokens key g.toNat).tokens ∧ (e.st.ctlAt key 0).retire = none ∧
      (e.st.ctlAt key 0).stall = []) :
    s.issue op body = .next (
      if isWave key then (e.st.noteBackward op key e.jumps (s.ctlAt key (set.headD 0)).pc).concluded key
        (set.filter fun l => !e.held.contains l) [] fun l c => e.move op.half l c
      else e.st.concluded key set (if op.completes then [] else pushFifos key g.toNat) fun l c => e.move op.half l c) := by
  cases hk : isWave key
  · have hset : set = [0] := hi.2.2.1 hk
    subst hset
    obtain ⟨h1, h2, h3⟩ := ht hk
    refine State.issue_stream hi hu hk hg (hp 0 (List.mem_singleton.2 rfl)) hcmp ha ho.bind ho.needs
      (ho.sourced (List.mem_singleton.2 rfl) hk) (ho.quiet ha hg) (ho.pend hk hlk) ?_ hw h1 h2 h3
    simpa [State.reads, State.begun, hk, issueLanes] using hbody
  · refine State.issue_wave hi hu hk hg hp ha ho.extended hh (fun l hl => ho.sound hl) ?_ hw
    have hl : ∀ x ∈ op.lsrc, x ≠ 0x3A ∧ x ≠ 0x3B := by
      intro x hx
      rcases ho.2.1 with h | h
      · rw [h.1] at hx; cases hx
      · have := h.2.1 x (List.mem_append_left _ hx)
        simp only [laneSrcOk, hk, Bool.not_true, Bool.false_and, Bool.or_false, Bool.or_eq_true, decide_eq_true_eq,
          beq_iff_eq] at this
        omega
    simp only [State.reads, State.begun, hk, if_true, State.popScalars_wave _ _ hk, State.popLanes_plain _ _ _ hl,
      State.laneVals_countIssue, State.sget_countIssue, issueLanes] at hbody ⊢
    exact hbody

/-- Conditions of the operations that are neither waits nor amods and have no completion point. -/
def Op.simple (op : Op) : Prop :=
  op.wait = false ∧ op.notLast = false ∧ op.completes = false ∧ op.noPlace = false ∧ op.inHandler = false

theorem Op.simple.placed {op : Op} (h : op.simple) (c : Ctl) : op.placed c :=
  ⟨fun hw => absurd (h.1.symm.trans hw) nofun, fun hw => absurd (h.2.1.symm.trans hw) nofun,
    fun hw => absurd (h.2.2.2.1.symm.trans hw) nofun, fun hw => absurd (h.2.2.2.2.symm.trans hw) nofun⟩

/-- An instruction with nothing in its way and nothing special about its end. -/
theorem State.issue_plain {s : State} {op : Op} {key : Nat} {set : List Nat} {g : BitVec 4}
    {body : Iss → State → List DWord → List (List Word) → Eff} {st : State}
    (hi : s.issuing key set) (hg : op.good key g) (hh : op.half = 1 ∨ op.half = 2) (hsm : op.simple)
    (ha : s.admits key set g op.half) (ho : s.operandsReady key set op.ssrc op.sdst op.lsrc op.ldst)
    (hbody :
      let r := s.reads key set g op.laneOperation op.ssrc op.lsrc
      body { key := key, threads := set, lanes := issueLanes key set } r.1 r.2.1 r.2.2 = done st)
    (ht : isWave key = false → st.tokens = (s.popTokens key g.toNat).tokens ∧ (st.ctlAt key 0).retire = none ∧
      (st.ctlAt key 0).stall = []) :
    s.issue op body = .next (st.finish key set g op.half) := by
  rw [State.issue_whole (u := false) hi (by simp) hg (fun l _ => hsm.placed _) hh (fun h => by rw [hsm.2.2.1] at h; cases h) ha ho
    (by simp) hbody ⟨rfl, rfl, rfl, rfl, rfl⟩ ht]
  have hnb : ∀ (t : State) (ia : DWord), t.noteBackward op key [] ia = t := by
    intro t ia; simp [State.noteBackward]
  have hset : set.filter (fun l => !([] : List Nat).contains l) = set := by simp
  have hmove : (fun l c => Eff.move (done st) op.half l c) = fun _ c => c.past op.half := rfl
  rw [hmove]
  simp only [done, hnb, hset, hsm.2.2.1, Bool.false_eq_true, if_false, State.finish]
  split
  · next hk => simp only [State.concluded, hk, if_true]
  · rfl

/-! ### A scalar result -/

theorem State.popScalars_tokens (s : State) (t : Tab Nat) (key : Nat) (l : List Nat) :
    State.popScalars { s with tokens := t } key l = ({ (s.popScalars key l).1 with tokens := t }, (s.popScalars key l).2) := by
  induction l generalizing s with
  | nil => rfl
  | cons x l ih =>
    unfold State.popScalars
    split
    · have := ih (s.setQueue (keyCtxKey key) (x - 32) ((s.queue (keyCtxKey key) (x - 32)).drop 1))
      simp only [State.setQueue, State.queue] at this ⊢
      rw [this]
    · rw [ih s]
      rfl

/-- Popping lane sources changes rings alone. -/
theorem State.popLanes_same (s : State) (key : Nat) (l : List Nat) :
    (s.popLanes key l).1 = { s with rings := (s.popLanes key l).1.rings } := by
  induction l generalizing s with
  | nil => rfl
  | cons x l ih =>
    unfold State.popLanes
    split
    · exact ih s
    · split
      · have := ih (s.ringPop key (x - 0x3A)).1
        simp only [State.ringPop, State.setRing] at this ⊢
        exact this
      · exact ih s

/-- Popping scalar sources changes queues alone. -/
theorem State.popScalars_same (s : State) (key : Nat) (l : List Nat) :
    (s.popScalars key l).1 = { s with queues := (s.popScalars key l).1.queues } := by
  induction l generalizing s with
  | nil => rfl
  | cons x l ih =>
    unfold State.popScalars
    split
    · exact ih (s.setQueue (keyCtxKey key) (x - 32) ((s.queue (keyCtxKey key) (x - 32)).drop 1))
    · exact ih s

/-- What a stream reads from: its tokens popped, its queues and rings popped, nothing else changed. -/
theorem State.reads_stream (s : State) (key : Nat) (set : List Nat) (g : BitVec 4) (lane : Bool) (ssrc lsrc : List Nat)
    (hk : isWave key = false) :
    (s.reads key set g lane ssrc lsrc).1 = { s with
      tokens := (s.popTokens key g.toNat).tokens
      queues := (s.popScalars key ssrc).1.queues
      rings := (s.reads key set g lane ssrc lsrc).1.rings } := by
  simp only [State.reads, State.begun, hk, Bool.false_eq_true, if_false]
  rw [State.popLanes_same, State.popTokens_same, State.popScalars_tokens, State.popScalars_same]

/-- Reading operands leaves every control state as it was. -/
theorem State.reads_ctl (s : State) (key : Nat) (set : List Nat) (g : BitVec 4) (lane : Bool) (ssrc lsrc : List Nat) :
    (s.reads key set g lane ssrc lsrc).1.ctl = s.ctl := by
  cases hk : isWave key
  · rw [State.reads_stream _ _ _ _ _ _ _ hk]
  · simp only [State.reads, State.begun, hk, if_true]
    rw [State.popLanes_same, State.popScalars_same, State.countIssue_same]

theorem State.takes_same (s : State) (key : Nat) (e : Nat × List Word) :
    (s.takes key e).tokens = s.tokens ∧ (s.takes key e).ctl = s.ctl := by
  have h : ∀ (bs : List Byte) (t : State) (k : Nat), (t.locWriteRaw k bs).tokens = t.tokens := by
    intro bs
    induction bs with
    | nil => intros; rfl
    | cons b bs ih => intro t k; exact ih _ _
  exact ⟨h _ _ _, State.ringAppend_ctl _ _ _ _⟩

theorem State.pushed_ctl (s : State) (key : Nat) (r : Retire) : (s.pushed key r).ctl = s.ctl := by
  have hctl : ∀ (es : List (Nat × List Word)) (t : State), (es.foldl (fun s e => s.takes key e) t).ctl = t.ctl := by
    intro es
    induction es with
    | nil => intro t; rfl
    | cons e es ih => intro t; rw [List.foldl_cons, ih]; exact State.ringAppend_ctl _ _ _ _
  simp only [State.pushed, State.pushTokens_ctl, hctl, State.pushQueues_ctl]

theorem State.pushed_setCtl {s : State} {key : Nat} {c : Ctl} (r : Retire) (h : c.boundAs (s.ctlAt key 0)) :
    (s.setCtl key 0 c).pushed key r = (s.pushed key r).setCtl key 0 c := by
  have he : ∀ (es : List (Nat × List Word)) (t : State), t.ctl = s.ctl →
      es.foldl (fun s e => s.takes key e) (t.setCtl key 0 c) = (es.foldl (fun s e => s.takes key e) t).setCtl key 0 c := by
    intro es
    induction es with
    | nil => intros; rfl
    | cons e es ih =>
      intro t ht
      have hb : c.boundAs (t.ctlAt key 0) := by rw [State.ctlAt, ht]; exact h
      rw [List.foldl_cons, List.foldl_cons, State.takes_setCtl hb]
      exact ih _ ((State.takes_same t key e).2.trans ht)
  simp only [State.pushed, State.pushQueues_setCtl]
  rw [he _ _ (State.pushQueues_ctl ..), State.pushTokens_setCtl]

/-- A retirement pushes its tokens after what else it pushes. -/
theorem State.pushed_tokens (s : State) (key : Nat) (r : Retire) (fs : List Nat) (hr : r.fifos = []) :
    s.pushed key { r with fifos := fs } =
      fs.foldl (fun s f => s.pushToken (keyCtxKey key) f) (s.pushed key r) := by
  simp only [State.pushed, hr, List.foldl_nil]

/-- A stream's instruction with nothing in its way that ends with pushes of its own. -/
theorem State.issue_retired {s t : State} {op : Op} {key : Nat} {g : BitVec 4} {r : Retire}
    {body : Iss → State → List DWord → List (List Word) → Eff}
    (hi : s.issuing key [0]) (hk : isWave key = false) (hg : op.good key g) (hsm : op.simple)
    (ha : s.admits key [0] g op.half) (ho : s.operandsReady key [0] op.ssrc op.sdst op.lsrc op.ldst)
    (hbody :
      let r1 := s.reads key [0] g op.laneOperation op.ssrc op.lsrc
      body { key := key, threads := [0], lanes := issueLanes key [0] } r1.1 r1.2.1 r1.2.2 =
        done (t.modCtl key 0 fun c => { c with retire := some r }))
    (ht : t.tokens = (s.popTokens key g.toNat).tokens) (hr : (t.ctlAt key 0).retire = none)
    (hst : (t.ctlAt key 0).stall = []) (hf : r.fifos = []) (hh : r.hold = none) (he : t.elemsGood key r)
    (hrg : (t.ctlAt key 0).region = none ∨ r.queues = [])
    (hq : ∀ x ∈ r.queues, t.needMet key (.queueRoom x.1) = true)
    (hel : ∀ x ∈ r.elems, t.pushesHere key x.1 = true ∧
      t.needMet key (.elementRoom (bits (t.ringBinding key x.1) 0 5)) = true) :
    s.issue op body = .next ((t.pushed key r).finish key [0] g op.half) := by
  have hb : ({ t.ctlAt key 0 with retire := some r } : Ctl).boundAs (t.ctlAt key 0) := ⟨rfl, rfl, rfl⟩
  refine (State.issue_pushing (r := r) (e := done (t.modCtl key 0 fun c => { c with retire := some r }))
    (u := false) hi (by simp) hk hg (hsm.placed _) (fun h => by rw [hsm.2.2.1] at h; cases h) ha ho.bind ho.needs
    (ho.sourced (List.mem_singleton.2 rfl) hk) (ho.quiet ha hg) (ho.pend hk (by simp)) ?_ ⟨rfl, rfl, rfl, rfl, rfl⟩ ht
    ?_ ?_ ?_ ?_ ?_).trans ?_
  · simpa [State.reads, State.begun, hk, issueLanes] using hbody
  · simp [done, State.modCtl]
  · refine ⟨he.1, fun e hm => ?_⟩
    simp only [done, State.modCtl, State.pushAccepted_setCtl hb]
    exact he.2 e hm
  · simp only [done, State.modCtl, State.ctlAt_setCtl_same]
    exact hrg
  · intro x hx
    simp only [done, State.modCtl, State.needMet, State.regionEntries_setCtl hb.2.2]
    exact hq x hx
  · intro x hx
    simp only [done, State.modCtl, State.pushesHere_setCtl hb, State.ringBinding_setCtl hb]
    exact hel x hx
  · have hmv : ∀ (t : State) (c : Ctl), Eff.move (done t) op.half 0 c = c.past op.half := fun _ _ => rfl
    simp only [hmv, hsm.2.2.1]
    simp only [done, State.modCtl, State.pushed_setCtl _ hb, State.finish, State.concluded, hk, Bool.false_eq_true, if_false]
    rw [State.pushed_tokens t key r _ hf, State.setCtl_setCtl, State.ctlAt_setCtl_same, hh]
    have h0 : (List.foldl (fun s f => s.pushToken (keyCtxKey key) f) (t.pushed key r) (pushFifos key g.toNat)).ctlAt key 0 =
        t.ctlAt key 0 := by simp only [State.ctlAt, State.pushTokens_ctl, State.pushed_ctl]
    rw [h0]
    congr 2
    have h1 := Ctl.past_stall (t.ctlAt key 0) op.half
    have h2 := Ctl.past_retire (t.ctlAt key 0) op.half
    rw [hst] at h1; rw [hr] at h2
    have h3 : ∀ r, ({ t.ctlAt key 0 with retire := r } : Ctl).past op.half = { (t.ctlAt key 0).past op.half with retire := r } := by
      intro r
      unfold Ctl.past Ctl.advance
      dsimp only
      (repeat' split) <;> rfl
    rw [h3]
    exact Ctl.settled_eta h1 h2

/-- A scalar result of an instruction whose effect otherwise leaves tokens, queues and what is owed at retirement as they
were ends in its register, or at the back of its queue (R48, R84). -/
theorem State.issue_scalars_at {s w : State} {op : Op} {key : Nat} {set : List Nat} {g : BitVec 4} {d : Nat} {v : DWord}
    {body : Iss → State → List DWord → List (List Word) → Eff}
    (hi : s.issuing key set) (hg : op.good key g) (hh : op.half = 1 ∨ op.half = 2) (hsm : op.simple)
    (ha : s.admits key set g op.half) (ho : s.operandsReady key set op.ssrc op.sdst op.lsrc op.ldst) (hd : op.sdst = [d])
    (hbody :
      let r := s.reads key set g op.laneOperation op.ssrc op.lsrc
      let is : Iss := { key := key, threads := set, lanes := issueLanes key set }
      body is r.1 r.2.1 r.2.2 = done (w.sput key d v))
    (hW : isWave key = false →
      let t := (s.reads key set g op.laneOperation op.ssrc op.lsrc).1
      w.tokens = t.tokens ∧ w.queues = t.queues ∧ (w.ctlAt key 0).retire = (t.ctlAt key 0).retire ∧
      (w.ctlAt key 0).stall = (t.ctlAt key 0).stall ∧ (w.ctlAt key 0).region = (t.ctlAt key 0).region ∧
      ∀ q, w.regionEntries (keyCtxKey key) q = t.regionEntries (keyCtxKey key) q) :
    s.issue op body = .next ((w.give key d v).finish key set g op.half) := by
  have hclr : isWave key = false → (s.ctlAt key 0).clear := fun hk => hi.2.2.2 0 (by rw [hi.2.2.1 hk]; simp)
  cases hq : isQueue key d
  · refine (State.issue_plain hi hg hh hsm ha ho hbody ?_).trans ?_
    · intro hk
      obtain ⟨-, -, -, hs, hr, -⟩ := hclr hk
      have hrs := State.reads_stream s key set g op.laneOperation op.ssrc op.lsrc hk
      have hc0 : (s.reads key set g op.laneOperation op.ssrc op.lsrc).1.ctlAt key 0 = s.ctlAt key 0 := by rw [hrs]; rfl
      simp only [State.sput, hq, Bool.false_eq_true, if_false]
      obtain ⟨w1, -, w2, w3, -⟩ := hW hk
      refine ⟨?_, w2.trans (by rw [hc0, hr]), w3.trans (by rw [hc0, hs])⟩
      show w.tokens = _
      rw [w1, hrs]
    · simp only [State.sput, hq, State.give]
      rfl
  · have hk : isWave key = false := by
      cases hk : isWave key
      · rfl
      · rw [isQueue_wave hk] at hq; cases hq
    obtain ⟨hrg, -, -, hst, hr, -⟩ := hclr hk
    have hset : set = [0] := hi.2.2.1 hk
    subst hset
    have hrs := State.reads_stream s key [0] g op.laneOperation op.ssrc op.lsrc hk
    have hroom : (s.popScalars key op.ssrc).1.needMet key (.queueRoom (d - 32)) = true :=
      (ho.1.2.2.2.2 d (by rw [hd]; simp) hq).1
    have hc0 : (s.reads key [0] g op.laneOperation op.ssrc op.lsrc).1.ctlAt key 0 = s.ctlAt key 0 := by rw [hrs]; rfl
    obtain ⟨w1, wq, w2, w3, w4, w5⟩ := hW hk
    refine (State.issue_retired (t := w) (r := { queues := [(d - 32, v)] })
      hi hk hg hsm ha ho ?_ ?_ (by rw [w2, hc0, hr]) (by rw [w3, hc0, hst]) rfl rfl ⟨Nat.zero_le 1, by simp⟩
      (.inl (by rw [w4, hc0, hrg])) ?_ (by simp)).trans ?_
    · refine hbody.trans ?_
      simp only [State.sput, hq, if_true, State.modCtl, w2, hc0, hr, Option.getD_none, List.nil_append]
    · rw [w1, hrs]
    · intro e he
      simp only [List.mem_singleton] at he
      subst he
      simp only [State.needMet, State.queue, w5, wq]
      rw [hrs]
      simp only [State.needMet, State.queue] at hroom
      rw [State.popScalars_same] at hroom
      exact hroom
    · simp only [State.pushed, List.foldl_nil, List.foldl_cons]
      simp only [State.give, hq, if_true]

/-- The same for an effect given as functions of what is read. -/
theorem State.issue_scalars {s : State} {op : Op} {key : Nat} {set : List Nat} {g : BitVec 4} {d : Nat}
    {W : Iss → State → List DWord → List (List Word) → State}
    {F : Iss → State → List DWord → List (List Word) → DWord}
    (hi : s.issuing key set) (hg : op.good key g) (hh : op.half = 1 ∨ op.half = 2) (hsm : op.simple)
    (ha : s.admits key set g op.half) (ho : s.operandsReady key set op.ssrc op.sdst op.lsrc op.ldst) (hd : op.sdst = [d])
    (hW : ∀ is t sv lv, is.key = key → is.threads = set → isWave key = false →
      (W is t sv lv).tokens = t.tokens ∧ (W is t sv lv).queues = t.queues ∧
      ((W is t sv lv).ctlAt key 0).retire = (t.ctlAt key 0).retire ∧
      ((W is t sv lv).ctlAt key 0).stall = (t.ctlAt key 0).stall ∧
      ((W is t sv lv).ctlAt key 0).region = (t.ctlAt key 0).region ∧
      ∀ q, (W is t sv lv).regionEntries (keyCtxKey key) q = t.regionEntries (keyCtxKey key) q) :
    s.issue op (fun is s sv lv => done ((W is s sv lv).sput is.key d (F is s sv lv))) =
      .next (let r := s.reads key set g op.laneOperation op.ssrc op.lsrc
        let is : Iss := { key := key, threads := set, lanes := issueLanes key set }
        ((W is r.1 r.2.1 r.2.2).give key d (F is r.1 r.2.1 r.2.2)).finish key set g op.half) :=
  State.issue_scalars_at hi hg hh hsm ha ho hd rfl fun hk => hW _ _ _ _ rfl rfl hk

/-- An instruction with one scalar result ends with it in its register, or at the back of its queue (R48, R84). -/
theorem State.issue_scalar {s : State} {op : Op} {key : Nat} {set : List Nat} {g : BitVec 4} {d : Nat}
    {F : Iss → State → List DWord → List (List Word) → DWord}
    (hi : s.issuing key set) (hg : op.good key g) (hh : op.half = 1 ∨ op.half = 2) (hsm : op.simple)
    (ha : s.admits key set g op.half) (ho : s.operandsReady key set op.ssrc op.sdst op.lsrc op.ldst) (hd : op.sdst = [d]) :
    s.issue op (fun is s sv lv => done (s.sput is.key d (F is s sv lv))) =
      .next (let r := s.reads key set g op.laneOperation op.ssrc op.lsrc
        (r.1.give key d (F { key := key, threads := set, lanes := issueLanes key set } r.1 r.2.1 r.2.2)).finish
          key set g op.half) := by
  refine State.issue_scalars (W := fun _ s _ _ => s) hi hg hh hsm ha ho hd ?_
  intro _ t _ _ _ _ _
  exact ⟨rfl, rfl, rfl, rfl, rfl, fun _ => rfl⟩

/-! ### Lane and predicate results -/

/-- A state that differs from another in lane registers and their poison alone. -/
def State.lanesBut (s t : State) : Prop := ∃ a b, t = { s with lreg := a, poisonLane := b }

theorem State.lanesBut_trans {s t u : State} (h : s.lanesBut t) (h' : t.lanesBut u) : s.lanesBut u := by
  obtain ⟨a, b, rfl⟩ := h
  obtain ⟨c, d, rfl⟩ := h'
  exact ⟨c, d, rfl⟩

theorem State.retireLane_but (s : State) (key d l : Nat) (v : Word) : s.lanesBut (s.retireLane key d l v) := by
  have h1 : s.lanesBut (s.lsetPoison key 0x39 l (s.lget key 0x38 l) (s.poisonLane.has (laneKey key 0x38 l))) := ⟨_, _, rfl⟩
  have h2 : ∀ (t : State) (x : Nat), t.lanesBut (t.lset key x l v) := fun _ _ => ⟨_, _, rfl⟩
  have h3 := State.lanesBut_trans h1 (h2 _ 0x38)
  unfold State.retireLane
  dsimp only
  (repeat' split)
  · exact State.lanesBut_trans h3 (h2 _ _)
  · exact State.lanesBut_trans h3 (h2 _ _)
  · exact h3

/-- Lane results change lane registers and their poison alone. -/
theorem State.retireLanes_same (s : State) (key d : Nat) (rs : List (Nat × Word)) :
    s.retireLanes key d rs =
      { s with lreg := (s.retireLanes key d rs).lreg, poisonLane := (s.retireLanes key d rs).poisonLane } := by
  have h : s.lanesBut (s.retireLanes key d rs) := by
    unfold State.retireLanes
    induction rs generalizing s with
    | nil => exact ⟨_, _, rfl⟩
    | cons r rs ih => exact State.lanesBut_trans (State.retireLane_but s key d r.1 r.2) (ih _)
  obtain ⟨a, b, h⟩ := h
  rw [h]

/-- Predicate results change predicates alone. -/
theorem State.pput_same (s : State) (is : Iss) (p : Nat) (rs : List (Nat × Bool)) :
    s.pput is p rs = { s with preg := (s.pput is p rs).preg } := by
  unfold State.pput
  induction rs generalizing s with
  | nil => rfl
  | cons r rs ih =>
    have h1 : s.pset is.key p r.1 r.2 = { s with preg := (s.pset is.key p r.1 r.2).preg } := by
      unfold State.pset
      split <;> rfl
    rw [List.foldl_cons, ih, h1]

/-- Flags change control state alone. -/
theorem State.orFlags_same (s : State) (key l : Nat) (f : Fl) :
    s.orFlags key l f = { s with ctl := (s.orFlags key l f).ctl } := by
  unfold State.orFlags
  split <;> rfl

theorem State.orFlags_ctlAt (s : State) (key l : Nat) (f : Fl) :
    ((s.orFlags key l f).ctlAt key l).retire = (s.ctlAt key l).retire ∧
      ((s.orFlags key l f).ctlAt key l).stall = (s.ctlAt key l).stall ∧
      ((s.orFlags key l f).ctlAt key l).boundAs (s.ctlAt key l) := by
  unfold State.orFlags Ctl.boundAs
  split <;> simp

/-- Lane results of an instruction whose effect leaves tokens, rings and what is owed at retirement as they were end in t0, t1 and a register, or in a
ring (R160, R194). -/
theorem State.issue_lanes_at {s w : State} {op : Op} {key : Nat} {set : List Nat} {g : BitVec 4} {d : Nat}
    {body : Iss → State → List DWord → List (List Word) → Eff} {rs : List (Nat × Word)}
    (hi : s.issuing key set) (hg : op.good key g) (hh : op.half = 1 ∨ op.half = 2) (hsm : op.simple)
    (ha : s.admits key set g op.half) (ho : s.operandsReady key set op.ssrc op.sdst op.lsrc op.ldst) (hd : op.ldst = [d])
    (hbody :
      let r := s.reads key set g op.laneOperation op.ssrc op.lsrc
      let is : Iss := { key := key, threads := set, lanes := issueLanes key set }
      body is r.1 r.2.1 r.2.2 = done (w.lput is d rs))
    (hW : isWave key = false →
      let t := (s.reads key set g op.laneOperation op.ssrc op.lsrc).1
      (w.tokens = t.tokens ∧ w.rings = t.rings ∧ w.slots = t.slots) ∧ (w.ctlAt key 0).retire = (t.ctlAt key 0).retire ∧
      (w.ctlAt key 0).stall = (t.ctlAt key 0).stall ∧ (w.ctlAt key 0).boundAs (t.ctlAt key 0)) :
    s.issue op body = .next ((w.giveLanes key d rs).finish key set g op.half) := by
  have hclr : isWave key = false → (s.ctlAt key 0).clear := fun hk => hi.2.2.2 0 (by rw [hi.2.2.1 hk]; simp)
  by_cases hx : (d = 0x3A ∨ d = 0x3B) ∧ isWave key = false
  · obtain ⟨hx, hk⟩ := hx
    obtain ⟨-, -, -, hst, hr, -⟩ := hclr hk
    have hset : set = [0] := hi.2.2.1 hk
    subst hset
    have hrs := State.reads_stream s key [0] g op.laneOperation op.ssrc op.lsrc hk
    have hc0 : (s.reads key [0] g op.laneOperation op.ssrc op.lsrc).1.ctlAt key 0 = s.ctlAt key 0 := by rw [hrs]; rfl
    have hrings : (s.reads key [0] g op.laneOperation op.ssrc op.lsrc).1.rings = (s.popLanes key op.lsrc).1.rings := by
      simp only [State.reads, State.begun, hk, Bool.false_eq_true, if_false]
      have hp : ∀ (l : List Nat) (t u : State), t.rings = u.rings → t.ctl = u.ctl →
          (t.popLanes key l).1.rings = (u.popLanes key l).1.rings := by
        intro l
        induction l with
        | nil => intro t u h _; exact h
        | cons x l ih =>
          intro t u h1 h2
          unfold State.popLanes
          split
          · exact ih t u h1 h2
          · split
            · refine ih _ _ ?_ h2
              simp only [State.ringPop, State.setRing, State.ringBinding, State.ctlAt, State.ringAt, h1, h2]
            · exact ih t u h1 h2
      refine hp _ _ _ ?_ ?_
      · rw [State.popScalars_same, State.popTokens_same]
      · rw [State.popScalars_same, State.popTokens_same]
    obtain ⟨hchk, hhere, hacc, hroom⟩ := (ho.2.1.resolve_left (by rw [hd]; simp)).2.2.2.2.1 d (by rw [hd]; simp) hx
    generalize hre : s.reads key [0] g op.laneOperation op.ssrc op.lsrc = re at *
    generalize hist : ({ key := key, threads := [0], lanes := issueLanes key [0] } : Iss) = ist
    have hk' : ist.key = key := by rw [← hist]
    obtain ⟨w1, w2, w3, w4⟩ := hW hk
    have hrl := State.retireLanes_same w key d rs
    have hctl : (w.retireLanes key d rs).ctlAt key 0 = w.ctlAt key 0 := by rw [hrl]; rfl
    have hbind : ∀ k, (w.retireLanes key d rs).ringBinding key k = s.ringBinding key k := by
      intro k; simp only [State.ringBinding, hctl, w4.1, hc0]
    have hpl := State.popLanes_same s key op.lsrc
    have hbp : ∀ k, (s.popLanes key op.lsrc).1.ringBinding key k = s.ringBinding key k := by
      intro k; rw [hpl]; rfl
    have hring : (w.retireLanes key d rs).rings = (s.popLanes key op.lsrc).1.rings := by
      rw [hrl]; show w.rings = _; rw [w1.2.1]; exact hrings
    have hslots : (w.retireLanes key d rs).slots = (s.popLanes key op.lsrc).1.slots := by
      rw [hrl, hpl]; show w.slots = _; rw [w1.2.2, hrs]
    have hcard : (w.retireLanes key d rs).cardOf key 0 = (s.popLanes key op.lsrc).1.cardOf key 0 := by
      simp only [State.cardOf, State.slotAt, hctl, w4.2.1, hc0, hslots]
      rw [hpl]; rfl
    have hacc' : (w.retireLanes key d rs).pushAccepted key (d - 0x38) (keyCore key) = true := by
      rw [← hacc]
      simp only [State.pushAccepted, State.ringAccepts, State.ringAt, hbind, hbp, hring, State.slotAt, hslots, hcard]
    refine (State.issue_retired (t := w.retireLanes key d rs) (r := { elems := [(d - 0x38, rs.map (·.2))] })
      hi hk hg hsm ha ho ?_ ?_ (by rw [hctl, w2, hc0, hr]) (by rw [hctl, w3, hc0, hst]) rfl rfl ⟨Nat.le_refl 1, ?_⟩ (.inr rfl)
      (by simp) ?_).trans ?_
    · have hx' : (d == 0x3A || d == 0x3B) = true := by simpa using hx
      simp only [hre, hist] at hbody ⊢
      rw [hbody]
      simp only [State.lput, hk', hk, Bool.not_false, Bool.and_true]
      rw [if_pos hx']
      simp only [State.modCtl, hctl, w2, hc0, hr, Option.getD_none, List.nil_append]
    · rw [hrl]; show w.tokens = _; rw [w1.1, hrs]
    · intro e he
      simp only [List.mem_singleton] at he
      subst he
      exact hacc'
    · intro e he
      simp only [List.mem_singleton] at he
      subst he
      refine ⟨?_, ?_⟩
      · simp only [State.pushesHere, hbind]; exact hhere
      · simp only [hbp, State.needMet, State.ringAt] at hroom
        simp only [State.needMet, State.ringAt, hbind, hring]
        exact hroom
    · simp only [State.pushed, List.foldl_nil, List.foldl_cons, State.giveLanes, if_pos hx]
  · have hlp : ∀ (t : State) (rs : List (Nat × Word)) (is : Iss), is.key = key → t.lput is d rs = t.giveLanes key d rs := by
      intro t rs is his
      have hnd : isWave key = true → ¬(d = 0x3A ∨ d = 0x3B) := by
        intro hkw hdd
        have := (ho.2.1.resolve_left (by rw [hd]; simp)).2.1 d (by rw [hd]; simp)
        simp only [laneSrcOk, hkw, Bool.not_true, Bool.false_and, Bool.or_false, Bool.or_eq_true, decide_eq_true_eq,
            beq_iff_eq] at this
        omega
      have hnd' : ¬(d = 0x3A ∨ d = 0x3B) := by
        intro hdd
        cases hk : isWave key
        · exact hx ⟨hdd, hk⟩
        · exact hnd hk hdd
      have hnd2 : (d == 0x3A || d == 0x3B) = false := by
        simp only [not_or] at hnd'
        simp [hnd'.1, hnd'.2]
      simp only [State.lput, State.giveLanes, his, hnd2, Bool.false_and, Bool.false_eq_true, if_false, if_neg hnd']
    refine (State.issue_plain hi hg hh hsm ha ho hbody ?_).trans ?_
    · intro hk
      obtain ⟨-, -, -, hst, hr, -⟩ := hclr hk
      have hnx : ¬(d = 0x3A ∨ d = 0x3B) := fun h => hx ⟨h, hk⟩
      have hrs := State.reads_stream s key set g op.laneOperation op.ssrc op.lsrc hk
      have hc0 : (s.reads key set g op.laneOperation op.ssrc op.lsrc).1.ctlAt key 0 = s.ctlAt key 0 := by rw [hrs]; rfl
      rw [hlp _ _ _ rfl]
      obtain ⟨w1, w2, w3, -⟩ := hW hk
      simp only [State.giveLanes, if_neg hnx]
      rw [State.retireLanes_same]
      refine ⟨?_, w2.trans (by rw [hc0, hr]), w3.trans (by rw [hc0, hst])⟩
      show w.tokens = _
      rw [w1.1, hrs]
    · rw [hlp _ _ _ rfl]

/-- The same for an effect given as functions of what is read. -/
theorem State.issue_lanes {s : State} {op : Op} {key : Nat} {set : List Nat} {g : BitVec 4} {d : Nat}
    {W : Iss → State → List DWord → List (List Word) → State}
    {R : Iss → State → List DWord → List (List Word) → List (Nat × Word)}
    (hi : s.issuing key set) (hg : op.good key g) (hh : op.half = 1 ∨ op.half = 2) (hsm : op.simple)
    (ha : s.admits key set g op.half) (ho : s.operandsReady key set op.ssrc op.sdst op.lsrc op.ldst) (hd : op.ldst = [d])
    (hW : ∀ is t sv lv, is.key = key → isWave key = false →
      ((W is t sv lv).tokens = t.tokens ∧ (W is t sv lv).rings = t.rings ∧ (W is t sv lv).slots = t.slots) ∧
      ((W is t sv lv).ctlAt key 0).retire = (t.ctlAt key 0).retire ∧
      ((W is t sv lv).ctlAt key 0).stall = (t.ctlAt key 0).stall ∧ ((W is t sv lv).ctlAt key 0).boundAs (t.ctlAt key 0)) :
    s.issue op (fun is s sv lv => done ((W is s sv lv).lput is d (R is s sv lv))) =
      .next (let r := s.reads key set g op.laneOperation op.ssrc op.lsrc
        let is : Iss := { key := key, threads := set, lanes := issueLanes key set }
        ((W is r.1 r.2.1 r.2.2).giveLanes key d (R is r.1 r.2.1 r.2.2)).finish key set g op.half) :=
  State.issue_lanes_at hi hg hh hsm ha ho hd rfl fun hk => hW _ _ _ _ rfl hk

/-- An instruction with one lane result, whose flags go to their threads (R27, R144, R160). -/
theorem State.issue_lane {s : State} {op : Op} {key : Nat} {set : List Nat} {g : BitVec 4} {d : Nat}
    {R : Iss → State → List DWord → List (List Word) → List (Nat × Word × Fl)}
    (hi : s.issuing key set) (hg : op.good key g) (hh : op.half = 1 ∨ op.half = 2) (hsm : op.simple)
    (ha : s.admits key set g op.half) (ho : s.operandsReady key set op.ssrc op.sdst op.lsrc op.ldst) (hd : op.ldst = [d]) :
    s.issue op (fun is s sv lv => done ((s.orLaneFlags is.key ((R is s sv lv).map fun r => (r.1, r.2.2))).lput is d
        ((R is s sv lv).map fun r => (r.1, r.2.1)))) =
      .next (let r := s.reads key set g op.laneOperation op.ssrc op.lsrc
        let rs := R { key := key, threads := set, lanes := issueLanes key set } r.1 r.2.1 r.2.2
        ((r.1.orLaneFlags key (rs.map fun r => (r.1, r.2.2))).giveLanes key d (rs.map fun r => (r.1, r.2.1))).finish
          key set g op.half) := by
  have h := State.issue_lanes (W := fun is s sv lv => s.orLaneFlags is.key ((R is s sv lv).map fun r => (r.1, r.2.2)))
    (R := fun is s sv lv => (R is s sv lv).map fun r => (r.1, r.2.1)) hi hg hh hsm ha ho hd (by
      intro is t sv lv his hk
      simp only [State.orLaneFlags, his, hk, Bool.false_eq_true, if_false]
      obtain ⟨h1, h2, h3⟩ := State.orFlags_ctlAt t key 0
        (((R is t sv lv).map fun r => (r.1, r.2.2)).foldl (fun acc f => acc ||| f.2) 0)
      exact And.intro (by rw [State.orFlags_same]; exact And.intro rfl (And.intro rfl rfl)) (And.intro h1 (And.intro h2 h3)))
  dsimp only at h ⊢
  exact h

/-- An instruction with one lane result and no flags. -/
theorem State.issue_lane_plain {s : State} {op : Op} {key : Nat} {set : List Nat} {g : BitVec 4} {d : Nat}
    {R : Iss → State → List DWord → List (List Word) → List (Nat × Word)}
    (hi : s.issuing key set) (hg : op.good key g) (hh : op.half = 1 ∨ op.half = 2) (hsm : op.simple)
    (ha : s.admits key set g op.half) (ho : s.operandsReady key set op.ssrc op.sdst op.lsrc op.ldst) (hd : op.ldst = [d]) :
    s.issue op (fun is s sv lv => done (s.lput is d (R is s sv lv))) =
      .next (let r := s.reads key set g op.laneOperation op.ssrc op.lsrc
        (r.1.giveLanes key d (R { key := key, threads := set, lanes := issueLanes key set } r.1 r.2.1 r.2.2)).finish
          key set g op.half) := by
  have hb : ∀ c : Ctl, c.boundAs c := fun _ => ⟨rfl, rfl, rfl⟩
  refine State.issue_lanes (W := fun _ s _ _ => s) hi hg hh hsm ha ho hd ?_
  intro _ t _ _ _ _
  exact And.intro (And.intro rfl (And.intro rfl rfl)) (And.intro rfl (And.intro rfl (hb _)))

/-- An instruction with predicate results, whose flags go to their threads, ends with the results in its predicate
(R169, R170, R173). -/
theorem State.issue_pred {s : State} {op : Op} {key : Nat} {set : List Nat} {g : BitVec 4} {p : Nat}
    {R : Iss → State → List DWord → List (List Word) → List (Nat × Bool)}
    (hi : s.issuing key set) (hg : op.good key g) (hh : op.half = 1 ∨ op.half = 2) (hsm : op.simple)
    (ha : s.admits key set g op.half) (ho : s.operandsReady key set op.ssrc op.sdst op.lsrc op.ldst) :
    s.issue op (fun is s sv lv => done (s.pput is p (R is s sv lv))) =
      .next (let r := s.reads key set g op.laneOperation op.ssrc op.lsrc
        let is : Iss := { key := key, threads := set, lanes := issueLanes key set }
        (r.1.pput is p (R is r.1 r.2.1 r.2.2)).finish key set g op.half) := by
  refine State.issue_plain hi hg hh hsm ha ho rfl ?_
  intro hk
  obtain ⟨-, -, -, hs, hr, -⟩ := hi.2.2.2 0 (by rw [hi.2.2.1 hk]; simp)
  rw [State.pput_same, State.reads_stream s key set g _ _ _ hk]
  exact ⟨rfl, hr, hs⟩

end Sys2Proof.Machine
end

