-- ==== Sys2Proof/Laws/Memory.lean ====
section
/-! SUPPORT. Laws of memory: the canonical form is kept by every memory operation, and what a read after a write gives. -/

namespace Sys2Proof.Machine

/-! ### Folds -/

/-- A fold keeps what each of its steps keeps. -/
theorem foldl_keeps {α β : Type} (P : β → Prop) (f : β → α → β) (hf : ∀ b a, P b → P (f b a)) (l : List α) (b : β)
    (hb : P b) : P (l.foldl f b) := by
  induction l generalizing b with
  | nil => exact hb
  | cons a l ih => exact ih _ (hf _ _ hb)

/-- A fold leaves alone what each of its steps leaves alone. -/
theorem foldl_same {α β γ : Type} (p : β → γ) (f : β → α → β) (hf : ∀ b a, p (f b a) = p b) (l : List α) (b : β) :
    p (l.foldl f b) = p b := by
  induction l generalizing b with
  | nil => rfl
  | cons a l ih => rw [List.foldl_cons, ih, hf]

/-! ### External memory keeps its canonical form -/

@[simp] theorem State.physWrite_mem (s : State) (pa : Nat) (bs : List Byte) : (s.physWrite pa bs).mem = s.mem := by
  induction bs generalizing s pa with
  | nil => rfl
  | cons b bs ih => rw [State.physWrite, ih]

theorem State.extWrite_wf (s : State) (pa : Nat) (bs : List Byte) (h : Memory.wf s.mem = true) :
    Memory.wf (s.extWrite pa bs).mem = true := by
  induction bs generalizing s pa with
  | nil => exact h
  | cons b bs ih => rw [State.extWrite]; exact ih _ _ (Tab.canon_set h _ _)

theorem State.writeBack_wf (s : State) (lo n : Nat) (h : Memory.wf s.mem = true) :
    Memory.wf (s.writeBack lo n).mem = true :=
  foldl_keeps (fun m => Memory.wf m = true) (fun m (e : Nat × Byte) => Tab.set 0 m e.1 e.2)
    (fun _ _ hb => Tab.canon_set hb _ _) _ _ h

@[simp] theorem State.dropDirty_mem (s : State) (lo n : Nat) : (s.dropDirty lo n).mem = s.mem := rfl

@[simp] theorem State.locWriteRaw_mem (s : State) (k : Nat) (bs : List Byte) : (s.locWriteRaw k bs).mem = s.mem := by
  induction bs generalizing s k with
  | nil => rfl
  | cons b bs ih => rw [State.locWriteRaw, ih]

@[simp] theorem State.locWrite_mem (s : State) (k : Nat) (bs : List Byte) : (s.locWrite k bs).mem = s.mem := by
  simp [State.locWrite]

theorem State.recallFor_wf (s : State) (pa mtype grain : Nat) (h : Memory.wf s.mem = true) :
    Memory.wf (s.recallFor pa mtype grain).mem = true := by
  unfold State.recallFor
  split
  · exact h
  · exact s.writeBack_wf _ _ h

theorem State.dropKept_wf (s : State) (lo n : Nat) (h : Memory.wf s.mem = true) : Memory.wf (s.dropKept lo n).mem = true := by
  unfold State.dropKept
  dsimp only
  split
  · exact h
  · exact Tab.canon_filter h _

/-- What a discarded write takes back keeps the canonical form of memory. -/
theorem State.takeBack_wf (s : State) (q : SectorReq) (h : Memory.wf s.mem = true) : Memory.wf (s.takeBack q).mem = true :=
  foldl_keeps (fun s : State => Memory.wf s.mem = true) _ (fun b u hb => by
    dsimp only
    split
    · exact Tab.canon_set hb _ _
    · exact hb) _ _ h

@[simp] theorem State.cleanSector_mem (s : State) (agent : Nat) (p : Place) : (s.cleanSector agent p).mem = s.mem := by
  unfold State.cleanSector
  split
  · rfl
  · split <;> rfl

/-- A store at a place keeps the canonical form of memory. -/
theorem State.placeStore_wf (s : State) (writer : Option Nat) (p : Place) (bs : List Byte) (h : Memory.wf s.mem = true) :
    Memory.wf (s.placeStore writer p bs).mem = true := by
  unfold State.placeStore
  cases p with
  | loc k => simpa using h
  | phys pa mtype grain part =>
    have h1 : Memory.wf ((s.recallFor pa mtype grain).markStale writer pa grain).mem = true := s.recallFor_wf _ _ _ h
    dsimp only
    repeat' split
    all_goals first
      | (rw [State.physWrite_mem]; simpa using h1)
      | exact State.extWrite_wf _ _ _ (by simpa using h1)

/-! ### Scratchpads and local stores keep theirs -/

theorem State.locWriteRaw_wf (s : State) (k : Nat) (bs : List Byte) (h : Memory.wf s.loc = true) :
    Memory.wf (s.locWriteRaw k bs).loc = true := by
  induction bs generalizing s k with
  | nil => exact h
  | cons b bs ih => rw [State.locWriteRaw]; exact ih _ _ (Tab.canon_set h _ _)

theorem State.locWrite_wf (s : State) (k : Nat) (bs : List Byte) (h : Memory.wf s.loc = true) :
    Memory.wf (s.locWrite k bs).loc = true := s.locWriteRaw_wf k bs h

/-! ### Reads after writes -/

/-- A byte of a scratchpad after a write: one of those written, or what stood there. -/
theorem State.locWriteRaw_get (s : State) (k j : Nat) (bs : List Byte) :
    (s.locWriteRaw k bs).loc.get 0 j = if k ≤ j ∧ j < k + bs.length then bs.getD (j - k) 0 else s.loc.get 0 j := by
  induction bs generalizing s k with
  | nil => simp [State.locWriteRaw] <;> omega
  | cons b bs ih =>
    rw [State.locWriteRaw, ih]
    simp only [Tab.get_set, List.length_cons]
    by_cases h : j = k
    · subst h; rw [if_neg (by omega), if_pos rfl, if_pos (by omega)]; simp
    · by_cases h1 : k + 1 ≤ j ∧ j < k + 1 + bs.length
      · rw [if_pos h1, if_pos (by omega)]
        have : j - k = (j - (k + 1)) + 1 := by omega
        simp [this]
      · rw [if_neg h1, if_neg h, if_neg (by omega)]

/-- A byte of a scratchpad or local store after a write. -/
theorem State.locWrite_get (s : State) (k j : Nat) (bs : List Byte) :
    (s.locWrite k bs).loc.get 0 j = if k ≤ j ∧ j < k + bs.length then bs.getD (j - k) 0 else s.loc.get 0 j :=
  s.locWriteRaw_get k j bs

@[simp] theorem State.physWrite_migrated (s : State) (pa : Nat) (bs : List Byte) :
    (s.physWrite pa bs).migrated = s.migrated := by
  induction bs generalizing s pa with
  | nil => rfl
  | cons b bs ih => rw [State.physWrite, ih]

theorem State.settled_of_none (s : State) (pa : Nat) (h : s.migrated = []) : s.settled pa = pa := by
  simp [State.settled, h]

/-- A byte of external memory after a write of newer data, where no page migrates. -/
theorem State.physWrite_byteAt (s : State) (pa j : Nat) (bs : List Byte) (h : s.migrated = []) :
    (s.physWrite pa bs).byteAt j = if pa ≤ j ∧ j < pa + bs.length then bs.getD (j - pa) 0 else s.byteAt j := by
  induction bs generalizing s pa with
  | nil => simp [State.physWrite] <;> omega
  | cons b bs ih =>
    rw [State.physWrite, ih _ _ (by simpa using h)]
    have hb : State.byteAt { s with dirty := s.dirty.put (s.settled pa) b } j = if j = pa then b else s.byteAt j := by
      unfold State.byteAt
      rw [State.settled_of_none s _ h, State.settled_of_none s _ h, State.settled_of_none _ _ (by simpa using h)]
      by_cases hj : j = pa
      · simp [hj]
      · simp [hj, Tab.find_put_other _ _ hj]
    rw [hb]
    simp only [List.length_cons]
    by_cases hj : j = pa
    · subst hj; rw [if_neg (by omega), if_pos rfl, if_pos (by omega)]; simp
    · by_cases h1 : pa + 1 ≤ j ∧ j < pa + 1 + bs.length
      · rw [if_pos h1, if_pos (by omega)]
        have : j - pa = (j - (pa + 1)) + 1 := by omega
        simp [this]
      · rw [if_neg h1, if_neg hj, if_neg (by omega)]

end Sys2Proof.Machine
end

