-- ==== Sys2Proof/Laws/PerInstr.lean ====
section
/-! SUPPORT. Every constructor's encoding decodes to it (R40 to R55): the family RoundTrip, one lemma for each constructor. -/

namespace Sys2Proof.Laws.RoundTrip

/-- A well-formed instruction is what its halfwords decode to. -/
def Statement (i : Instr) : Prop :=
  i.wf = true → encode i ≠ [] → decodeHalves ((encode i).getD 0 0) ((encode i).getD 1 0) = .ok i

theorem decodeHalves_long {w : Nat} (h : w < 2 ^ 32) (h3 : w % 4 = 3) :
    decodeHalves (BitVec.ofNat 16 w) (BitVec.ofNat 16 (w / 65536)) = decodeLong w := by
  have e : (BitVec.ofNat 16 w).toNat + 65536 * (BitVec.ofNat 16 (w / 65536)).toNat = w := by
    simp only [BitVec.toNat_ofNat]; omega
  have hl : isLong (BitVec.ofNat 16 w) = true := by simp only [isLong, BitVec.toNat_ofNat, beq_iff_eq]; omega
  rw [decodeHalves, if_pos hl, e]

theorem decodeHalves_short {w : Nat} {h1 : Half} (h : w < 2 ^ 16) (h3 : w % 4 ≠ 3) :
    decodeHalves (BitVec.ofNat 16 w) h1 = decodeShort w := by
  have e : (BitVec.ofNat 16 w).toNat = w := by simp only [BitVec.toNat_ofNat]; omega
  have hl : ¬ isLong (BitVec.ofNat 16 w) = true := by simp only [isLong, BitVec.toNat_ofNat, beq_iff_eq]; omega
  rw [decodeHalves, if_neg hl, e]

/-- What there is to show of a long word v. -/
theorem of_long {i : Instr} (v : Nat) (he : encode i = long v)
    (h : i.wf = true → ∀ w, w = v → w < 2 ^ 32 ∧ w % 4 = 3 ∧ (w / 4 % 64 = 60 → w / 4096 % 256 = 3 → w / 67108864 % 64 < 3) ∧
      decodeLongRow w = some i) : Statement i := by
  intro hw _
  obtain ⟨h1, h2, h3, h4⟩ := h hw v rfl
  rw [he]
  refine (decodeHalves_long h1 h2).trans ?_
  have hp : ¬ ((fixedAt v 0 8 0xF3 && fixedAt v 12 8 0x03) = true ∧ 3 ≤ v / 2 ^ 26 % 2 ^ 6) := by
    simp only [fixedAt, Nat.reducePow, Nat.div_one, Bool.and_eq_true, beq_iff_eq]
    rintro ⟨⟨p, q⟩, r⟩
    exact absurd (h3 (by omega) q) (by omega)
  simp only [decodeLong, Bool.and_eq_true, decide_eq_true_eq] at hp ⊢
  rw [if_neg hp, h4, guardWf, if_pos hw]

/-- What there is to show of a short word v. -/
theorem of_short {i : Instr} (v : Nat) (he : encode i = short v)
    (h : i.wf = true → ∀ w, w = v → w < 2 ^ 16 ∧ w % 4 ≠ 3 ∧ decodeShortRow w = some i) : Statement i := by
  intro hw _
  obtain ⟨h1, h2, h3⟩ := h hw v rfl
  rw [he]
  exact (decodeHalves_short h1 h2).trans (by rw [decodeShort, h3, guardWf, if_pos hw])

/-- A field of a word. -/
theorem fld_of {w lo k : Nat} {x : BitVec k} (h : w / 2 ^ lo % 2 ^ k = x.toNat) : fld w lo k = x :=
  BitVec.eq_of_toNat_eq ((BitVec.toNat_ofNat _ _).trans h)

/-! The row of a long word of each major. -/

theorem row_00 {w : Nat} (h : w / 4 % 64 = 0) : decodeLongRow w = decodeMaj00 w := by
  simp [decodeLongRow, fixedAt, h]
theorem row_01 {w : Nat} (h : w / 4 % 64 = 1) : decodeLongRow w = decodeMaj01 w := by
  simp [decodeLongRow, fixedAt, h]
theorem row_02 {w : Nat} (h : w / 4 % 64 = 2) : decodeLongRow w = decodeMaj02 w := by
  simp [decodeLongRow, fixedAt, h]
theorem row_03 {w : Nat} (h : w / 4 % 64 = 3) : decodeLongRow w = decodeMaj03 w := by
  simp [decodeLongRow, fixedAt, h]
theorem row_04 {w : Nat} (h : w / 4 % 64 = 4) : decodeLongRow w = decodeMaj04 w := by
  simp [decodeLongRow, fixedAt, h]
theorem row_05 {w : Nat} (h : w / 4 % 64 = 5) : decodeLongRow w = decodeMaj05 w := by
  simp [decodeLongRow, fixedAt, h]
theorem row_06 {w : Nat} (h : w / 4 % 64 = 6) : decodeLongRow w = decodeMaj06 w := by
  simp [decodeLongRow, fixedAt, h]
theorem row_07 {w : Nat} (h : w / 4 % 64 = 7) : decodeLongRow w = decodeMaj07 w := by
  simp [decodeLongRow, fixedAt, h]
theorem row_08 {w : Nat} (h : w / 4 % 64 = 8) : decodeLongRow w = decodeMaj08 w := by
  simp [decodeLongRow, fixedAt, h]
theorem row_09 {w : Nat} (h : w / 4 % 64 = 9) : decodeLongRow w = decodeMaj09 w := by
  simp [decodeLongRow, fixedAt, h]
theorem row_0A {w : Nat} (h : w / 4 % 64 = 10) : decodeLongRow w = decodeMaj0A w := by
  simp [decodeLongRow, fixedAt, h]
theorem row_0B {w : Nat} (h : w / 4 % 64 = 11) : decodeLongRow w = decodeMaj0B w := by
  simp [decodeLongRow, fixedAt, h]
theorem row_0C {w : Nat} (h : w / 4 % 64 = 12) : decodeLongRow w = decodeMaj0C w := by
  simp [decodeLongRow, fixedAt, h]
theorem row_0D {w : Nat} (h : w / 4 % 64 = 13) : decodeLongRow w = decodeMaj0D w := by
  simp [decodeLongRow, fixedAt, h]
theorem row_0E {w : Nat} (h : w / 4 % 64 = 14) : decodeLongRow w = decodeMaj0E w := by
  simp [decodeLongRow, fixedAt, h]
theorem row_0F {w : Nat} (h : w / 4 % 64 = 15) : decodeLongRow w = decodeMaj0F w := by
  simp [decodeLongRow, fixedAt, h]
theorem row_10 {w : Nat} (h : w / 4 % 64 = 16) : decodeLongRow w = decodeMaj10 w := by
  simp [decodeLongRow, fixedAt, h]
theorem row_11 {w : Nat} (h : w / 4 % 64 = 17) : decodeLongRow w = decodeMaj11 w := by
  simp [decodeLongRow, fixedAt, h]
theorem row_12 {w : Nat} (h : w / 4 % 64 = 18) : decodeLongRow w = decodeMaj12 w := by
  simp [decodeLongRow, fixedAt, h]
theorem row_13 {w : Nat} (h : w / 4 % 64 = 19) : decodeLongRow w = decodeMaj13 w := by
  simp [decodeLongRow, fixedAt, h]
theorem row_14 {w : Nat} (h : w / 4 % 64 = 20) : decodeLongRow w = decodeMaj14 w := by
  simp [decodeLongRow, fixedAt, h]
theorem row_15 {w : Nat} (h : w / 4 % 64 = 21) : decodeLongRow w = decodeMaj15 w := by
  simp [decodeLongRow, fixedAt, h]
theorem row_16 {w : Nat} (h : w / 4 % 64 = 22) : decodeLongRow w = decodeMaj16 w := by
  simp [decodeLongRow, fixedAt, h]
theorem row_17 {w : Nat} (h : w / 4 % 64 = 23) : decodeLongRow w = decodeMaj17 w := by
  simp [decodeLongRow, fixedAt, h]
theorem row_18 {w : Nat} (h : w / 4 % 64 = 24) : decodeLongRow w = decodeMaj18 w := by
  simp [decodeLongRow, fixedAt, h]
theorem row_19 {w : Nat} (h : w / 4 % 64 = 25) : decodeLongRow w = decodeMaj19 w := by
  simp [decodeLongRow, fixedAt, h]
theorem row_1A {w : Nat} (h : w / 4 % 64 = 26) : decodeLongRow w = decodeMaj1A w := by
  simp [decodeLongRow, fixedAt, h]
theorem row_1B {w : Nat} (h : w / 4 % 64 = 27) : decodeLongRow w = decodeMaj1B w := by
  simp [decodeLongRow, fixedAt, h]
theorem row_1C {w : Nat} (h : w / 4 % 64 = 28) : decodeLongRow w = decodeMaj1C w := by
  simp [decodeLongRow, fixedAt, h]
theorem row_1D {w : Nat} (h : w / 4 % 64 = 29) : decodeLongRow w = decodeMaj1D w := by
  simp [decodeLongRow, fixedAt, h]
theorem row_1E {w : Nat} (h : w / 4 % 64 = 30) : decodeLongRow w = decodeMaj1E w := by
  simp [decodeLongRow, fixedAt, h]
theorem row_1F {w : Nat} (h : w / 4 % 64 = 31) : decodeLongRow w = decodeMaj1F w := by
  simp [decodeLongRow, fixedAt, h]
theorem row_20 {w : Nat} (h : w / 4 % 64 = 32) : decodeLongRow w = decodeMaj20 w := by
  simp [decodeLongRow, fixedAt, h]
theorem row_21 {w : Nat} (h : w / 4 % 64 = 33) : decodeLongRow w = decodeMaj21 w := by
  simp [decodeLongRow, fixedAt, h]
theorem row_22 {w : Nat} (h : w / 4 % 64 = 34) : decodeLongRow w = decodeMaj22 w := by
  simp [decodeLongRow, fixedAt, h]
theorem row_23 {w : Nat} (h : w / 4 % 64 = 35) : decodeLongRow w = decodeMaj23 w := by
  simp [decodeLongRow, fixedAt, h]
theorem row_24 {w : Nat} (h : w / 4 % 64 = 36) : decodeLongRow w = decodeMaj24 w := by
  simp [decodeLongRow, fixedAt, h]
theorem row_25 {w : Nat} (h : w / 4 % 64 = 37) : decodeLongRow w = decodeMaj25 w := by
  simp [decodeLongRow, fixedAt, h]
theorem row_26 {w : Nat} (h : w / 4 % 64 = 38) : decodeLongRow w = decodeMaj26 w := by
  simp [decodeLongRow, fixedAt, h]
theorem row_27 {w : Nat} (h : w / 4 % 64 = 39) : decodeLongRow w = decodeMaj27 w := by
  simp [decodeLongRow, fixedAt, h]
theorem row_28 {w : Nat} (h : w / 4 % 64 = 40) : decodeLongRow w = decodeMaj28 w := by
  simp [decodeLongRow, fixedAt, h]
theorem row_29 {w : Nat} (h : w / 4 % 64 = 41) : decodeLongRow w = decodeMaj29 w := by
  simp [decodeLongRow, fixedAt, h]
theorem row_2A {w : Nat} (h : w / 4 % 64 = 42) : decodeLongRow w = decodeMaj2A w := by
  simp [decodeLongRow, fixedAt, h]
theorem row_2B {w : Nat} (h : w / 4 % 64 = 43) : decodeLongRow w = decodeMaj2B w := by
  simp [decodeLongRow, fixedAt, h]
theorem row_2C {w : Nat} (h : w / 4 % 64 = 44) : decodeLongRow w = decodeMaj2C w := by
  simp [decodeLongRow, fixedAt, h]
theorem row_2D {w : Nat} (h : w / 4 % 64 = 45) : decodeLongRow w = decodeMaj2D w := by
  simp [decodeLongRow, fixedAt, h]
theorem row_2E {w : Nat} (h : w / 4 % 64 = 46) : decodeLongRow w = decodeMaj2E w := by
  simp [decodeLongRow, fixedAt, h]
theorem row_2F {w : Nat} (h : w / 4 % 64 = 47) : decodeLongRow w = decodeMaj2F w := by
  simp [decodeLongRow, fixedAt, h]
theorem row_30 {w : Nat} (h : w / 4 % 64 = 48) : decodeLongRow w = decodeMaj30 w := by
  simp [decodeLongRow, fixedAt, h]
theorem row_31 {w : Nat} (h : w / 4 % 64 = 49) : decodeLongRow w = decodeMaj31 w := by
  simp [decodeLongRow, fixedAt, h]
theorem row_32 {w : Nat} (h : w / 4 % 64 = 50) : decodeLongRow w = decodeMaj32 w := by
  simp [decodeLongRow, fixedAt, h]
theorem row_33 {w : Nat} (h : w / 4 % 64 = 51) : decodeLongRow w = decodeMaj33 w := by
  simp [decodeLongRow, fixedAt, h]
theorem row_34 {w : Nat} (h : w / 4 % 64 = 52) : decodeLongRow w = decodeMaj34 w := by
  simp [decodeLongRow, fixedAt, h]
theorem row_35 {w : Nat} (h : w / 4 % 64 = 53) : decodeLongRow w = decodeMaj35 w := by
  simp [decodeLongRow, fixedAt, h]
theorem row_36 {w : Nat} (h : w / 4 % 64 = 54) : decodeLongRow w = decodeMaj36 w := by
  simp [decodeLongRow, fixedAt, h]
theorem row_37 {w : Nat} (h : w / 4 % 64 = 55) : decodeLongRow w = decodeMaj37 w := by
  simp [decodeLongRow, fixedAt, h]
theorem row_38 {w : Nat} (h : w / 4 % 64 = 56) : decodeLongRow w = decodeMaj38 w := by
  simp [decodeLongRow, fixedAt, h]
theorem row_39 {w : Nat} (h : w / 4 % 64 = 57) : decodeLongRow w = decodeMaj39 w := by
  simp [decodeLongRow, fixedAt, h]
theorem row_3A {w : Nat} (h : w / 4 % 64 = 58) : decodeLongRow w = decodeMaj3A w := by
  simp [decodeLongRow, fixedAt, h]
theorem row_3B {w : Nat} (h : w / 4 % 64 = 59) : decodeLongRow w = decodeMaj3B w := by
  simp [decodeLongRow, fixedAt, h]
theorem row_3C {w : Nat} (h : w / 4 % 64 = 60) : decodeLongRow w = decodeMaj3C w := by
  simp [decodeLongRow, fixedAt, h]
theorem row_3D {w : Nat} (h : w / 4 % 64 = 61) : decodeLongRow w = decodeMaj3D w := by
  simp [decodeLongRow, fixedAt, h]
theorem row_3E {w : Nat} (h : w / 4 % 64 = 62) : decodeLongRow w = decodeMaj3E w := by
  simp [decodeLongRow, fixedAt, h]

/-- Only a word of major 0x3C can be an rport word. -/
theorem no_port {w m : Nat} (h : w / 4 % 64 = m) (hm : m ≠ 60) :
    w / 4 % 64 = 60 → w / 4096 % 256 = 3 → w / 67108864 % 64 < 3 := fun h' => absurd (h.symm.trans h') hm

/-- An atom word whose destination is 0x3C would be the red word (R327). -/
theorem red_not {w : Nat} {d : BitVec 6} (e : fld w 26 6 = d) (h : (d != 0x3C) = true) : w / 67108864 % 64 ≠ 60 := by
  intro hw
  have : fld w 26 6 = 0x3C#6 := fld_of hw
  simp [← e, this] at h

/-! The parts of a word, for each layout of fields. -/

theorem lay0 {x0 : BitVec 14} {x1 : BitVec 4} {w v c0 c1 c2 : Nat}
    (hw : w = v + put x0 12 + put x1 8)
    (hv : v = c0 * 1 + c1 * 4 + c2 * 67108864)
    (hc0 : c0 < 4) (hc1 : c1 < 64) (hc2 : c2 < 64) :
    w < 4294967296 ∧ w % 4 = c0 ∧ w / 4 % 64 = c1 ∧ w / 67108864 % 64 = c2 ∧ fld w 12 14 = x0 ∧ fld w 8 4 = x1 := by
  have := x0.isLt; have := x1.isLt
  simp only [put, Nat.reducePow] at *
  and_intros <;> first | exact fld_of (by omega) | omega

theorem lay1 {x0 : BitVec 6} {x1 : BitVec 14} {x2 : BitVec 4} {w v c0 c1 : Nat}
    (hw : w = v + put x0 26 + put x1 12 + put x2 8)
    (hv : v = c0 * 1 + c1 * 4)
    (hc0 : c0 < 4) (hc1 : c1 < 64) :
    w < 4294967296 ∧ w % 4 = c0 ∧ w / 4 % 64 = c1 ∧ fld w 26 6 = x0 ∧ fld w 12 14 = x1 ∧ fld w 8 4 = x2 := by
  have := x0.isLt; have := x1.isLt; have := x2.isLt
  simp only [put, Nat.reducePow] at *
  and_intros <;> first | exact fld_of (by omega) | omega

theorem lay2 {x0 : BitVec 3} {x1 : BitVec 14} {x2 : BitVec 4} {w v c0 c1 c2 : Nat}
    (hw : w = v + put x0 26 + put x1 12 + put x2 8)
    (hv : v = c0 * 1 + c1 * 4 + c2 * 536870912)
    (hc0 : c0 < 4) (hc1 : c1 < 64) (hc2 : c2 < 8) :
    w < 4294967296 ∧ w % 4 = c0 ∧ w / 4 % 64 = c1 ∧ w / 536870912 % 8 = c2 ∧ fld w 26 3 = x0 ∧ fld w 12 14 = x1 ∧ fld w 8 4 = x2 := by
  have := x0.isLt; have := x1.isLt; have := x2.isLt
  simp only [put, Nat.reducePow] at *
  and_intros <;> first | exact fld_of (by omega) | omega

theorem lay3 {x0 : BitVec 4} {w v c0 c1 c2 : Nat}
    (hw : w = v + put x0 8)
    (hv : v = c0 * 1 + c1 * 4 + c2 * 4096)
    (hc0 : c0 < 4) (hc1 : c1 < 64) (hc2 : c2 < 1048576) :
    w < 4294967296 ∧ w % 4 = c0 ∧ w / 4 % 64 = c1 ∧ w / 4096 % 1048576 = c2 ∧ fld w 8 4 = x0 := by
  have := x0.isLt
  simp only [put, Nat.reducePow] at *
  and_intros <;> first | exact fld_of (by omega) | omega

theorem lay4 {x0 : BitVec 3} {x1 : BitVec 6} {x2 : BitVec 4} {w v c0 c1 c2 c3 : Nat}
    (hw : w = v + put x0 26 + put x1 20 + put x2 8)
    (hv : v = c0 * 1 + c1 * 4 + c2 * 4096 + c3 * 536870912)
    (hc0 : c0 < 4) (hc1 : c1 < 64) (hc2 : c2 < 256) (hc3 : c3 < 8) :
    w < 4294967296 ∧ w % 4 = c0 ∧ w / 4 % 64 = c1 ∧ w / 4096 % 256 = c2 ∧ w / 536870912 % 8 = c3 ∧ fld w 26 3 = x0 ∧ fld w 20 6 = x1 ∧ fld w 8 4 = x2 := by
  have := x0.isLt; have := x1.isLt; have := x2.isLt
  simp only [put, Nat.reducePow] at *
  and_intros <;> first | exact fld_of (by omega) | omega

theorem lay5 {x0 : BitVec 6} {x1 : BitVec 4} {w v c0 c1 c2 c3 : Nat}
    (hw : w = v + put x0 20 + put x1 8)
    (hv : v = c0 * 1 + c1 * 4 + c2 * 4096 + c3 * 67108864)
    (hc0 : c0 < 4) (hc1 : c1 < 64) (hc2 : c2 < 256) (hc3 : c3 < 64) :
    w < 4294967296 ∧ w % 4 = c0 ∧ w / 4 % 64 = c1 ∧ w / 4096 % 256 = c2 ∧ w / 67108864 % 64 = c3 ∧ fld w 20 6 = x0 ∧ fld w 8 4 = x1 := by
  have := x0.isLt; have := x1.isLt
  simp only [put, Nat.reducePow] at *
  and_intros <;> first | exact fld_of (by omega) | omega

theorem lay6 {x0 : BitVec 6} {x1 : BitVec 4} {w v c0 c1 c2 : Nat}
    (hw : w = v + put x0 26 + put x1 8)
    (hv : v = c0 * 1 + c1 * 4 + c2 * 4096)
    (hc0 : c0 < 4) (hc1 : c1 < 64) (hc2 : c2 < 16384) :
    w < 4294967296 ∧ w % 4 = c0 ∧ w / 4 % 64 = c1 ∧ w / 4096 % 16384 = c2 ∧ fld w 26 6 = x0 ∧ fld w 8 4 = x1 := by
  have := x0.isLt; have := x1.isLt
  simp only [put, Nat.reducePow] at *
  and_intros <;> first | exact fld_of (by omega) | omega

theorem lay7 {x0 : BitVec 12} {x1 : BitVec 4} {w v c0 c1 c2 : Nat}
    (hw : w = v + put x0 20 + put x1 8)
    (hv : v = c0 * 1 + c1 * 4 + c2 * 4096)
    (hc0 : c0 < 4) (hc1 : c1 < 64) (hc2 : c2 < 256) :
    w < 4294967296 ∧ w % 4 = c0 ∧ w / 4 % 64 = c1 ∧ w / 4096 % 256 = c2 ∧ fld w 20 12 = x0 ∧ fld w 8 4 = x1 := by
  have := x0.isLt; have := x1.isLt
  simp only [put, Nat.reducePow] at *
  and_intros <;> first | exact fld_of (by omega) | omega

theorem lay8 {x0 : BitVec 6} {x1 : BitVec 6} {x2 : BitVec 4} {w v c0 c1 c2 : Nat}
    (hw : w = v + put x0 26 + put x1 20 + put x2 8)
    (hv : v = c0 * 1 + c1 * 4 + c2 * 4096)
    (hc0 : c0 < 4) (hc1 : c1 < 64) (hc2 : c2 < 256) :
    w < 4294967296 ∧ w % 4 = c0 ∧ w / 4 % 64 = c1 ∧ w / 4096 % 256 = c2 ∧ fld w 26 6 = x0 ∧ fld w 20 6 = x1 ∧ fld w 8 4 = x2 := by
  have := x0.isLt; have := x1.isLt; have := x2.isLt
  simp only [put, Nat.reducePow] at *
  and_intros <;> first | exact fld_of (by omega) | omega

theorem lay9 {x0 : BitVec 6} {x1 : BitVec 6} {x2 : BitVec 6} {x3 : BitVec 4} {w v c0 c1 c2 : Nat}
    (hw : w = v + put x0 26 + put x1 20 + put x2 14 + put x3 8)
    (hv : v = c0 * 1 + c1 * 4 + c2 * 4096)
    (hc0 : c0 < 4) (hc1 : c1 < 64) (hc2 : c2 < 4) :
    w < 4294967296 ∧ w % 4 = c0 ∧ w / 4 % 64 = c1 ∧ w / 4096 % 4 = c2 ∧ fld w 26 6 = x0 ∧ fld w 20 6 = x1 ∧ fld w 14 6 = x2 ∧ fld w 8 4 = x3 := by
  have := x0.isLt; have := x1.isLt; have := x2.isLt; have := x3.isLt
  simp only [put, Nat.reducePow] at *
  and_intros <;> first | exact fld_of (by omega) | omega

theorem lay10 {x0 : BitVec 6} {x1 : BitVec 6} {x2 : BitVec 5} {x3 : BitVec 4} {w v c0 c1 c2 c3 : Nat}
    (hw : w = v + put x0 26 + put x1 20 + put x2 14 + put x3 8)
    (hv : v = c0 * 1 + c1 * 4 + c2 * 4096 + c3 * 524288)
    (hc0 : c0 < 4) (hc1 : c1 < 64) (hc2 : c2 < 4) (hc3 : c3 < 2) :
    w < 4294967296 ∧ w % 4 = c0 ∧ w / 4 % 64 = c1 ∧ w / 4096 % 4 = c2 ∧ w / 524288 % 2 = c3 ∧ fld w 26 6 = x0 ∧ fld w 20 6 = x1 ∧ fld w 14 5 = x2 ∧ fld w 8 4 = x3 := by
  have := x0.isLt; have := x1.isLt; have := x2.isLt; have := x3.isLt
  simp only [put, Nat.reducePow] at *
  and_intros <;> first | exact fld_of (by omega) | omega

theorem lay11 {x0 : BitVec 3} {x1 : BitVec 6} {x2 : BitVec 6} {x3 : BitVec 4} {w v c0 c1 c2 c3 : Nat}
    (hw : w = v + put x0 26 + put x1 20 + put x2 14 + put x3 8)
    (hv : v = c0 * 1 + c1 * 4 + c2 * 4096 + c3 * 536870912)
    (hc0 : c0 < 4) (hc1 : c1 < 64) (hc2 : c2 < 4) (hc3 : c3 < 8) :
    w < 4294967296 ∧ w % 4 = c0 ∧ w / 4 % 64 = c1 ∧ w / 4096 % 4 = c2 ∧ w / 536870912 % 8 = c3 ∧ fld w 26 3 = x0 ∧ fld w 20 6 = x1 ∧ fld w 14 6 = x2 ∧ fld w 8 4 = x3 := by
  have := x0.isLt; have := x1.isLt; have := x2.isLt; have := x3.isLt
  simp only [put, Nat.reducePow] at *
  and_intros <;> first | exact fld_of (by omega) | omega

theorem lay12 {x0 : BitVec 6} {x1 : BitVec 6} {x2 : BitVec 6} {x3 : BitVec 2} {x4 : BitVec 4} {w v c0 c1 : Nat}
    (hw : w = v + put x0 26 + put x1 20 + put x2 14 + put x3 12 + put x4 8)
    (hv : v = c0 * 1 + c1 * 4)
    (hc0 : c0 < 4) (hc1 : c1 < 64) :
    w < 4294967296 ∧ w % 4 = c0 ∧ w / 4 % 64 = c1 ∧ fld w 26 6 = x0 ∧ fld w 20 6 = x1 ∧ fld w 14 6 = x2 ∧ fld w 12 2 = x3 ∧ fld w 8 4 = x4 := by
  have := x0.isLt; have := x1.isLt; have := x2.isLt; have := x3.isLt; have := x4.isLt
  simp only [put, Nat.reducePow] at *
  and_intros <;> first | exact fld_of (by omega) | omega

theorem lay13 {x0 : BitVec 3} {x1 : BitVec 3} {x2 : BitVec 6} {x3 : BitVec 6} {x4 : BitVec 2} {x5 : BitVec 4} {w v c0 c1 : Nat}
    (hw : w = v + put x0 29 + put x1 26 + put x2 20 + put x3 14 + put x4 12 + put x5 8)
    (hv : v = c0 * 1 + c1 * 4)
    (hc0 : c0 < 4) (hc1 : c1 < 64) :
    w < 4294967296 ∧ w % 4 = c0 ∧ w / 4 % 64 = c1 ∧ fld w 29 3 = x0 ∧ fld w 26 3 = x1 ∧ fld w 20 6 = x2 ∧ fld w 14 6 = x3 ∧ fld w 12 2 = x4 ∧ fld w 8 4 = x5 := by
  have := x0.isLt; have := x1.isLt; have := x2.isLt; have := x3.isLt; have := x4.isLt; have := x5.isLt
  simp only [put, Nat.reducePow] at *
  and_intros <;> first | exact fld_of (by omega) | omega

theorem lay14 {x0 : BitVec 6} {x1 : BitVec 6} {x2 : BitVec 2} {x3 : BitVec 4} {w v c0 c1 c2 : Nat}
    (hw : w = v + put x0 26 + put x1 20 + put x2 12 + put x3 8)
    (hv : v = c0 * 1 + c1 * 4 + c2 * 16384)
    (hc0 : c0 < 4) (hc1 : c1 < 64) (hc2 : c2 < 64) :
    w < 4294967296 ∧ w % 4 = c0 ∧ w / 4 % 64 = c1 ∧ w / 16384 % 64 = c2 ∧ fld w 26 6 = x0 ∧ fld w 20 6 = x1 ∧ fld w 12 2 = x2 ∧ fld w 8 4 = x3 := by
  have := x0.isLt; have := x1.isLt; have := x2.isLt; have := x3.isLt
  simp only [put, Nat.reducePow] at *
  and_intros <;> first | exact fld_of (by omega) | omega

theorem lay15 {x0 : BitVec 6} {x1 : BitVec 3} {x2 : BitVec 4} {w v c0 c1 c2 c3 : Nat}
    (hw : w = v + put x0 26 + put x1 20 + put x2 8)
    (hv : v = c0 * 1 + c1 * 4 + c2 * 4096 + c3 * 8388608)
    (hc0 : c0 < 4) (hc1 : c1 < 64) (hc2 : c2 < 256) (hc3 : c3 < 8) :
    w < 4294967296 ∧ w % 4 = c0 ∧ w / 4 % 64 = c1 ∧ w / 4096 % 256 = c2 ∧ w / 8388608 % 8 = c3 ∧ fld w 26 6 = x0 ∧ fld w 20 3 = x1 ∧ fld w 8 4 = x2 := by
  have := x0.isLt; have := x1.isLt; have := x2.isLt
  simp only [put, Nat.reducePow] at *
  and_intros <;> first | exact fld_of (by omega) | omega

theorem lay16 {x0 : BitVec 3} {x1 : BitVec 3} {x2 : BitVec 3} {x3 : BitVec 4} {w v c0 c1 c2 c3 c4 c5 : Nat}
    (hw : w = v + put x0 26 + put x1 20 + put x2 14 + put x3 8)
    (hv : v = c0 * 1 + c1 * 4 + c2 * 4096 + c3 * 131072 + c4 * 8388608 + c5 * 536870912)
    (hc0 : c0 < 4) (hc1 : c1 < 64) (hc2 : c2 < 4) (hc3 : c3 < 8) (hc4 : c4 < 8) (hc5 : c5 < 8) :
    w < 4294967296 ∧ w % 4 = c0 ∧ w / 4 % 64 = c1 ∧ w / 4096 % 4 = c2 ∧ w / 131072 % 8 = c3 ∧ w / 8388608 % 8 = c4 ∧ w / 536870912 % 8 = c5 ∧ fld w 26 3 = x0 ∧ fld w 20 3 = x1 ∧ fld w 14 3 = x2 ∧ fld w 8 4 = x3 := by
  have := x0.isLt; have := x1.isLt; have := x2.isLt; have := x3.isLt
  simp only [put, Nat.reducePow] at *
  and_intros <;> first | exact fld_of (by omega) | omega

theorem lay17 {x0 : BitVec 2} {x1 : BitVec 4} {w v c0 c1 c2 : Nat}
    (hw : w = v + put x0 12 + put x1 8)
    (hv : v = c0 * 1 + c1 * 4 + c2 * 16384)
    (hc0 : c0 < 4) (hc1 : c1 < 64) (hc2 : c2 < 262144) :
    w < 4294967296 ∧ w % 4 = c0 ∧ w / 4 % 64 = c1 ∧ w / 16384 % 262144 = c2 ∧ fld w 12 2 = x0 ∧ fld w 8 4 = x1 := by
  have := x0.isLt; have := x1.isLt
  simp only [put, Nat.reducePow] at *
  and_intros <;> first | exact fld_of (by omega) | omega

theorem lay18 {x0 : BitVec 6} {x1 : BitVec 6} {x2 : BitVec 4} {w v c0 c1 c2 c3 : Nat}
    (hw : w = v + put x0 20 + put x1 14 + put x2 8)
    (hv : v = c0 * 1 + c1 * 4 + c2 * 4096 + c3 * 67108864)
    (hc0 : c0 < 4) (hc1 : c1 < 64) (hc2 : c2 < 4) (hc3 : c3 < 64) :
    w < 4294967296 ∧ w % 4 = c0 ∧ w / 4 % 64 = c1 ∧ w / 4096 % 4 = c2 ∧ w / 67108864 % 64 = c3 ∧ fld w 20 6 = x0 ∧ fld w 14 6 = x1 ∧ fld w 8 4 = x2 := by
  have := x0.isLt; have := x1.isLt; have := x2.isLt
  simp only [put, Nat.reducePow] at *
  and_intros <;> first | exact fld_of (by omega) | omega

theorem lay19 {x0 : BitVec 6} {x1 : BitVec 6} {x2 : BitVec 1} {x3 : BitVec 4} {w v c0 c1 c2 c3 : Nat}
    (hw : w = v + put x0 26 + put x1 20 + put x2 14 + put x3 8)
    (hv : v = c0 * 1 + c1 * 4 + c2 * 4096 + c3 * 32768)
    (hc0 : c0 < 4) (hc1 : c1 < 64) (hc2 : c2 < 4) (hc3 : c3 < 32) :
    w < 4294967296 ∧ w % 4 = c0 ∧ w / 4 % 64 = c1 ∧ w / 4096 % 4 = c2 ∧ w / 32768 % 32 = c3 ∧ fld w 26 6 = x0 ∧ fld w 20 6 = x1 ∧ fld w 14 1 = x2 ∧ fld w 8 4 = x3 := by
  have := x0.isLt; have := x1.isLt; have := x2.isLt; have := x3.isLt
  simp only [put, Nat.reducePow] at *
  and_intros <;> first | exact fld_of (by omega) | omega

theorem lay20 {x0 : BitVec 3} {x1 : BitVec 3} {x2 : BitVec 1} {x3 : BitVec 1} {x4 : BitVec 4} {x5 : BitVec 1} {x6 : BitVec 1} {x7 : BitVec 4} {x8 : BitVec 4} {w v c0 c1 c2 : Nat}
    (hw : w = v + put x0 29 + put x1 26 + put x2 25 + put x3 24 + put x4 20 + put x5 19 + put x6 18 + put x7 14 + put x8 8)
    (hv : v = c0 * 1 + c1 * 4 + c2 * 4096)
    (hc0 : c0 < 4) (hc1 : c1 < 64) (hc2 : c2 < 4) :
    w < 4294967296 ∧ w % 4 = c0 ∧ w / 4 % 64 = c1 ∧ w / 4096 % 4 = c2 ∧ fld w 29 3 = x0 ∧ fld w 26 3 = x1 ∧ fld w 25 1 = x2 ∧ fld w 24 1 = x3 ∧ fld w 20 4 = x4 ∧ fld w 19 1 = x5 ∧ fld w 18 1 = x6 ∧ fld w 14 4 = x7 ∧ fld w 8 4 = x8 := by
  have := x0.isLt; have := x1.isLt; have := x2.isLt; have := x3.isLt; have := x4.isLt; have := x5.isLt; have := x6.isLt; have := x7.isLt; have := x8.isLt
  simp only [put, Nat.reducePow] at *
  and_intros <;> first | exact fld_of (by omega) | omega

theorem lay21 {x0 : BitVec 1} {x1 : BitVec 3} {x2 : BitVec 4} {x3 : BitVec 1} {x4 : BitVec 5} {x5 : BitVec 4} {w v c0 c1 c2 c3 c4 : Nat}
    (hw : w = v + put x0 29 + put x1 26 + put x2 20 + put x3 19 + put x4 14 + put x5 8)
    (hv : v = c0 * 1 + c1 * 4 + c2 * 4096 + c3 * 16777216 + c4 * 1073741824)
    (hc0 : c0 < 4) (hc1 : c1 < 64) (hc2 : c2 < 4) (hc3 : c3 < 4) (hc4 : c4 < 4) :
    w < 4294967296 ∧ w % 4 = c0 ∧ w / 4 % 64 = c1 ∧ w / 4096 % 4 = c2 ∧ w / 16777216 % 4 = c3 ∧ w / 1073741824 % 4 = c4 ∧ fld w 29 1 = x0 ∧ fld w 26 3 = x1 ∧ fld w 20 4 = x2 ∧ fld w 19 1 = x3 ∧ fld w 14 5 = x4 ∧ fld w 8 4 = x5 := by
  have := x0.isLt; have := x1.isLt; have := x2.isLt; have := x3.isLt; have := x4.isLt; have := x5.isLt
  simp only [put, Nat.reducePow] at *
  and_intros <;> first | exact fld_of (by omega) | omega

theorem lay22 {x0 : BitVec 6} {x1 : BitVec 6} {x2 : BitVec 3} {x3 : BitVec 4} {w v c0 c1 c2 c3 : Nat}
    (hw : w = v + put x0 26 + put x1 20 + put x2 14 + put x3 8)
    (hv : v = c0 * 1 + c1 * 4 + c2 * 4096 + c3 * 131072)
    (hc0 : c0 < 4) (hc1 : c1 < 64) (hc2 : c2 < 4) (hc3 : c3 < 8) :
    w < 4294967296 ∧ w % 4 = c0 ∧ w / 4 % 64 = c1 ∧ w / 4096 % 4 = c2 ∧ w / 131072 % 8 = c3 ∧ fld w 26 6 = x0 ∧ fld w 20 6 = x1 ∧ fld w 14 3 = x2 ∧ fld w 8 4 = x3 := by
  have := x0.isLt; have := x1.isLt; have := x2.isLt; have := x3.isLt
  simp only [put, Nat.reducePow] at *
  and_intros <;> first | exact fld_of (by omega) | omega

theorem lay23 {x0 : BitVec 3} {x1 : BitVec 3} {x2 : BitVec 1} {x3 : BitVec 1} {x4 : BitVec 4} {x5 : BitVec 4} {w v c0 c1 c2 c3 : Nat}
    (hw : w = v + put x0 29 + put x1 26 + put x2 25 + put x3 24 + put x4 18 + put x5 8)
    (hv : v = c0 * 1 + c1 * 4 + c2 * 4096 + c3 * 4194304)
    (hc0 : c0 < 4) (hc1 : c1 < 64) (hc2 : c2 < 64) (hc3 : c3 < 4) :
    w < 4294967296 ∧ w % 4 = c0 ∧ w / 4 % 64 = c1 ∧ w / 4096 % 64 = c2 ∧ w / 4194304 % 4 = c3 ∧ fld w 29 3 = x0 ∧ fld w 26 3 = x1 ∧ fld w 25 1 = x2 ∧ fld w 24 1 = x3 ∧ fld w 18 4 = x4 ∧ fld w 8 4 = x5 := by
  have := x0.isLt; have := x1.isLt; have := x2.isLt; have := x3.isLt; have := x4.isLt; have := x5.isLt
  simp only [put, Nat.reducePow] at *
  and_intros <;> first | exact fld_of (by omega) | omega

theorem lay24 {x0 : BitVec 2} {x1 : BitVec 2} {x2 : BitVec 5} {x3 : BitVec 5} {x4 : BitVec 4} {x5 : BitVec 4} {w v c0 c1 c2 : Nat}
    (hw : w = v + put x0 30 + put x1 28 + put x2 23 + put x3 18 + put x4 14 + put x5 8)
    (hv : v = c0 * 1 + c1 * 4 + c2 * 4096)
    (hc0 : c0 < 4) (hc1 : c1 < 64) (hc2 : c2 < 4) :
    w < 4294967296 ∧ w % 4 = c0 ∧ w / 4 % 64 = c1 ∧ w / 4096 % 4 = c2 ∧ fld w 30 2 = x0 ∧ fld w 28 2 = x1 ∧ fld w 23 5 = x2 ∧ fld w 18 5 = x3 ∧ fld w 14 4 = x4 ∧ fld w 8 4 = x5 := by
  have := x0.isLt; have := x1.isLt; have := x2.isLt; have := x3.isLt; have := x4.isLt; have := x5.isLt
  simp only [put, Nat.reducePow] at *
  and_intros <;> first | exact fld_of (by omega) | omega

theorem lay25 {x0 : BitVec 6} {x1 : BitVec 6} {x2 : BitVec 2} {x3 : BitVec 4} {w v c0 c1 c2 c3 : Nat}
    (hw : w = v + put x0 26 + put x1 20 + put x2 14 + put x3 8)
    (hv : v = c0 * 1 + c1 * 4 + c2 * 4096 + c3 * 65536)
    (hc0 : c0 < 4) (hc1 : c1 < 64) (hc2 : c2 < 4) (hc3 : c3 < 16) :
    w < 4294967296 ∧ w % 4 = c0 ∧ w / 4 % 64 = c1 ∧ w / 4096 % 4 = c2 ∧ w / 65536 % 16 = c3 ∧ fld w 26 6 = x0 ∧ fld w 20 6 = x1 ∧ fld w 14 2 = x2 ∧ fld w 8 4 = x3 := by
  have := x0.isLt; have := x1.isLt; have := x2.isLt; have := x3.isLt
  simp only [put, Nat.reducePow] at *
  and_intros <;> first | exact fld_of (by omega) | omega

theorem lay26 {x0 : BitVec 4} {x1 : BitVec 4} {x2 : BitVec 1} {w v c0 c1 : Nat}
    (hw : w = v + put x0 7 + put x1 3 + put x2 2)
    (hv : v = c0 * 1 + c1 * 2048)
    (hc0 : c0 < 4) (hc1 : c1 < 32) :
    w < 65536 ∧ w % 4 = c0 ∧ w / 2048 % 32 = c1 ∧ fld w 7 4 = x0 ∧ fld w 3 4 = x1 ∧ fld w 2 1 = x2 := by
  have := x0.isLt; have := x1.isLt; have := x2.isLt
  simp only [put, Nat.reducePow] at *
  and_intros <;> first | exact fld_of (by omega) | omega

theorem lay27 {x0 : BitVec 4} {x1 : BitVec 4} {w v c0 c1 c2 : Nat}
    (hw : w = v + put x0 7 + put x1 3)
    (hv : v = c0 * 1 + c1 * 4 + c2 * 2048)
    (hc0 : c0 < 4) (hc1 : c1 < 2) (hc2 : c2 < 32) :
    w < 65536 ∧ w % 4 = c0 ∧ w / 4 % 2 = c1 ∧ w / 2048 % 32 = c2 ∧ fld w 7 4 = x0 ∧ fld w 3 4 = x1 := by
  have := x0.isLt; have := x1.isLt
  simp only [put, Nat.reducePow] at *
  and_intros <;> first | exact fld_of (by omega) | omega

theorem lay28 {x0 : BitVec 4} {x1 : BitVec 6} {w v c0 c1 : Nat}
    (hw : w = v + put x0 8 + put x1 2)
    (hv : v = c0 * 1 + c1 * 4096)
    (hc0 : c0 < 4) (hc1 : c1 < 16) :
    w < 65536 ∧ w % 4 = c0 ∧ w / 4096 % 16 = c1 ∧ fld w 8 4 = x0 ∧ fld w 2 6 = x1 := by
  have := x0.isLt; have := x1.isLt
  simp only [put, Nat.reducePow] at *
  and_intros <;> first | exact fld_of (by omega) | omega

theorem lay29 {x0 : BitVec 4} {w v c0 c1 c2 : Nat}
    (hw : w = v + put x0 4)
    (hv : v = c0 * 1 + c1 * 4 + c2 * 256)
    (hc0 : c0 < 4) (hc1 : c1 < 4) (hc2 : c2 < 256) :
    w < 65536 ∧ w % 4 = c0 ∧ w / 4 % 4 = c1 ∧ w / 256 % 256 = c2 ∧ fld w 4 4 = x0 := by
  have := x0.isLt
  simp only [put, Nat.reducePow] at *
  and_intros <;> first | exact fld_of (by omega) | omega

theorem lay30 {x0 : BitVec 12} {w v c0 c1 : Nat}
    (hw : w = v + put x0 4)
    (hv : v = c0 * 1 + c1 * 4)
    (hc0 : c0 < 4) (hc1 : c1 < 4) :
    w < 65536 ∧ w % 4 = c0 ∧ w / 4 % 4 = c1 ∧ fld w 4 12 = x0 := by
  have := x0.isLt
  simp only [put, Nat.reducePow] at *
  and_intros <;> first | exact fld_of (by omega) | omega

theorem lay31 {x0 : BitVec 1} {x1 : BitVec 2} {x2 : BitVec 2} {x3 : BitVec 2} {w v c0 c1 c2 : Nat}
    (hw : w = v + put x0 10 + put x1 8 + put x2 6 + put x3 4)
    (hv : v = c0 * 1 + c1 * 4 + c2 * 2048)
    (hc0 : c0 < 4) (hc1 : c1 < 4) (hc2 : c2 < 32) :
    w < 65536 ∧ w % 4 = c0 ∧ w / 4 % 4 = c1 ∧ w / 2048 % 32 = c2 ∧ fld w 10 1 = x0 ∧ fld w 8 2 = x1 ∧ fld w 6 2 = x2 ∧ fld w 4 2 = x3 := by
  have := x0.isLt; have := x1.isLt; have := x2.isLt; have := x3.isLt
  simp only [put, Nat.reducePow] at *
  and_intros <;> first | exact fld_of (by omega) | omega

/-! The instructions. -/

theorem br (o : BitVec 14) (g : BitVec 4) : Statement (.br o g) :=
  of_long (0x3 + put o 12 + put g 8) rfl fun hwf ww hw => by
    obtain ⟨hl, f0, f1, f2, e0, e1⟩ := lay0 (c0 := 3) (c1 := 0) (c2 := 0) hw rfl (by decide) (by decide) (by decide)
    exact ⟨hl, f0, no_port f1 (by decide), (row_00 f1).trans (by simp [decodeMaj00, fixedAt, f2, e0, e1])⟩

theorem bz (c : BitVec 6) (o : BitVec 14) (g : BitVec 4) : Statement (.bz c o g) :=
  of_long (0x7 + put c 26 + put o 12 + put g 8) rfl fun hwf ww hw => by
    obtain ⟨hl, f0, f1, e0, e1, e2⟩ := lay1 (c0 := 3) (c1 := 1) hw rfl (by decide) (by decide)
    exact ⟨hl, f0, no_port f1 (by decide), (row_01 f1).trans (by simp [decodeMaj01, e0, e1, e2])⟩

theorem bnz (c : BitVec 6) (o : BitVec 14) (g : BitVec 4) : Statement (.bnz c o g) :=
  of_long (0xb + put c 26 + put o 12 + put g 8) rfl fun hwf ww hw => by
    obtain ⟨hl, f0, f1, e0, e1, e2⟩ := lay1 (c0 := 3) (c1 := 2) hw rfl (by decide) (by decide)
    exact ⟨hl, f0, no_port f1 (by decide), (row_02 f1).trans (by simp [decodeMaj02, e0, e1, e2])⟩

theorem bp (p : BitVec 3) (o : BitVec 14) (g : BitVec 4) : Statement (.bp p o g) :=
  of_long (0xf + put p 26 + put o 12 + put g 8) rfl fun hwf ww hw => by
    obtain ⟨hl, f0, f1, f2, e0, e1, e2⟩ := lay2 (c0 := 3) (c1 := 3) (c2 := 0) hw rfl (by decide) (by decide) (by decide)
    exact ⟨hl, f0, no_port f1 (by decide), (row_03 f1).trans (by simp [decodeMaj03, fixedAt, f2, e0, e1, e2])⟩

theorem bnp (p : BitVec 3) (o : BitVec 14) (g : BitVec 4) : Statement (.bnp p o g) :=
  of_long (0x13 + put p 26 + put o 12 + put g 8) rfl fun hwf ww hw => by
    obtain ⟨hl, f0, f1, f2, e0, e1, e2⟩ := lay2 (c0 := 3) (c1 := 4) (c2 := 0) hw rfl (by decide) (by decide) (by decide)
    exact ⟨hl, f0, no_port f1 (by decide), (row_04 f1).trans (by simp [decodeMaj04, fixedAt, f2, e0, e1, e2])⟩

theorem loop (c : BitVec 6) (o : BitVec 14) (g : BitVec 4) : Statement (.loop c o g) :=
  of_long (0x17 + put c 26 + put o 12 + put g 8) rfl fun hwf ww hw => by
    obtain ⟨hl, f0, f1, e0, e1, e2⟩ := lay1 (c0 := 3) (c1 := 5) hw rfl (by decide) (by decide)
    exact ⟨hl, f0, no_port f1 (by decide), (row_05 f1).trans (by simp [decodeMaj05, e0, e1, e2])⟩

theorem call (c : BitVec 6) (o : BitVec 14) (g : BitVec 4) : Statement (.call c o g) :=
  of_long (0x1b + put c 26 + put o 12 + put g 8) rfl fun hwf ww hw => by
    obtain ⟨hl, f0, f1, e0, e1, e2⟩ := lay1 (c0 := 3) (c1 := 6) hw rfl (by decide) (by decide)
    exact ⟨hl, f0, no_port f1 (by decide), (row_06 f1).trans (by simp [decodeMaj06, e0, e1, e2])⟩

theorem nop (g : BitVec 4) : Statement (.nop g) :=
  of_long (0x1f + put g 8) rfl fun hwf ww hw => by
    obtain ⟨hl, f0, f1, f2, e0⟩ := lay3 (c0 := 3) (c1 := 7) (c2 := 0) hw rfl (by decide) (by decide) (by decide)
    exact ⟨hl, f0, no_port f1 (by decide), (row_07 f1).trans (by simp [decodeMaj07, fixedAt, f2, e0])⟩

theorem halt (g : BitVec 4) : Statement (.halt g) :=
  of_long (0x101f + put g 8) rfl fun hwf ww hw => by
    obtain ⟨hl, f0, f1, f2, e0⟩ := lay3 (c0 := 3) (c1 := 7) (c2 := 1) hw rfl (by decide) (by decide) (by decide)
    exact ⟨hl, f0, no_port f1 (by decide), (row_07 f1).trans (by simp [decodeMaj07, fixedAt, f2, e0])⟩

theorem rdv (g : BitVec 4) : Statement (.rdv g) :=
  of_long (0x201f + put g 8) rfl fun hwf ww hw => by
    obtain ⟨hl, f0, f1, f2, e0⟩ := lay3 (c0 := 3) (c1 := 7) (c2 := 2) hw rfl (by decide) (by decide) (by decide)
    exact ⟨hl, f0, no_port f1 (by decide), (row_07 f1).trans (by simp [decodeMaj07, fixedAt, f2, e0])⟩

theorem yield (g : BitVec 4) : Statement (.yield g) :=
  of_long (0x301f + put g 8) rfl fun hwf ww hw => by
    obtain ⟨hl, f0, f1, f2, e0⟩ := lay3 (c0 := 3) (c1 := 7) (c2 := 3) hw rfl (by decide) (by decide) (by decide)
    exact ⟨hl, f0, no_port f1 (by decide), (row_07 f1).trans (by simp [decodeMaj07, fixedAt, f2, e0])⟩

theorem wait (k : BitVec 3) (a : BitVec 6) (g : BitVec 4) : Statement (.wait k a g) :=
  of_long (0x401f + put k 26 + put a 20 + put g 8) rfl fun hwf ww hw => by
    obtain ⟨hl, f0, f1, f2, f3, e0, e1, e2⟩ := lay4 (c0 := 3) (c1 := 7) (c2 := 4) (c3 := 0) hw rfl (by decide) (by decide) (by decide) (by decide)
    have k0 : ww / 4096 % 1048576 ≠ 0 := by clear hw e0 e1 e2; omega
    have k1 : ww / 4096 % 1048576 ≠ 1 := by clear hw e0 e1 e2; omega
    have k2 : ww / 4096 % 1048576 ≠ 2 := by clear hw e0 e1 e2; omega
    have k3 : ww / 4096 % 1048576 ≠ 3 := by clear hw e0 e1 e2; omega
    exact ⟨hl, f0, no_port f1 (by decide), (row_07 f1).trans (by simp [decodeMaj07, fixedAt, f2, f3, k0, k1, k2, k3, e0, e1, e2])⟩

theorem jr (a : BitVec 6) (g : BitVec 4) : Statement (.jr a g) :=
  of_long (0x501f + put a 20 + put g 8) rfl fun hwf ww hw => by
    obtain ⟨hl, f0, f1, f2, f3, e0, e1⟩ := lay5 (c0 := 3) (c1 := 7) (c2 := 5) (c3 := 0) hw rfl (by decide) (by decide) (by decide) (by decide)
    have k0 : ww / 4096 % 1048576 ≠ 0 := by clear hw e0 e1; omega
    have k1 : ww / 4096 % 1048576 ≠ 1 := by clear hw e0 e1; omega
    have k2 : ww / 4096 % 1048576 ≠ 2 := by clear hw e0 e1; omega
    have k3 : ww / 4096 % 1048576 ≠ 3 := by clear hw e0 e1; omega
    have k4 : ww / 536870912 % 8 = 0 := by clear hw e0 e1; omega
    exact ⟨hl, f0, no_port f1 (by decide), (row_07 f1).trans (by simp [decodeMaj07, fixedAt, f2, f3, k0, k1, k2, k3, k4, e0, e1])⟩

theorem trap (n : BitVec 6) (g : BitVec 4) : Statement (.trap n g) :=
  of_long (0x601f + put n 26 + put g 8) rfl fun hwf ww hw => by
    obtain ⟨hl, f0, f1, f2, e0, e1⟩ := lay6 (c0 := 3) (c1 := 7) (c2 := 6) hw rfl (by decide) (by decide) (by decide)
    have k0 : ww / 4096 % 1048576 ≠ 0 := by clear hw e0 e1; omega
    have k1 : ww / 4096 % 1048576 ≠ 1 := by clear hw e0 e1; omega
    have k2 : ww / 4096 % 1048576 ≠ 2 := by clear hw e0 e1; omega
    have k3 : ww / 4096 % 1048576 ≠ 3 := by clear hw e0 e1; omega
    have k4 : ww / 4096 % 256 = 6 := by clear hw e0 e1; omega
    exact ⟨hl, f0, no_port f1 (by decide), (row_07 f1).trans (by simp [decodeMaj07, fixedAt, f2, k0, k1, k2, k3, k4, e0, e1])⟩

theorem eret (g : BitVec 4) : Statement (.eret g) :=
  of_long (0x701f + put g 8) rfl fun hwf ww hw => by
    obtain ⟨hl, f0, f1, f2, e0⟩ := lay3 (c0 := 3) (c1 := 7) (c2 := 7) hw rfl (by decide) (by decide) (by decide)
    have k0 : ww / 4096 % 256 = 7 := by clear hw e0; omega
    have k1 : ww / 536870912 % 8 = 0 := by clear hw e0; omega
    have k2 : ww / 67108864 % 64 = 0 := by clear hw e0; omega
    have k3 : ww / 4096 % 16384 = 7 := by clear hw e0; omega
    exact ⟨hl, f0, no_port f1 (by decide), (row_07 f1).trans (by simp [decodeMaj07, fixedAt, f2, k0, k1, k2, k3, e0])⟩

theorem hold (n : BitVec 12) (g : BitVec 4) : Statement (.hold n g) :=
  of_long (0x801f + put n 20 + put g 8) rfl fun hwf ww hw => by
    obtain ⟨hl, f0, f1, f2, e0, e1⟩ := lay7 (c0 := 3) (c1 := 7) (c2 := 8) hw rfl (by decide) (by decide) (by decide)
    have k0 : ww / 4096 % 1048576 ≠ 0 := by clear hw e0 e1; omega
    have k1 : ww / 4096 % 1048576 ≠ 1 := by clear hw e0 e1; omega
    have k2 : ww / 4096 % 1048576 ≠ 2 := by clear hw e0 e1; omega
    have k3 : ww / 4096 % 1048576 ≠ 3 := by clear hw e0 e1; omega
    have k4 : ww / 4096 % 16384 ≠ 6 := by clear hw e0 e1; omega
    have k5 : ww / 4096 % 1048576 ≠ 7 := by clear hw e0 e1; omega
    exact ⟨hl, f0, no_port f1 (by decide), (row_07 f1).trans (by simp [decodeMaj07, fixedAt, f2, k0, k1, k2, k3, k4, k5, e0, e1])⟩

theorem unhold (g : BitVec 4) : Statement (.unhold g) :=
  of_long (0x901f + put g 8) rfl fun hwf ww hw => by
    obtain ⟨hl, f0, f1, f2, e0⟩ := lay3 (c0 := 3) (c1 := 7) (c2 := 9) hw rfl (by decide) (by decide) (by decide)
    have k0 : ww / 4096 % 256 = 9 := by clear hw e0; omega
    have k1 : ww / 536870912 % 8 = 0 := by clear hw e0; omega
    have k2 : ww / 67108864 % 64 = 0 := by clear hw e0; omega
    have k3 : ww / 4096 % 16384 = 9 := by clear hw e0; omega
    exact ⟨hl, f0, no_port f1 (by decide), (row_07 f1).trans (by simp [decodeMaj07, fixedAt, f2, k0, k1, k2, k3, e0])⟩

theorem srd (d : BitVec 6) (r : BitVec 6) (g : BitVec 4) : Statement (.srd d r g) :=
  of_long (0xa01f + put d 26 + put r 20 + put g 8) rfl fun hwf ww hw => by
    obtain ⟨hl, f0, f1, f2, e0, e1, e2⟩ := lay8 (c0 := 3) (c1 := 7) (c2 := 10) hw rfl (by decide) (by decide) (by decide)
    have k0 : ww / 4096 % 1048576 ≠ 0 := by clear hw e0 e1 e2; omega
    have k1 : ww / 4096 % 1048576 ≠ 1 := by clear hw e0 e1 e2; omega
    have k2 : ww / 4096 % 1048576 ≠ 2 := by clear hw e0 e1 e2; omega
    have k3 : ww / 4096 % 1048576 ≠ 3 := by clear hw e0 e1 e2; omega
    have k4 : ww / 4096 % 16384 ≠ 6 := by clear hw e0 e1 e2; omega
    have k5 : ww / 4096 % 1048576 ≠ 7 := by clear hw e0 e1 e2; omega
    have k6 : ww / 4096 % 1048576 ≠ 9 := by clear hw e0 e1 e2; omega
    exact ⟨hl, f0, no_port f1 (by decide), (row_07 f1).trans (by simp [decodeMaj07, fixedAt, f2, k0, k1, k2, k3, k4, k5, k6, e0, e1, e2])⟩

theorem swr (r : BitVec 6) (a : BitVec 6) (g : BitVec 4) : Statement (.swr r a g) :=
  of_long (0xb01f + put r 26 + put a 20 + put g 8) rfl fun hwf ww hw => by
    obtain ⟨hl, f0, f1, f2, e0, e1, e2⟩ := lay8 (c0 := 3) (c1 := 7) (c2 := 11) hw rfl (by decide) (by decide) (by decide)
    have k0 : ww / 4096 % 1048576 ≠ 0 := by clear hw e0 e1 e2; omega
    have k1 : ww / 4096 % 1048576 ≠ 1 := by clear hw e0 e1 e2; omega
    have k2 : ww / 4096 % 1048576 ≠ 2 := by clear hw e0 e1 e2; omega
    have k3 : ww / 4096 % 1048576 ≠ 3 := by clear hw e0 e1 e2; omega
    have k4 : ww / 4096 % 16384 ≠ 6 := by clear hw e0 e1 e2; omega
    have k5 : ww / 4096 % 1048576 ≠ 7 := by clear hw e0 e1 e2; omega
    have k6 : ww / 4096 % 1048576 ≠ 9 := by clear hw e0 e1 e2; omega
    exact ⟨hl, f0, no_port f1 (by decide), (row_07 f1).trans (by simp [decodeMaj07, fixedAt, f2, k0, k1, k2, k3, k4, k5, k6, e0, e1, e2])⟩

theorem prof (k : BitVec 6) (a : BitVec 6) (g : BitVec 4) : Statement (.prof k a g) :=
  of_long (0xc01f + put k 26 + put a 20 + put g 8) rfl fun hwf ww hw => by
    obtain ⟨hl, f0, f1, f2, e0, e1, e2⟩ := lay8 (c0 := 3) (c1 := 7) (c2 := 12) hw rfl (by decide) (by decide) (by decide)
    have k0 : ww / 4096 % 1048576 ≠ 0 := by clear hw e0 e1 e2; omega
    have k1 : ww / 4096 % 1048576 ≠ 1 := by clear hw e0 e1 e2; omega
    have k2 : ww / 4096 % 1048576 ≠ 2 := by clear hw e0 e1 e2; omega
    have k3 : ww / 4096 % 1048576 ≠ 3 := by clear hw e0 e1 e2; omega
    have k4 : ww / 4096 % 16384 ≠ 6 := by clear hw e0 e1 e2; omega
    have k5 : ww / 4096 % 1048576 ≠ 7 := by clear hw e0 e1 e2; omega
    have k6 : ww / 4096 % 1048576 ≠ 9 := by clear hw e0 e1 e2; omega
    exact ⟨hl, f0, no_port f1 (by decide), (row_07 f1).trans (by simp [decodeMaj07, fixedAt, f2, k0, k1, k2, k3, k4, k5, k6, e0, e1, e2])⟩

theorem rdtime (d : BitVec 6) (g : BitVec 4) : Statement (.rdtime d g) :=
  of_long (0xd01f + put d 26 + put g 8) rfl fun hwf ww hw => by
    obtain ⟨hl, f0, f1, f2, e0, e1⟩ := lay6 (c0 := 3) (c1 := 7) (c2 := 13) hw rfl (by decide) (by decide) (by decide)
    have k0 : ww / 4096 % 1048576 ≠ 0 := by clear hw e0 e1; omega
    have k1 : ww / 4096 % 1048576 ≠ 1 := by clear hw e0 e1; omega
    have k2 : ww / 4096 % 1048576 ≠ 2 := by clear hw e0 e1; omega
    have k3 : ww / 4096 % 1048576 ≠ 3 := by clear hw e0 e1; omega
    have k4 : ww / 4096 % 256 = 13 := by clear hw e0 e1; omega
    have k5 : ww / 4096 % 1048576 ≠ 7 := by clear hw e0 e1; omega
    have k6 : ww / 4096 % 1048576 ≠ 9 := by clear hw e0 e1; omega
    exact ⟨hl, f0, no_port f1 (by decide), (row_07 f1).trans (by simp [decodeMaj07, fixedAt, f2, k0, k1, k2, k3, k4, k5, k6, e0, e1])⟩

theorem rdcyc (d : BitVec 6) (g : BitVec 4) : Statement (.rdcyc d g) :=
  of_long (0xe01f + put d 26 + put g 8) rfl fun hwf ww hw => by
    obtain ⟨hl, f0, f1, f2, e0, e1⟩ := lay6 (c0 := 3) (c1 := 7) (c2 := 14) hw rfl (by decide) (by decide) (by decide)
    have k0 : ww / 4096 % 1048576 ≠ 0 := by clear hw e0 e1; omega
    have k1 : ww / 4096 % 1048576 ≠ 1 := by clear hw e0 e1; omega
    have k2 : ww / 4096 % 1048576 ≠ 2 := by clear hw e0 e1; omega
    have k3 : ww / 4096 % 1048576 ≠ 3 := by clear hw e0 e1; omega
    have k4 : ww / 4096 % 256 = 14 := by clear hw e0 e1; omega
    have k5 : ww / 4096 % 1048576 ≠ 7 := by clear hw e0 e1; omega
    have k6 : ww / 4096 % 1048576 ≠ 9 := by clear hw e0 e1; omega
    exact ⟨hl, f0, no_port f1 (by decide), (row_07 f1).trans (by simp [decodeMaj07, fixedAt, f2, k0, k1, k2, k3, k4, k5, k6, e0, e1])⟩

theorem exit (g : BitVec 4) : Statement (.exit g) :=
  of_long (0xf01f + put g 8) rfl fun hwf ww hw => by
    obtain ⟨hl, f0, f1, f2, e0⟩ := lay3 (c0 := 3) (c1 := 7) (c2 := 15) hw rfl (by decide) (by decide) (by decide)
    have k0 : ww / 4096 % 256 = 15 := by clear hw e0; omega
    have k1 : ww / 536870912 % 8 = 0 := by clear hw e0; omega
    have k2 : ww / 67108864 % 64 = 0 := by clear hw e0; omega
    have k3 : ww / 4096 % 16384 = 15 := by clear hw e0; omega
    exact ⟨hl, f0, no_port f1 (by decide), (row_07 f1).trans (by simp [decodeMaj07, fixedAt, f2, k0, k1, k2, k3, e0])⟩

theorem are (g : BitVec 4) : Statement (.are g) :=
  of_long (0x1001f + put g 8) rfl fun hwf ww hw => by
    obtain ⟨hl, f0, f1, f2, e0⟩ := lay3 (c0 := 3) (c1 := 7) (c2 := 16) hw rfl (by decide) (by decide) (by decide)
    have k0 : ww / 4096 % 256 = 16 := by clear hw e0; omega
    have k1 : ww / 536870912 % 8 = 0 := by clear hw e0; omega
    have k2 : ww / 67108864 % 64 = 0 := by clear hw e0; omega
    have k3 : ww / 4096 % 16384 = 16 := by clear hw e0; omega
    exact ⟨hl, f0, no_port f1 (by decide), (row_07 f1).trans (by simp [decodeMaj07, fixedAt, f2, k0, k1, k2, k3, e0])⟩

theorem arx (g : BitVec 4) : Statement (.arx g) :=
  of_long (0x1101f + put g 8) rfl fun hwf ww hw => by
    obtain ⟨hl, f0, f1, f2, e0⟩ := lay3 (c0 := 3) (c1 := 7) (c2 := 17) hw rfl (by decide) (by decide) (by decide)
    have k0 : ww / 4096 % 256 = 17 := by clear hw e0; omega
    have k1 : ww / 536870912 % 8 = 0 := by clear hw e0; omega
    have k2 : ww / 67108864 % 64 = 0 := by clear hw e0; omega
    have k3 : ww / 4096 % 16384 = 17 := by clear hw e0; omega
    exact ⟨hl, f0, no_port f1 (by decide), (row_07 f1).trans (by simp [decodeMaj07, fixedAt, f2, k0, k1, k2, k3, e0])⟩

theorem ret (a : BitVec 6) (g : BitVec 4) : Statement (.ret a g) :=
  of_long (0x1201f + put a 20 + put g 8) rfl fun hwf ww hw => by
    obtain ⟨hl, f0, f1, f2, f3, e0, e1⟩ := lay5 (c0 := 3) (c1 := 7) (c2 := 18) (c3 := 0) hw rfl (by decide) (by decide) (by decide) (by decide)
    have k0 : ww / 4096 % 1048576 ≠ 0 := by clear hw e0 e1; omega
    have k1 : ww / 4096 % 1048576 ≠ 1 := by clear hw e0 e1; omega
    have k2 : ww / 4096 % 1048576 ≠ 2 := by clear hw e0 e1; omega
    have k3 : ww / 4096 % 1048576 ≠ 3 := by clear hw e0 e1; omega
    have k4 : ww / 536870912 % 8 = 0 := by clear hw e0 e1; omega
    have k5 : ww / 4096 % 16384 ≠ 6 := by clear hw e0 e1; omega
    have k6 : ww / 4096 % 1048576 ≠ 7 := by clear hw e0 e1; omega
    have k7 : ww / 4096 % 1048576 ≠ 9 := by clear hw e0 e1; omega
    have k8 : ww / 4096 % 16384 ≠ 13 := by clear hw e0 e1; omega
    have k9 : ww / 4096 % 16384 ≠ 14 := by clear hw e0 e1; omega
    have k10 : ww / 4096 % 1048576 ≠ 15 := by clear hw e0 e1; omega
    have k11 : ww / 4096 % 1048576 ≠ 16 := by clear hw e0 e1; omega
    have k12 : ww / 4096 % 1048576 ≠ 17 := by clear hw e0 e1; omega
    exact ⟨hl, f0, no_port f1 (by decide), (row_07 f1).trans (by simp [decodeMaj07, fixedAt, f2, f3, k0, k1, k2, k3, k4, k5, k6, k7, k8, k9, k10, k11, k12, e0, e1])⟩

theorem qbind (d : BitVec 6) (a : BitVec 6) (g : BitVec 4) : Statement (.qbind d a g) :=
  of_long (0x1301f + put d 26 + put a 20 + put g 8) rfl fun hwf ww hw => by
    obtain ⟨hl, f0, f1, f2, e0, e1, e2⟩ := lay8 (c0 := 3) (c1 := 7) (c2 := 19) hw rfl (by decide) (by decide) (by decide)
    have k0 : ww / 4096 % 1048576 ≠ 0 := by clear hw e0 e1 e2; omega
    have k1 : ww / 4096 % 1048576 ≠ 1 := by clear hw e0 e1 e2; omega
    have k2 : ww / 4096 % 1048576 ≠ 2 := by clear hw e0 e1 e2; omega
    have k3 : ww / 4096 % 1048576 ≠ 3 := by clear hw e0 e1 e2; omega
    have k4 : ww / 4096 % 16384 ≠ 6 := by clear hw e0 e1 e2; omega
    have k5 : ww / 4096 % 1048576 ≠ 7 := by clear hw e0 e1 e2; omega
    have k6 : ww / 4096 % 1048576 ≠ 9 := by clear hw e0 e1 e2; omega
    have k7 : ww / 4096 % 16384 ≠ 13 := by clear hw e0 e1 e2; omega
    have k8 : ww / 4096 % 16384 ≠ 14 := by clear hw e0 e1 e2; omega
    have k9 : ww / 4096 % 1048576 ≠ 15 := by clear hw e0 e1 e2; omega
    have k10 : ww / 4096 % 1048576 ≠ 16 := by clear hw e0 e1 e2; omega
    have k11 : ww / 4096 % 1048576 ≠ 17 := by clear hw e0 e1 e2; omega
    exact ⟨hl, f0, no_port f1 (by decide), (row_07 f1).trans (by simp [decodeMaj07, fixedAt, f2, k0, k1, k2, k3, k4, k5, k6, k7, k8, k9, k10, k11, e0, e1, e2])⟩

theorem add (d : BitVec 6) (a : BitVec 6) (b : BitVec 6) (g : BitVec 4) : Statement (.add d a b g) :=
  of_long (0x23 + put d 26 + put a 20 + put b 14 + put g 8) rfl fun hwf ww hw => by
    obtain ⟨hl, f0, f1, f2, e0, e1, e2, e3⟩ := lay9 (c0 := 3) (c1 := 8) (c2 := 0) hw rfl (by decide) (by decide) (by decide)
    exact ⟨hl, f0, no_port f1 (by decide), (row_08 f1).trans (by simp [decodeMaj08, fixedAt, f2, e0, e1, e2, e3])⟩

theorem sub (d : BitVec 6) (a : BitVec 6) (b : BitVec 6) (g : BitVec 4) : Statement (.sub d a b g) :=
  of_long (0x1023 + put d 26 + put a 20 + put b 14 + put g 8) rfl fun hwf ww hw => by
    obtain ⟨hl, f0, f1, f2, e0, e1, e2, e3⟩ := lay9 (c0 := 3) (c1 := 8) (c2 := 1) hw rfl (by decide) (by decide) (by decide)
    exact ⟨hl, f0, no_port f1 (by decide), (row_08 f1).trans (by simp [decodeMaj08, fixedAt, f2, e0, e1, e2, e3])⟩

theorem and (d : BitVec 6) (a : BitVec 6) (b : BitVec 6) (g : BitVec 4) : Statement (.and d a b g) :=
  of_long (0x2023 + put d 26 + put a 20 + put b 14 + put g 8) rfl fun hwf ww hw => by
    obtain ⟨hl, f0, f1, f2, e0, e1, e2, e3⟩ := lay9 (c0 := 3) (c1 := 8) (c2 := 2) hw rfl (by decide) (by decide) (by decide)
    exact ⟨hl, f0, no_port f1 (by decide), (row_08 f1).trans (by simp [decodeMaj08, fixedAt, f2, e0, e1, e2, e3])⟩

theorem or (d : BitVec 6) (a : BitVec 6) (b : BitVec 6) (g : BitVec 4) : Statement (.or d a b g) :=
  of_long (0x3023 + put d 26 + put a 20 + put b 14 + put g 8) rfl fun hwf ww hw => by
    obtain ⟨hl, f0, f1, f2, e0, e1, e2, e3⟩ := lay9 (c0 := 3) (c1 := 8) (c2 := 3) hw rfl (by decide) (by decide) (by decide)
    exact ⟨hl, f0, no_port f1 (by decide), (row_08 f1).trans (by simp [decodeMaj08, fixedAt, f2, e0, e1, e2, e3])⟩

theorem xor (d : BitVec 6) (a : BitVec 6) (b : BitVec 6) (g : BitVec 4) : Statement (.xor d a b g) :=
  of_long (0x27 + put d 26 + put a 20 + put b 14 + put g 8) rfl fun hwf ww hw => by
    obtain ⟨hl, f0, f1, f2, e0, e1, e2, e3⟩ := lay9 (c0 := 3) (c1 := 9) (c2 := 0) hw rfl (by decide) (by decide) (by decide)
    exact ⟨hl, f0, no_port f1 (by decide), (row_09 f1).trans (by simp [decodeMaj09, fixedAt, f2, e0, e1, e2, e3])⟩

theorem shl (d : BitVec 6) (a : BitVec 6) (b : BitVec 6) (g : BitVec 4) : Statement (.shl d a b g) :=
  of_long (0x1027 + put d 26 + put a 20 + put b 14 + put g 8) rfl fun hwf ww hw => by
    obtain ⟨hl, f0, f1, f2, e0, e1, e2, e3⟩ := lay9 (c0 := 3) (c1 := 9) (c2 := 1) hw rfl (by decide) (by decide) (by decide)
    exact ⟨hl, f0, no_port f1 (by decide), (row_09 f1).trans (by simp [decodeMaj09, fixedAt, f2, e0, e1, e2, e3])⟩

theorem shr (d : BitVec 6) (a : BitVec 6) (b : BitVec 6) (g : BitVec 4) : Statement (.shr d a b g) :=
  of_long (0x2027 + put d 26 + put a 20 + put b 14 + put g 8) rfl fun hwf ww hw => by
    obtain ⟨hl, f0, f1, f2, e0, e1, e2, e3⟩ := lay9 (c0 := 3) (c1 := 9) (c2 := 2) hw rfl (by decide) (by decide) (by decide)
    exact ⟨hl, f0, no_port f1 (by decide), (row_09 f1).trans (by simp [decodeMaj09, fixedAt, f2, e0, e1, e2, e3])⟩

theorem sra (d : BitVec 6) (a : BitVec 6) (b : BitVec 6) (g : BitVec 4) : Statement (.sra d a b g) :=
  of_long (0x3027 + put d 26 + put a 20 + put b 14 + put g 8) rfl fun hwf ww hw => by
    obtain ⟨hl, f0, f1, f2, e0, e1, e2, e3⟩ := lay9 (c0 := 3) (c1 := 9) (c2 := 3) hw rfl (by decide) (by decide) (by decide)
    exact ⟨hl, f0, no_port f1 (by decide), (row_09 f1).trans (by simp [decodeMaj09, fixedAt, f2, e0, e1, e2, e3])⟩

theorem mul (d : BitVec 6) (a : BitVec 6) (b : BitVec 6) (g : BitVec 4) : Statement (.mul d a b g) :=
  of_long (0x2b + put d 26 + put a 20 + put b 14 + put g 8) rfl fun hwf ww hw => by
    obtain ⟨hl, f0, f1, f2, e0, e1, e2, e3⟩ := lay9 (c0 := 3) (c1 := 10) (c2 := 0) hw rfl (by decide) (by decide) (by decide)
    exact ⟨hl, f0, no_port f1 (by decide), (row_0A f1).trans (by simp [decodeMaj0A, fixedAt, f2, e0, e1, e2, e3])⟩

theorem mulh (d : BitVec 6) (a : BitVec 6) (b : BitVec 6) (g : BitVec 4) : Statement (.mulh d a b g) :=
  of_long (0x102b + put d 26 + put a 20 + put b 14 + put g 8) rfl fun hwf ww hw => by
    obtain ⟨hl, f0, f1, f2, e0, e1, e2, e3⟩ := lay9 (c0 := 3) (c1 := 10) (c2 := 1) hw rfl (by decide) (by decide) (by decide)
    exact ⟨hl, f0, no_port f1 (by decide), (row_0A f1).trans (by simp [decodeMaj0A, fixedAt, f2, e0, e1, e2, e3])⟩

theorem mulhu (d : BitVec 6) (a : BitVec 6) (b : BitVec 6) (g : BitVec 4) : Statement (.mulhu d a b g) :=
  of_long (0x202b + put d 26 + put a 20 + put b 14 + put g 8) rfl fun hwf ww hw => by
    obtain ⟨hl, f0, f1, f2, e0, e1, e2, e3⟩ := lay9 (c0 := 3) (c1 := 10) (c2 := 2) hw rfl (by decide) (by decide) (by decide)
    exact ⟨hl, f0, no_port f1 (by decide), (row_0A f1).trans (by simp [decodeMaj0A, fixedAt, f2, e0, e1, e2, e3])⟩

theorem mad (d : BitVec 6) (a : BitVec 6) (b : BitVec 6) (g : BitVec 4) : Statement (.mad d a b g) :=
  of_long (0x302b + put d 26 + put a 20 + put b 14 + put g 8) rfl fun hwf ww hw => by
    obtain ⟨hl, f0, f1, f2, e0, e1, e2, e3⟩ := lay9 (c0 := 3) (c1 := 10) (c2 := 3) hw rfl (by decide) (by decide) (by decide)
    exact ⟨hl, f0, no_port f1 (by decide), (row_0A f1).trans (by simp [decodeMaj0A, fixedAt, f2, e0, e1, e2, e3])⟩

theorem min (d : BitVec 6) (a : BitVec 6) (b : BitVec 6) (g : BitVec 4) : Statement (.min d a b g) :=
  of_long (0x2f + put d 26 + put a 20 + put b 14 + put g 8) rfl fun hwf ww hw => by
    obtain ⟨hl, f0, f1, f2, e0, e1, e2, e3⟩ := lay9 (c0 := 3) (c1 := 11) (c2 := 0) hw rfl (by decide) (by decide) (by decide)
    exact ⟨hl, f0, no_port f1 (by decide), (row_0B f1).trans (by simp [decodeMaj0B, fixedAt, f2, e0, e1, e2, e3])⟩

theorem max (d : BitVec 6) (a : BitVec 6) (b : BitVec 6) (g : BitVec 4) : Statement (.max d a b g) :=
  of_long (0x102f + put d 26 + put a 20 + put b 14 + put g 8) rfl fun hwf ww hw => by
    obtain ⟨hl, f0, f1, f2, e0, e1, e2, e3⟩ := lay9 (c0 := 3) (c1 := 11) (c2 := 1) hw rfl (by decide) (by decide) (by decide)
    exact ⟨hl, f0, no_port f1 (by decide), (row_0B f1).trans (by simp [decodeMaj0B, fixedAt, f2, e0, e1, e2, e3])⟩

theorem minu (d : BitVec 6) (a : BitVec 6) (b : BitVec 6) (g : BitVec 4) : Statement (.minu d a b g) :=
  of_long (0x202f + put d 26 + put a 20 + put b 14 + put g 8) rfl fun hwf ww hw => by
    obtain ⟨hl, f0, f1, f2, e0, e1, e2, e3⟩ := lay9 (c0 := 3) (c1 := 11) (c2 := 2) hw rfl (by decide) (by decide) (by decide)
    exact ⟨hl, f0, no_port f1 (by decide), (row_0B f1).trans (by simp [decodeMaj0B, fixedAt, f2, e0, e1, e2, e3])⟩

theorem maxu (d : BitVec 6) (a : BitVec 6) (b : BitVec 6) (g : BitVec 4) : Statement (.maxu d a b g) :=
  of_long (0x302f + put d 26 + put a 20 + put b 14 + put g 8) rfl fun hwf ww hw => by
    obtain ⟨hl, f0, f1, f2, e0, e1, e2, e3⟩ := lay9 (c0 := 3) (c1 := 11) (c2 := 3) hw rfl (by decide) (by decide) (by decide)
    exact ⟨hl, f0, no_port f1 (by decide), (row_0B f1).trans (by simp [decodeMaj0B, fixedAt, f2, e0, e1, e2, e3])⟩

theorem div (d : BitVec 6) (a : BitVec 6) (b : BitVec 6) (g : BitVec 4) : Statement (.div d a b g) :=
  of_long (0x33 + put d 26 + put a 20 + put b 14 + put g 8) rfl fun hwf ww hw => by
    obtain ⟨hl, f0, f1, f2, e0, e1, e2, e3⟩ := lay9 (c0 := 3) (c1 := 12) (c2 := 0) hw rfl (by decide) (by decide) (by decide)
    exact ⟨hl, f0, no_port f1 (by decide), (row_0C f1).trans (by simp [decodeMaj0C, fixedAt, f2, e0, e1, e2, e3])⟩

theorem divu (d : BitVec 6) (a : BitVec 6) (b : BitVec 6) (g : BitVec 4) : Statement (.divu d a b g) :=
  of_long (0x1033 + put d 26 + put a 20 + put b 14 + put g 8) rfl fun hwf ww hw => by
    obtain ⟨hl, f0, f1, f2, e0, e1, e2, e3⟩ := lay9 (c0 := 3) (c1 := 12) (c2 := 1) hw rfl (by decide) (by decide) (by decide)
    exact ⟨hl, f0, no_port f1 (by decide), (row_0C f1).trans (by simp [decodeMaj0C, fixedAt, f2, e0, e1, e2, e3])⟩

theorem rem (d : BitVec 6) (a : BitVec 6) (b : BitVec 6) (g : BitVec 4) : Statement (.rem d a b g) :=
  of_long (0x2033 + put d 26 + put a 20 + put b 14 + put g 8) rfl fun hwf ww hw => by
    obtain ⟨hl, f0, f1, f2, e0, e1, e2, e3⟩ := lay9 (c0 := 3) (c1 := 12) (c2 := 2) hw rfl (by decide) (by decide) (by decide)
    exact ⟨hl, f0, no_port f1 (by decide), (row_0C f1).trans (by simp [decodeMaj0C, fixedAt, f2, e0, e1, e2, e3])⟩

theorem remu (d : BitVec 6) (a : BitVec 6) (b : BitVec 6) (g : BitVec 4) : Statement (.remu d a b g) :=
  of_long (0x3033 + put d 26 + put a 20 + put b 14 + put g 8) rfl fun hwf ww hw => by
    obtain ⟨hl, f0, f1, f2, e0, e1, e2, e3⟩ := lay9 (c0 := 3) (c1 := 12) (c2 := 3) hw rfl (by decide) (by decide) (by decide)
    exact ⟨hl, f0, no_port f1 (by decide), (row_0C f1).trans (by simp [decodeMaj0C, fixedAt, f2, e0, e1, e2, e3])⟩

theorem seq (d : BitVec 6) (a : BitVec 6) (b : BitVec 6) (g : BitVec 4) : Statement (.seq d a b g) :=
  of_long (0x37 + put d 26 + put a 20 + put b 14 + put g 8) rfl fun hwf ww hw => by
    obtain ⟨hl, f0, f1, f2, e0, e1, e2, e3⟩ := lay9 (c0 := 3) (c1 := 13) (c2 := 0) hw rfl (by decide) (by decide) (by decide)
    exact ⟨hl, f0, no_port f1 (by decide), (row_0D f1).trans (by simp [decodeMaj0D, fixedAt, f2, e0, e1, e2, e3])⟩

theorem slt (d : BitVec 6) (a : BitVec 6) (b : BitVec 6) (g : BitVec 4) : Statement (.slt d a b g) :=
  of_long (0x1037 + put d 26 + put a 20 + put b 14 + put g 8) rfl fun hwf ww hw => by
    obtain ⟨hl, f0, f1, f2, e0, e1, e2, e3⟩ := lay9 (c0 := 3) (c1 := 13) (c2 := 1) hw rfl (by decide) (by decide) (by decide)
    exact ⟨hl, f0, no_port f1 (by decide), (row_0D f1).trans (by simp [decodeMaj0D, fixedAt, f2, e0, e1, e2, e3])⟩

theorem sltu (d : BitVec 6) (a : BitVec 6) (b : BitVec 6) (g : BitVec 4) : Statement (.sltu d a b g) :=
  of_long (0x2037 + put d 26 + put a 20 + put b 14 + put g 8) rfl fun hwf ww hw => by
    obtain ⟨hl, f0, f1, f2, e0, e1, e2, e3⟩ := lay9 (c0 := 3) (c1 := 13) (c2 := 2) hw rfl (by decide) (by decide) (by decide)
    exact ⟨hl, f0, no_port f1 (by decide), (row_0D f1).trans (by simp [decodeMaj0D, fixedAt, f2, e0, e1, e2, e3])⟩

theorem sel (d : BitVec 6) (a : BitVec 6) (b : BitVec 6) (g : BitVec 4) : Statement (.sel d a b g) :=
  of_long (0x3037 + put d 26 + put a 20 + put b 14 + put g 8) rfl fun hwf ww hw => by
    obtain ⟨hl, f0, f1, f2, e0, e1, e2, e3⟩ := lay9 (c0 := 3) (c1 := 13) (c2 := 3) hw rfl (by decide) (by decide) (by decide)
    exact ⟨hl, f0, no_port f1 (by decide), (row_0D f1).trans (by simp [decodeMaj0D, fixedAt, f2, e0, e1, e2, e3])⟩

theorem addi (d : BitVec 6) (a : BitVec 6) (i : BitVec 6) (g : BitVec 4) : Statement (.addi d a i g) :=
  of_long (0x3b + put d 26 + put a 20 + put i 14 + put g 8) rfl fun hwf ww hw => by
    obtain ⟨hl, f0, f1, f2, e0, e1, e2, e3⟩ := lay9 (c0 := 3) (c1 := 14) (c2 := 0) hw rfl (by decide) (by decide) (by decide)
    exact ⟨hl, f0, no_port f1 (by decide), (row_0E f1).trans (by simp [decodeMaj0E, fixedAt, f2, e0, e1, e2, e3])⟩

theorem andi (d : BitVec 6) (a : BitVec 6) (i : BitVec 6) (g : BitVec 4) : Statement (.andi d a i g) :=
  of_long (0x103b + put d 26 + put a 20 + put i 14 + put g 8) rfl fun hwf ww hw => by
    obtain ⟨hl, f0, f1, f2, e0, e1, e2, e3⟩ := lay9 (c0 := 3) (c1 := 14) (c2 := 1) hw rfl (by decide) (by decide) (by decide)
    exact ⟨hl, f0, no_port f1 (by decide), (row_0E f1).trans (by simp [decodeMaj0E, fixedAt, f2, e0, e1, e2, e3])⟩

theorem shli (d : BitVec 6) (a : BitVec 6) (i : BitVec 6) (g : BitVec 4) : Statement (.shli d a i g) :=
  of_long (0x203b + put d 26 + put a 20 + put i 14 + put g 8) rfl fun hwf ww hw => by
    obtain ⟨hl, f0, f1, f2, e0, e1, e2, e3⟩ := lay9 (c0 := 3) (c1 := 14) (c2 := 2) hw rfl (by decide) (by decide) (by decide)
    exact ⟨hl, f0, no_port f1 (by decide), (row_0E f1).trans (by simp [decodeMaj0E, fixedAt, f2, e0, e1, e2, e3])⟩

theorem shri (d : BitVec 6) (a : BitVec 6) (i : BitVec 6) (g : BitVec 4) : Statement (.shri d a i g) :=
  of_long (0x303b + put d 26 + put a 20 + put i 14 + put g 8) rfl fun hwf ww hw => by
    obtain ⟨hl, f0, f1, f2, e0, e1, e2, e3⟩ := lay9 (c0 := 3) (c1 := 14) (c2 := 3) hw rfl (by decide) (by decide) (by decide)
    exact ⟨hl, f0, no_port f1 (by decide), (row_0E f1).trans (by simp [decodeMaj0E, fixedAt, f2, e0, e1, e2, e3])⟩

theorem li (d : BitVec 6) (k : BitVec 14) (g : BitVec 4) : Statement (.li d k g) :=
  of_long (0x3f + put d 26 + put k 12 + put g 8) rfl fun hwf ww hw => by
    obtain ⟨hl, f0, f1, e0, e1, e2⟩ := lay1 (c0 := 3) (c1 := 15) hw rfl (by decide) (by decide)
    exact ⟨hl, f0, no_port f1 (by decide), (row_0F f1).trans (by simp [decodeMaj0F, e0, e1, e2])⟩

theorem lsi (d : BitVec 6) (k : BitVec 14) (g : BitVec 4) : Statement (.lsi d k g) :=
  of_long (0x43 + put d 26 + put k 12 + put g 8) rfl fun hwf ww hw => by
    obtain ⟨hl, f0, f1, e0, e1, e2⟩ := lay1 (c0 := 3) (c1 := 16) hw rfl (by decide) (by decide)
    exact ⟨hl, f0, no_port f1 (by decide), (row_10 f1).trans (by simp [decodeMaj10, e0, e1, e2])⟩

theorem clz (d : BitVec 6) (a : BitVec 6) (g : BitVec 4) : Statement (.clz d a g) :=
  of_long (0x47 + put d 26 + put a 20 + put g 8) rfl fun hwf ww hw => by
    obtain ⟨hl, f0, f1, f2, e0, e1, e2⟩ := lay8 (c0 := 3) (c1 := 17) (c2 := 0) hw rfl (by decide) (by decide) (by decide)
    exact ⟨hl, f0, no_port f1 (by decide), (row_11 f1).trans (by simp [decodeMaj11, fixedAt, f2, e0, e1, e2])⟩

theorem ctz (d : BitVec 6) (a : BitVec 6) (g : BitVec 4) : Statement (.ctz d a g) :=
  of_long (0x1047 + put d 26 + put a 20 + put g 8) rfl fun hwf ww hw => by
    obtain ⟨hl, f0, f1, f2, e0, e1, e2⟩ := lay8 (c0 := 3) (c1 := 17) (c2 := 1) hw rfl (by decide) (by decide) (by decide)
    exact ⟨hl, f0, no_port f1 (by decide), (row_11 f1).trans (by simp [decodeMaj11, fixedAt, f2, e0, e1, e2])⟩

theorem popc (d : BitVec 6) (a : BitVec 6) (g : BitVec 4) : Statement (.popc d a g) :=
  of_long (0x2047 + put d 26 + put a 20 + put g 8) rfl fun hwf ww hw => by
    obtain ⟨hl, f0, f1, f2, e0, e1, e2⟩ := lay8 (c0 := 3) (c1 := 17) (c2 := 2) hw rfl (by decide) (by decide) (by decide)
    exact ⟨hl, f0, no_port f1 (by decide), (row_11 f1).trans (by simp [decodeMaj11, fixedAt, f2, e0, e1, e2])⟩

theorem not (d : BitVec 6) (a : BitVec 6) (g : BitVec 4) : Statement (.not d a g) :=
  of_long (0x3047 + put d 26 + put a 20 + put g 8) rfl fun hwf ww hw => by
    obtain ⟨hl, f0, f1, f2, e0, e1, e2⟩ := lay8 (c0 := 3) (c1 := 17) (c2 := 3) hw rfl (by decide) (by decide) (by decide)
    exact ⟨hl, f0, no_port f1 (by decide), (row_11 f1).trans (by simp [decodeMaj11, fixedAt, f2, e0, e1, e2])⟩

theorem neg (d : BitVec 6) (a : BitVec 6) (g : BitVec 4) : Statement (.neg d a g) :=
  of_long (0x4047 + put d 26 + put a 20 + put g 8) rfl fun hwf ww hw => by
    obtain ⟨hl, f0, f1, f2, e0, e1, e2⟩ := lay8 (c0 := 3) (c1 := 17) (c2 := 4) hw rfl (by decide) (by decide) (by decide)
    exact ⟨hl, f0, no_port f1 (by decide), (row_11 f1).trans (by simp [decodeMaj11, fixedAt, f2, e0, e1, e2])⟩

theorem sext8 (d : BitVec 6) (a : BitVec 6) (g : BitVec 4) : Statement (.sext8 d a g) :=
  of_long (0x5047 + put d 26 + put a 20 + put g 8) rfl fun hwf ww hw => by
    obtain ⟨hl, f0, f1, f2, e0, e1, e2⟩ := lay8 (c0 := 3) (c1 := 17) (c2 := 5) hw rfl (by decide) (by decide) (by decide)
    exact ⟨hl, f0, no_port f1 (by decide), (row_11 f1).trans (by simp [decodeMaj11, fixedAt, f2, e0, e1, e2])⟩

theorem sext16 (d : BitVec 6) (a : BitVec 6) (g : BitVec 4) : Statement (.sext16 d a g) :=
  of_long (0x6047 + put d 26 + put a 20 + put g 8) rfl fun hwf ww hw => by
    obtain ⟨hl, f0, f1, f2, e0, e1, e2⟩ := lay8 (c0 := 3) (c1 := 17) (c2 := 6) hw rfl (by decide) (by decide) (by decide)
    exact ⟨hl, f0, no_port f1 (by decide), (row_11 f1).trans (by simp [decodeMaj11, fixedAt, f2, e0, e1, e2])⟩

theorem sext32 (d : BitVec 6) (a : BitVec 6) (g : BitVec 4) : Statement (.sext32 d a g) :=
  of_long (0x7047 + put d 26 + put a 20 + put g 8) rfl fun hwf ww hw => by
    obtain ⟨hl, f0, f1, f2, e0, e1, e2⟩ := lay8 (c0 := 3) (c1 := 17) (c2 := 7) hw rfl (by decide) (by decide) (by decide)
    exact ⟨hl, f0, no_port f1 (by decide), (row_11 f1).trans (by simp [decodeMaj11, fixedAt, f2, e0, e1, e2])⟩

theorem zext8 (d : BitVec 6) (a : BitVec 6) (g : BitVec 4) : Statement (.zext8 d a g) :=
  of_long (0x8047 + put d 26 + put a 20 + put g 8) rfl fun hwf ww hw => by
    obtain ⟨hl, f0, f1, f2, e0, e1, e2⟩ := lay8 (c0 := 3) (c1 := 17) (c2 := 8) hw rfl (by decide) (by decide) (by decide)
    exact ⟨hl, f0, no_port f1 (by decide), (row_11 f1).trans (by simp [decodeMaj11, fixedAt, f2, e0, e1, e2])⟩

theorem zext16 (d : BitVec 6) (a : BitVec 6) (g : BitVec 4) : Statement (.zext16 d a g) :=
  of_long (0x9047 + put d 26 + put a 20 + put g 8) rfl fun hwf ww hw => by
    obtain ⟨hl, f0, f1, f2, e0, e1, e2⟩ := lay8 (c0 := 3) (c1 := 17) (c2 := 9) hw rfl (by decide) (by decide) (by decide)
    exact ⟨hl, f0, no_port f1 (by decide), (row_11 f1).trans (by simp [decodeMaj11, fixedAt, f2, e0, e1, e2])⟩

theorem zext32 (d : BitVec 6) (a : BitVec 6) (g : BitVec 4) : Statement (.zext32 d a g) :=
  of_long (0xa047 + put d 26 + put a 20 + put g 8) rfl fun hwf ww hw => by
    obtain ⟨hl, f0, f1, f2, e0, e1, e2⟩ := lay8 (c0 := 3) (c1 := 17) (c2 := 10) hw rfl (by decide) (by decide) (by decide)
    exact ⟨hl, f0, no_port f1 (by decide), (row_11 f1).trans (by simp [decodeMaj11, fixedAt, f2, e0, e1, e2])⟩

theorem bswap (d : BitVec 6) (a : BitVec 6) (g : BitVec 4) : Statement (.bswap d a g) :=
  of_long (0xb047 + put d 26 + put a 20 + put g 8) rfl fun hwf ww hw => by
    obtain ⟨hl, f0, f1, f2, e0, e1, e2⟩ := lay8 (c0 := 3) (c1 := 17) (c2 := 11) hw rfl (by decide) (by decide) (by decide)
    exact ⟨hl, f0, no_port f1 (by decide), (row_11 f1).trans (by simp [decodeMaj11, fixedAt, f2, e0, e1, e2])⟩

theorem addLane (d : BitVec 6) (a : BitVec 6) (b : BitVec 6) (g : BitVec 4) : Statement (.addLane d a b g) :=
  of_long (0x4b + put d 26 + put a 20 + put b 14 + put g 8) rfl fun hwf ww hw => by
    obtain ⟨hl, f0, f1, f2, e0, e1, e2, e3⟩ := lay9 (c0 := 3) (c1 := 18) (c2 := 0) hw rfl (by decide) (by decide) (by decide)
    exact ⟨hl, f0, no_port f1 (by decide), (row_12 f1).trans (by simp [decodeMaj12, fixedAt, f2, e0, e1, e2, e3])⟩

theorem subLane (d : BitVec 6) (a : BitVec 6) (b : BitVec 6) (g : BitVec 4) : Statement (.subLane d a b g) :=
  of_long (0x104b + put d 26 + put a 20 + put b 14 + put g 8) rfl fun hwf ww hw => by
    obtain ⟨hl, f0, f1, f2, e0, e1, e2, e3⟩ := lay9 (c0 := 3) (c1 := 18) (c2 := 1) hw rfl (by decide) (by decide) (by decide)
    exact ⟨hl, f0, no_port f1 (by decide), (row_12 f1).trans (by simp [decodeMaj12, fixedAt, f2, e0, e1, e2, e3])⟩

theorem andLane (d : BitVec 6) (a : BitVec 6) (b : BitVec 6) (g : BitVec 4) : Statement (.andLane d a b g) :=
  of_long (0x204b + put d 26 + put a 20 + put b 14 + put g 8) rfl fun hwf ww hw => by
    obtain ⟨hl, f0, f1, f2, e0, e1, e2, e3⟩ := lay9 (c0 := 3) (c1 := 18) (c2 := 2) hw rfl (by decide) (by decide) (by decide)
    exact ⟨hl, f0, no_port f1 (by decide), (row_12 f1).trans (by simp [decodeMaj12, fixedAt, f2, e0, e1, e2, e3])⟩

theorem orLane (d : BitVec 6) (a : BitVec 6) (b : BitVec 6) (g : BitVec 4) : Statement (.orLane d a b g) :=
  of_long (0x304b + put d 26 + put a 20 + put b 14 + put g 8) rfl fun hwf ww hw => by
    obtain ⟨hl, f0, f1, f2, e0, e1, e2, e3⟩ := lay9 (c0 := 3) (c1 := 18) (c2 := 3) hw rfl (by decide) (by decide) (by decide)
    exact ⟨hl, f0, no_port f1 (by decide), (row_12 f1).trans (by simp [decodeMaj12, fixedAt, f2, e0, e1, e2, e3])⟩

theorem xorLane (d : BitVec 6) (a : BitVec 6) (b : BitVec 6) (g : BitVec 4) : Statement (.xorLane d a b g) :=
  of_long (0x4f + put d 26 + put a 20 + put b 14 + put g 8) rfl fun hwf ww hw => by
    obtain ⟨hl, f0, f1, f2, e0, e1, e2, e3⟩ := lay9 (c0 := 3) (c1 := 19) (c2 := 0) hw rfl (by decide) (by decide) (by decide)
    exact ⟨hl, f0, no_port f1 (by decide), (row_13 f1).trans (by simp [decodeMaj13, fixedAt, f2, e0, e1, e2, e3])⟩

theorem shlLane (d : BitVec 6) (a : BitVec 6) (b : BitVec 6) (g : BitVec 4) : Statement (.shlLane d a b g) :=
  of_long (0x104f + put d 26 + put a 20 + put b 14 + put g 8) rfl fun hwf ww hw => by
    obtain ⟨hl, f0, f1, f2, e0, e1, e2, e3⟩ := lay9 (c0 := 3) (c1 := 19) (c2 := 1) hw rfl (by decide) (by decide) (by decide)
    exact ⟨hl, f0, no_port f1 (by decide), (row_13 f1).trans (by simp [decodeMaj13, fixedAt, f2, e0, e1, e2, e3])⟩

theorem shrLane (d : BitVec 6) (a : BitVec 6) (b : BitVec 6) (g : BitVec 4) : Statement (.shrLane d a b g) :=
  of_long (0x204f + put d 26 + put a 20 + put b 14 + put g 8) rfl fun hwf ww hw => by
    obtain ⟨hl, f0, f1, f2, e0, e1, e2, e3⟩ := lay9 (c0 := 3) (c1 := 19) (c2 := 2) hw rfl (by decide) (by decide) (by decide)
    exact ⟨hl, f0, no_port f1 (by decide), (row_13 f1).trans (by simp [decodeMaj13, fixedAt, f2, e0, e1, e2, e3])⟩

theorem sraLane (d : BitVec 6) (a : BitVec 6) (b : BitVec 6) (g : BitVec 4) : Statement (.sraLane d a b g) :=
  of_long (0x304f + put d 26 + put a 20 + put b 14 + put g 8) rfl fun hwf ww hw => by
    obtain ⟨hl, f0, f1, f2, e0, e1, e2, e3⟩ := lay9 (c0 := 3) (c1 := 19) (c2 := 3) hw rfl (by decide) (by decide) (by decide)
    exact ⟨hl, f0, no_port f1 (by decide), (row_13 f1).trans (by simp [decodeMaj13, fixedAt, f2, e0, e1, e2, e3])⟩

theorem mulLane (d : BitVec 6) (a : BitVec 6) (b : BitVec 6) (g : BitVec 4) : Statement (.mulLane d a b g) :=
  of_long (0x53 + put d 26 + put a 20 + put b 14 + put g 8) rfl fun hwf ww hw => by
    obtain ⟨hl, f0, f1, f2, e0, e1, e2, e3⟩ := lay9 (c0 := 3) (c1 := 20) (c2 := 0) hw rfl (by decide) (by decide) (by decide)
    exact ⟨hl, f0, no_port f1 (by decide), (row_14 f1).trans (by simp [decodeMaj14, fixedAt, f2, e0, e1, e2, e3])⟩

theorem mulhLane (d : BitVec 6) (a : BitVec 6) (b : BitVec 6) (g : BitVec 4) : Statement (.mulhLane d a b g) :=
  of_long (0x1053 + put d 26 + put a 20 + put b 14 + put g 8) rfl fun hwf ww hw => by
    obtain ⟨hl, f0, f1, f2, e0, e1, e2, e3⟩ := lay9 (c0 := 3) (c1 := 20) (c2 := 1) hw rfl (by decide) (by decide) (by decide)
    exact ⟨hl, f0, no_port f1 (by decide), (row_14 f1).trans (by simp [decodeMaj14, fixedAt, f2, e0, e1, e2, e3])⟩

theorem mulhuLane (d : BitVec 6) (a : BitVec 6) (b : BitVec 6) (g : BitVec 4) : Statement (.mulhuLane d a b g) :=
  of_long (0x2053 + put d 26 + put a 20 + put b 14 + put g 8) rfl fun hwf ww hw => by
    obtain ⟨hl, f0, f1, f2, e0, e1, e2, e3⟩ := lay9 (c0 := 3) (c1 := 20) (c2 := 2) hw rfl (by decide) (by decide) (by decide)
    exact ⟨hl, f0, no_port f1 (by decide), (row_14 f1).trans (by simp [decodeMaj14, fixedAt, f2, e0, e1, e2, e3])⟩

theorem madLane (d : BitVec 6) (a : BitVec 6) (b : BitVec 6) (g : BitVec 4) : Statement (.madLane d a b g) :=
  of_long (0x3053 + put d 26 + put a 20 + put b 14 + put g 8) rfl fun hwf ww hw => by
    obtain ⟨hl, f0, f1, f2, e0, e1, e2, e3⟩ := lay9 (c0 := 3) (c1 := 20) (c2 := 3) hw rfl (by decide) (by decide) (by decide)
    exact ⟨hl, f0, no_port f1 (by decide), (row_14 f1).trans (by simp [decodeMaj14, fixedAt, f2, e0, e1, e2, e3])⟩

theorem minLane (d : BitVec 6) (a : BitVec 6) (b : BitVec 6) (g : BitVec 4) : Statement (.minLane d a b g) :=
  of_long (0x57 + put d 26 + put a 20 + put b 14 + put g 8) rfl fun hwf ww hw => by
    obtain ⟨hl, f0, f1, f2, e0, e1, e2, e3⟩ := lay9 (c0 := 3) (c1 := 21) (c2 := 0) hw rfl (by decide) (by decide) (by decide)
    exact ⟨hl, f0, no_port f1 (by decide), (row_15 f1).trans (by simp [decodeMaj15, fixedAt, f2, e0, e1, e2, e3])⟩

theorem maxLane (d : BitVec 6) (a : BitVec 6) (b : BitVec 6) (g : BitVec 4) : Statement (.maxLane d a b g) :=
  of_long (0x1057 + put d 26 + put a 20 + put b 14 + put g 8) rfl fun hwf ww hw => by
    obtain ⟨hl, f0, f1, f2, e0, e1, e2, e3⟩ := lay9 (c0 := 3) (c1 := 21) (c2 := 1) hw rfl (by decide) (by decide) (by decide)
    exact ⟨hl, f0, no_port f1 (by decide), (row_15 f1).trans (by simp [decodeMaj15, fixedAt, f2, e0, e1, e2, e3])⟩

theorem minuLane (d : BitVec 6) (a : BitVec 6) (b : BitVec 6) (g : BitVec 4) : Statement (.minuLane d a b g) :=
  of_long (0x2057 + put d 26 + put a 20 + put b 14 + put g 8) rfl fun hwf ww hw => by
    obtain ⟨hl, f0, f1, f2, e0, e1, e2, e3⟩ := lay9 (c0 := 3) (c1 := 21) (c2 := 2) hw rfl (by decide) (by decide) (by decide)
    exact ⟨hl, f0, no_port f1 (by decide), (row_15 f1).trans (by simp [decodeMaj15, fixedAt, f2, e0, e1, e2, e3])⟩

theorem maxuLane (d : BitVec 6) (a : BitVec 6) (b : BitVec 6) (g : BitVec 4) : Statement (.maxuLane d a b g) :=
  of_long (0x3057 + put d 26 + put a 20 + put b 14 + put g 8) rfl fun hwf ww hw => by
    obtain ⟨hl, f0, f1, f2, e0, e1, e2, e3⟩ := lay9 (c0 := 3) (c1 := 21) (c2 := 3) hw rfl (by decide) (by decide) (by decide)
    exact ⟨hl, f0, no_port f1 (by decide), (row_15 f1).trans (by simp [decodeMaj15, fixedAt, f2, e0, e1, e2, e3])⟩

theorem addiLane (d : BitVec 6) (a : BitVec 6) (i : BitVec 6) (g : BitVec 4) : Statement (.addiLane d a i g) :=
  of_long (0x5b + put d 26 + put a 20 + put i 14 + put g 8) rfl fun hwf ww hw => by
    obtain ⟨hl, f0, f1, f2, e0, e1, e2, e3⟩ := lay9 (c0 := 3) (c1 := 22) (c2 := 0) hw rfl (by decide) (by decide) (by decide)
    exact ⟨hl, f0, no_port f1 (by decide), (row_16 f1).trans (by simp [decodeMaj16, fixedAt, f2, e0, e1, e2, e3])⟩

theorem andiLane (d : BitVec 6) (a : BitVec 6) (i : BitVec 6) (g : BitVec 4) : Statement (.andiLane d a i g) :=
  of_long (0x105b + put d 26 + put a 20 + put i 14 + put g 8) rfl fun hwf ww hw => by
    obtain ⟨hl, f0, f1, f2, e0, e1, e2, e3⟩ := lay9 (c0 := 3) (c1 := 22) (c2 := 1) hw rfl (by decide) (by decide) (by decide)
    exact ⟨hl, f0, no_port f1 (by decide), (row_16 f1).trans (by simp [decodeMaj16, fixedAt, f2, e0, e1, e2, e3])⟩

theorem shliLane (d : BitVec 6) (a : BitVec 6) (i : BitVec 5) (g : BitVec 4) : Statement (.shliLane d a i g) :=
  of_long (0x205b + put d 26 + put a 20 + put i 14 + put g 8) rfl fun hwf ww hw => by
    obtain ⟨hl, f0, f1, f2, f3, e0, e1, e2, e3⟩ := lay10 (c0 := 3) (c1 := 22) (c2 := 2) (c3 := 0) hw rfl (by decide) (by decide) (by decide) (by decide)
    exact ⟨hl, f0, no_port f1 (by decide), (row_16 f1).trans (by simp [decodeMaj16, fixedAt, f2, f3, e0, e1, e2, e3])⟩

theorem shriLane (d : BitVec 6) (a : BitVec 6) (i : BitVec 5) (g : BitVec 4) : Statement (.shriLane d a i g) :=
  of_long (0x305b + put d 26 + put a 20 + put i 14 + put g 8) rfl fun hwf ww hw => by
    obtain ⟨hl, f0, f1, f2, f3, e0, e1, e2, e3⟩ := lay10 (c0 := 3) (c1 := 22) (c2 := 3) (c3 := 0) hw rfl (by decide) (by decide) (by decide) (by decide)
    exact ⟨hl, f0, no_port f1 (by decide), (row_16 f1).trans (by simp [decodeMaj16, fixedAt, f2, f3, e0, e1, e2, e3])⟩

theorem clzLane (d : BitVec 6) (a : BitVec 6) (g : BitVec 4) : Statement (.clzLane d a g) :=
  of_long (0x5f + put d 26 + put a 20 + put g 8) rfl fun hwf ww hw => by
    obtain ⟨hl, f0, f1, f2, e0, e1, e2⟩ := lay8 (c0 := 3) (c1 := 23) (c2 := 0) hw rfl (by decide) (by decide) (by decide)
    exact ⟨hl, f0, no_port f1 (by decide), (row_17 f1).trans (by simp [decodeMaj17, fixedAt, f2, e0, e1, e2])⟩

theorem popcLane (d : BitVec 6) (a : BitVec 6) (g : BitVec 4) : Statement (.popcLane d a g) :=
  of_long (0x105f + put d 26 + put a 20 + put g 8) rfl fun hwf ww hw => by
    obtain ⟨hl, f0, f1, f2, e0, e1, e2⟩ := lay8 (c0 := 3) (c1 := 23) (c2 := 1) hw rfl (by decide) (by decide) (by decide)
    exact ⟨hl, f0, no_port f1 (by decide), (row_17 f1).trans (by simp [decodeMaj17, fixedAt, f2, e0, e1, e2])⟩

theorem notLane (d : BitVec 6) (a : BitVec 6) (g : BitVec 4) : Statement (.notLane d a g) :=
  of_long (0x205f + put d 26 + put a 20 + put g 8) rfl fun hwf ww hw => by
    obtain ⟨hl, f0, f1, f2, e0, e1, e2⟩ := lay8 (c0 := 3) (c1 := 23) (c2 := 2) hw rfl (by decide) (by decide) (by decide)
    exact ⟨hl, f0, no_port f1 (by decide), (row_17 f1).trans (by simp [decodeMaj17, fixedAt, f2, e0, e1, e2])⟩

theorem negLane (d : BitVec 6) (a : BitVec 6) (g : BitVec 4) : Statement (.negLane d a g) :=
  of_long (0x305f + put d 26 + put a 20 + put g 8) rfl fun hwf ww hw => by
    obtain ⟨hl, f0, f1, f2, e0, e1, e2⟩ := lay8 (c0 := 3) (c1 := 23) (c2 := 3) hw rfl (by decide) (by decide) (by decide)
    exact ⟨hl, f0, no_port f1 (by decide), (row_17 f1).trans (by simp [decodeMaj17, fixedAt, f2, e0, e1, e2])⟩

theorem abs (d : BitVec 6) (a : BitVec 6) (g : BitVec 4) : Statement (.abs d a g) :=
  of_long (0x405f + put d 26 + put a 20 + put g 8) rfl fun hwf ww hw => by
    obtain ⟨hl, f0, f1, f2, e0, e1, e2⟩ := lay8 (c0 := 3) (c1 := 23) (c2 := 4) hw rfl (by decide) (by decide) (by decide)
    exact ⟨hl, f0, no_port f1 (by decide), (row_17 f1).trans (by simp [decodeMaj17, fixedAt, f2, e0, e1, e2])⟩

theorem sext8Lane (d : BitVec 6) (a : BitVec 6) (g : BitVec 4) : Statement (.sext8Lane d a g) :=
  of_long (0x505f + put d 26 + put a 20 + put g 8) rfl fun hwf ww hw => by
    obtain ⟨hl, f0, f1, f2, e0, e1, e2⟩ := lay8 (c0 := 3) (c1 := 23) (c2 := 5) hw rfl (by decide) (by decide) (by decide)
    exact ⟨hl, f0, no_port f1 (by decide), (row_17 f1).trans (by simp [decodeMaj17, fixedAt, f2, e0, e1, e2])⟩

theorem sext16Lane (d : BitVec 6) (a : BitVec 6) (g : BitVec 4) : Statement (.sext16Lane d a g) :=
  of_long (0x605f + put d 26 + put a 20 + put g 8) rfl fun hwf ww hw => by
    obtain ⟨hl, f0, f1, f2, e0, e1, e2⟩ := lay8 (c0 := 3) (c1 := 23) (c2 := 6) hw rfl (by decide) (by decide) (by decide)
    exact ⟨hl, f0, no_port f1 (by decide), (row_17 f1).trans (by simp [decodeMaj17, fixedAt, f2, e0, e1, e2])⟩

theorem zext8Lane (d : BitVec 6) (a : BitVec 6) (g : BitVec 4) : Statement (.zext8Lane d a g) :=
  of_long (0x705f + put d 26 + put a 20 + put g 8) rfl fun hwf ww hw => by
    obtain ⟨hl, f0, f1, f2, e0, e1, e2⟩ := lay8 (c0 := 3) (c1 := 23) (c2 := 7) hw rfl (by decide) (by decide) (by decide)
    exact ⟨hl, f0, no_port f1 (by decide), (row_17 f1).trans (by simp [decodeMaj17, fixedAt, f2, e0, e1, e2])⟩

theorem zext16Lane (d : BitVec 6) (a : BitVec 6) (g : BitVec 4) : Statement (.zext16Lane d a g) :=
  of_long (0x805f + put d 26 + put a 20 + put g 8) rfl fun hwf ww hw => by
    obtain ⟨hl, f0, f1, f2, e0, e1, e2⟩ := lay8 (c0 := 3) (c1 := 23) (c2 := 8) hw rfl (by decide) (by decide) (by decide)
    exact ⟨hl, f0, no_port f1 (by decide), (row_17 f1).trans (by simp [decodeMaj17, fixedAt, f2, e0, e1, e2])⟩

theorem bswapLane (d : BitVec 6) (a : BitVec 6) (g : BitVec 4) : Statement (.bswapLane d a g) :=
  of_long (0x905f + put d 26 + put a 20 + put g 8) rfl fun hwf ww hw => by
    obtain ⟨hl, f0, f1, f2, e0, e1, e2⟩ := lay8 (c0 := 3) (c1 := 23) (c2 := 9) hw rfl (by decide) (by decide) (by decide)
    exact ⟨hl, f0, no_port f1 (by decide), (row_17 f1).trans (by simp [decodeMaj17, fixedAt, f2, e0, e1, e2])⟩

theorem cmpEq (d : BitVec 3) (a : BitVec 6) (b : BitVec 6) (g : BitVec 4) : Statement (.cmpEq d a b g) :=
  of_long (0x63 + put d 26 + put a 20 + put b 14 + put g 8) rfl fun hwf ww hw => by
    obtain ⟨hl, f0, f1, f2, f3, e0, e1, e2, e3⟩ := lay11 (c0 := 3) (c1 := 24) (c2 := 0) (c3 := 0) hw rfl (by decide) (by decide) (by decide) (by decide)
    exact ⟨hl, f0, no_port f1 (by decide), (row_18 f1).trans (by simp [decodeMaj18, fixedAt, f2, f3, e0, e1, e2, e3])⟩

theorem cmpLt (d : BitVec 3) (a : BitVec 6) (b : BitVec 6) (g : BitVec 4) : Statement (.cmpLt d a b g) :=
  of_long (0x1063 + put d 26 + put a 20 + put b 14 + put g 8) rfl fun hwf ww hw => by
    obtain ⟨hl, f0, f1, f2, f3, e0, e1, e2, e3⟩ := lay11 (c0 := 3) (c1 := 24) (c2 := 1) (c3 := 0) hw rfl (by decide) (by decide) (by decide) (by decide)
    exact ⟨hl, f0, no_port f1 (by decide), (row_18 f1).trans (by simp [decodeMaj18, fixedAt, f2, f3, e0, e1, e2, e3])⟩

theorem cmpLtu (d : BitVec 3) (a : BitVec 6) (b : BitVec 6) (g : BitVec 4) : Statement (.cmpLtu d a b g) :=
  of_long (0x2063 + put d 26 + put a 20 + put b 14 + put g 8) rfl fun hwf ww hw => by
    obtain ⟨hl, f0, f1, f2, f3, e0, e1, e2, e3⟩ := lay11 (c0 := 3) (c1 := 24) (c2 := 2) (c3 := 0) hw rfl (by decide) (by decide) (by decide) (by decide)
    exact ⟨hl, f0, no_port f1 (by decide), (row_18 f1).trans (by simp [decodeMaj18, fixedAt, f2, f3, e0, e1, e2, e3])⟩

theorem cmpNe (d : BitVec 3) (a : BitVec 6) (b : BitVec 6) (g : BitVec 4) : Statement (.cmpNe d a b g) :=
  of_long (0x3063 + put d 26 + put a 20 + put b 14 + put g 8) rfl fun hwf ww hw => by
    obtain ⟨hl, f0, f1, f2, f3, e0, e1, e2, e3⟩ := lay11 (c0 := 3) (c1 := 24) (c2 := 3) (c3 := 0) hw rfl (by decide) (by decide) (by decide) (by decide)
    exact ⟨hl, f0, no_port f1 (by decide), (row_18 f1).trans (by simp [decodeMaj18, fixedAt, f2, f3, e0, e1, e2, e3])⟩

theorem fadd (d : BitVec 6) (a : BitVec 6) (b : BitVec 6) (f : BitVec 2) (g : BitVec 4) : Statement (.fadd d a b f g) :=
  of_long (0x67 + put d 26 + put a 20 + put b 14 + put f 12 + put g 8) rfl fun hwf ww hw => by
    obtain ⟨hl, f0, f1, e0, e1, e2, e3, e4⟩ := lay12 (c0 := 3) (c1 := 25) hw rfl (by decide) (by decide)
    exact ⟨hl, f0, no_port f1 (by decide), (row_19 f1).trans (by simp [decodeMaj19, e0, e1, e2, e3, e4])⟩

theorem fsub (d : BitVec 6) (a : BitVec 6) (b : BitVec 6) (f : BitVec 2) (g : BitVec 4) : Statement (.fsub d a b f g) :=
  of_long (0x6b + put d 26 + put a 20 + put b 14 + put f 12 + put g 8) rfl fun hwf ww hw => by
    obtain ⟨hl, f0, f1, e0, e1, e2, e3, e4⟩ := lay12 (c0 := 3) (c1 := 26) hw rfl (by decide) (by decide)
    exact ⟨hl, f0, no_port f1 (by decide), (row_1A f1).trans (by simp [decodeMaj1A, e0, e1, e2, e3, e4])⟩

theorem fmul (d : BitVec 6) (a : BitVec 6) (b : BitVec 6) (f : BitVec 2) (g : BitVec 4) : Statement (.fmul d a b f g) :=
  of_long (0x6f + put d 26 + put a 20 + put b 14 + put f 12 + put g 8) rfl fun hwf ww hw => by
    obtain ⟨hl, f0, f1, e0, e1, e2, e3, e4⟩ := lay12 (c0 := 3) (c1 := 27) hw rfl (by decide) (by decide)
    exact ⟨hl, f0, no_port f1 (by decide), (row_1B f1).trans (by simp [decodeMaj1B, e0, e1, e2, e3, e4])⟩

theorem ffma (d : BitVec 6) (a : BitVec 6) (b : BitVec 6) (f : BitVec 2) (g : BitVec 4) : Statement (.ffma d a b f g) :=
  of_long (0x73 + put d 26 + put a 20 + put b 14 + put f 12 + put g 8) rfl fun hwf ww hw => by
    obtain ⟨hl, f0, f1, e0, e1, e2, e3, e4⟩ := lay12 (c0 := 3) (c1 := 28) hw rfl (by decide) (by decide)
    exact ⟨hl, f0, no_port f1 (by decide), (row_1C f1).trans (by simp [decodeMaj1C, e0, e1, e2, e3, e4])⟩

theorem fmin (d : BitVec 6) (a : BitVec 6) (b : BitVec 6) (f : BitVec 2) (g : BitVec 4) : Statement (.fmin d a b f g) :=
  of_long (0x77 + put d 26 + put a 20 + put b 14 + put f 12 + put g 8) rfl fun hwf ww hw => by
    obtain ⟨hl, f0, f1, e0, e1, e2, e3, e4⟩ := lay12 (c0 := 3) (c1 := 29) hw rfl (by decide) (by decide)
    exact ⟨hl, f0, no_port f1 (by decide), (row_1D f1).trans (by simp [decodeMaj1D, e0, e1, e2, e3, e4])⟩

theorem fmax (d : BitVec 6) (a : BitVec 6) (b : BitVec 6) (f : BitVec 2) (g : BitVec 4) : Statement (.fmax d a b f g) :=
  of_long (0x7b + put d 26 + put a 20 + put b 14 + put f 12 + put g 8) rfl fun hwf ww hw => by
    obtain ⟨hl, f0, f1, e0, e1, e2, e3, e4⟩ := lay12 (c0 := 3) (c1 := 30) hw rfl (by decide) (by decide)
    exact ⟨hl, f0, no_port f1 (by decide), (row_1E f1).trans (by simp [decodeMaj1E, e0, e1, e2, e3, e4])⟩

theorem fcmp (c : BitVec 3) (p : BitVec 3) (a : BitVec 6) (b : BitVec 6) (f : BitVec 2) (g : BitVec 4) : Statement (.fcmp c p a b f g) :=
  of_long (0x7f + put c 29 + put p 26 + put a 20 + put b 14 + put f 12 + put g 8) rfl fun hwf ww hw => by
    obtain ⟨hl, f0, f1, e0, e1, e2, e3, e4, e5⟩ := lay13 (c0 := 3) (c1 := 31) hw rfl (by decide) (by decide)
    exact ⟨hl, f0, no_port f1 (by decide), (row_1F f1).trans (by simp [decodeMaj1F, e0, e1, e2, e3, e4, e5])⟩

theorem fsqrt (d : BitVec 6) (a : BitVec 6) (f : BitVec 2) (g : BitVec 4) : Statement (.fsqrt d a f g) :=
  of_long (0x83 + put d 26 + put a 20 + put f 12 + put g 8) rfl fun hwf ww hw => by
    obtain ⟨hl, f0, f1, f2, e0, e1, e2, e3⟩ := lay14 (c0 := 3) (c1 := 32) (c2 := 0) hw rfl (by decide) (by decide) (by decide)
    exact ⟨hl, f0, no_port f1 (by decide), (row_20 f1).trans (by simp [decodeMaj20, fixedAt, f2, e0, e1, e2, e3])⟩

theorem frcp (d : BitVec 6) (a : BitVec 6) (f : BitVec 2) (g : BitVec 4) : Statement (.frcp d a f g) :=
  of_long (0x4083 + put d 26 + put a 20 + put f 12 + put g 8) rfl fun hwf ww hw => by
    obtain ⟨hl, f0, f1, f2, e0, e1, e2, e3⟩ := lay14 (c0 := 3) (c1 := 32) (c2 := 1) hw rfl (by decide) (by decide) (by decide)
    exact ⟨hl, f0, no_port f1 (by decide), (row_20 f1).trans (by simp [decodeMaj20, fixedAt, f2, e0, e1, e2, e3])⟩

theorem frsq (d : BitVec 6) (a : BitVec 6) (f : BitVec 2) (g : BitVec 4) : Statement (.frsq d a f g) :=
  of_long (0x8083 + put d 26 + put a 20 + put f 12 + put g 8) rfl fun hwf ww hw => by
    obtain ⟨hl, f0, f1, f2, e0, e1, e2, e3⟩ := lay14 (c0 := 3) (c1 := 32) (c2 := 2) hw rfl (by decide) (by decide) (by decide)
    exact ⟨hl, f0, no_port f1 (by decide), (row_20 f1).trans (by simp [decodeMaj20, fixedAt, f2, e0, e1, e2, e3])⟩

theorem fexp2 (d : BitVec 6) (a : BitVec 6) (f : BitVec 2) (g : BitVec 4) : Statement (.fexp2 d a f g) :=
  of_long (0xc083 + put d 26 + put a 20 + put f 12 + put g 8) rfl fun hwf ww hw => by
    obtain ⟨hl, f0, f1, f2, e0, e1, e2, e3⟩ := lay14 (c0 := 3) (c1 := 32) (c2 := 3) hw rfl (by decide) (by decide) (by decide)
    exact ⟨hl, f0, no_port f1 (by decide), (row_20 f1).trans (by simp [decodeMaj20, fixedAt, f2, e0, e1, e2, e3])⟩

theorem flog2 (d : BitVec 6) (a : BitVec 6) (f : BitVec 2) (g : BitVec 4) : Statement (.flog2 d a f g) :=
  of_long (0x10083 + put d 26 + put a 20 + put f 12 + put g 8) rfl fun hwf ww hw => by
    obtain ⟨hl, f0, f1, f2, e0, e1, e2, e3⟩ := lay14 (c0 := 3) (c1 := 32) (c2 := 4) hw rfl (by decide) (by decide) (by decide)
    exact ⟨hl, f0, no_port f1 (by decide), (row_20 f1).trans (by simp [decodeMaj20, fixedAt, f2, e0, e1, e2, e3])⟩

theorem fsin (d : BitVec 6) (a : BitVec 6) (f : BitVec 2) (g : BitVec 4) : Statement (.fsin d a f g) :=
  of_long (0x14083 + put d 26 + put a 20 + put f 12 + put g 8) rfl fun hwf ww hw => by
    obtain ⟨hl, f0, f1, f2, e0, e1, e2, e3⟩ := lay14 (c0 := 3) (c1 := 32) (c2 := 5) hw rfl (by decide) (by decide) (by decide)
    exact ⟨hl, f0, no_port f1 (by decide), (row_20 f1).trans (by simp [decodeMaj20, fixedAt, f2, e0, e1, e2, e3])⟩

theorem fcos (d : BitVec 6) (a : BitVec 6) (f : BitVec 2) (g : BitVec 4) : Statement (.fcos d a f g) :=
  of_long (0x18083 + put d 26 + put a 20 + put f 12 + put g 8) rfl fun hwf ww hw => by
    obtain ⟨hl, f0, f1, f2, e0, e1, e2, e3⟩ := lay14 (c0 := 3) (c1 := 32) (c2 := 6) hw rfl (by decide) (by decide) (by decide)
    exact ⟨hl, f0, no_port f1 (by decide), (row_20 f1).trans (by simp [decodeMaj20, fixedAt, f2, e0, e1, e2, e3])⟩

theorem fabs (d : BitVec 6) (a : BitVec 6) (f : BitVec 2) (g : BitVec 4) : Statement (.fabs d a f g) :=
  of_long (0x1c083 + put d 26 + put a 20 + put f 12 + put g 8) rfl fun hwf ww hw => by
    obtain ⟨hl, f0, f1, f2, e0, e1, e2, e3⟩ := lay14 (c0 := 3) (c1 := 32) (c2 := 7) hw rfl (by decide) (by decide) (by decide)
    exact ⟨hl, f0, no_port f1 (by decide), (row_20 f1).trans (by simp [decodeMaj20, fixedAt, f2, e0, e1, e2, e3])⟩

theorem fneg (d : BitVec 6) (a : BitVec 6) (f : BitVec 2) (g : BitVec 4) : Statement (.fneg d a f g) :=
  of_long (0x20083 + put d 26 + put a 20 + put f 12 + put g 8) rfl fun hwf ww hw => by
    obtain ⟨hl, f0, f1, f2, e0, e1, e2, e3⟩ := lay14 (c0 := 3) (c1 := 32) (c2 := 8) hw rfl (by decide) (by decide) (by decide)
    exact ⟨hl, f0, no_port f1 (by decide), (row_20 f1).trans (by simp [decodeMaj20, fixedAt, f2, e0, e1, e2, e3])⟩

theorem ffloor (d : BitVec 6) (a : BitVec 6) (f : BitVec 2) (g : BitVec 4) : Statement (.ffloor d a f g) :=
  of_long (0x24083 + put d 26 + put a 20 + put f 12 + put g 8) rfl fun hwf ww hw => by
    obtain ⟨hl, f0, f1, f2, e0, e1, e2, e3⟩ := lay14 (c0 := 3) (c1 := 32) (c2 := 9) hw rfl (by decide) (by decide) (by decide)
    exact ⟨hl, f0, no_port f1 (by decide), (row_20 f1).trans (by simp [decodeMaj20, fixedAt, f2, e0, e1, e2, e3])⟩

theorem fceil (d : BitVec 6) (a : BitVec 6) (f : BitVec 2) (g : BitVec 4) : Statement (.fceil d a f g) :=
  of_long (0x28083 + put d 26 + put a 20 + put f 12 + put g 8) rfl fun hwf ww hw => by
    obtain ⟨hl, f0, f1, f2, e0, e1, e2, e3⟩ := lay14 (c0 := 3) (c1 := 32) (c2 := 10) hw rfl (by decide) (by decide) (by decide)
    exact ⟨hl, f0, no_port f1 (by decide), (row_20 f1).trans (by simp [decodeMaj20, fixedAt, f2, e0, e1, e2, e3])⟩

theorem ftrunc (d : BitVec 6) (a : BitVec 6) (f : BitVec 2) (g : BitVec 4) : Statement (.ftrunc d a f g) :=
  of_long (0x2c083 + put d 26 + put a 20 + put f 12 + put g 8) rfl fun hwf ww hw => by
    obtain ⟨hl, f0, f1, f2, e0, e1, e2, e3⟩ := lay14 (c0 := 3) (c1 := 32) (c2 := 11) hw rfl (by decide) (by decide) (by decide)
    exact ⟨hl, f0, no_port f1 (by decide), (row_20 f1).trans (by simp [decodeMaj20, fixedAt, f2, e0, e1, e2, e3])⟩

theorem fround (d : BitVec 6) (a : BitVec 6) (f : BitVec 2) (g : BitVec 4) : Statement (.fround d a f g) :=
  of_long (0x30083 + put d 26 + put a 20 + put f 12 + put g 8) rfl fun hwf ww hw => by
    obtain ⟨hl, f0, f1, f2, e0, e1, e2, e3⟩ := lay14 (c0 := 3) (c1 := 32) (c2 := 12) hw rfl (by decide) (by decide) (by decide)
    exact ⟨hl, f0, no_port f1 (by decide), (row_20 f1).trans (by simp [decodeMaj20, fixedAt, f2, e0, e1, e2, e3])⟩

theorem fclass (d : BitVec 6) (a : BitVec 6) (f : BitVec 2) (g : BitVec 4) : Statement (.fclass d a f g) :=
  of_long (0x34083 + put d 26 + put a 20 + put f 12 + put g 8) rfl fun hwf ww hw => by
    obtain ⟨hl, f0, f1, f2, e0, e1, e2, e3⟩ := lay14 (c0 := 3) (c1 := 32) (c2 := 13) hw rfl (by decide) (by decide) (by decide)
    exact ⟨hl, f0, no_port f1 (by decide), (row_20 f1).trans (by simp [decodeMaj20, fixedAt, f2, e0, e1, e2, e3])⟩

theorem cvt (d : BitVec 6) (a : BitVec 6) (n : BitVec 6) (r : BitVec 2) (g : BitVec 4) : Statement (.cvt d a n r g) :=
  of_long (0x87 + put d 26 + put a 20 + put n 14 + put r 12 + put g 8) rfl fun hwf ww hw => by
    obtain ⟨hl, f0, f1, e0, e1, e2, e3, e4⟩ := lay12 (c0 := 3) (c1 := 33) hw rfl (by decide) (by decide)
    exact ⟨hl, f0, no_port f1 (by decide), (row_21 f1).trans (by simp [decodeMaj21, e0, e1, e2, e3, e4])⟩

theorem xlGet (d : BitVec 6) (a : BitVec 6) (b : BitVec 6) (g : BitVec 4) : Statement (.xlGet d a b g) :=
  of_long (0x8b + put d 26 + put a 20 + put b 14 + put g 8) rfl fun hwf ww hw => by
    obtain ⟨hl, f0, f1, f2, e0, e1, e2, e3⟩ := lay9 (c0 := 3) (c1 := 34) (c2 := 0) hw rfl (by decide) (by decide) (by decide)
    exact ⟨hl, f0, no_port f1 (by decide), (row_22 f1).trans (by simp [decodeMaj22, fixedAt, f2, e0, e1, e2, e3])⟩

theorem xlSh (d : BitVec 6) (a : BitVec 6) (b : BitVec 6) (g : BitVec 4) : Statement (.xlSh d a b g) :=
  of_long (0x108b + put d 26 + put a 20 + put b 14 + put g 8) rfl fun hwf ww hw => by
    obtain ⟨hl, f0, f1, f2, e0, e1, e2, e3⟩ := lay9 (c0 := 3) (c1 := 34) (c2 := 1) hw rfl (by decide) (by decide) (by decide)
    exact ⟨hl, f0, no_port f1 (by decide), (row_22 f1).trans (by simp [decodeMaj22, fixedAt, f2, e0, e1, e2, e3])⟩

theorem xlRot (d : BitVec 6) (a : BitVec 6) (b : BitVec 6) (g : BitVec 4) : Statement (.xlRot d a b g) :=
  of_long (0x208b + put d 26 + put a 20 + put b 14 + put g 8) rfl fun hwf ww hw => by
    obtain ⟨hl, f0, f1, f2, e0, e1, e2, e3⟩ := lay9 (c0 := 3) (c1 := 34) (c2 := 2) hw rfl (by decide) (by decide) (by decide)
    exact ⟨hl, f0, no_port f1 (by decide), (row_22 f1).trans (by simp [decodeMaj22, fixedAt, f2, e0, e1, e2, e3])⟩

theorem xlXor (d : BitVec 6) (a : BitVec 6) (b : BitVec 6) (g : BitVec 4) : Statement (.xlXor d a b g) :=
  of_long (0x308b + put d 26 + put a 20 + put b 14 + put g 8) rfl fun hwf ww hw => by
    obtain ⟨hl, f0, f1, f2, e0, e1, e2, e3⟩ := lay9 (c0 := 3) (c1 := 34) (c2 := 3) hw rfl (by decide) (by decide) (by decide)
    exact ⟨hl, f0, no_port f1 (by decide), (row_22 f1).trans (by simp [decodeMaj22, fixedAt, f2, e0, e1, e2, e3])⟩

theorem xliGet (d : BitVec 6) (a : BitVec 6) (i : BitVec 6) (g : BitVec 4) : Statement (.xliGet d a i g) :=
  of_long (0x8f + put d 26 + put a 20 + put i 14 + put g 8) rfl fun hwf ww hw => by
    obtain ⟨hl, f0, f1, f2, e0, e1, e2, e3⟩ := lay9 (c0 := 3) (c1 := 35) (c2 := 0) hw rfl (by decide) (by decide) (by decide)
    exact ⟨hl, f0, no_port f1 (by decide), (row_23 f1).trans (by simp [decodeMaj23, fixedAt, f2, e0, e1, e2, e3])⟩

theorem xliSh (d : BitVec 6) (a : BitVec 6) (i : BitVec 6) (g : BitVec 4) : Statement (.xliSh d a i g) :=
  of_long (0x108f + put d 26 + put a 20 + put i 14 + put g 8) rfl fun hwf ww hw => by
    obtain ⟨hl, f0, f1, f2, e0, e1, e2, e3⟩ := lay9 (c0 := 3) (c1 := 35) (c2 := 1) hw rfl (by decide) (by decide) (by decide)
    exact ⟨hl, f0, no_port f1 (by decide), (row_23 f1).trans (by simp [decodeMaj23, fixedAt, f2, e0, e1, e2, e3])⟩

theorem xliRot (d : BitVec 6) (a : BitVec 6) (i : BitVec 6) (g : BitVec 4) : Statement (.xliRot d a i g) :=
  of_long (0x208f + put d 26 + put a 20 + put i 14 + put g 8) rfl fun hwf ww hw => by
    obtain ⟨hl, f0, f1, f2, e0, e1, e2, e3⟩ := lay9 (c0 := 3) (c1 := 35) (c2 := 2) hw rfl (by decide) (by decide) (by decide)
    exact ⟨hl, f0, no_port f1 (by decide), (row_23 f1).trans (by simp [decodeMaj23, fixedAt, f2, e0, e1, e2, e3])⟩

theorem xliXor (d : BitVec 6) (a : BitVec 6) (i : BitVec 6) (g : BitVec 4) : Statement (.xliXor d a i g) :=
  of_long (0x308f + put d 26 + put a 20 + put i 14 + put g 8) rfl fun hwf ww hw => by
    obtain ⟨hl, f0, f1, f2, e0, e1, e2, e3⟩ := lay9 (c0 := 3) (c1 := 35) (c2 := 3) hw rfl (by decide) (by decide) (by decide)
    exact ⟨hl, f0, no_port f1 (by decide), (row_23 f1).trans (by simp [decodeMaj23, fixedAt, f2, e0, e1, e2, e3])⟩

theorem rfal (d : BitVec 6) (a : BitVec 6) (g : BitVec 4) : Statement (.rfal d a g) :=
  of_long (0x93 + put d 26 + put a 20 + put g 8) rfl fun hwf ww hw => by
    obtain ⟨hl, f0, f1, f2, e0, e1, e2⟩ := lay8 (c0 := 3) (c1 := 36) (c2 := 0) hw rfl (by decide) (by decide) (by decide)
    exact ⟨hl, f0, no_port f1 (by decide), (row_24 f1).trans (by simp [decodeMaj24, fixedAt, f2, e0, e1, e2])⟩

theorem ballot (d : BitVec 6) (p : BitVec 3) (g : BitVec 4) : Statement (.ballot d p g) :=
  of_long (0x1093 + put d 26 + put p 20 + put g 8) rfl fun hwf ww hw => by
    obtain ⟨hl, f0, f1, f2, f3, e0, e1, e2⟩ := lay15 (c0 := 3) (c1 := 36) (c2 := 1) (c3 := 0) hw rfl (by decide) (by decide) (by decide) (by decide)
    exact ⟨hl, f0, no_port f1 (by decide), (row_24 f1).trans (by simp [decodeMaj24, fixedAt, f2, f3, e0, e1, e2])⟩

theorem vany (d : BitVec 6) (p : BitVec 3) (g : BitVec 4) : Statement (.vany d p g) :=
  of_long (0x2093 + put d 26 + put p 20 + put g 8) rfl fun hwf ww hw => by
    obtain ⟨hl, f0, f1, f2, f3, e0, e1, e2⟩ := lay15 (c0 := 3) (c1 := 36) (c2 := 2) (c3 := 0) hw rfl (by decide) (by decide) (by decide) (by decide)
    exact ⟨hl, f0, no_port f1 (by decide), (row_24 f1).trans (by simp [decodeMaj24, fixedAt, f2, f3, e0, e1, e2])⟩

theorem vall (d : BitVec 6) (p : BitVec 3) (g : BitVec 4) : Statement (.vall d p g) :=
  of_long (0x3093 + put d 26 + put p 20 + put g 8) rfl fun hwf ww hw => by
    obtain ⟨hl, f0, f1, f2, f3, e0, e1, e2⟩ := lay15 (c0 := 3) (c1 := 36) (c2 := 3) (c3 := 0) hw rfl (by decide) (by decide) (by decide) (by decide)
    exact ⟨hl, f0, no_port f1 (by decide), (row_24 f1).trans (by simp [decodeMaj24, fixedAt, f2, f3, e0, e1, e2])⟩

theorem pcount (d : BitVec 6) (p : BitVec 3) (g : BitVec 4) : Statement (.pcount d p g) :=
  of_long (0x4093 + put d 26 + put p 20 + put g 8) rfl fun hwf ww hw => by
    obtain ⟨hl, f0, f1, f2, f3, e0, e1, e2⟩ := lay15 (c0 := 3) (c1 := 36) (c2 := 4) (c3 := 0) hw rfl (by decide) (by decide) (by decide) (by decide)
    exact ⟨hl, f0, no_port f1 (by decide), (row_24 f1).trans (by simp [decodeMaj24, fixedAt, f2, f3, e0, e1, e2])⟩

theorem movs (d : BitVec 6) (a : BitVec 6) (g : BitVec 4) : Statement (.movs d a g) :=
  of_long (0x5093 + put d 26 + put a 20 + put g 8) rfl fun hwf ww hw => by
    obtain ⟨hl, f0, f1, f2, e0, e1, e2⟩ := lay8 (c0 := 3) (c1 := 36) (c2 := 5) hw rfl (by decide) (by decide) (by decide)
    exact ⟨hl, f0, no_port f1 (by decide), (row_24 f1).trans (by simp [decodeMaj24, fixedAt, f2, e0, e1, e2])⟩

theorem mov (d : BitVec 6) (a : BitVec 6) (g : BitVec 4) : Statement (.mov d a g) :=
  of_long (0x6093 + put d 26 + put a 20 + put g 8) rfl fun hwf ww hw => by
    obtain ⟨hl, f0, f1, f2, e0, e1, e2⟩ := lay8 (c0 := 3) (c1 := 36) (c2 := 6) hw rfl (by decide) (by decide) (by decide)
    exact ⟨hl, f0, no_port f1 (by decide), (row_24 f1).trans (by simp [decodeMaj24, fixedAt, f2, e0, e1, e2])⟩

theorem laneid (d : BitVec 6) (g : BitVec 4) : Statement (.laneid d g) :=
  of_long (0x7093 + put d 26 + put g 8) rfl fun hwf ww hw => by
    obtain ⟨hl, f0, f1, f2, e0, e1⟩ := lay6 (c0 := 3) (c1 := 36) (c2 := 7) hw rfl (by decide) (by decide) (by decide)
    have k0 : ww / 4096 % 256 = 7 := by clear hw e0 e1; omega
    have k1 : ww / 8388608 % 8 = 0 := by clear hw e0 e1; omega
    exact ⟨hl, f0, no_port f1 (by decide), (row_24 f1).trans (by simp [decodeMaj24, fixedAt, f2, k0, k1, e0, e1])⟩

theorem vredadd (d : BitVec 6) (a : BitVec 6) (g : BitVec 4) : Statement (.vredadd d a g) :=
  of_long (0x8093 + put d 26 + put a 20 + put g 8) rfl fun hwf ww hw => by
    obtain ⟨hl, f0, f1, f2, e0, e1, e2⟩ := lay8 (c0 := 3) (c1 := 36) (c2 := 8) hw rfl (by decide) (by decide) (by decide)
    have k0 : ww / 4096 % 16384 ≠ 7 := by clear hw e0 e1 e2; omega
    exact ⟨hl, f0, no_port f1 (by decide), (row_24 f1).trans (by simp [decodeMaj24, fixedAt, f2, k0, e0, e1, e2])⟩

theorem vredmin (d : BitVec 6) (a : BitVec 6) (g : BitVec 4) : Statement (.vredmin d a g) :=
  of_long (0x9093 + put d 26 + put a 20 + put g 8) rfl fun hwf ww hw => by
    obtain ⟨hl, f0, f1, f2, e0, e1, e2⟩ := lay8 (c0 := 3) (c1 := 36) (c2 := 9) hw rfl (by decide) (by decide) (by decide)
    have k0 : ww / 4096 % 16384 ≠ 7 := by clear hw e0 e1 e2; omega
    exact ⟨hl, f0, no_port f1 (by decide), (row_24 f1).trans (by simp [decodeMaj24, fixedAt, f2, k0, e0, e1, e2])⟩

theorem vredmax (d : BitVec 6) (a : BitVec 6) (g : BitVec 4) : Statement (.vredmax d a g) :=
  of_long (0xa093 + put d 26 + put a 20 + put g 8) rfl fun hwf ww hw => by
    obtain ⟨hl, f0, f1, f2, e0, e1, e2⟩ := lay8 (c0 := 3) (c1 := 36) (c2 := 10) hw rfl (by decide) (by decide) (by decide)
    have k0 : ww / 4096 % 16384 ≠ 7 := by clear hw e0 e1 e2; omega
    exact ⟨hl, f0, no_port f1 (by decide), (row_24 f1).trans (by simp [decodeMaj24, fixedAt, f2, k0, e0, e1, e2])⟩

theorem fredadd (d : BitVec 6) (a : BitVec 6) (g : BitVec 4) : Statement (.fredadd d a g) :=
  of_long (0xb093 + put d 26 + put a 20 + put g 8) rfl fun hwf ww hw => by
    obtain ⟨hl, f0, f1, f2, e0, e1, e2⟩ := lay8 (c0 := 3) (c1 := 36) (c2 := 11) hw rfl (by decide) (by decide) (by decide)
    have k0 : ww / 4096 % 16384 ≠ 7 := by clear hw e0 e1 e2; omega
    exact ⟨hl, f0, no_port f1 (by decide), (row_24 f1).trans (by simp [decodeMaj24, fixedAt, f2, k0, e0, e1, e2])⟩

theorem pand (d : BitVec 3) (a : BitVec 3) (b : BitVec 3) (g : BitVec 4) : Statement (.pand d a b g) :=
  of_long (0x97 + put d 26 + put a 20 + put b 14 + put g 8) rfl fun hwf ww hw => by
    obtain ⟨hl, f0, f1, f2, f3, f4, f5, e0, e1, e2, e3⟩ := lay16 (c0 := 3) (c1 := 37) (c2 := 0) (c3 := 0) (c4 := 0) (c5 := 0) hw rfl (by decide) (by decide) (by decide) (by decide) (by decide) (by decide)
    exact ⟨hl, f0, no_port f1 (by decide), (row_25 f1).trans (by simp [decodeMaj25, fixedAt, f2, f3, f4, f5, e0, e1, e2, e3])⟩

theorem por (d : BitVec 3) (a : BitVec 3) (b : BitVec 3) (g : BitVec 4) : Statement (.por d a b g) :=
  of_long (0x1097 + put d 26 + put a 20 + put b 14 + put g 8) rfl fun hwf ww hw => by
    obtain ⟨hl, f0, f1, f2, f3, f4, f5, e0, e1, e2, e3⟩ := lay16 (c0 := 3) (c1 := 37) (c2 := 1) (c3 := 0) (c4 := 0) (c5 := 0) hw rfl (by decide) (by decide) (by decide) (by decide) (by decide) (by decide)
    exact ⟨hl, f0, no_port f1 (by decide), (row_25 f1).trans (by simp [decodeMaj25, fixedAt, f2, f3, f4, f5, e0, e1, e2, e3])⟩

theorem pxor (d : BitVec 3) (a : BitVec 3) (b : BitVec 3) (g : BitVec 4) : Statement (.pxor d a b g) :=
  of_long (0x2097 + put d 26 + put a 20 + put b 14 + put g 8) rfl fun hwf ww hw => by
    obtain ⟨hl, f0, f1, f2, f3, f4, f5, e0, e1, e2, e3⟩ := lay16 (c0 := 3) (c1 := 37) (c2 := 2) (c3 := 0) (c4 := 0) (c5 := 0) hw rfl (by decide) (by decide) (by decide) (by decide) (by decide) (by decide)
    exact ⟨hl, f0, no_port f1 (by decide), (row_25 f1).trans (by simp [decodeMaj25, fixedAt, f2, f3, f4, f5, e0, e1, e2, e3])⟩

theorem pandn (d : BitVec 3) (a : BitVec 3) (b : BitVec 3) (g : BitVec 4) : Statement (.pandn d a b g) :=
  of_long (0x3097 + put d 26 + put a 20 + put b 14 + put g 8) rfl fun hwf ww hw => by
    obtain ⟨hl, f0, f1, f2, f3, f4, f5, e0, e1, e2, e3⟩ := lay16 (c0 := 3) (c1 := 37) (c2 := 3) (c3 := 0) (c4 := 0) (c5 := 0) hw rfl (by decide) (by decide) (by decide) (by decide) (by decide) (by decide)
    exact ⟨hl, f0, no_port f1 (by decide), (row_25 f1).trans (by simp [decodeMaj25, fixedAt, f2, f3, f4, f5, e0, e1, e2, e3])⟩

theorem ld (d : BitVec 6) (s : BitVec 6) (o : BitVec 6) (z : BitVec 2) (g : BitVec 4) : Statement (.ld d s o z g) :=
  of_long (0x9b + put d 26 + put s 20 + put o 14 + put z 12 + put g 8) rfl fun hwf ww hw => by
    obtain ⟨hl, f0, f1, e0, e1, e2, e3, e4⟩ := lay12 (c0 := 3) (c1 := 38) hw rfl (by decide) (by decide)
    exact ⟨hl, f0, no_port f1 (by decide), (row_26 f1).trans (by simp [decodeMaj26, e0, e1, e2, e3, e4])⟩

theorem st (d : BitVec 6) (s : BitVec 6) (o : BitVec 6) (z : BitVec 2) (g : BitVec 4) : Statement (.st d s o z g) :=
  of_long (0x9f + put d 26 + put s 20 + put o 14 + put z 12 + put g 8) rfl fun hwf ww hw => by
    obtain ⟨hl, f0, f1, e0, e1, e2, e3, e4⟩ := lay12 (c0 := 3) (c1 := 39) hw rfl (by decide) (by decide)
    exact ⟨hl, f0, no_port f1 (by decide), (row_27 f1).trans (by simp [decodeMaj27, e0, e1, e2, e3, e4])⟩

theorem ldg (d : BitVec 6) (a : BitVec 6) (b : BitVec 6) (g : BitVec 4) : Statement (.ldg d a b g) :=
  of_long (0xa3 + put d 26 + put a 20 + put b 14 + put g 8) rfl fun hwf ww hw => by
    obtain ⟨hl, f0, f1, f2, e0, e1, e2, e3⟩ := lay9 (c0 := 3) (c1 := 40) (c2 := 0) hw rfl (by decide) (by decide) (by decide)
    exact ⟨hl, f0, no_port f1 (by decide), (row_28 f1).trans (by simp [decodeMaj28, fixedAt, f2, e0, e1, e2, e3])⟩

theorem stg (d : BitVec 6) (a : BitVec 6) (b : BitVec 6) (g : BitVec 4) : Statement (.stg d a b g) :=
  of_long (0x10a3 + put d 26 + put a 20 + put b 14 + put g 8) rfl fun hwf ww hw => by
    obtain ⟨hl, f0, f1, f2, e0, e1, e2, e3⟩ := lay9 (c0 := 3) (c1 := 40) (c2 := 1) hw rfl (by decide) (by decide) (by decide)
    exact ⟨hl, f0, no_port f1 (by decide), (row_28 f1).trans (by simp [decodeMaj28, fixedAt, f2, e0, e1, e2, e3])⟩

theorem ldg16 (d : BitVec 6) (a : BitVec 6) (b : BitVec 6) (g : BitVec 4) : Statement (.ldg16 d a b g) :=
  of_long (0x20a3 + put d 26 + put a 20 + put b 14 + put g 8) rfl fun hwf ww hw => by
    obtain ⟨hl, f0, f1, f2, e0, e1, e2, e3⟩ := lay9 (c0 := 3) (c1 := 40) (c2 := 2) hw rfl (by decide) (by decide) (by decide)
    exact ⟨hl, f0, no_port f1 (by decide), (row_28 f1).trans (by simp [decodeMaj28, fixedAt, f2, e0, e1, e2, e3])⟩

theorem stg16 (d : BitVec 6) (a : BitVec 6) (b : BitVec 6) (g : BitVec 4) : Statement (.stg16 d a b g) :=
  of_long (0x30a3 + put d 26 + put a 20 + put b 14 + put g 8) rfl fun hwf ww hw => by
    obtain ⟨hl, f0, f1, f2, e0, e1, e2, e3⟩ := lay9 (c0 := 3) (c1 := 40) (c2 := 3) hw rfl (by decide) (by decide) (by decide)
    exact ⟨hl, f0, no_port f1 (by decide), (row_28 f1).trans (by simp [decodeMaj28, fixedAt, f2, e0, e1, e2, e3])⟩

theorem lds (d : BitVec 6) (s : BitVec 6) (o : BitVec 6) (z : BitVec 2) (g : BitVec 4) : Statement (.lds d s o z g) :=
  of_long (0xa7 + put d 26 + put s 20 + put o 14 + put z 12 + put g 8) rfl fun hwf ww hw => by
    obtain ⟨hl, f0, f1, e0, e1, e2, e3, e4⟩ := lay12 (c0 := 3) (c1 := 41) hw rfl (by decide) (by decide)
    exact ⟨hl, f0, no_port f1 (by decide), (row_29 f1).trans (by simp [decodeMaj29, e0, e1, e2, e3, e4])⟩

theorem sts (d : BitVec 6) (s : BitVec 6) (o : BitVec 6) (z : BitVec 2) (g : BitVec 4) : Statement (.sts d s o z g) :=
  of_long (0xab + put d 26 + put s 20 + put o 14 + put z 12 + put g 8) rfl fun hwf ww hw => by
    obtain ⟨hl, f0, f1, e0, e1, e2, e3, e4⟩ := lay12 (c0 := 3) (c1 := 42) hw rfl (by decide) (by decide)
    exact ⟨hl, f0, no_port f1 (by decide), (row_2A f1).trans (by simp [decodeMaj2A, e0, e1, e2, e3, e4])⟩

theorem ldsAcq (d : BitVec 6) (s : BitVec 6) (o : BitVec 6) (g : BitVec 4) : Statement (.ldsAcq d s o g) :=
  of_long (0xaf + put d 26 + put s 20 + put o 14 + put g 8) rfl fun hwf ww hw => by
    obtain ⟨hl, f0, f1, f2, e0, e1, e2, e3⟩ := lay9 (c0 := 3) (c1 := 43) (c2 := 0) hw rfl (by decide) (by decide) (by decide)
    exact ⟨hl, f0, no_port f1 (by decide), (row_2B f1).trans (by simp [decodeMaj2B, fixedAt, f2, e0, e1, e2, e3])⟩

theorem stsRel (d : BitVec 6) (s : BitVec 6) (o : BitVec 6) (g : BitVec 4) : Statement (.stsRel d s o g) :=
  of_long (0x10af + put d 26 + put s 20 + put o 14 + put g 8) rfl fun hwf ww hw => by
    obtain ⟨hl, f0, f1, f2, e0, e1, e2, e3⟩ := lay9 (c0 := 3) (c1 := 43) (c2 := 1) hw rfl (by decide) (by decide) (by decide)
    exact ⟨hl, f0, no_port f1 (by decide), (row_2B f1).trans (by simp [decodeMaj2B, fixedAt, f2, e0, e1, e2, e3])⟩

theorem fenceAcq (s : BitVec 2) (g : BitVec 4) : Statement (.fenceAcq s g) :=
  of_long (0xb3 + put s 12 + put g 8) rfl fun hwf ww hw => by
    obtain ⟨hl, f0, f1, f2, e0, e1⟩ := lay17 (c0 := 3) (c1 := 44) (c2 := 0) hw rfl (by decide) (by decide) (by decide)
    exact ⟨hl, f0, no_port f1 (by decide), (row_2C f1).trans (by simp [decodeMaj2C, fixedAt, f2, e0, e1])⟩

theorem fenceRel (s : BitVec 2) (g : BitVec 4) : Statement (.fenceRel s g) :=
  of_long (0x40b3 + put s 12 + put g 8) rfl fun hwf ww hw => by
    obtain ⟨hl, f0, f1, f2, e0, e1⟩ := lay17 (c0 := 3) (c1 := 44) (c2 := 1) hw rfl (by decide) (by decide) (by decide)
    exact ⟨hl, f0, no_port f1 (by decide), (row_2C f1).trans (by simp [decodeMaj2C, fixedAt, f2, e0, e1])⟩

theorem fenceAr (s : BitVec 2) (g : BitVec 4) : Statement (.fenceAr s g) :=
  of_long (0x80b3 + put s 12 + put g 8) rfl fun hwf ww hw => by
    obtain ⟨hl, f0, f1, f2, e0, e1⟩ := lay17 (c0 := 3) (c1 := 44) (c2 := 2) hw rfl (by decide) (by decide) (by decide)
    exact ⟨hl, f0, no_port f1 (by decide), (row_2C f1).trans (by simp [decodeMaj2C, fixedAt, f2, e0, e1])⟩

theorem fenceSc (s : BitVec 2) (g : BitVec 4) : Statement (.fenceSc s g) :=
  of_long (0xc0b3 + put s 12 + put g 8) rfl fun hwf ww hw => by
    obtain ⟨hl, f0, f1, f2, e0, e1⟩ := lay17 (c0 := 3) (c1 := 44) (c2 := 3) hw rfl (by decide) (by decide) (by decide)
    exact ⟨hl, f0, no_port f1 (by decide), (row_2C f1).trans (by simp [decodeMaj2C, fixedAt, f2, e0, e1])⟩

theorem qsync (g : BitVec 4) : Statement (.qsync g) :=
  of_long (0x100b3 + put g 8) rfl fun hwf ww hw => by
    obtain ⟨hl, f0, f1, f2, e0⟩ := lay3 (c0 := 3) (c1 := 44) (c2 := 16) hw rfl (by decide) (by decide) (by decide)
    have k0 : ww / 16384 % 262144 = 4 := by clear hw e0; omega
    exact ⟨hl, f0, no_port f1 (by decide), (row_2C f1).trans (by simp [decodeMaj2C, fixedAt, f2, k0, e0])⟩

theorem afence (g : BitVec 4) : Statement (.afence g) :=
  of_long (0x110b3 + put g 8) rfl fun hwf ww hw => by
    obtain ⟨hl, f0, f1, f2, e0⟩ := lay3 (c0 := 3) (c1 := 44) (c2 := 17) hw rfl (by decide) (by decide) (by decide)
    have k0 : ww / 16384 % 262144 = 4 := by clear hw e0; omega
    exact ⟨hl, f0, no_port f1 (by decide), (row_2C f1).trans (by simp [decodeMaj2C, fixedAt, f2, k0, e0])⟩

theorem cclean (n : BitVec 6) (a : BitVec 6) (g : BitVec 4) : Statement (.cclean n a g) :=
  of_long (0x120b3 + put n 26 + put a 20 + put g 8) rfl fun hwf ww hw => by
    obtain ⟨hl, f0, f1, f2, e0, e1, e2⟩ := lay8 (c0 := 3) (c1 := 44) (c2 := 18) hw rfl (by decide) (by decide) (by decide)
    have k0 : ww / 16384 % 262144 ≠ 0 := by clear hw e0 e1 e2; omega
    have k1 : ww / 16384 % 262144 ≠ 1 := by clear hw e0 e1 e2; omega
    have k2 : ww / 16384 % 262144 ≠ 2 := by clear hw e0 e1 e2; omega
    have k3 : ww / 16384 % 262144 ≠ 3 := by clear hw e0 e1 e2; omega
    have k4 : ww / 4096 % 1048576 ≠ 16 := by clear hw e0 e1 e2; omega
    have k5 : ww / 4096 % 1048576 ≠ 17 := by clear hw e0 e1 e2; omega
    exact ⟨hl, f0, no_port f1 (by decide), (row_2C f1).trans (by simp [decodeMaj2C, fixedAt, f2, k0, k1, k2, k3, k4, k5, e0, e1, e2])⟩

theorem cflush (n : BitVec 6) (a : BitVec 6) (g : BitVec 4) : Statement (.cflush n a g) :=
  of_long (0x130b3 + put n 26 + put a 20 + put g 8) rfl fun hwf ww hw => by
    obtain ⟨hl, f0, f1, f2, e0, e1, e2⟩ := lay8 (c0 := 3) (c1 := 44) (c2 := 19) hw rfl (by decide) (by decide) (by decide)
    have k0 : ww / 16384 % 262144 ≠ 0 := by clear hw e0 e1 e2; omega
    have k1 : ww / 16384 % 262144 ≠ 1 := by clear hw e0 e1 e2; omega
    have k2 : ww / 16384 % 262144 ≠ 2 := by clear hw e0 e1 e2; omega
    have k3 : ww / 16384 % 262144 ≠ 3 := by clear hw e0 e1 e2; omega
    have k4 : ww / 4096 % 1048576 ≠ 16 := by clear hw e0 e1 e2; omega
    have k5 : ww / 4096 % 1048576 ≠ 17 := by clear hw e0 e1 e2; omega
    exact ⟨hl, f0, no_port f1 (by decide), (row_2C f1).trans (by simp [decodeMaj2C, fixedAt, f2, k0, k1, k2, k3, k4, k5, e0, e1, e2])⟩

theorem cinv (n : BitVec 6) (a : BitVec 6) (g : BitVec 4) : Statement (.cinv n a g) :=
  of_long (0x140b3 + put n 26 + put a 20 + put g 8) rfl fun hwf ww hw => by
    obtain ⟨hl, f0, f1, f2, e0, e1, e2⟩ := lay8 (c0 := 3) (c1 := 44) (c2 := 20) hw rfl (by decide) (by decide) (by decide)
    have k0 : ww / 16384 % 262144 ≠ 0 := by clear hw e0 e1 e2; omega
    have k1 : ww / 16384 % 262144 ≠ 1 := by clear hw e0 e1 e2; omega
    have k2 : ww / 16384 % 262144 ≠ 2 := by clear hw e0 e1 e2; omega
    have k3 : ww / 16384 % 262144 ≠ 3 := by clear hw e0 e1 e2; omega
    have k4 : ww / 4096 % 1048576 ≠ 16 := by clear hw e0 e1 e2; omega
    have k5 : ww / 4096 % 1048576 ≠ 17 := by clear hw e0 e1 e2; omega
    exact ⟨hl, f0, no_port f1 (by decide), (row_2C f1).trans (by simp [decodeMaj2C, fixedAt, f2, k0, k1, k2, k3, k4, k5, e0, e1, e2])⟩

theorem prefetch (n : BitVec 6) (a : BitVec 6) (g : BitVec 4) : Statement (.prefetch n a g) :=
  of_long (0x150b3 + put n 26 + put a 20 + put g 8) rfl fun hwf ww hw => by
    obtain ⟨hl, f0, f1, f2, e0, e1, e2⟩ := lay8 (c0 := 3) (c1 := 44) (c2 := 21) hw rfl (by decide) (by decide) (by decide)
    have k0 : ww / 16384 % 262144 ≠ 0 := by clear hw e0 e1 e2; omega
    have k1 : ww / 16384 % 262144 ≠ 1 := by clear hw e0 e1 e2; omega
    have k2 : ww / 16384 % 262144 ≠ 2 := by clear hw e0 e1 e2; omega
    have k3 : ww / 16384 % 262144 ≠ 3 := by clear hw e0 e1 e2; omega
    have k4 : ww / 4096 % 1048576 ≠ 16 := by clear hw e0 e1 e2; omega
    have k5 : ww / 4096 % 1048576 ≠ 17 := by clear hw e0 e1 e2; omega
    exact ⟨hl, f0, no_port f1 (by decide), (row_2C f1).trans (by simp [decodeMaj2C, fixedAt, f2, k0, k1, k2, k3, k4, k5, e0, e1, e2])⟩

theorem atomAdd (d : BitVec 6) (a : BitVec 6) (b : BitVec 6) (g : BitVec 4) : Statement (.atomAdd d a b g) :=
  of_long (0xb7 + put d 26 + put a 20 + put b 14 + put g 8) rfl fun hwf ww hw => by
    obtain ⟨hl, f0, f1, f2, e0, e1, e2, e3⟩ := lay9 (c0 := 3) (c1 := 45) (c2 := 0) hw rfl (by decide) (by decide) (by decide)
    have k0 : ww / 67108864 % 64 ≠ 60 := red_not e0 hwf
    exact ⟨hl, f0, no_port f1 (by decide), (row_2D f1).trans (by simp [decodeMaj2D, fixedAt, f2, k0, e0, e1, e2, e3])⟩

theorem atomAnd (d : BitVec 6) (a : BitVec 6) (b : BitVec 6) (g : BitVec 4) : Statement (.atomAnd d a b g) :=
  of_long (0x10b7 + put d 26 + put a 20 + put b 14 + put g 8) rfl fun hwf ww hw => by
    obtain ⟨hl, f0, f1, f2, e0, e1, e2, e3⟩ := lay9 (c0 := 3) (c1 := 45) (c2 := 1) hw rfl (by decide) (by decide) (by decide)
    have k0 : ww / 67108864 % 64 ≠ 60 := red_not e0 hwf
    exact ⟨hl, f0, no_port f1 (by decide), (row_2D f1).trans (by simp [decodeMaj2D, fixedAt, f2, k0, e0, e1, e2, e3])⟩

theorem atomOr (d : BitVec 6) (a : BitVec 6) (b : BitVec 6) (g : BitVec 4) : Statement (.atomOr d a b g) :=
  of_long (0x20b7 + put d 26 + put a 20 + put b 14 + put g 8) rfl fun hwf ww hw => by
    obtain ⟨hl, f0, f1, f2, e0, e1, e2, e3⟩ := lay9 (c0 := 3) (c1 := 45) (c2 := 2) hw rfl (by decide) (by decide) (by decide)
    have k0 : ww / 67108864 % 64 ≠ 60 := red_not e0 hwf
    exact ⟨hl, f0, no_port f1 (by decide), (row_2D f1).trans (by simp [decodeMaj2D, fixedAt, f2, k0, e0, e1, e2, e3])⟩

theorem atomXor (d : BitVec 6) (a : BitVec 6) (b : BitVec 6) (g : BitVec 4) : Statement (.atomXor d a b g) :=
  of_long (0x30b7 + put d 26 + put a 20 + put b 14 + put g 8) rfl fun hwf ww hw => by
    obtain ⟨hl, f0, f1, f2, e0, e1, e2, e3⟩ := lay9 (c0 := 3) (c1 := 45) (c2 := 3) hw rfl (by decide) (by decide) (by decide)
    have k0 : ww / 67108864 % 64 ≠ 60 := red_not e0 hwf
    exact ⟨hl, f0, no_port f1 (by decide), (row_2D f1).trans (by simp [decodeMaj2D, fixedAt, f2, k0, e0, e1, e2, e3])⟩

theorem atomMin (d : BitVec 6) (a : BitVec 6) (b : BitVec 6) (g : BitVec 4) : Statement (.atomMin d a b g) :=
  of_long (0xbb + put d 26 + put a 20 + put b 14 + put g 8) rfl fun hwf ww hw => by
    obtain ⟨hl, f0, f1, f2, e0, e1, e2, e3⟩ := lay9 (c0 := 3) (c1 := 46) (c2 := 0) hw rfl (by decide) (by decide) (by decide)
    have k0 : ww / 67108864 % 64 ≠ 60 := red_not e0 hwf
    exact ⟨hl, f0, no_port f1 (by decide), (row_2E f1).trans (by simp [decodeMaj2E, fixedAt, f2, k0, e0, e1, e2, e3])⟩

theorem atomMax (d : BitVec 6) (a : BitVec 6) (b : BitVec 6) (g : BitVec 4) : Statement (.atomMax d a b g) :=
  of_long (0x10bb + put d 26 + put a 20 + put b 14 + put g 8) rfl fun hwf ww hw => by
    obtain ⟨hl, f0, f1, f2, e0, e1, e2, e3⟩ := lay9 (c0 := 3) (c1 := 46) (c2 := 1) hw rfl (by decide) (by decide) (by decide)
    have k0 : ww / 67108864 % 64 ≠ 60 := red_not e0 hwf
    exact ⟨hl, f0, no_port f1 (by decide), (row_2E f1).trans (by simp [decodeMaj2E, fixedAt, f2, k0, e0, e1, e2, e3])⟩

theorem atomMinu (d : BitVec 6) (a : BitVec 6) (b : BitVec 6) (g : BitVec 4) : Statement (.atomMinu d a b g) :=
  of_long (0x20bb + put d 26 + put a 20 + put b 14 + put g 8) rfl fun hwf ww hw => by
    obtain ⟨hl, f0, f1, f2, e0, e1, e2, e3⟩ := lay9 (c0 := 3) (c1 := 46) (c2 := 2) hw rfl (by decide) (by decide) (by decide)
    have k0 : ww / 67108864 % 64 ≠ 60 := red_not e0 hwf
    exact ⟨hl, f0, no_port f1 (by decide), (row_2E f1).trans (by simp [decodeMaj2E, fixedAt, f2, k0, e0, e1, e2, e3])⟩

theorem atomMaxu (d : BitVec 6) (a : BitVec 6) (b : BitVec 6) (g : BitVec 4) : Statement (.atomMaxu d a b g) :=
  of_long (0x30bb + put d 26 + put a 20 + put b 14 + put g 8) rfl fun hwf ww hw => by
    obtain ⟨hl, f0, f1, f2, e0, e1, e2, e3⟩ := lay9 (c0 := 3) (c1 := 46) (c2 := 3) hw rfl (by decide) (by decide) (by decide)
    have k0 : ww / 67108864 % 64 ≠ 60 := red_not e0 hwf
    exact ⟨hl, f0, no_port f1 (by decide), (row_2E f1).trans (by simp [decodeMaj2E, fixedAt, f2, k0, e0, e1, e2, e3])⟩

theorem atomXchg (d : BitVec 6) (a : BitVec 6) (b : BitVec 6) (g : BitVec 4) : Statement (.atomXchg d a b g) :=
  of_long (0xbf + put d 26 + put a 20 + put b 14 + put g 8) rfl fun hwf ww hw => by
    obtain ⟨hl, f0, f1, f2, e0, e1, e2, e3⟩ := lay9 (c0 := 3) (c1 := 47) (c2 := 0) hw rfl (by decide) (by decide) (by decide)
    have k0 : ww / 67108864 % 64 ≠ 60 := red_not e0 hwf
    exact ⟨hl, f0, no_port f1 (by decide), (row_2F f1).trans (by simp [decodeMaj2F, fixedAt, f2, k0, e0, e1, e2, e3])⟩

theorem atomCas (d : BitVec 6) (a : BitVec 6) (b : BitVec 6) (g : BitVec 4) : Statement (.atomCas d a b g) :=
  of_long (0x10bf + put d 26 + put a 20 + put b 14 + put g 8) rfl fun hwf ww hw => by
    obtain ⟨hl, f0, f1, f2, e0, e1, e2, e3⟩ := lay9 (c0 := 3) (c1 := 47) (c2 := 1) hw rfl (by decide) (by decide) (by decide)
    have k0 : ww / 67108864 % 64 ≠ 60 := red_not e0 hwf
    exact ⟨hl, f0, no_port f1 (by decide), (row_2F f1).trans (by simp [decodeMaj2F, fixedAt, f2, k0, e0, e1, e2, e3])⟩

theorem atomFaddF32 (d : BitVec 6) (a : BitVec 6) (b : BitVec 6) (g : BitVec 4) : Statement (.atomFaddF32 d a b g) :=
  of_long (0x20bf + put d 26 + put a 20 + put b 14 + put g 8) rfl fun hwf ww hw => by
    obtain ⟨hl, f0, f1, f2, e0, e1, e2, e3⟩ := lay9 (c0 := 3) (c1 := 47) (c2 := 2) hw rfl (by decide) (by decide) (by decide)
    have k0 : ww / 67108864 % 64 ≠ 60 := red_not e0 hwf
    exact ⟨hl, f0, no_port f1 (by decide), (row_2F f1).trans (by simp [decodeMaj2F, fixedAt, f2, k0, e0, e1, e2, e3])⟩

theorem atomFaddBf16x2 (d : BitVec 6) (a : BitVec 6) (b : BitVec 6) (g : BitVec 4) : Statement (.atomFaddBf16x2 d a b g) :=
  of_long (0x30bf + put d 26 + put a 20 + put b 14 + put g 8) rfl fun hwf ww hw => by
    obtain ⟨hl, f0, f1, f2, e0, e1, e2, e3⟩ := lay9 (c0 := 3) (c1 := 47) (c2 := 3) hw rfl (by decide) (by decide) (by decide)
    have k0 : ww / 67108864 % 64 ≠ 60 := red_not e0 hwf
    exact ⟨hl, f0, no_port f1 (by decide), (row_2F f1).trans (by simp [decodeMaj2F, fixedAt, f2, k0, e0, e1, e2, e3])⟩

theorem redAdd (a : BitVec 6) (b : BitVec 6) (g : BitVec 4) : Statement (.redAdd a b g) :=
  of_long (0xf00000b7 + put a 20 + put b 14 + put g 8) rfl fun hwf ww hw => by
    obtain ⟨hl, f0, f1, f2, f3, e0, e1, e2⟩ := lay18 (c0 := 3) (c1 := 45) (c2 := 0) (c3 := 60) hw rfl (by decide) (by decide) (by decide) (by decide)
    exact ⟨hl, f0, no_port f1 (by decide), (row_2D f1).trans (by simp [decodeMaj2D, fixedAt, f2, f3, e0, e1, e2])⟩

theorem redAnd (a : BitVec 6) (b : BitVec 6) (g : BitVec 4) : Statement (.redAnd a b g) :=
  of_long (0xf00010b7 + put a 20 + put b 14 + put g 8) rfl fun hwf ww hw => by
    obtain ⟨hl, f0, f1, f2, f3, e0, e1, e2⟩ := lay18 (c0 := 3) (c1 := 45) (c2 := 1) (c3 := 60) hw rfl (by decide) (by decide) (by decide) (by decide)
    exact ⟨hl, f0, no_port f1 (by decide), (row_2D f1).trans (by simp [decodeMaj2D, fixedAt, f2, f3, e0, e1, e2])⟩

theorem redOr (a : BitVec 6) (b : BitVec 6) (g : BitVec 4) : Statement (.redOr a b g) :=
  of_long (0xf00020b7 + put a 20 + put b 14 + put g 8) rfl fun hwf ww hw => by
    obtain ⟨hl, f0, f1, f2, f3, e0, e1, e2⟩ := lay18 (c0 := 3) (c1 := 45) (c2 := 2) (c3 := 60) hw rfl (by decide) (by decide) (by decide) (by decide)
    exact ⟨hl, f0, no_port f1 (by decide), (row_2D f1).trans (by simp [decodeMaj2D, fixedAt, f2, f3, e0, e1, e2])⟩

theorem redXor (a : BitVec 6) (b : BitVec 6) (g : BitVec 4) : Statement (.redXor a b g) :=
  of_long (0xf00030b7 + put a 20 + put b 14 + put g 8) rfl fun hwf ww hw => by
    obtain ⟨hl, f0, f1, f2, f3, e0, e1, e2⟩ := lay18 (c0 := 3) (c1 := 45) (c2 := 3) (c3 := 60) hw rfl (by decide) (by decide) (by decide) (by decide)
    exact ⟨hl, f0, no_port f1 (by decide), (row_2D f1).trans (by simp [decodeMaj2D, fixedAt, f2, f3, e0, e1, e2])⟩

theorem redMin (a : BitVec 6) (b : BitVec 6) (g : BitVec 4) : Statement (.redMin a b g) :=
  of_long (0xf00000bb + put a 20 + put b 14 + put g 8) rfl fun hwf ww hw => by
    obtain ⟨hl, f0, f1, f2, f3, e0, e1, e2⟩ := lay18 (c0 := 3) (c1 := 46) (c2 := 0) (c3 := 60) hw rfl (by decide) (by decide) (by decide) (by decide)
    exact ⟨hl, f0, no_port f1 (by decide), (row_2E f1).trans (by simp [decodeMaj2E, fixedAt, f2, f3, e0, e1, e2])⟩

theorem redMax (a : BitVec 6) (b : BitVec 6) (g : BitVec 4) : Statement (.redMax a b g) :=
  of_long (0xf00010bb + put a 20 + put b 14 + put g 8) rfl fun hwf ww hw => by
    obtain ⟨hl, f0, f1, f2, f3, e0, e1, e2⟩ := lay18 (c0 := 3) (c1 := 46) (c2 := 1) (c3 := 60) hw rfl (by decide) (by decide) (by decide) (by decide)
    exact ⟨hl, f0, no_port f1 (by decide), (row_2E f1).trans (by simp [decodeMaj2E, fixedAt, f2, f3, e0, e1, e2])⟩

theorem redMinu (a : BitVec 6) (b : BitVec 6) (g : BitVec 4) : Statement (.redMinu a b g) :=
  of_long (0xf00020bb + put a 20 + put b 14 + put g 8) rfl fun hwf ww hw => by
    obtain ⟨hl, f0, f1, f2, f3, e0, e1, e2⟩ := lay18 (c0 := 3) (c1 := 46) (c2 := 2) (c3 := 60) hw rfl (by decide) (by decide) (by decide) (by decide)
    exact ⟨hl, f0, no_port f1 (by decide), (row_2E f1).trans (by simp [decodeMaj2E, fixedAt, f2, f3, e0, e1, e2])⟩

theorem redMaxu (a : BitVec 6) (b : BitVec 6) (g : BitVec 4) : Statement (.redMaxu a b g) :=
  of_long (0xf00030bb + put a 20 + put b 14 + put g 8) rfl fun hwf ww hw => by
    obtain ⟨hl, f0, f1, f2, f3, e0, e1, e2⟩ := lay18 (c0 := 3) (c1 := 46) (c2 := 3) (c3 := 60) hw rfl (by decide) (by decide) (by decide) (by decide)
    exact ⟨hl, f0, no_port f1 (by decide), (row_2E f1).trans (by simp [decodeMaj2E, fixedAt, f2, f3, e0, e1, e2])⟩

theorem redXchg (a : BitVec 6) (b : BitVec 6) (g : BitVec 4) : Statement (.redXchg a b g) :=
  of_long (0xf00000bf + put a 20 + put b 14 + put g 8) rfl fun hwf ww hw => by
    obtain ⟨hl, f0, f1, f2, f3, e0, e1, e2⟩ := lay18 (c0 := 3) (c1 := 47) (c2 := 0) (c3 := 60) hw rfl (by decide) (by decide) (by decide) (by decide)
    exact ⟨hl, f0, no_port f1 (by decide), (row_2F f1).trans (by simp [decodeMaj2F, fixedAt, f2, f3, e0, e1, e2])⟩

theorem redCas (a : BitVec 6) (b : BitVec 6) (g : BitVec 4) : Statement (.redCas a b g) :=
  of_long (0xf00010bf + put a 20 + put b 14 + put g 8) rfl fun hwf ww hw => by
    obtain ⟨hl, f0, f1, f2, f3, e0, e1, e2⟩ := lay18 (c0 := 3) (c1 := 47) (c2 := 1) (c3 := 60) hw rfl (by decide) (by decide) (by decide) (by decide)
    exact ⟨hl, f0, no_port f1 (by decide), (row_2F f1).trans (by simp [decodeMaj2F, fixedAt, f2, f3, e0, e1, e2])⟩

theorem redFaddF32 (a : BitVec 6) (b : BitVec 6) (g : BitVec 4) : Statement (.redFaddF32 a b g) :=
  of_long (0xf00020bf + put a 20 + put b 14 + put g 8) rfl fun hwf ww hw => by
    obtain ⟨hl, f0, f1, f2, f3, e0, e1, e2⟩ := lay18 (c0 := 3) (c1 := 47) (c2 := 2) (c3 := 60) hw rfl (by decide) (by decide) (by decide) (by decide)
    exact ⟨hl, f0, no_port f1 (by decide), (row_2F f1).trans (by simp [decodeMaj2F, fixedAt, f2, f3, e0, e1, e2])⟩

theorem redFaddBf16x2 (a : BitVec 6) (b : BitVec 6) (g : BitVec 4) : Statement (.redFaddBf16x2 a b g) :=
  of_long (0xf00030bf + put a 20 + put b 14 + put g 8) rfl fun hwf ww hw => by
    obtain ⟨hl, f0, f1, f2, f3, e0, e1, e2⟩ := lay18 (c0 := 3) (c1 := 47) (c2 := 3) (c3 := 60) hw rfl (by decide) (by decide) (by decide) (by decide)
    exact ⟨hl, f0, no_port f1 (by decide), (row_2F f1).trans (by simp [decodeMaj2F, fixedAt, f2, f3, e0, e1, e2])⟩

theorem arb (o : BitVec 14) (g : BitVec 4) : Statement (.arb o g) :=
  of_long (0xc3 + put o 12 + put g 8) rfl fun hwf ww hw => by
    obtain ⟨hl, f0, f1, f2, e0, e1⟩ := lay0 (c0 := 3) (c1 := 48) (c2 := 0) hw rfl (by decide) (by decide) (by decide)
    exact ⟨hl, f0, no_port f1 (by decide), (row_30 f1).trans (by simp [decodeMaj30, fixedAt, f2, e0, e1])⟩

theorem finc (x : BitVec 6) (y : BitVec 6) (g : BitVec 4) : Statement (.finc x y g) :=
  of_long (0xc7 + put x 26 + put y 20 + put g 8) rfl fun hwf ww hw => by
    obtain ⟨hl, f0, f1, f2, e0, e1, e2⟩ := lay8 (c0 := 3) (c1 := 49) (c2 := 0) hw rfl (by decide) (by decide) (by decide)
    exact ⟨hl, f0, no_port f1 (by decide), (row_31 f1).trans (by simp [decodeMaj31, fixedAt, f2, e0, e1, e2])⟩

theorem fset (x : BitVec 6) (y : BitVec 6) (g : BitVec 4) : Statement (.fset x y g) :=
  of_long (0x10c7 + put x 26 + put y 20 + put g 8) rfl fun hwf ww hw => by
    obtain ⟨hl, f0, f1, f2, e0, e1, e2⟩ := lay8 (c0 := 3) (c1 := 49) (c2 := 1) hw rfl (by decide) (by decide) (by decide)
    exact ⟨hl, f0, no_port f1 (by decide), (row_31 f1).trans (by simp [decodeMaj31, fixedAt, f2, e0, e1, e2])⟩

theorem fwait (x : BitVec 6) (y : BitVec 6) (g : BitVec 4) : Statement (.fwait x y g) :=
  of_long (0x20c7 + put x 26 + put y 20 + put g 8) rfl fun hwf ww hw => by
    obtain ⟨hl, f0, f1, f2, e0, e1, e2⟩ := lay8 (c0 := 3) (c1 := 49) (c2 := 2) hw rfl (by decide) (by decide) (by decide)
    exact ⟨hl, f0, no_port f1 (by decide), (row_31 f1).trans (by simp [decodeMaj31, fixedAt, f2, e0, e1, e2])⟩

theorem fread (x : BitVec 6) (y : BitVec 6) (g : BitVec 4) : Statement (.fread x y g) :=
  of_long (0x30c7 + put x 26 + put y 20 + put g 8) rfl fun hwf ww hw => by
    obtain ⟨hl, f0, f1, f2, e0, e1, e2⟩ := lay8 (c0 := 3) (c1 := 49) (c2 := 3) hw rfl (by decide) (by decide) (by decide)
    exact ⟨hl, f0, no_port f1 (by decide), (row_31 f1).trans (by simp [decodeMaj31, fixedAt, f2, e0, e1, e2])⟩

theorem barInit (x : BitVec 6) (y : BitVec 6) (g : BitVec 4) : Statement (.barInit x y g) :=
  of_long (0xcb + put x 26 + put y 20 + put g 8) rfl fun hwf ww hw => by
    obtain ⟨hl, f0, f1, f2, e0, e1, e2⟩ := lay8 (c0 := 3) (c1 := 50) (c2 := 0) hw rfl (by decide) (by decide) (by decide)
    exact ⟨hl, f0, no_port f1 (by decide), (row_32 f1).trans (by simp [decodeMaj32, fixedAt, f2, e0, e1, e2])⟩

theorem barArrive (x : BitVec 6) (y : BitVec 6) (g : BitVec 4) : Statement (.barArrive x y g) :=
  of_long (0x10cb + put x 26 + put y 20 + put g 8) rfl fun hwf ww hw => by
    obtain ⟨hl, f0, f1, f2, e0, e1, e2⟩ := lay8 (c0 := 3) (c1 := 50) (c2 := 1) hw rfl (by decide) (by decide) (by decide)
    exact ⟨hl, f0, no_port f1 (by decide), (row_32 f1).trans (by simp [decodeMaj32, fixedAt, f2, e0, e1, e2])⟩

theorem barExpect (x : BitVec 6) (y : BitVec 6) (g : BitVec 4) : Statement (.barExpect x y g) :=
  of_long (0x20cb + put x 26 + put y 20 + put g 8) rfl fun hwf ww hw => by
    obtain ⟨hl, f0, f1, f2, e0, e1, e2⟩ := lay8 (c0 := 3) (c1 := 50) (c2 := 2) hw rfl (by decide) (by decide) (by decide)
    exact ⟨hl, f0, no_port f1 (by decide), (row_32 f1).trans (by simp [decodeMaj32, fixedAt, f2, e0, e1, e2])⟩

theorem barWait (x : BitVec 6) (y : BitVec 6) (g : BitVec 4) : Statement (.barWait x y g) :=
  of_long (0x30cb + put x 26 + put y 20 + put g 8) rfl fun hwf ww hw => by
    obtain ⟨hl, f0, f1, f2, e0, e1, e2⟩ := lay8 (c0 := 3) (c1 := 50) (c2 := 3) hw rfl (by decide) (by decide) (by decide)
    exact ⟨hl, f0, no_port f1 (by decide), (row_32 f1).trans (by simp [decodeMaj32, fixedAt, f2, e0, e1, e2])⟩

theorem futRes (x : BitVec 6) (y : BitVec 6) (g : BitVec 4) : Statement (.futRes x y g) :=
  of_long (0xcf + put x 26 + put y 20 + put g 8) rfl fun hwf ww hw => by
    obtain ⟨hl, f0, f1, f2, e0, e1, e2⟩ := lay8 (c0 := 3) (c1 := 51) (c2 := 0) hw rfl (by decide) (by decide) (by decide)
    exact ⟨hl, f0, no_port f1 (by decide), (row_33 f1).trans (by simp [decodeMaj33, fixedAt, f2, e0, e1, e2])⟩

theorem futReg (x : BitVec 6) (y : BitVec 6) (g : BitVec 4) : Statement (.futReg x y g) :=
  of_long (0x10cf + put x 26 + put y 20 + put g 8) rfl fun hwf ww hw => by
    obtain ⟨hl, f0, f1, f2, e0, e1, e2⟩ := lay8 (c0 := 3) (c1 := 51) (c2 := 1) hw rfl (by decide) (by decide) (by decide)
    exact ⟨hl, f0, no_port f1 (by decide), (row_33 f1).trans (by simp [decodeMaj33, fixedAt, f2, e0, e1, e2])⟩

theorem futFail (x : BitVec 6) (y : BitVec 6) (g : BitVec 4) : Statement (.futFail x y g) :=
  of_long (0x20cf + put x 26 + put y 20 + put g 8) rfl fun hwf ww hw => by
    obtain ⟨hl, f0, f1, f2, e0, e1, e2⟩ := lay8 (c0 := 3) (c1 := 51) (c2 := 2) hw rfl (by decide) (by decide) (by decide)
    exact ⟨hl, f0, no_port f1 (by decide), (row_33 f1).trans (by simp [decodeMaj33, fixedAt, f2, e0, e1, e2])⟩

theorem futGet (x : BitVec 6) (y : BitVec 6) (w : BitVec 1) (g : BitVec 4) : Statement (.futGet x y w g) :=
  of_long (0x30cf + put x 26 + put y 20 + put w 14 + put g 8) rfl fun hwf ww hw => by
    obtain ⟨hl, f0, f1, f2, f3, e0, e1, e2, e3⟩ := lay19 (c0 := 3) (c1 := 51) (c2 := 3) (c3 := 0) hw rfl (by decide) (by decide) (by decide) (by decide)
    have k0 : ww / 4096 % 256 ≠ 0 := by clear hw e0 e1 e2 e3; omega
    have k1 : ww / 4096 % 256 ≠ 1 := by clear hw e0 e1 e2 e3; omega
    have k2 : ww / 4096 % 256 ≠ 2 := by clear hw e0 e1 e2 e3; omega
    exact ⟨hl, f0, no_port f1 (by decide), (row_33 f1).trans (by simp [decodeMaj33, fixedAt, f2, f3, k0, k1, k2, e0, e1, e2, e3])⟩

theorem ldt (x : BitVec 6) (y : BitVec 6) (z : BitVec 6) (g : BitVec 4) : Statement (.ldt x y z g) :=
  of_long (0xd3 + put x 26 + put y 20 + put z 14 + put g 8) rfl fun hwf ww hw => by
    obtain ⟨hl, f0, f1, f2, e0, e1, e2, e3⟩ := lay9 (c0 := 3) (c1 := 52) (c2 := 0) hw rfl (by decide) (by decide) (by decide)
    exact ⟨hl, f0, no_port f1 (by decide), (row_34 f1).trans (by simp [decodeMaj34, fixedAt, f2, e0, e1, e2, e3])⟩

theorem stt (x : BitVec 6) (y : BitVec 6) (z : BitVec 6) (g : BitVec 4) : Statement (.stt x y z g) :=
  of_long (0x10d3 + put x 26 + put y 20 + put z 14 + put g 8) rfl fun hwf ww hw => by
    obtain ⟨hl, f0, f1, f2, e0, e1, e2, e3⟩ := lay9 (c0 := 3) (c1 := 52) (c2 := 1) hw rfl (by decide) (by decide) (by decide)
    exact ⟨hl, f0, no_port f1 (by decide), (row_34 f1).trans (by simp [decodeMaj34, fixedAt, f2, e0, e1, e2, e3])⟩

theorem copy (x : BitVec 6) (y : BitVec 6) (z : BitVec 6) (g : BitVec 4) : Statement (.copy x y z g) :=
  of_long (0x20d3 + put x 26 + put y 20 + put z 14 + put g 8) rfl fun hwf ww hw => by
    obtain ⟨hl, f0, f1, f2, e0, e1, e2, e3⟩ := lay9 (c0 := 3) (c1 := 52) (c2 := 2) hw rfl (by decide) (by decide) (by decide)
    exact ⟨hl, f0, no_port f1 (by decide), (row_34 f1).trans (by simp [decodeMaj34, fixedAt, f2, e0, e1, e2, e3])⟩

theorem copyResume (x : BitVec 6) (g : BitVec 4) : Statement (.copyResume x g) :=
  of_long (0x30d3 + put x 26 + put g 8) rfl fun hwf ww hw => by
    obtain ⟨hl, f0, f1, f2, e0, e1⟩ := lay6 (c0 := 3) (c1 := 52) (c2 := 3) hw rfl (by decide) (by decide) (by decide)
    have k0 : ww / 4096 % 4 = 3 := by clear hw e0 e1; omega
    exact ⟨hl, f0, no_port f1 (by decide), (row_34 f1).trans (by simp [decodeMaj34, fixedAt, f2, k0, e0, e1])⟩

theorem copyCk (x : BitVec 6) (y : BitVec 6) (z : BitVec 6) (g : BitVec 4) : Statement (.copyCk x y z g) :=
  of_long (0xd7 + put x 26 + put y 20 + put z 14 + put g 8) rfl fun hwf ww hw => by
    obtain ⟨hl, f0, f1, f2, e0, e1, e2, e3⟩ := lay9 (c0 := 3) (c1 := 53) (c2 := 0) hw rfl (by decide) (by decide) (by decide)
    exact ⟨hl, f0, no_port f1 (by decide), (row_35 f1).trans (by simp [decodeMaj35, fixedAt, f2, e0, e1, e2, e3])⟩

theorem copyCkv (x : BitVec 6) (y : BitVec 6) (z : BitVec 6) (g : BitVec 4) : Statement (.copyCkv x y z g) :=
  of_long (0x10d7 + put x 26 + put y 20 + put z 14 + put g 8) rfl fun hwf ww hw => by
    obtain ⟨hl, f0, f1, f2, e0, e1, e2, e3⟩ := lay9 (c0 := 3) (c1 := 53) (c2 := 1) hw rfl (by decide) (by decide) (by decide)
    exact ⟨hl, f0, no_port f1 (by decide), (row_35 f1).trans (by simp [decodeMaj35, fixedAt, f2, e0, e1, e2, e3])⟩

theorem copyRed (x : BitVec 6) (y : BitVec 6) (z : BitVec 6) (g : BitVec 4) : Statement (.copyRed x y z g) :=
  of_long (0x20d7 + put x 26 + put y 20 + put z 14 + put g 8) rfl fun hwf ww hw => by
    obtain ⟨hl, f0, f1, f2, e0, e1, e2, e3⟩ := lay9 (c0 := 3) (c1 := 53) (c2 := 2) hw rfl (by decide) (by decide) (by decide)
    exact ⟨hl, f0, no_port f1 (by decide), (row_35 f1).trans (by simp [decodeMaj35, fixedAt, f2, e0, e1, e2, e3])⟩

theorem copyMc (x : BitVec 6) (y : BitVec 6) (z : BitVec 6) (g : BitVec 4) : Statement (.copyMc x y z g) :=
  of_long (0x30d7 + put x 26 + put y 20 + put z 14 + put g 8) rfl fun hwf ww hw => by
    obtain ⟨hl, f0, f1, f2, e0, e1, e2, e3⟩ := lay9 (c0 := 3) (c1 := 53) (c2 := 3) hw rfl (by decide) (by decide) (by decide)
    exact ⟨hl, f0, no_port f1 (by decide), (row_35 f1).trans (by simp [decodeMaj35, fixedAt, f2, e0, e1, e2, e3])⟩

theorem trec (d : BitVec 6) (r : BitVec 6) (b : BitVec 6) (g : BitVec 4) : Statement (.trec d r b g) :=
  of_long (0x30fb + put d 26 + put r 20 + put b 14 + put g 8) rfl fun hwf ww hw => by
    obtain ⟨hl, f0, f1, f2, e0, e1, e2, e3⟩ := lay9 (c0 := 3) (c1 := 62) (c2 := 3) hw rfl (by decide) (by decide) (by decide)
    exact ⟨hl, f0, no_port f1 (by decide), (row_3E f1).trans (by simp [decodeMaj3E, fixedAt, f2, e0, e1, e2, e3])⟩

theorem rclaim (x : BitVec 6) (n : BitVec 6) (g : BitVec 4) : Statement (.rclaim x n g) :=
  of_long (0xdb + put x 26 + put n 20 + put g 8) rfl fun hwf ww hw => by
    obtain ⟨hl, f0, f1, f2, e0, e1, e2⟩ := lay8 (c0 := 3) (c1 := 54) (c2 := 0) hw rfl (by decide) (by decide) (by decide)
    exact ⟨hl, f0, no_port f1 (by decide), (row_36 f1).trans (by simp [decodeMaj36, fixedAt, f2, e0, e1, e2])⟩

theorem rfill (x : BitVec 6) (n : BitVec 6) (g : BitVec 4) : Statement (.rfill x n g) :=
  of_long (0x10db + put x 26 + put n 20 + put g 8) rfl fun hwf ww hw => by
    obtain ⟨hl, f0, f1, f2, e0, e1, e2⟩ := lay8 (c0 := 3) (c1 := 54) (c2 := 1) hw rfl (by decide) (by decide) (by decide)
    exact ⟨hl, f0, no_port f1 (by decide), (row_36 f1).trans (by simp [decodeMaj36, fixedAt, f2, e0, e1, e2])⟩

theorem rwaitf (x : BitVec 6) (n : BitVec 6) (g : BitVec 4) : Statement (.rwaitf x n g) :=
  of_long (0x20db + put x 26 + put n 20 + put g 8) rfl fun hwf ww hw => by
    obtain ⟨hl, f0, f1, f2, e0, e1, e2⟩ := lay8 (c0 := 3) (c1 := 54) (c2 := 2) hw rfl (by decide) (by decide) (by decide)
    exact ⟨hl, f0, no_port f1 (by decide), (row_36 f1).trans (by simp [decodeMaj36, fixedAt, f2, e0, e1, e2])⟩

theorem rwaite (n : BitVec 6) (g : BitVec 4) : Statement (.rwaite n g) :=
  of_long (0x30db + put n 20 + put g 8) rfl fun hwf ww hw => by
    obtain ⟨hl, f0, f1, f2, f3, e0, e1⟩ := lay5 (c0 := 3) (c1 := 54) (c2 := 3) (c3 := 0) hw rfl (by decide) (by decide) (by decide) (by decide)
    exact ⟨hl, f0, no_port f1 (by decide), (row_36 f1).trans (by simp [decodeMaj36, fixedAt, f2, f3, e0, e1])⟩

theorem rfree (x : BitVec 6) (n : BitVec 6) (g : BitVec 4) : Statement (.rfree x n g) :=
  of_long (0xdf + put x 26 + put n 20 + put g 8) rfl fun hwf ww hw => by
    obtain ⟨hl, f0, f1, f2, e0, e1, e2⟩ := lay8 (c0 := 3) (c1 := 55) (c2 := 0) hw rfl (by decide) (by decide) (by decide)
    exact ⟨hl, f0, no_port f1 (by decide), (row_37 f1).trans (by simp [decodeMaj37, fixedAt, f2, e0, e1, e2])⟩

theorem rbind (k : BitVec 6) (a : BitVec 6) (g : BitVec 4) : Statement (.rbind k a g) :=
  of_long (0x10df + put k 26 + put a 20 + put g 8) rfl fun hwf ww hw => by
    obtain ⟨hl, f0, f1, f2, e0, e1, e2⟩ := lay8 (c0 := 3) (c1 := 55) (c2 := 1) hw rfl (by decide) (by decide) (by decide)
    exact ⟨hl, f0, no_port f1 (by decide), (row_37 f1).trans (by simp [decodeMaj37, fixedAt, f2, e0, e1, e2])⟩

theorem rpush (s : BitVec 6) (p : BitVec 6) (g : BitVec 4) : Statement (.rpush s p g) :=
  of_long (0x20df + put s 26 + put p 20 + put g 8) rfl fun hwf ww hw => by
    obtain ⟨hl, f0, f1, f2, e0, e1, e2⟩ := lay8 (c0 := 3) (c1 := 55) (c2 := 2) hw rfl (by decide) (by decide) (by decide)
    exact ⟨hl, f0, no_port f1 (by decide), (row_37 f1).trans (by simp [decodeMaj37, fixedAt, f2, e0, e1, e2])⟩

theorem rinit (a : BitVec 6) (n : BitVec 6) (g : BitVec 4) : Statement (.rinit a n g) :=
  of_long (0x30df + put a 26 + put n 20 + put g 8) rfl fun hwf ww hw => by
    obtain ⟨hl, f0, f1, f2, e0, e1, e2⟩ := lay8 (c0 := 3) (c1 := 55) (c2 := 3) hw rfl (by decide) (by decide) (by decide)
    exact ⟨hl, f0, no_port f1 (by decide), (row_37 f1).trans (by simp [decodeMaj37, fixedAt, f2, e0, e1, e2])⟩

theorem mma (m : BitVec 3) (a : BitVec 3) (e : BitVec 1) (c : BitVec 1) (s : BitVec 4) (z : BitVec 1) (b : BitVec 1) (t : BitVec 4) (g : BitVec 4) : Statement (.mma m a e c s z b t g) :=
  of_long (0xe3 + put m 29 + put a 26 + put e 25 + put c 24 + put s 20 + put z 19 + put b 18 + put t 14 + put g 8) rfl fun hwf ww hw => by
    obtain ⟨hl, f0, f1, f2, e0, e1, e2, e3, e4, e5, e6, e7, e8⟩ := lay20 (c0 := 3) (c1 := 56) (c2 := 0) hw rfl (by decide) (by decide) (by decide)
    exact ⟨hl, f0, no_port f1 (by decide), (row_38 f1).trans (by simp [decodeMaj38, fixedAt, f2, e0, e1, e2, e3, e4, e5, e6, e7, e8])⟩

theorem mmaP24 (m : BitVec 3) (a : BitVec 3) (e : BitVec 1) (c : BitVec 1) (s : BitVec 4) (z : BitVec 1) (b : BitVec 1) (t : BitVec 4) (g : BitVec 4) : Statement (.mmaP24 m a e c s z b t g) :=
  of_long (0x10e3 + put m 29 + put a 26 + put e 25 + put c 24 + put s 20 + put z 19 + put b 18 + put t 14 + put g 8) rfl fun hwf ww hw => by
    obtain ⟨hl, f0, f1, f2, e0, e1, e2, e3, e4, e5, e6, e7, e8⟩ := lay20 (c0 := 3) (c1 := 56) (c2 := 1) hw rfl (by decide) (by decide) (by decide)
    exact ⟨hl, f0, no_port f1 (by decide), (row_38 f1).trans (by simp [decodeMaj38, fixedAt, f2, e0, e1, e2, e3, e4, e5, e6, e7, e8])⟩

theorem mmar (m : BitVec 3) (a : BitVec 3) (e : BitVec 1) (c : BitVec 1) (s : BitVec 4) (z : BitVec 1) (b : BitVec 1) (t : BitVec 4) (g : BitVec 4) : Statement (.mmar m a e c s z b t g) :=
  of_long (0x20e3 + put m 29 + put a 26 + put e 25 + put c 24 + put s 20 + put z 19 + put b 18 + put t 14 + put g 8) rfl fun hwf ww hw => by
    obtain ⟨hl, f0, f1, f2, e0, e1, e2, e3, e4, e5, e6, e7, e8⟩ := lay20 (c0 := 3) (c1 := 56) (c2 := 2) hw rfl (by decide) (by decide) (by decide)
    exact ⟨hl, f0, no_port f1 (by decide), (row_38 f1).trans (by simp [decodeMaj38, fixedAt, f2, e0, e1, e2, e3, e4, e5, e6, e7, e8])⟩

theorem mmarP24 (m : BitVec 3) (a : BitVec 3) (e : BitVec 1) (c : BitVec 1) (s : BitVec 4) (z : BitVec 1) (b : BitVec 1) (t : BitVec 4) (g : BitVec 4) : Statement (.mmarP24 m a e c s z b t g) :=
  of_long (0x30e3 + put m 29 + put a 26 + put e 25 + put c 24 + put s 20 + put z 19 + put b 18 + put t 14 + put g 8) rfl fun hwf ww hw => by
    obtain ⟨hl, f0, f1, f2, e0, e1, e2, e3, e4, e5, e6, e7, e8⟩ := lay20 (c0 := 3) (c1 := 56) (c2 := 3) hw rfl (by decide) (by decide) (by decide)
    exact ⟨hl, f0, no_port f1 (by decide), (row_38 f1).trans (by simp [decodeMaj38, fixedAt, f2, e0, e1, e2, e3, e4, e5, e6, e7, e8])⟩

theorem shp (n : BitVec 6) (y : BitVec 6) (g : BitVec 4) : Statement (.shp n y g) :=
  of_long (0xe7 + put n 26 + put y 20 + put g 8) rfl fun hwf ww hw => by
    obtain ⟨hl, f0, f1, f2, e0, e1, e2⟩ := lay8 (c0 := 3) (c1 := 57) (c2 := 0) hw rfl (by decide) (by decide) (by decide)
    exact ⟨hl, f0, no_port f1 (by decide), (row_39 f1).trans (by simp [decodeMaj39, fixedAt, f2, e0, e1, e2])⟩

theorem accld (n : BitVec 6) (y : BitVec 6) (g : BitVec 4) : Statement (.accld n y g) :=
  of_long (0x10e7 + put n 26 + put y 20 + put g 8) rfl fun hwf ww hw => by
    obtain ⟨hl, f0, f1, f2, e0, e1, e2⟩ := lay8 (c0 := 3) (c1 := 57) (c2 := 1) hw rfl (by decide) (by decide) (by decide)
    exact ⟨hl, f0, no_port f1 (by decide), (row_39 f1).trans (by simp [decodeMaj39, fixedAt, f2, e0, e1, e2])⟩

theorem acczero (n : BitVec 6) (g : BitVec 4) : Statement (.acczero n g) :=
  of_long (0x20e7 + put n 26 + put g 8) rfl fun hwf ww hw => by
    obtain ⟨hl, f0, f1, f2, e0, e1⟩ := lay6 (c0 := 3) (c1 := 57) (c2 := 2) hw rfl (by decide) (by decide) (by decide)
    have k0 : ww / 4096 % 256 = 2 := by clear hw e0 e1; omega
    exact ⟨hl, f0, no_port f1 (by decide), (row_39 f1).trans (by simp [decodeMaj39, fixedAt, f2, k0, e0, e1])⟩

theorem accrd (i : BitVec 1) (a : BitVec 3) (d : BitVec 4) (c : BitVec 1) (r : BitVec 5) (g : BitVec 4) : Statement (.accrd i a d c r g) :=
  of_long (0x30e7 + put i 29 + put a 26 + put d 20 + put c 19 + put r 14 + put g 8) rfl fun hwf ww hw => by
    obtain ⟨hl, f0, f1, f2, f3, f4, e0, e1, e2, e3, e4, e5⟩ := lay21 (c0 := 3) (c1 := 57) (c2 := 3) (c3 := 0) (c4 := 0) hw rfl (by decide) (by decide) (by decide) (by decide) (by decide)
    have k0 : ww / 4096 % 256 ≠ 0 := by clear hw e0 e1 e2 e3 e4 e5; omega
    have k1 : ww / 4096 % 256 ≠ 1 := by clear hw e0 e1 e2 e3 e4 e5; omega
    have k2 : ww / 4096 % 16384 ≠ 2 := by clear hw e0 e1 e2 e3 e4 e5; omega
    exact ⟨hl, f0, no_port f1 (by decide), (row_39 f1).trans (by simp [decodeMaj39, fixedAt, f2, f3, f4, k0, k1, k2, e0, e1, e2, e3, e4, e5])⟩

theorem amul (d : BitVec 6) (a : BitVec 6) (b : BitVec 6) (g : BitVec 4) : Statement (.amul d a b g) :=
  of_long (0xeb + put d 26 + put a 20 + put b 14 + put g 8) rfl fun hwf ww hw => by
    obtain ⟨hl, f0, f1, f2, e0, e1, e2, e3⟩ := lay9 (c0 := 3) (c1 := 58) (c2 := 0) hw rfl (by decide) (by decide) (by decide)
    exact ⟨hl, f0, no_port f1 (by decide), (row_3A f1).trans (by simp [decodeMaj3A, fixedAt, f2, e0, e1, e2, e3])⟩

theorem aconj (d : BitVec 6) (a : BitVec 6) (g : BitVec 4) : Statement (.aconj d a g) :=
  of_long (0x10eb + put d 26 + put a 20 + put g 8) rfl fun hwf ww hw => by
    obtain ⟨hl, f0, f1, f2, e0, e1, e2⟩ := lay8 (c0 := 3) (c1 := 58) (c2 := 1) hw rfl (by decide) (by decide) (by decide)
    have k0 : ww / 4096 % 4 = 1 := by clear hw e0 e1 e2; omega
    exact ⟨hl, f0, no_port f1 (by decide), (row_3A f1).trans (by simp [decodeMaj3A, fixedAt, f2, k0, e0, e1, e2])⟩

theorem anorm (d : BitVec 6) (a : BitVec 6) (g : BitVec 4) : Statement (.anorm d a g) :=
  of_long (0x20eb + put d 26 + put a 20 + put g 8) rfl fun hwf ww hw => by
    obtain ⟨hl, f0, f1, f2, e0, e1, e2⟩ := lay8 (c0 := 3) (c1 := 58) (c2 := 2) hw rfl (by decide) (by decide) (by decide)
    have k0 : ww / 4096 % 4 = 2 := by clear hw e0 e1 e2; omega
    exact ⟨hl, f0, no_port f1 (by decide), (row_3A f1).trans (by simp [decodeMaj3A, fixedAt, f2, k0, e0, e1, e2])⟩

theorem compress (d : BitVec 6) (a : BitVec 6) (f : BitVec 3) (g : BitVec 4) : Statement (.compress d a f g) :=
  of_long (0x30eb + put d 26 + put a 20 + put f 14 + put g 8) rfl fun hwf ww hw => by
    obtain ⟨hl, f0, f1, f2, f3, e0, e1, e2, e3⟩ := lay22 (c0 := 3) (c1 := 58) (c2 := 3) (c3 := 0) hw rfl (by decide) (by decide) (by decide) (by decide)
    have k0 : ww / 4096 % 256 ≠ 1 := by clear hw e0 e1 e2 e3; omega
    have k1 : ww / 4096 % 256 ≠ 2 := by clear hw e0 e1 e2 e3; omega
    exact ⟨hl, f0, no_port f1 (by decide), (row_3A f1).trans (by simp [decodeMaj3A, fixedAt, f2, f3, k0, k1, e0, e1, e2, e3])⟩

theorem wload (p : BitVec 6) (a : BitVec 6) (c : BitVec 6) (g : BitVec 4) : Statement (.wload p a c g) :=
  of_long (0xef + put p 26 + put a 20 + put c 14 + put g 8) rfl fun hwf ww hw => by
    obtain ⟨hl, f0, f1, f2, e0, e1, e2, e3⟩ := lay9 (c0 := 3) (c1 := 59) (c2 := 0) hw rfl (by decide) (by decide) (by decide)
    exact ⟨hl, f0, no_port f1 (by decide), (row_3B f1).trans (by simp [decodeMaj3B, fixedAt, f2, e0, e1, e2, e3])⟩

theorem tma (p : BitVec 3) (n : BitVec 3) (z : BitVec 1) (u : BitVec 1) (s : BitVec 4) (g : BitVec 4) : Statement (.tma p n z u s g) :=
  of_long (0x10ef + put p 29 + put n 26 + put z 25 + put u 24 + put s 18 + put g 8) rfl fun hwf ww hw => by
    obtain ⟨hl, f0, f1, f2, f3, e0, e1, e2, e3, e4, e5⟩ := lay23 (c0 := 3) (c1 := 59) (c2 := 1) (c3 := 0) hw rfl (by decide) (by decide) (by decide) (by decide)
    have k0 : ww / 4096 % 4 = 1 := by clear hw e0 e1 e2 e3 e4 e5; omega
    exact ⟨hl, f0, no_port f1 (by decide), (row_3B f1).trans (by simp [decodeMaj3B, fixedAt, f2, f3, k0, e0, e1, e2, e3, e4, e5])⟩

theorem tmard (o : BitVec 2) (s : BitVec 2) (w : BitVec 5) (a : BitVec 5) (d : BitVec 4) (g : BitVec 4) : Statement (.tmard o s w a d g) :=
  of_long (0x20ef + put o 30 + put s 28 + put w 23 + put a 18 + put d 14 + put g 8) rfl fun hwf ww hw => by
    obtain ⟨hl, f0, f1, f2, e0, e1, e2, e3, e4, e5⟩ := lay24 (c0 := 3) (c1 := 59) (c2 := 2) hw rfl (by decide) (by decide) (by decide)
    have k0 : ww / 4096 % 64 ≠ 1 := by clear hw e0 e1 e2 e3 e4 e5; omega
    exact ⟨hl, f0, no_port f1 (by decide), (row_3B f1).trans (by simp [decodeMaj3B, fixedAt, f2, k0, e0, e1, e2, e3, e4, e5])⟩

theorem wstat (d : BitVec 6) (s : BitVec 6) (g : BitVec 4) : Statement (.wstat d s g) :=
  of_long (0x30ef + put d 26 + put s 20 + put g 8) rfl fun hwf ww hw => by
    obtain ⟨hl, f0, f1, f2, e0, e1, e2⟩ := lay8 (c0 := 3) (c1 := 59) (c2 := 3) hw rfl (by decide) (by decide) (by decide)
    have k0 : ww / 4096 % 4 = 3 := by clear hw e0 e1 e2; omega
    have k1 : ww / 4096 % 64 = 3 := by clear hw e0 e1 e2; omega
    exact ⟨hl, f0, no_port f1 (by decide), (row_3B f1).trans (by simp [decodeMaj3B, fixedAt, f2, k0, k1, e0, e1, e2])⟩

theorem route (v : BitVec 6) (y : BitVec 6) (g : BitVec 4) : Statement (.route v y g) :=
  of_long (0xf3 + put v 26 + put y 20 + put g 8) rfl fun hwf ww hw => by
    obtain ⟨hl, f0, f1, f2, e0, e1, e2⟩ := lay8 (c0 := 3) (c1 := 60) (c2 := 0) hw rfl (by decide) (by decide) (by decide)
    exact ⟨hl, f0, by clear hw e0 e1 e2; omega, (row_3C f1).trans (by simp [decodeMaj3C, fixedAt, f2, e0, e1, e2])⟩

theorem rret (s : BitVec 6) (h : BitVec 6) (g : BitVec 4) : Statement (.rret s h g) :=
  of_long (0x10f3 + put s 26 + put h 20 + put g 8) rfl fun hwf ww hw => by
    obtain ⟨hl, f0, f1, f2, e0, e1, e2⟩ := lay8 (c0 := 3) (c1 := 60) (c2 := 1) hw rfl (by decide) (by decide) (by decide)
    exact ⟨hl, f0, by clear hw e0 e1 e2; omega, (row_3C f1).trans (by simp [decodeMaj3C, fixedAt, f2, e0, e1, e2])⟩

theorem rasm (d : BitVec 6) (n : BitVec 6) (g : BitVec 4) : Statement (.rasm d n g) :=
  of_long (0x20f3 + put d 26 + put n 20 + put g 8) rfl fun hwf ww hw => by
    obtain ⟨hl, f0, f1, f2, e0, e1, e2⟩ := lay8 (c0 := 3) (c1 := 60) (c2 := 2) hw rfl (by decide) (by decide) (by decide)
    exact ⟨hl, f0, by clear hw e0 e1 e2; omega, (row_3C f1).trans (by simp [decodeMaj3C, fixedAt, f2, e0, e1, e2])⟩

theorem rport (y : BitVec 6) (g : BitVec 4) : Statement (.rport y g) :=
  of_long (0x30f3 + put y 20 + put g 8) rfl fun hwf ww hw => by
    obtain ⟨hl, f0, f1, f2, f3, e0, e1⟩ := lay5 (c0 := 3) (c1 := 60) (c2 := 3) (c3 := 0) hw rfl (by decide) (by decide) (by decide) (by decide)
    exact ⟨hl, f0, by clear hw e0 e1; omega, (row_3C f1).trans (by simp [decodeMaj3C, fixedAt, f2, f3, e0, e1])⟩

theorem rportKey (y : BitVec 6) (g : BitVec 4) : Statement (.rportKey y g) :=
  of_long (0x40030f3 + put y 20 + put g 8) rfl fun hwf ww hw => by
    obtain ⟨hl, f0, f1, f2, f3, e0, e1⟩ := lay5 (c0 := 3) (c1 := 60) (c2 := 3) (c3 := 1) hw rfl (by decide) (by decide) (by decide) (by decide)
    exact ⟨hl, f0, by clear hw e0 e1; omega, (row_3C f1).trans (by simp [decodeMaj3C, fixedAt, f2, f3, e0, e1])⟩

theorem rportRel (y : BitVec 6) (g : BitVec 4) : Statement (.rportRel y g) :=
  of_long (0x80030f3 + put y 20 + put g 8) rfl fun hwf ww hw => by
    obtain ⟨hl, f0, f1, f2, f3, e0, e1⟩ := lay5 (c0 := 3) (c1 := 60) (c2 := 3) (c3 := 2) hw rfl (by decide) (by decide) (by decide) (by decide)
    exact ⟨hl, f0, by clear hw e0 e1; omega, (row_3C f1).trans (by simp [decodeMaj3C, fixedAt, f2, f3, e0, e1])⟩

theorem fetchwg (x : BitVec 6) (g : BitVec 4) : Statement (.fetchwg x g) :=
  of_long (0xf7 + put x 26 + put g 8) rfl fun hwf ww hw => by
    obtain ⟨hl, f0, f1, f2, e0, e1⟩ := lay6 (c0 := 3) (c1 := 61) (c2 := 0) hw rfl (by decide) (by decide) (by decide)
    exact ⟨hl, f0, no_port f1 (by decide), (row_3D f1).trans (by simp [decodeMaj3D, fixedAt, f2, e0, e1])⟩

theorem xacq (g : BitVec 4) : Statement (.xacq g) :=
  of_long (0x10f7 + put g 8) rfl fun hwf ww hw => by
    obtain ⟨hl, f0, f1, f2, e0⟩ := lay3 (c0 := 3) (c1 := 61) (c2 := 1) hw rfl (by decide) (by decide) (by decide)
    have k0 : ww / 4096 % 16384 = 1 := by clear hw e0; omega
    exact ⟨hl, f0, no_port f1 (by decide), (row_3D f1).trans (by simp [decodeMaj3D, fixedAt, f2, k0, e0])⟩

theorem xrel (g : BitVec 4) : Statement (.xrel g) :=
  of_long (0x20f7 + put g 8) rfl fun hwf ww hw => by
    obtain ⟨hl, f0, f1, f2, e0⟩ := lay3 (c0 := 3) (c1 := 61) (c2 := 2) hw rfl (by decide) (by decide) (by decide)
    have k0 : ww / 4096 % 16384 = 2 := by clear hw e0; omega
    exact ⟨hl, f0, no_port f1 (by decide), (row_3D f1).trans (by simp [decodeMaj3D, fixedAt, f2, k0, e0])⟩

theorem gbar (g : BitVec 4) : Statement (.gbar g) :=
  of_long (0x30f7 + put g 8) rfl fun hwf ww hw => by
    obtain ⟨hl, f0, f1, f2, e0⟩ := lay3 (c0 := 3) (c1 := 61) (c2 := 3) hw rfl (by decide) (by decide) (by decide)
    have k0 : ww / 4096 % 16384 = 3 := by clear hw e0; omega
    exact ⟨hl, f0, no_port f1 (by decide), (row_3D f1).trans (by simp [decodeMaj3D, fixedAt, f2, k0, e0])⟩

theorem wbar (g : BitVec 4) : Statement (.wbar g) :=
  of_long (0xfb + put g 8) rfl fun hwf ww hw => by
    obtain ⟨hl, f0, f1, f2, e0⟩ := lay3 (c0 := 3) (c1 := 62) (c2 := 0) hw rfl (by decide) (by decide) (by decide)
    have k0 : ww / 4096 % 4 = 0 := by clear hw e0; omega
    exact ⟨hl, f0, no_port f1 (by decide), (row_3E f1).trans (by simp [decodeMaj3E, fixedAt, f2, k0, e0])⟩

theorem sample (d : BitVec 6) (c : BitVec 6) (i : BitVec 6) (g : BitVec 4) : Statement (.sample d c i g) :=
  of_long (0x10fb + put d 26 + put c 20 + put i 14 + put g 8) rfl fun hwf ww hw => by
    obtain ⟨hl, f0, f1, f2, e0, e1, e2, e3⟩ := lay9 (c0 := 3) (c1 := 62) (c2 := 1) hw rfl (by decide) (by decide) (by decide)
    have k0 : ww / 4096 % 1048576 ≠ 0 := by clear hw e0 e1 e2 e3; omega
    exact ⟨hl, f0, no_port f1 (by decide), (row_3E f1).trans (by simp [decodeMaj3E, fixedAt, f2, k0, e0, e1, e2, e3])⟩

theorem waitl (v : BitVec 6) (a : BitVec 6) (z : BitVec 2) (g : BitVec 4) : Statement (.waitl v a z g) :=
  of_long (0x20fb + put v 26 + put a 20 + put z 14 + put g 8) rfl fun hwf ww hw => by
    obtain ⟨hl, f0, f1, f2, f3, e0, e1, e2, e3⟩ := lay25 (c0 := 3) (c1 := 62) (c2 := 2) (c3 := 0) hw rfl (by decide) (by decide) (by decide) (by decide)
    have k0 : ww / 4096 % 1048576 ≠ 0 := by clear hw e0 e1 e2 e3; omega
    exact ⟨hl, f0, no_port f1 (by decide), (row_3E f1).trans (by simp [decodeMaj3E, fixedAt, f2, f3, k0, e0, e1, e2, e3])⟩

theorem addLaneShort (d : BitVec 4) (a : BitVec 4) (s : BitVec 1) : Statement (.addLaneShort d a s) :=
  of_short (0x0 + put d 7 + put a 3 + put s 2) rfl fun hwf ww hw => by
    obtain ⟨hl, f0, f1, e0, e1, e2⟩ := lay26 (c0 := 0) (c1 := 0) hw rfl (by decide) (by decide)
    exact ⟨hl, by rw [f0]; decide, by simp [decodeShortRow, decodeFamily00, fixedAt, f0, f1, e0, e1, e2]⟩

theorem subLaneShort (d : BitVec 4) (a : BitVec 4) (s : BitVec 1) : Statement (.subLaneShort d a s) :=
  of_short (0x800 + put d 7 + put a 3 + put s 2) rfl fun hwf ww hw => by
    obtain ⟨hl, f0, f1, e0, e1, e2⟩ := lay26 (c0 := 0) (c1 := 1) hw rfl (by decide) (by decide)
    exact ⟨hl, by rw [f0]; decide, by simp [decodeShortRow, decodeFamily00, fixedAt, f0, f1, e0, e1, e2]⟩

theorem andLaneShort (d : BitVec 4) (a : BitVec 4) (s : BitVec 1) : Statement (.andLaneShort d a s) :=
  of_short (0x1000 + put d 7 + put a 3 + put s 2) rfl fun hwf ww hw => by
    obtain ⟨hl, f0, f1, e0, e1, e2⟩ := lay26 (c0 := 0) (c1 := 2) hw rfl (by decide) (by decide)
    exact ⟨hl, by rw [f0]; decide, by simp [decodeShortRow, decodeFamily00, fixedAt, f0, f1, e0, e1, e2]⟩

theorem orLaneShort (d : BitVec 4) (a : BitVec 4) (s : BitVec 1) : Statement (.orLaneShort d a s) :=
  of_short (0x1800 + put d 7 + put a 3 + put s 2) rfl fun hwf ww hw => by
    obtain ⟨hl, f0, f1, e0, e1, e2⟩ := lay26 (c0 := 0) (c1 := 3) hw rfl (by decide) (by decide)
    exact ⟨hl, by rw [f0]; decide, by simp [decodeShortRow, decodeFamily00, fixedAt, f0, f1, e0, e1, e2]⟩

theorem xorLaneShort (d : BitVec 4) (a : BitVec 4) (s : BitVec 1) : Statement (.xorLaneShort d a s) :=
  of_short (0x2000 + put d 7 + put a 3 + put s 2) rfl fun hwf ww hw => by
    obtain ⟨hl, f0, f1, e0, e1, e2⟩ := lay26 (c0 := 0) (c1 := 4) hw rfl (by decide) (by decide)
    exact ⟨hl, by rw [f0]; decide, by simp [decodeShortRow, decodeFamily00, fixedAt, f0, f1, e0, e1, e2]⟩

theorem shlLaneShort (d : BitVec 4) (a : BitVec 4) (s : BitVec 1) : Statement (.shlLaneShort d a s) :=
  of_short (0x2800 + put d 7 + put a 3 + put s 2) rfl fun hwf ww hw => by
    obtain ⟨hl, f0, f1, e0, e1, e2⟩ := lay26 (c0 := 0) (c1 := 5) hw rfl (by decide) (by decide)
    exact ⟨hl, by rw [f0]; decide, by simp [decodeShortRow, decodeFamily00, fixedAt, f0, f1, e0, e1, e2]⟩

theorem shrLaneShort (d : BitVec 4) (a : BitVec 4) (s : BitVec 1) : Statement (.shrLaneShort d a s) :=
  of_short (0x3000 + put d 7 + put a 3 + put s 2) rfl fun hwf ww hw => by
    obtain ⟨hl, f0, f1, e0, e1, e2⟩ := lay26 (c0 := 0) (c1 := 6) hw rfl (by decide) (by decide)
    exact ⟨hl, by rw [f0]; decide, by simp [decodeShortRow, decodeFamily00, fixedAt, f0, f1, e0, e1, e2]⟩

theorem sraLaneShort (d : BitVec 4) (a : BitVec 4) (s : BitVec 1) : Statement (.sraLaneShort d a s) :=
  of_short (0x3800 + put d 7 + put a 3 + put s 2) rfl fun hwf ww hw => by
    obtain ⟨hl, f0, f1, e0, e1, e2⟩ := lay26 (c0 := 0) (c1 := 7) hw rfl (by decide) (by decide)
    exact ⟨hl, by rw [f0]; decide, by simp [decodeShortRow, decodeFamily00, fixedAt, f0, f1, e0, e1, e2]⟩

theorem mulLaneShort (d : BitVec 4) (a : BitVec 4) (s : BitVec 1) : Statement (.mulLaneShort d a s) :=
  of_short (0x4000 + put d 7 + put a 3 + put s 2) rfl fun hwf ww hw => by
    obtain ⟨hl, f0, f1, e0, e1, e2⟩ := lay26 (c0 := 0) (c1 := 8) hw rfl (by decide) (by decide)
    exact ⟨hl, by rw [f0]; decide, by simp [decodeShortRow, decodeFamily00, fixedAt, f0, f1, e0, e1, e2]⟩

theorem minLaneShort (d : BitVec 4) (a : BitVec 4) (s : BitVec 1) : Statement (.minLaneShort d a s) :=
  of_short (0x4800 + put d 7 + put a 3 + put s 2) rfl fun hwf ww hw => by
    obtain ⟨hl, f0, f1, e0, e1, e2⟩ := lay26 (c0 := 0) (c1 := 9) hw rfl (by decide) (by decide)
    exact ⟨hl, by rw [f0]; decide, by simp [decodeShortRow, decodeFamily00, fixedAt, f0, f1, e0, e1, e2]⟩

theorem maxLaneShort (d : BitVec 4) (a : BitVec 4) (s : BitVec 1) : Statement (.maxLaneShort d a s) :=
  of_short (0x5000 + put d 7 + put a 3 + put s 2) rfl fun hwf ww hw => by
    obtain ⟨hl, f0, f1, e0, e1, e2⟩ := lay26 (c0 := 0) (c1 := 10) hw rfl (by decide) (by decide)
    exact ⟨hl, by rw [f0]; decide, by simp [decodeShortRow, decodeFamily00, fixedAt, f0, f1, e0, e1, e2]⟩

theorem minuLaneShort (d : BitVec 4) (a : BitVec 4) (s : BitVec 1) : Statement (.minuLaneShort d a s) :=
  of_short (0x5800 + put d 7 + put a 3 + put s 2) rfl fun hwf ww hw => by
    obtain ⟨hl, f0, f1, e0, e1, e2⟩ := lay26 (c0 := 0) (c1 := 11) hw rfl (by decide) (by decide)
    exact ⟨hl, by rw [f0]; decide, by simp [decodeShortRow, decodeFamily00, fixedAt, f0, f1, e0, e1, e2]⟩

theorem maxuLaneShort (d : BitVec 4) (a : BitVec 4) (s : BitVec 1) : Statement (.maxuLaneShort d a s) :=
  of_short (0x6000 + put d 7 + put a 3 + put s 2) rfl fun hwf ww hw => by
    obtain ⟨hl, f0, f1, e0, e1, e2⟩ := lay26 (c0 := 0) (c1 := 12) hw rfl (by decide) (by decide)
    exact ⟨hl, by rw [f0]; decide, by simp [decodeShortRow, decodeFamily00, fixedAt, f0, f1, e0, e1, e2]⟩

theorem faddF32Short (d : BitVec 4) (a : BitVec 4) (s : BitVec 1) : Statement (.faddF32Short d a s) :=
  of_short (0x6800 + put d 7 + put a 3 + put s 2) rfl fun hwf ww hw => by
    obtain ⟨hl, f0, f1, e0, e1, e2⟩ := lay26 (c0 := 0) (c1 := 13) hw rfl (by decide) (by decide)
    exact ⟨hl, by rw [f0]; decide, by simp [decodeShortRow, decodeFamily00, fixedAt, f0, f1, e0, e1, e2]⟩

theorem fsubF32Short (d : BitVec 4) (a : BitVec 4) (s : BitVec 1) : Statement (.fsubF32Short d a s) :=
  of_short (0x7000 + put d 7 + put a 3 + put s 2) rfl fun hwf ww hw => by
    obtain ⟨hl, f0, f1, e0, e1, e2⟩ := lay26 (c0 := 0) (c1 := 14) hw rfl (by decide) (by decide)
    exact ⟨hl, by rw [f0]; decide, by simp [decodeShortRow, decodeFamily00, fixedAt, f0, f1, e0, e1, e2]⟩

theorem fmulF32Short (d : BitVec 4) (a : BitVec 4) (s : BitVec 1) : Statement (.fmulF32Short d a s) :=
  of_short (0x7800 + put d 7 + put a 3 + put s 2) rfl fun hwf ww hw => by
    obtain ⟨hl, f0, f1, e0, e1, e2⟩ := lay26 (c0 := 0) (c1 := 15) hw rfl (by decide) (by decide)
    exact ⟨hl, by rw [f0]; decide, by simp [decodeShortRow, decodeFamily00, fixedAt, f0, f1, e0, e1, e2]⟩

theorem ffmaF32Short (d : BitVec 4) (a : BitVec 4) (s : BitVec 1) : Statement (.ffmaF32Short d a s) :=
  of_short (0x8000 + put d 7 + put a 3 + put s 2) rfl fun hwf ww hw => by
    obtain ⟨hl, f0, f1, e0, e1, e2⟩ := lay26 (c0 := 0) (c1 := 16) hw rfl (by decide) (by decide)
    exact ⟨hl, by rw [f0]; decide, by simp [decodeShortRow, decodeFamily00, fixedAt, f0, f1, e0, e1, e2]⟩

theorem fminF32Short (d : BitVec 4) (a : BitVec 4) (s : BitVec 1) : Statement (.fminF32Short d a s) :=
  of_short (0x8800 + put d 7 + put a 3 + put s 2) rfl fun hwf ww hw => by
    obtain ⟨hl, f0, f1, e0, e1, e2⟩ := lay26 (c0 := 0) (c1 := 17) hw rfl (by decide) (by decide)
    exact ⟨hl, by rw [f0]; decide, by simp [decodeShortRow, decodeFamily00, fixedAt, f0, f1, e0, e1, e2]⟩

theorem fmaxF32Short (d : BitVec 4) (a : BitVec 4) (s : BitVec 1) : Statement (.fmaxF32Short d a s) :=
  of_short (0x9000 + put d 7 + put a 3 + put s 2) rfl fun hwf ww hw => by
    obtain ⟨hl, f0, f1, e0, e1, e2⟩ := lay26 (c0 := 0) (c1 := 18) hw rfl (by decide) (by decide)
    exact ⟨hl, by rw [f0]; decide, by simp [decodeShortRow, decodeFamily00, fixedAt, f0, f1, e0, e1, e2]⟩

theorem faddF16Short (d : BitVec 4) (a : BitVec 4) (s : BitVec 1) : Statement (.faddF16Short d a s) :=
  of_short (0x9800 + put d 7 + put a 3 + put s 2) rfl fun hwf ww hw => by
    obtain ⟨hl, f0, f1, e0, e1, e2⟩ := lay26 (c0 := 0) (c1 := 19) hw rfl (by decide) (by decide)
    exact ⟨hl, by rw [f0]; decide, by simp [decodeShortRow, decodeFamily00, fixedAt, f0, f1, e0, e1, e2]⟩

theorem fmulF16Short (d : BitVec 4) (a : BitVec 4) (s : BitVec 1) : Statement (.fmulF16Short d a s) :=
  of_short (0xa000 + put d 7 + put a 3 + put s 2) rfl fun hwf ww hw => by
    obtain ⟨hl, f0, f1, e0, e1, e2⟩ := lay26 (c0 := 0) (c1 := 20) hw rfl (by decide) (by decide)
    exact ⟨hl, by rw [f0]; decide, by simp [decodeShortRow, decodeFamily00, fixedAt, f0, f1, e0, e1, e2]⟩

theorem ffmaF16Short (d : BitVec 4) (a : BitVec 4) (s : BitVec 1) : Statement (.ffmaF16Short d a s) :=
  of_short (0xa800 + put d 7 + put a 3 + put s 2) rfl fun hwf ww hw => by
    obtain ⟨hl, f0, f1, e0, e1, e2⟩ := lay26 (c0 := 0) (c1 := 21) hw rfl (by decide) (by decide)
    exact ⟨hl, by rw [f0]; decide, by simp [decodeShortRow, decodeFamily00, fixedAt, f0, f1, e0, e1, e2]⟩

theorem faddBf16Short (d : BitVec 4) (a : BitVec 4) (s : BitVec 1) : Statement (.faddBf16Short d a s) :=
  of_short (0xb000 + put d 7 + put a 3 + put s 2) rfl fun hwf ww hw => by
    obtain ⟨hl, f0, f1, e0, e1, e2⟩ := lay26 (c0 := 0) (c1 := 22) hw rfl (by decide) (by decide)
    exact ⟨hl, by rw [f0]; decide, by simp [decodeShortRow, decodeFamily00, fixedAt, f0, f1, e0, e1, e2]⟩

theorem fmulBf16Short (d : BitVec 4) (a : BitVec 4) (s : BitVec 1) : Statement (.fmulBf16Short d a s) :=
  of_short (0xb800 + put d 7 + put a 3 + put s 2) rfl fun hwf ww hw => by
    obtain ⟨hl, f0, f1, e0, e1, e2⟩ := lay26 (c0 := 0) (c1 := 23) hw rfl (by decide) (by decide)
    exact ⟨hl, by rw [f0]; decide, by simp [decodeShortRow, decodeFamily00, fixedAt, f0, f1, e0, e1, e2]⟩

theorem ffmaBf16Short (d : BitVec 4) (a : BitVec 4) (s : BitVec 1) : Statement (.ffmaBf16Short d a s) :=
  of_short (0xc000 + put d 7 + put a 3 + put s 2) rfl fun hwf ww hw => by
    obtain ⟨hl, f0, f1, e0, e1, e2⟩ := lay26 (c0 := 0) (c1 := 24) hw rfl (by decide) (by decide)
    exact ⟨hl, by rw [f0]; decide, by simp [decodeShortRow, decodeFamily00, fixedAt, f0, f1, e0, e1, e2]⟩

theorem movShort (d : BitVec 4) (a : BitVec 4) : Statement (.movShort d a) :=
  of_short (0xc800 + put d 7 + put a 3) rfl fun hwf ww hw => by
    obtain ⟨hl, f0, f1, f2, e0, e1⟩ := lay27 (c0 := 0) (c1 := 0) (c2 := 25) hw rfl (by decide) (by decide) (by decide)
    exact ⟨hl, by rw [f0]; decide, by simp [decodeShortRow, decodeFamily00, fixedAt, f0, f2, f1, e0, e1]⟩

theorem negLaneShort (d : BitVec 4) (a : BitVec 4) : Statement (.negLaneShort d a) :=
  of_short (0xd000 + put d 7 + put a 3) rfl fun hwf ww hw => by
    obtain ⟨hl, f0, f1, f2, e0, e1⟩ := lay27 (c0 := 0) (c1 := 0) (c2 := 26) hw rfl (by decide) (by decide) (by decide)
    exact ⟨hl, by rw [f0]; decide, by simp [decodeShortRow, decodeFamily00, fixedAt, f0, f2, f1, e0, e1]⟩

theorem notLaneShort (d : BitVec 4) (a : BitVec 4) : Statement (.notLaneShort d a) :=
  of_short (0xd800 + put d 7 + put a 3) rfl fun hwf ww hw => by
    obtain ⟨hl, f0, f1, f2, e0, e1⟩ := lay27 (c0 := 0) (c1 := 0) (c2 := 27) hw rfl (by decide) (by decide) (by decide)
    exact ⟨hl, by rw [f0]; decide, by simp [decodeShortRow, decodeFamily00, fixedAt, f0, f2, f1, e0, e1]⟩

theorem absShort (d : BitVec 4) (a : BitVec 4) : Statement (.absShort d a) :=
  of_short (0xe000 + put d 7 + put a 3) rfl fun hwf ww hw => by
    obtain ⟨hl, f0, f1, f2, e0, e1⟩ := lay27 (c0 := 0) (c1 := 0) (c2 := 28) hw rfl (by decide) (by decide) (by decide)
    exact ⟨hl, by rw [f0]; decide, by simp [decodeShortRow, decodeFamily00, fixedAt, f0, f2, f1, e0, e1]⟩

theorem fnegF32Short (d : BitVec 4) (a : BitVec 4) : Statement (.fnegF32Short d a) :=
  of_short (0xe800 + put d 7 + put a 3) rfl fun hwf ww hw => by
    obtain ⟨hl, f0, f1, f2, e0, e1⟩ := lay27 (c0 := 0) (c1 := 0) (c2 := 29) hw rfl (by decide) (by decide) (by decide)
    exact ⟨hl, by rw [f0]; decide, by simp [decodeShortRow, decodeFamily00, fixedAt, f0, f2, f1, e0, e1]⟩

theorem fabsF32Short (d : BitVec 4) (a : BitVec 4) : Statement (.fabsF32Short d a) :=
  of_short (0xf000 + put d 7 + put a 3) rfl fun hwf ww hw => by
    obtain ⟨hl, f0, f1, f2, e0, e1⟩ := lay27 (c0 := 0) (c1 := 0) (c2 := 30) hw rfl (by decide) (by decide) (by decide)
    exact ⟨hl, by rw [f0]; decide, by simp [decodeShortRow, decodeFamily00, fixedAt, f0, f2, f1, e0, e1]⟩

theorem addShort (d : BitVec 4) (x : BitVec 6) : Statement (.addShort d x) :=
  of_short (0x1 + put d 8 + put x 2) rfl fun hwf ww hw => by
    obtain ⟨hl, f0, f1, e0, e1⟩ := lay28 (c0 := 1) (c1 := 0) hw rfl (by decide) (by decide)
    exact ⟨hl, by rw [f0]; decide, by simp [decodeShortRow, decodeFamily01, fixedAt, f0, f1, e0, e1]⟩

theorem subShort (d : BitVec 4) (x : BitVec 6) : Statement (.subShort d x) :=
  of_short (0x1001 + put d 8 + put x 2) rfl fun hwf ww hw => by
    obtain ⟨hl, f0, f1, e0, e1⟩ := lay28 (c0 := 1) (c1 := 1) hw rfl (by decide) (by decide)
    exact ⟨hl, by rw [f0]; decide, by simp [decodeShortRow, decodeFamily01, fixedAt, f0, f1, e0, e1]⟩

theorem andShort (d : BitVec 4) (x : BitVec 6) : Statement (.andShort d x) :=
  of_short (0x2001 + put d 8 + put x 2) rfl fun hwf ww hw => by
    obtain ⟨hl, f0, f1, e0, e1⟩ := lay28 (c0 := 1) (c1 := 2) hw rfl (by decide) (by decide)
    exact ⟨hl, by rw [f0]; decide, by simp [decodeShortRow, decodeFamily01, fixedAt, f0, f1, e0, e1]⟩

theorem orShort (d : BitVec 4) (x : BitVec 6) : Statement (.orShort d x) :=
  of_short (0x3001 + put d 8 + put x 2) rfl fun hwf ww hw => by
    obtain ⟨hl, f0, f1, e0, e1⟩ := lay28 (c0 := 1) (c1 := 3) hw rfl (by decide) (by decide)
    exact ⟨hl, by rw [f0]; decide, by simp [decodeShortRow, decodeFamily01, fixedAt, f0, f1, e0, e1]⟩

theorem xorShort (d : BitVec 4) (x : BitVec 6) : Statement (.xorShort d x) :=
  of_short (0x4001 + put d 8 + put x 2) rfl fun hwf ww hw => by
    obtain ⟨hl, f0, f1, e0, e1⟩ := lay28 (c0 := 1) (c1 := 4) hw rfl (by decide) (by decide)
    exact ⟨hl, by rw [f0]; decide, by simp [decodeShortRow, decodeFamily01, fixedAt, f0, f1, e0, e1]⟩

theorem shlShort (d : BitVec 4) (x : BitVec 6) : Statement (.shlShort d x) :=
  of_short (0x5001 + put d 8 + put x 2) rfl fun hwf ww hw => by
    obtain ⟨hl, f0, f1, e0, e1⟩ := lay28 (c0 := 1) (c1 := 5) hw rfl (by decide) (by decide)
    exact ⟨hl, by rw [f0]; decide, by simp [decodeShortRow, decodeFamily01, fixedAt, f0, f1, e0, e1]⟩

theorem shrShort (d : BitVec 4) (x : BitVec 6) : Statement (.shrShort d x) :=
  of_short (0x6001 + put d 8 + put x 2) rfl fun hwf ww hw => by
    obtain ⟨hl, f0, f1, e0, e1⟩ := lay28 (c0 := 1) (c1 := 6) hw rfl (by decide) (by decide)
    exact ⟨hl, by rw [f0]; decide, by simp [decodeShortRow, decodeFamily01, fixedAt, f0, f1, e0, e1]⟩

theorem sraShort (d : BitVec 4) (x : BitVec 6) : Statement (.sraShort d x) :=
  of_short (0x7001 + put d 8 + put x 2) rfl fun hwf ww hw => by
    obtain ⟨hl, f0, f1, e0, e1⟩ := lay28 (c0 := 1) (c1 := 7) hw rfl (by decide) (by decide)
    exact ⟨hl, by rw [f0]; decide, by simp [decodeShortRow, decodeFamily01, fixedAt, f0, f1, e0, e1]⟩

theorem mv (d : BitVec 4) (x : BitVec 6) : Statement (.mv d x) :=
  of_short (0x8001 + put d 8 + put x 2) rfl fun hwf ww hw => by
    obtain ⟨hl, f0, f1, e0, e1⟩ := lay28 (c0 := 1) (c1 := 8) hw rfl (by decide) (by decide)
    exact ⟨hl, by rw [f0]; decide, by simp [decodeShortRow, decodeFamily01, fixedAt, f0, f1, e0, e1]⟩

theorem addiShort (d : BitVec 4) (i : BitVec 6) : Statement (.addiShort d i) :=
  of_short (0x9001 + put d 8 + put i 2) rfl fun hwf ww hw => by
    obtain ⟨hl, f0, f1, e0, e1⟩ := lay28 (c0 := 1) (c1 := 9) hw rfl (by decide) (by decide)
    exact ⟨hl, by rw [f0]; decide, by simp [decodeShortRow, decodeFamily01, fixedAt, f0, f1, e0, e1]⟩

theorem liShort (d : BitVec 4) (i : BitVec 6) : Statement (.liShort d i) :=
  of_short (0xa001 + put d 8 + put i 2) rfl fun hwf ww hw => by
    obtain ⟨hl, f0, f1, e0, e1⟩ := lay28 (c0 := 1) (c1 := 10) hw rfl (by decide) (by decide)
    exact ⟨hl, by rw [f0]; decide, by simp [decodeShortRow, decodeFamily01, fixedAt, f0, f1, e0, e1]⟩

theorem shliShort (d : BitVec 4) (i : BitVec 6) : Statement (.shliShort d i) :=
  of_short (0xb001 + put d 8 + put i 2) rfl fun hwf ww hw => by
    obtain ⟨hl, f0, f1, e0, e1⟩ := lay28 (c0 := 1) (c1 := 11) hw rfl (by decide) (by decide)
    exact ⟨hl, by rw [f0]; decide, by simp [decodeShortRow, decodeFamily01, fixedAt, f0, f1, e0, e1]⟩

theorem shriShort (d : BitVec 4) (i : BitVec 6) : Statement (.shriShort d i) :=
  of_short (0xc001 + put d 8 + put i 2) rfl fun hwf ww hw => by
    obtain ⟨hl, f0, f1, e0, e1⟩ := lay28 (c0 := 1) (c1 := 12) hw rfl (by decide) (by decide)
    exact ⟨hl, by rw [f0]; decide, by simp [decodeShortRow, decodeFamily01, fixedAt, f0, f1, e0, e1]⟩

theorem andiShort (d : BitVec 4) (i : BitVec 6) : Statement (.andiShort d i) :=
  of_short (0xd001 + put d 8 + put i 2) rfl fun hwf ww hw => by
    obtain ⟨hl, f0, f1, e0, e1⟩ := lay28 (c0 := 1) (c1 := 13) hw rfl (by decide) (by decide)
    exact ⟨hl, by rw [f0]; decide, by simp [decodeShortRow, decodeFamily01, fixedAt, f0, f1, e0, e1]⟩

theorem negShort (d : BitVec 4) (x : BitVec 6) : Statement (.negShort d x) :=
  of_short (0xe001 + put d 8 + put x 2) rfl fun hwf ww hw => by
    obtain ⟨hl, f0, f1, e0, e1⟩ := lay28 (c0 := 1) (c1 := 14) hw rfl (by decide) (by decide)
    exact ⟨hl, by rw [f0]; decide, by simp [decodeShortRow, decodeFamily01, fixedAt, f0, f1, e0, e1]⟩

theorem notShort (d : BitVec 4) (x : BitVec 6) : Statement (.notShort d x) :=
  of_short (0xf001 + put d 8 + put x 2) rfl fun hwf ww hw => by
    obtain ⟨hl, f0, f1, e0, e1⟩ := lay28 (c0 := 1) (c1 := 15) hw rfl (by decide) (by decide)
    exact ⟨hl, by rw [f0]; decide, by simp [decodeShortRow, decodeFamily01, fixedAt, f0, f1, e0, e1]⟩

theorem nopShort (g : BitVec 4) : Statement (.nopShort g) :=
  of_short (0x2 + put g 4) rfl fun hwf ww hw => by
    obtain ⟨hl, f0, f1, f2, e0⟩ := lay29 (c0 := 2) (c1 := 0) (c2 := 0) hw rfl (by decide) (by decide) (by decide)
    exact ⟨hl, by rw [f0]; decide, by simp [decodeShortRow, decodeFamily10, fixedAt, f0, f1, f2, e0]⟩

theorem yieldShort : Statement .yieldShort :=
  of_short (0x6) rfl fun hwf ww hw => by subst hw; decide

theorem stamp (s : BitVec 12) : Statement (.stamp s) :=
  of_short (0xa + put s 4) rfl fun hwf ww hw => by
    obtain ⟨hl, f0, f1, e0⟩ := lay30 (c0 := 2) (c1 := 2) hw rfl (by decide) (by decide)
    have k0 : ww / 4 % 16384 ≠ 1 := by clear hw e0; omega
    exact ⟨hl, by rw [f0]; decide, by simp [decodeShortRow, decodeFamily10, fixedAt, f0, f1, k0, e0]⟩

theorem amod (c : BitVec 1) (p : BitVec 2) (s : BitVec 2) (o : BitVec 2) : Statement (.amod c p s o) :=
  of_short (0xe + put c 10 + put p 8 + put s 6 + put o 4) rfl fun hwf ww hw => by
    obtain ⟨hl, f0, f1, f2, e0, e1, e2, e3⟩ := lay31 (c0 := 2) (c1 := 3) (c2 := 0) hw rfl (by decide) (by decide) (by decide)
    have k0 : ww / 4 % 16384 ≠ 1 := by clear hw e0 e1 e2 e3; omega
    exact ⟨hl, by rw [f0]; decide, by simp [decodeShortRow, decodeFamily10, fixedAt, f0, f1, f2, k0, e0, e1, e2, e3]⟩

/-! Events have no encoding. -/

theorem qbindTakesEffect (core ctx eng : Nat) : Statement (.qbindTakesEffect core ctx eng) := fun _ h => absurd rfl h
theorem flagUpdate (id : Nat) : Statement (.flagUpdate id) := fun _ h => absurd rfl h
theorem copyCompletion (id : Nat) : Statement (.copyCompletion id) := fun _ h => absurd rfl h
theorem copyElementFault (id : Nat) : Statement (.copyElementFault id) := fun _ h => absurd rfl h
theorem deferredFaultDelivery (core ctx eng : Nat) : Statement (.deferredFaultDelivery core ctx eng) := fun _ h => absurd rfl h
theorem rpushDeliveryArrival (id : Nat) : Statement (.rpushDeliveryArrival id) := fun _ h => absurd rfl h
theorem rpushDeliveryAccept (id : Nat) : Statement (.rpushDeliveryAccept id) := fun _ h => absurd rfl h
theorem rpushCompletion (id : Nat) : Statement (.rpushCompletion id) := fun _ h => absurd rfl h
theorem ringElementDelivery (id : Nat) : Statement (.ringElementDelivery id) := fun _ h => absurd rfl h
theorem accumulatorRetirement (core ctx : Nat) : Statement (.accumulatorRetirement core ctx) := fun _ h => absurd rfl h
theorem readoutCompletion (id : Nat) : Statement (.readoutCompletion id) := fun _ h => absurd rfl h
theorem wloadRetirement (core ctx : Nat) : Statement (.wloadRetirement core ctx) := fun _ h => absurd rfl h
theorem columnAccumulatorRetirement (core ctx : Nat) : Statement (.columnAccumulatorRetirement core ctx) := fun _ h => absurd rfl h
theorem rportRetirement (core ctx eng : Nat) : Statement (.rportRetirement core ctx eng) := fun _ h => absurd rfl h
theorem routeReturnArrival (id : Nat) : Statement (.routeReturnArrival id) := fun _ h => absurd rfl h
theorem routeDeadline (core entry : Nat) : Statement (.routeDeadline core entry) := fun _ h => absurd rfl h
theorem routeTimeoutNotification (core ctx eng : Nat) : Statement (.routeTimeoutNotification core ctx eng) := fun _ h => absurd rfl h
theorem rretCompletion (id : Nat) : Statement (.rretCompletion id) := fun _ h => absurd rfl h
theorem waitlTimeout (who : Agent) : Statement (.waitlTimeout who) := fun _ h => absurd rfl h
theorem waitlWatchLost (who : Agent) : Statement (.waitlWatchLost who) := fun _ h => absurd rfl h
theorem stampedIssue (core ctx : Nat) : Statement (.stampedIssue core ctx) := fun _ h => absurd rfl h
theorem stallRelease (core ctx eng : Nat) : Statement (.stallRelease core ctx eng) := fun _ h => absurd rfl h
theorem blockingWaitEnd (who : Agent) : Statement (.blockingWaitEnd who) := fun _ h => absurd rfl h
theorem pendingPushDrain (core ctx eng : Nat) : Statement (.pendingPushDrain core ctx eng) := fun _ h => absurd rfl h
theorem holdRegionExpiry (core ctx eng : Nat) : Statement (.holdRegionExpiry core ctx eng) := fun _ h => absurd rfl h
theorem holdOverrun (core ctx eng : Nat) : Statement (.holdOverrun core ctx eng) := fun _ h => absurd rfl h
theorem dspSubmitSv (addr : BitVec 64) : Statement (.dspSubmitSv addr) := fun _ h => absurd rfl h
theorem dspSubmitSi (addr : BitVec 64) : Statement (.dspSubmitSi addr) := fun _ h => absurd rfl h
theorem dspWithdraw (value : BitVec 64) : Statement (.dspWithdraw value) := fun _ h => absurd rfl h
theorem dspTimeSet (value : BitVec 64) : Statement (.dspTimeSet value) := fun _ h => absurd rfl h
theorem dspTpairNsRead (agent : Nat) : Statement (.dspTpairNsRead agent) := fun _ h => absurd rfl h
theorem timePairCapture : Statement .timePairCapture := fun _ h => absurd rfl h
theorem ptpDiscipline (rate : Nat) : Statement (.ptpDiscipline rate) := fun _ h => absurd rfl h
theorem cardQueueScan : Statement .cardQueueScan := fun _ h => absurd rfl h
theorem jobRelease (slot : Nat) : Statement (.jobRelease slot) := fun _ h => absurd rfl h
theorem dispatcherEvaluation : Statement .dispatcherEvaluation := fun _ h => absurd rfl h
theorem evictionSaveComplete (slot : Nat) : Statement (.evictionSaveComplete slot) := fun _ h => absurd rfl h
theorem hingeFallback (core ctx eng : Nat) : Statement (.hingeFallback core ctx eng) := fun _ h => absurd rfl h
theorem jobRestore (slot : Nat) : Statement (.jobRestore slot) := fun _ h => absurd rfl h
theorem deadlineMiss (slot : Nat) : Statement (.deadlineMiss slot) := fun _ h => absurd rfl h
theorem deadlineMissException (who : Agent) : Statement (.deadlineMissException who) := fun _ h => absurd rfl h
theorem regionClearDone (id : Nat) : Statement (.regionClearDone id) := fun _ h => absurd rfl h
theorem pageClearDone (id : Nat) : Statement (.pageClearDone id) := fun _ h => absurd rfl h
theorem workgroupPlacement (slot : Nat) : Statement (.workgroupPlacement slot) := fun _ h => absurd rfl h
theorem kernelClassification (slot : Nat) : Statement (.kernelClassification slot) := fun _ h => absurd rfl h
theorem fetchwgAnswer (id : Nat) : Statement (.fetchwgAnswer id) := fun _ h => absurd rfl h
theorem gets (id : Nat) : Statement (.gets id) := fun _ h => absurd rfl h
theorem getm (id : Nat) : Statement (.getm id) := fun _ h => absurd rfl h
theorem upg (id : Nat) : Statement (.upg id) := fun _ h => absurd rfl h
theorem puts (id : Nat) : Statement (.puts id) := fun _ h => absurd rfl h
theorem putm (id : Nat) : Statement (.putm id) := fun _ h => absurd rfl h
theorem puto (id : Nat) : Statement (.puto id) := fun _ h => absurd rfl h
theorem atomFar (id : Nat) : Statement (.atomFar id) := fun _ h => absurd rfl h
theorem homeRead (id : Nat) : Statement (.homeRead id) := fun _ h => absurd rfl h
theorem homeWrite (id : Nat) : Statement (.homeWrite id) := fun _ h => absurd rfl h
theorem recalledData (id : Nat) : Statement (.recalledData id) := fun _ h => absurd rfl h
theorem inv (id : Nat) : Statement (.inv id) := fun _ h => absurd rfl h
theorem fwdGets (id : Nat) : Statement (.fwdGets id) := fun _ h => absurd rfl h
theorem fwdGetm (id : Nat) : Statement (.fwdGetm id) := fun _ h => absurd rfl h
theorem data (id : Nat) : Statement (.data id) := fun _ h => absurd rfl h
theorem grant (id : Nat) : Statement (.grant id) := fun _ h => absurd rfl h
theorem putAck (id : Nat) : Statement (.putAck id) := fun _ h => absurd rfl h
theorem nackMoved (id : Nat) : Statement (.nackMoved id) := fun _ h => absurd rfl h
theorem atomResp (id : Nat) : Statement (.atomResp id) := fun _ h => absurd rfl h
theorem invAck (id : Nat) : Statement (.invAck id) := fun _ h => absurd rfl h
theorem probeMiss (id : Nat) : Statement (.probeMiss id) := fun _ h => absurd rfl h
theorem sliceFill (id : Nat) : Statement (.sliceFill id) := fun _ h => absurd rfl h
theorem kolteLinkFailure (peer : Nat) : Statement (.kolteLinkFailure peer) := fun _ h => absurd rfl h
theorem migrationStart (entry : Nat) : Statement (.migrationStart entry) := fun _ h => absurd rfl h
theorem migrationUnitCopy (entry : Nat) : Statement (.migrationUnitCopy entry) := fun _ h => absurd rfl h
theorem translationWalk (who : Agent) (va : BitVec 64) : Statement (.translationWalk who va) := fun _ h => absurd rfl h
theorem xltInvPage (value : BitVec 64) : Statement (.xltInvPage value) := fun _ h => absurd rfl h
theorem xltInvPartition (value : BitVec 64) : Statement (.xltInvPartition value) := fun _ h => absurd rfl h
theorem xltInvAll (value : BitVec 64) : Statement (.xltInvAll value) := fun _ h => absurd rfl h
theorem xltInvDone : Statement .xltInvDone := fun _ h => absurd rfl h
theorem sectorRequest (id : Nat) : Statement (.sectorRequest id) := fun _ h => absurd rfl h
theorem regulatorWindowStart (partition : Nat) : Statement (.regulatorWindowStart partition) := fun _ h => absurd rfl h
theorem budgetOverrunException (who : Agent) : Statement (.budgetOverrunException who) := fun _ h => absurd rfl h
theorem escCmdResume (value : BitVec 64) : Statement (.escCmdResume value) := fun _ h => absurd rfl h
theorem escCmdEnd (value : BitVec 64) : Statement (.escCmdEnd value) := fun _ h => absurd rfl h
theorem escFreezeTile (value : BitVec 64) : Statement (.escFreezeTile value) := fun _ h => absurd rfl h
theorem escFreezeVis (value : BitVec 64) : Statement (.escFreezeVis value) := fun _ h => absurd rfl h
theorem freezeComplete (core : Nat) : Statement (.freezeComplete core) := fun _ h => absurd rfl h
theorem siCmdRestart (value : BitVec 64) : Statement (.siCmdRestart value) := fun _ h => absurd rfl h
theorem domainRestartStart : Statement .domainRestartStart := fun _ h => absurd rfl h
theorem domainRestartDone : Statement .domainRestartDone := fun _ h => absurd rfl h
theorem siPlimitWrite (value : BitVec 64) : Statement (.siPlimitWrite value) := fun _ h => absurd rfl h
theorem siAttestWrite (value : BitVec 64) : Statement (.siAttestWrite value) := fun _ h => absurd rfl h
theorem attestationReport : Statement .attestationReport := fun _ h => absurd rfl h
theorem siErrclr (value : BitVec 64) : Statement (.siErrclr value) := fun _ h => absurd rfl h
theorem lockstepMismatch : Statement .lockstepMismatch := fun _ h => absurd rfl h
theorem islandRestartDone : Statement .islandRestartDone := fun _ h => absurd rfl h
theorem resetNRelease : Statement .resetNRelease := fun _ h => absurd rfl h
theorem bringupStageDone (ok : Bool) : Statement (.bringupStageDone ok) := fun _ h => absurd rfl h
theorem thermtrip : Statement .thermtrip := fun _ h => absurd rfl h
theorem monitorCrossing (monitor : Nat) (reading : BitVec 32) : Statement (.monitorCrossing monitor reading) := fun _ h => absurd rfl h
theorem correctableError (unit : Nat) : Statement (.correctableError unit) := fun _ h => absurd rfl h
theorem uncorrectableError (id : Nat) : Statement (.uncorrectableError id) := fun _ h => absurd rfl h
theorem ingestFrame (id : Nat) : Statement (.ingestFrame id) := fun _ h => absurd rfl h
theorem registerWrite (addr value : BitVec 64) : Statement (.registerWrite addr value) := fun _ h => absurd rfl h
theorem powerCycle : Statement .powerCycle := fun _ h => absurd rfl h
theorem domainSelfCheckFailure (domain : Nat) : Statement (.domainSelfCheckFailure domain) := fun _ h => absurd rfl h
theorem ingestStreamEnable (stream : Nat) : Statement (.ingestStreamEnable stream) := fun _ h => absurd rfl h

end Sys2Proof.Laws.RoundTrip
end

