-- ==== Sys2Proof/Laws/Runs.lean ====
section
/-! SUPPORT. The forms of the arithmetic instructions complete: one lemma per form, from which the completion of each
instruction of the form follows by its word's fields. -/

namespace Sys2Proof.Machine

theorem onAll_legal (key : Nat) : bitN onAll (if isWave key then 5 else keyEng key) = true := by
  unfold onAll
  have : keyEng key < 5 := by unfold keyEng; omega
  split
  · decide
  · have : keyEng key = 0 ∨ keyEng key = 1 ∨ keyEng key = 2 ∨ keyEng key = 3 ∨ keyEng key = 4 := by omega
    rcases this with h | h | h | h | h <;> rw [h] <;> decide

/-- Operands that are ready and meet the form's further conditions are legal (R33, R47, R48, R57). -/
theorem State.operandsReady.legal {op : Op} {s : State} {key : Nat} {set links : List Nat} (hb : op.bad = false)
    (ho : s.operandsReady key set op.ssrc op.sdst op.lsrc op.ldst links)
    (hs : ∀ x ∈ op.sread, scalarOk key x = true ∧ isQueue key x = false) (hp : ∀ x ∈ op.pairs, pairOk x = true) :
    op.illegalOperand key = false := by
  unfold Op.illegalOperand
  have h1 := ho.1.1
  have h2 : ∀ x ∈ op.lsrc ++ op.ldst, laneSrcOk key x = true := by
    rcases ho.2.1 with h | h
    · rw [h.1, h.2]; simp
    · exact h.2.1
  simp only [hb, Bool.false_or, Bool.or_eq_false_iff, List.any_eq_false]
  refine ⟨⟨⟨?_, ?_⟩, ?_⟩, ?_⟩
  · intro x hx
    rcases List.mem_append.1 hx with hx | hx
    · simp [h1 x hx]
    · simp [(hs x hx).1]
  · intro x hx; simp [(hs x hx).2]
  · intro x hx; simp [h2 x hx]
  · intro x hx; simp [hp x hx]

/-- What a word's fields must be for a form's run: its G field, and that R138 counts it as the form says. -/
def wordFits (word half : Nat) (g : BitVec 4) (lane : Bool) : Prop :=
  ({ word := word, half := half, legal := 0 } : Op).g = g.toNat ∧
    ({ word := word, half := half, legal := 0 } : Op).laneOperation = lane

theorem scalar2_completes {i : Instr} {word half d a b : Nat} {rule : TagRule} {f : DWord → DWord → DWord} {g : BitVec 4}
    (he : ∀ s, exec i s = s.scalar2 word half d a b rule f) (hh : half = 1 ∨ half = 2) (hw : wordFits word half g false) :
    (scalarRun i half g [b, a] d fun v => f (v.getD 1 0) (v.getD 0 0)).completes := by
  intro s key set hi ha hal ho r is _
  refine (he s).trans ?_
  dsimp only [scalarRun] at ha ho hal r ⊢
  refine (State.issue_scalar (F := fun _ _ sv _ => f (sval sv 1) (sval sv 0)) hi
    (by exact ⟨rfl, by simp [bitN], onAll_legal key, ho.legal rfl (by simp) (by simp), hw.1⟩) hh ⟨rfl, rfl, rfl, rfl, rfl⟩ ha ho rfl).trans ?_
  have e : ({ word := word, half := half, legal := onAll, ssrc := [b, a], sdst := [d], region := some rule } : Op).laneOperation =
    false := hw.2
  rw [e]
  rfl

theorem scalar3_completes {i : Instr} {word half d a b : Nat} {f : DWord → DWord → DWord → DWord} {g : BitVec 4}
    (he : ∀ s, exec i s = s.scalar3 word half d a b f) (hh : half = 1 ∨ half = 2) (hw : wordFits word half g false) :
    ({ scalarRun i half g [b, a, d] d fun v => f (v.getD 1 0) (v.getD 0 0) (v.getD 2 0) with noQueue := [d] } : Run).completes := by
  intro s key set hi ha hal ho r is _
  refine (he s).trans ?_
  dsimp only [scalarRun] at ha ho hal r ⊢
  refine (State.issue_scalar (F := fun _ _ sv _ => f (sval sv 1) (sval sv 0) (sval sv 2)) hi
    (by exact ⟨rfl, by simp [bitN], onAll_legal key, ho.legal rfl hal.noQueue (by simp), hw.1⟩) hh ⟨rfl, rfl, rfl, rfl, rfl⟩ ha ho rfl).trans ?_
  have e : ({ word := word, half := half, legal := onAll, ssrc := [b, a, d], sdst := [d], sread := [d], region := some .pin } : Op).laneOperation = false := hw.2
  rw [e]
  rfl

theorem scalar1_completes {i : Instr} {word half d a : Nat} {rule : TagRule} {f : DWord → DWord} {g : BitVec 4}
    (he : ∀ s, exec i s = s.scalar1 word half d a rule f) (hh : half = 1 ∨ half = 2) (hw : wordFits word half g false) :
    (scalarRun i half g [a] d fun v => f (v.getD 0 0)).completes := by
  intro s key set hi ha hal ho r is _
  refine (he s).trans ?_
  dsimp only [scalarRun] at ha ho hal r ⊢
  refine (State.issue_scalar (F := fun _ _ sv _ => f (sval sv 0)) hi
    (by exact ⟨rfl, by simp [bitN], onAll_legal key, ho.legal rfl (by simp) (by simp), hw.1⟩) hh ⟨rfl, rfl, rfl, rfl, rfl⟩ ha ho rfl).trans ?_
  have e : ({ word := word, half := half, legal := onAll, ssrc := [a], sdst := [d], region := some rule } : Op).laneOperation =
    false := hw.2
  rw [e]
  rfl

theorem scalar0_completes {i : Instr} {word half d : Nat} {v : DWord} {g : BitVec 4}
    (he : ∀ s, exec i s = s.scalar0 word half d v) (hh : half = 1 ∨ half = 2) (hw : wordFits word half g false) :
    (scalarRun i half g [] d fun _ => v).completes := by
  intro s key set hi ha hal ho r is _
  refine (he s).trans ?_
  dsimp only [scalarRun] at ha ho hal r ⊢
  refine (State.issue_scalar (F := fun _ _ _ _ => v) hi
    (by exact ⟨rfl, by simp [bitN], onAll_legal key, ho.legal rfl (by simp) (by simp), hw.1⟩) hh ⟨rfl, rfl, rfl, rfl, rfl⟩ ha ho rfl).trans ?_
  have e : ({ word := word, half := half, legal := onAll, sdst := [d], region := some .pin } : Op).laneOperation = false := hw.2
  rw [e]
  rfl

theorem scalarInsert_completes {i : Instr} {word d : Nat} {f : DWord → DWord} {g : BitVec 4}
    (he : ∀ s, exec i s = s.scalarInsert word d f) (hw : wordFits word 2 g false) :
    ({ scalarRun i 2 g [d] d fun v => f (v.getD 0 0) with noQueue := [d] } : Run).completes := by
  intro s key set hi ha hal ho r is _
  refine (he s).trans ?_
  dsimp only [scalarRun] at ha ho hal r ⊢
  refine (State.issue_scalar (F := fun _ _ sv _ => f (sval sv 0)) hi
    (by exact ⟨rfl, by simp [bitN], onAll_legal key, ho.legal rfl hal.noQueue (by simp), hw.1⟩) (.inr rfl) ⟨rfl, rfl, rfl, rfl, rfl⟩ ha ho rfl).trans ?_
  have e : ({ word := word, legal := onAll, ssrc := [d], sdst := [d], sread := [d], region := some .pin } : Op).laneOperation =
    false := hw.2
  rw [e]
  rfl

/-- The value of lane `l` in each of an instruction's lane sources. -/
theorem lval_map (lv : List (List Word)) (k l : Nat) : (lv.map fun v => v.getD l 0).getD k 0 = lval lv k l := by
  unfold lval
  rw [List.getD_eq_getElem?_getD, List.getElem?_map, List.getD_eq_getElem?_getD (l := lv)]
  cases lv[k]? <;> simp

theorem lane2_completes {i : Instr} {word half d a b : Nat} {rule : TagRule} {f : Word → Word → Word} {g : BitVec 4}
    (he : ∀ s, exec i s = s.lane2 word half d a b rule f) (hh : half = 1 ∨ half = 2) (hw : wordFits word half g true) :
    (laneRun i half g [b, a] d fun v => f (v.getD 1 0) (v.getD 0 0)).completes := by
  intro s key set hi ha hal ho r is _
  refine (he s).trans ?_
  dsimp only [laneRun] at ha ho hal r ⊢
  refine (State.issue_lane_plain (R := fun is _ _ lv => is.lanes.map fun l => (l, f (lval lv 1 l) (lval lv 0 l))) hi
    (by exact ⟨rfl, by simp [bitN], hal.legal, ho.legal rfl (by simp) (by simp), hw.1⟩) hh ⟨rfl, rfl, rfl, rfl, rfl⟩ ha ho rfl).trans ?_
  have e : ({ word := word, half := half, legal := onLanes, lsrc := [b, a], ldst := [d], region := some rule } : Op).laneOperation =
    true := hw.2
  rw [e]
  simp only [lval_map]
  rfl

theorem lane3_completes {i : Instr} {word half d a b : Nat} {f : Word → Word → Word → Word} {g : BitVec 4}
    (he : ∀ s, exec i s = s.lane3 word half d a b f) (hh : half = 1 ∨ half = 2) (hw : wordFits word half g true) :
    ({ laneRun i half g [b, a, d] d fun v => f (v.getD 1 0) (v.getD 0 0) (v.getD 2 0) with
      ready := fun _ _ _ _ => d ≠ 0x3A ∧ d ≠ 0x3B } : Run).completes := by
  intro s key set hi ha hal ho r is hr
  refine (he s).trans ?_
  dsimp only [laneRun] at ha ho hal hr r ⊢
  have hb : laneReadBad d = false := by simp [laneReadBad, hr.1, hr.2]
  refine (State.issue_lane_plain (R := fun is _ _ lv => is.lanes.map fun l => (l, f (lval lv 1 l) (lval lv 0 l) (lval lv 2 l))) hi
    (by exact ⟨rfl, by simp [bitN], hal.legal, ho.legal hb (by simp) (by simp), hw.1⟩) hh ⟨rfl, rfl, rfl, rfl, rfl⟩ ha ho rfl).trans ?_
  have e : ({ word := word, half := half, legal := onLanes, lsrc := [b, a, d], ldst := [d], bad := laneReadBad d, region := some .pin } : Op).laneOperation = true := hw.2
  rw [e]
  simp only [lval_map]
  rfl

theorem lane1_completes {i : Instr} {word half d a : Nat} {rule : TagRule} {f : Word → Word} {g : BitVec 4}
    (he : ∀ s, exec i s = s.lane1 word half d a rule f) (hh : half = 1 ∨ half = 2) (hw : wordFits word half g true) :
    (laneRun i half g [a] d fun v => f (v.getD 0 0)).completes := by
  intro s key set hi ha hal ho r is _
  refine (he s).trans ?_
  dsimp only [laneRun] at ha ho hal r ⊢
  refine (State.issue_lane_plain (R := fun is _ _ lv => is.lanes.map fun l => (l, f (lval lv 0 l))) hi
    (by exact ⟨rfl, by simp [bitN], hal.legal, ho.legal rfl (by simp) (by simp), hw.1⟩) hh ⟨rfl, rfl, rfl, rfl, rfl⟩ ha ho rfl).trans ?_
  have e : ({ word := word, half := half, legal := onLanes, lsrc := [a], ldst := [d], region := some rule } : Op).laneOperation =
    true := hw.2
  rw [e]
  simp only [lval_map]
  rfl

theorem laneCmp_completes {i : Instr} {word p a b op : Nat} {f : Word → Word → Bool} {g : BitVec 4}
    (he : ∀ s, exec i s = s.laneCmp word p a b op f) (hw : wordFits word 2 g true) :
    (predRun i g [b, a] p fun _ _ _ v => f (v.getD 1 0) (v.getD 0 0)).completes := by
  intro s key set hi ha hal ho r is _
  refine (he s).trans ?_
  dsimp only [predRun] at ha ho hal r ⊢
  refine (State.issue_pred (R := fun is _ _ lv => is.lanes.map fun l => (l, f (lval lv 1 l) (lval lv 0 l))) hi
    (by exact ⟨rfl, by simp [bitN], hal.legal, ho.legal rfl (by simp) (by simp), hw.1⟩) (.inr rfl) ⟨rfl, rfl, rfl, rfl, rfl⟩ ha ho).trans ?_
  have e : ({ word := word, legal := onLanes, lsrc := [b, a], pdst := [p], region := some (.cmp op) } : Op).laneOperation =
    true := hw.2
  rw [e]
  simp only [lval_map]
  rfl

theorem pred2_completes {i : Instr} {word p a b : Nat} {f : Bool → Bool → Bool} {g : BitVec 4}
    (he : ∀ s, exec i s = s.pred2 word p a b f) (hw : wordFits word 2 g true) :
    (predRun i g [] p fun s key l _ => f (s.pget key a l) (s.pget key b l)).completes := by
  intro s key set hi ha hal ho r is _
  refine (he s).trans ?_
  dsimp only [predRun] at ha ho hal r ⊢
  refine (State.issue_pred (R := fun is s _ _ => is.lanes.map fun l => (l, f (s.pget is.key a l) (s.pget is.key b l))) hi
    (by exact ⟨rfl, by simp [bitN], hal.legal, ho.legal rfl (by simp) (by simp), hw.1⟩) (.inr rfl) ⟨rfl, rfl, rfl, rfl, rfl⟩ ha ho).trans ?_
  have e : ({ word := word, legal := onLanes, pdst := [p], region := some .pin } : Op).laneOperation = true := hw.2
  rw [e]
  rfl

theorem float2_completes {i : Instr} {word half d a b c : Nat} {op : FOp2} {g : BitVec 4}
    (he : ∀ s, exec i s = s.float2 word half d a b c op) (hh : half = 1 ∨ half = 2) (hw : wordFits word half g true) :
    (floatRun i half g [b, a] d fun rm v =>
      perElem2 (fmtOfCode c) (fop2 op (fmtOfCode c) rm) (v.getD 1 0) (v.getD 0 0)).completes := by
  intro s key set hi ha hal ho r is _
  refine (he s).trans ?_
  dsimp only [floatRun] at ha ho hal r ⊢
  refine (State.issue_lane (R := fun is s _ lv => is.lanes.map fun l =>
      (l, perElem2 (fmtOfCode c) (fop2 op (fmtOfCode c) (s.laneRm is l)) (lval lv 1 l) (lval lv 0 l))) hi
    (by exact ⟨rfl, by simp [bitN], hal.legal, ho.legal rfl (by simp) (by simp), hw.1⟩) hh ⟨rfl, rfl, rfl, rfl, rfl⟩ ha ho rfl).trans ?_
  have e : ({ word := word, half := half, legal := onLanes, lsrc := [b, a], ldst := [d] } : Op).laneOperation = true := hw.2
  rw [e]
  simp only [lval_map]
  rfl

theorem float3_completes {i : Instr} {word half d a b c : Nat} {g : BitVec 4}
    (he : ∀ s, exec i s = s.float3 word half d a b c) (hh : half = 1 ∨ half = 2) (hw : wordFits word half g true) :
    ({ floatRun i half g [b, a, d] d fun rm v =>
        perElem3 (fmtOfCode c) (ffmaF (fmtOfCode c) rm) (v.getD 1 0) (v.getD 0 0) (v.getD 2 0) with
      ready := fun _ _ _ _ => d ≠ 0x3A ∧ d ≠ 0x3B } : Run).completes := by
  intro s key set hi ha hal ho r is hr
  refine (he s).trans ?_
  dsimp only [floatRun] at ha ho hal hr r ⊢
  have hb : laneReadBad d = false := by simp [laneReadBad, hr.1, hr.2]
  refine (State.issue_lane (R := fun is s _ lv => is.lanes.map fun l =>
      (l, perElem3 (fmtOfCode c) (ffmaF (fmtOfCode c) (s.laneRm is l)) (lval lv 1 l) (lval lv 0 l) (lval lv 2 l))) hi
    (by exact ⟨rfl, by simp [bitN], hal.legal, ho.legal hb (by simp) (by simp), hw.1⟩) hh ⟨rfl, rfl, rfl, rfl, rfl⟩ ha ho rfl).trans ?_
  have e : ({ word := word, half := half, legal := onLanes, lsrc := [b, a, d], ldst := [d], bad := laneReadBad d } : Op).laneOperation =
    true := hw.2
  rw [e]
  simp only [lval_map]
  rfl

theorem float1_completes {i : Instr} {word half d a c : Nat} {op : FOp1} {g : BitVec 4}
    (he : ∀ s, exec i s = s.float1 word half d a c op) (hh : half = 1 ∨ half = 2) (hw : wordFits word half g true) :
    (floatRun i half g [a] d fun rm v => perElem1 (fmtOfCode c) (fop1 op (fmtOfCode c) rm) (v.getD 0 0)).completes := by
  intro s key set hi ha hal ho r is _
  refine (he s).trans ?_
  dsimp only [floatRun] at ha ho hal r ⊢
  refine (State.issue_lane (R := fun is s _ lv => is.lanes.map fun l =>
      (l, perElem1 (fmtOfCode c) (fop1 op (fmtOfCode c) (s.laneRm is l)) (lval lv 0 l))) hi
    (by exact ⟨rfl, by simp [bitN], hal.legal, ho.legal rfl (by simp) (by simp), hw.1⟩) hh ⟨rfl, rfl, rfl, rfl, rfl⟩ ha ho rfl).trans ?_
  have e : ({ word := word, half := half, legal := onLanes, lsrc := [a], ldst := [d] } : Op).laneOperation = true := hw.2
  rw [e]
  simp only [lval_map]
  rfl

theorem floatCmp_completes {i : Instr} {word c p a b f : Nat} {g : BitVec 4}
    (he : ∀ s, exec i s = s.floatCmp word c p a b f) (hw : wordFits word 2 g true) :
    ({ instr := i, g := g, legal := 0x28, lane := true, lsrc := [b, a]
       effect := fun is s _ lv =>
        let rs := is.lanes.map fun l => (l, fcmpLane c (fmtOfCode f) (lval lv 1 l) (lval lv 0 l))
        (s.orLaneFlags is.key (rs.map fun r => (r.1, r.2.2))).pput is p (rs.map fun r => (r.1, r.2.1)) } : Run).completes := by
  intro s key set hi ha hal ho r is _
  refine (he s).trans ?_
  dsimp only at ha ho hal r ⊢
  refine (State.issue_plain hi
    (by exact ⟨rfl, by simp [bitN], hal.legal, ho.legal rfl (by simp) (by simp), hw.1⟩) (.inr rfl) ⟨rfl, rfl, rfl, rfl, rfl⟩ ha ho rfl ?_).trans ?_
  · intro hk
    obtain ⟨-, -, -, hst, hr, -⟩ := hi.2.2.2 0 (by rw [hi.2.2.1 hk]; simp)
    have hrs := State.reads_stream s key set g ({ word := word, legal := onLanes, lsrc := [b, a], pdst := [p] } : Op).laneOperation [] [b, a] hk
    have hc0 : (s.reads key set g ({ word := word, legal := onLanes, lsrc := [b, a], pdst := [p] } : Op).laneOperation [] [b, a]).1.ctlAt key 0 =
      s.ctlAt key 0 := by rw [hrs]; rfl
    dsimp only
    rw [State.pput_same]
    simp only [State.orLaneFlags, hk, Bool.false_eq_true, if_false]
    generalize s.reads key set g ({ word := word, legal := onLanes, lsrc := [b, a], pdst := [p] } : Op).laneOperation [] [b, a] = re at *
    generalize List.foldl (fun acc (f : Nat × Fl) => acc ||| f.2) 0 _ = fl
    obtain ⟨h1, h2, -⟩ := State.orFlags_ctlAt re.1 key 0 fl
    refine ⟨?_, h1.trans (by rw [hc0, hr]), h2.trans (by rw [hc0, hst])⟩
    show (re.1.orFlags key 0 fl).tokens = _
    rw [State.orFlags_same]; show re.1.tokens = _; rw [hrs]
  · have e : ({ word := word, legal := onLanes, lsrc := [b, a], pdst := [p] } : Op).laneOperation = true := hw.2
    rw [e]
    rfl

theorem predScalar_completes {i : Instr} {word d p : Nat} {f : List (Nat × Bool) → DWord} {g : BitVec 4}
    (he : ∀ s, exec i s = s.predScalar word d p f) (hw : wordFits word 2 g true) :
    ({ instr := i, g := g, legal := 0x28, lane := true, sdst := [d]
       effect := fun is s _ _ => s.give is.key d (f (is.lanes.map fun l => (l, s.pget is.key p l))) } : Run).completes := by
  intro s key set hi ha hal ho r is _
  refine (he s).trans ?_
  dsimp only at ha ho hal r ⊢
  refine (State.issue_scalar (F := fun is s _ _ => f (is.lanes.map fun l => (l, s.pget is.key p l))) hi
    (by exact ⟨rfl, by simp [bitN], hal.legal, ho.legal rfl (by simp) (by simp), hw.1⟩) (.inr rfl) ⟨rfl, rfl, rfl, rfl, rfl⟩ ha ho rfl).trans ?_
  have e : ({ word := word, legal := onLanes, sdst := [d], region := some .pin } : Op).laneOperation = true := hw.2
  rw [e]
  rfl

theorem laneScalar_completes {i : Instr} {word d a : Nat} {f : List Word → DWord} {g : BitVec 4}
    (he : ∀ s, exec i s = s.laneScalar word d a f) (hw : wordFits word 2 g true) :
    ({ instr := i, g := g, legal := 0x28, lane := true, lsrc := [a], sdst := [d]
       effect := fun is s _ lv => s.give is.key d (f (is.lanes.map fun l => lval lv 0 l)) } : Run).completes := by
  intro s key set hi ha hal ho r is _
  refine (he s).trans ?_
  dsimp only at ha ho hal r ⊢
  refine (State.issue_scalar (F := fun is _ _ lv => f (is.lanes.map fun l => lval lv 0 l)) hi
    (by exact ⟨rfl, by simp [bitN], hal.legal, ho.legal rfl (by simp) (by simp), hw.1⟩) (.inr rfl) ⟨rfl, rfl, rfl, rfl, rfl⟩ ha ho rfl).trans ?_
  have e : ({ word := word, legal := onLanes, lsrc := [a], sdst := [d], region := some .pin } : Op).laneOperation = true := hw.2
  rw [e]
  rfl

theorem scalarToLanes_completes {i : Instr} {word d a : Nat} {g : BitVec 4}
    (he : ∀ s, exec i s = s.scalarToLanes word d a) (hw : wordFits word 2 g true) :
    ({ instr := i, g := g, legal := 0x28, lane := true, ssrc := [a], ldst := [d]
       effect := fun is s sv _ => s.giveLanes is.key d (is.lanes.map fun l => (l, (sv.getD 0 0).setWidth 32)) } : Run).completes := by
  intro s key set hi ha hal ho r is _
  refine (he s).trans ?_
  dsimp only at ha ho hal r ⊢
  refine (State.issue_lane_plain (R := fun is _ sv _ => is.lanes.map fun l => (l, (sval sv 0).setWidth 32)) hi
    (by exact ⟨rfl, by simp [bitN], hal.legal, ho.legal rfl (by simp) (by simp), hw.1⟩) (.inr rfl) ⟨rfl, rfl, rfl, rfl, rfl⟩ ha ho rfl).trans ?_
  have e : ({ word := word, legal := onLanes, ssrc := [a], ldst := [d], region := some .pin } : Op).laneOperation = true := hw.2
  rw [e]
  rfl

theorem laneNumber_completes {i : Instr} {word d : Nat} {g : BitVec 4}
    (he : ∀ s, exec i s = s.laneNumber word d) (hw : wordFits word 2 g true) :
    ({ instr := i, g := g, legal := 0x28, lane := true, ldst := [d]
       effect := fun is s _ _ => s.giveLanes is.key d (is.lanes.map fun l => (l, BitVec.ofNat 32 l)) } : Run).completes := by
  intro s key set hi ha hal ho r is _
  refine (he s).trans ?_
  dsimp only at ha ho hal r ⊢
  refine (State.issue_lane_plain (R := fun is _ _ _ => is.lanes.map fun l => (l, BitVec.ofNat 32 l)) hi
    (by exact ⟨rfl, by simp [bitN], hal.legal, ho.legal rfl (by simp) (by simp), hw.1⟩) (.inr rfl) ⟨rfl, rfl, rfl, rfl, rfl⟩ ha ho rfl).trans ?_
  have e : ({ word := word, legal := onLanes, ldst := [d], region := some .pin } : Op).laneOperation = true := hw.2
  rw [e]
  rfl

theorem State.orFlags_region (s : State) (key l : Nat) (f : Fl) :
    ((s.orFlags key l f).ctlAt key l).region = (s.ctlAt key l).region ∧
      ∀ ck q, (s.orFlags key l f).regionEntries ck q = s.regionEntries ck q := by
  unfold State.orFlags
  split
  · exact ⟨rfl, fun _ _ => rfl⟩
  · exact ⟨by simp [State.modCtl], fun ck q => by apply State.regionEntries_setCtl; rfl⟩

theorem floatSum_completes {i : Instr} {word d a : Nat} {g : BitVec 4}
    (he : ∀ s, exec i s = s.floatSum word d a) (hw : wordFits word 2 g true) :
    ({ instr := i, g := g, legal := 0x28, lane := true, lsrc := [a], sdst := [d]
       effect := fun is s _ lv =>
        let r := fsumLanes (s.rmOf_ is.key (is.threads.headD 0)) (is.lanes.map fun l => lval lv 0 l)
        (s.orFlags is.key (is.threads.headD 0) r.2).give is.key d (BitVec.ofNat 64 r.1) } : Run).completes := by
  intro s key set hi ha hal ho r is _
  refine (he s).trans ?_
  dsimp only at ha ho hal r ⊢
  refine (State.issue_scalars
    (W := fun is s _ lv => s.orFlags is.key (is.threads.headD 0)
      (fsumLanes (s.rmOf_ is.key (is.threads.headD 0)) (is.lanes.map fun l => lval lv 0 l)).2)
    (F := fun is s _ lv => BitVec.ofNat 64 (fsumLanes (s.rmOf_ is.key (is.threads.headD 0)) (is.lanes.map fun l => lval lv 0 l)).1) hi
    (by exact ⟨rfl, by simp [bitN], hal.legal, ho.legal rfl (by simp) (by simp), hw.1⟩) (.inr rfl) ⟨rfl, rfl, rfl, rfl, rfl⟩ ha ho rfl ?_).trans ?_
  · intro is t sv lv hkey hth hk
    have h0 : is.threads.headD 0 = 0 := by rw [hth, hi.2.2.1 hk]; rfl
    rw [h0, hkey]
    obtain ⟨h1, h2, -⟩ := State.orFlags_ctlAt t key 0 (fsumLanes (t.rmOf_ key 0) (is.lanes.map fun l => lval lv 0 l)).2
    obtain ⟨h3, h4⟩ := State.orFlags_region t key 0 (fsumLanes (t.rmOf_ key 0) (is.lanes.map fun l => lval lv 0 l)).2
    refine And.intro ?_ (And.intro ?_ (And.intro h1 (And.intro h2 (And.intro h3 (h4 _))))) <;> rw [State.orFlags_same]
  · have e : ({ word := word, legal := onLanes, lsrc := [a], sdst := [d] } : Op).laneOperation = true := hw.2
    rw [e]
    rfl

/-- What an instruction reads from leaves poison as it was. -/
theorem State.reads_poisonLane (s : State) (key : Nat) (set : List Nat) (g : BitVec 4) (lane : Bool) (ssrc lsrc : List Nat) :
    (s.reads key set g lane ssrc lsrc).1.poisonLane = s.poisonLane := by
  simp only [State.reads, State.begun]
  rw [State.popLanes_same, State.popScalars_same]
  split
  · rw [State.countIssue_same]
  · rw [State.popTokens_same]

theorem filter_not_false {α : Type} {p : α → Bool} (h : ∀ x, p x = false) (l : List α) :
    (l.filter fun x => !p x) = l := List.filter_eq_self.2 fun x _ => by rw [h x]; rfl

theorem filter_false {α : Type} {p : α → Bool} (h : ∀ x, p x = false) (l : List α) :
    (l.filter fun x => p x) = [] := List.filter_eq_nil_iff.2 fun x _ => by rw [h x]; simp

theorem firstLane_completes {i : Instr} {word d a : Nat} {g : BitVec 4}
    (he : ∀ s, exec i s = s.firstLane word d a) (hw : wordFits word 2 g true) :
    ({ instr := i, g := g, legal := 0x28, lane := true, lsrc := [a], sdst := [d]
       effect := fun is s _ lv => s.give is.key d ((lval lv 0 (is.lanes.headD 0)).setWidth 64) } : Run).completes := by
  intro s key set hi ha hal ho r is _
  refine (he s).trans ?_
  dsimp only at ha ho hal r ⊢
  unfold State.firstLane
  have e : ({ word := word, legal := onLanes, lsrc := [a], sdst := [d], region := some .memory } : Op).laneOperation = true := hw.2
  -- The lane read is one of those that issue, and none of them is in a region.
  have hs : (if isWave is.key then r.1.pinLane is.key (is.lanes.headD 0) a else r.1) = r.1 := by
    cases hk : isWave is.key
    · rfl
    · have hk' : isWave key = true := hk
      have hm : set.headD 0 ∈ set := by
        cases hset : set with
        | nil => exact absurd hset hi.2.1
        | cons x l => simp
      have hl : is.lanes = set := by simp [is, issueLanes, hk']
      have hc : ∀ l, r.1.ctlAt key l = s.ctlAt key l := by
        intro l
        show (s.reads key set g true [] [a]).1.ctlAt key l = _
        simp only [State.reads, State.begun, hk', if_true]
        rw [State.popLanes_same, State.popScalars_same, State.countIssue_same]
        rfl
      simp only [if_true, State.pinLane, hl]
      rw [show is.key = key from rfl, hc, (hi.2.2.2 _ hm).1]
  refine (State.issue_scalars_at (w := r.1) (v := (lval r.2.2 0 (is.lanes.headD 0)).setWidth 64) hi
    (by exact ⟨rfl, by simp [bitN], hal.legal, ho.legal rfl (by simp) (by simp), hw.1⟩) (.inr rfl) ⟨rfl, rfl, rfl, rfl, rfl⟩ ha ho rfl
    ?_ ?_).trans ?_
  · dsimp only
    rw [e]
    exact congrArg (fun t => done (State.sput t key d _)) hs
  · dsimp only
    rw [e]
    exact fun _ => ⟨rfl, rfl, rfl, rfl, rfl, fun _ => rfl⟩
  · rfl

/-- Pinning slots leaves everything but control state as it was, and a stream's whole. -/
theorem State.pinLanes_same (s : State) (key : Nat) (pins : List (Nat × Nat)) (d : Nat) (lanes : List Nat) :
    s.pinLanes key pins d lanes = { s with ctl := (s.pinLanes key pins d lanes).ctl } := by
  have h1 : ∀ (ps : List (Nat × Nat)) (t : State), ps.foldl (fun s p => s.pinLane key p.1 p.2) t =
      { t with ctl := (ps.foldl (fun s p => s.pinLane key p.1 p.2) t).ctl } := by
    intro ps
    induction ps with
    | nil => intro t; rfl
    | cons p ps ih =>
      intro t
      have : t.pinLane key p.1 p.2 = { t with ctl := (t.pinLane key p.1 p.2).ctl } := by
        unfold State.pinLane; split <;> rfl
      rw [List.foldl_cons, ih, this]
  have h2 : ∀ (ls : List Nat) (t : State), ls.foldl (fun s l => s.untag key l d) t =
      { t with ctl := (ls.foldl (fun s l => s.untag key l d) t).ctl } := by
    intro ls
    induction ls with
    | nil => intro t; rfl
    | cons l ls ih =>
      intro t
      have : t.untag key l d = { t with ctl := (t.untag key l d).ctl } := by
        unfold State.untag; split <;> rfl
      rw [List.foldl_cons, ih, this]
  unfold State.pinLanes
  split
  · rw [h2, h1]
  · rfl

theorem cross_completes {i : Instr} {word d a form : Nat} {b : Option Nat} {imm : Int} {g : BitVec 4}
    (he : ∀ s, exec i s = s.cross word d a b imm form) (hw : wordFits word 2 g true) :
    ({ instr := i, g := g, legal := 0x28, lane := true, lsrc := b.toList ++ [a], ldst := [d], crosses := [a]
       effect := fun is s0 _ lv =>
        let s := s0.pinLanes is.key (crossPins is.key a b imm form is.lanes lv) d is.lanes
        let rs := crossResults s is.key b imm form is.lanes lv
        (s.pput is 7 (rs.map fun r => (r.1, r.2.2))).giveLanes is.key d (rs.map fun r => (r.1, r.2.1)) } : Run).completes := by
  intro s key set hi ha hal ho r is _
  refine (he s).trans ?_
  dsimp only at ha ho hal r ⊢
  have hp : ∀ x, (decide (a < 0x3A) && r.1.poisonLane.has (laneKey key a x)) = false := by
    intro x
    rw [State.reads_poisonLane]
    by_cases h : a < 0x3A
    · simp [hal.crosses a (by simp) h x]
    · simp [h]
  let t := r.1.pinLanes key (crossPins key a b imm form is.lanes r.2.2) d is.lanes
  have ht : isWave key = false → t = r.1 := fun hk => by simp [t, State.pinLanes, hk]
  let rs := crossResults t key b imm form is.lanes r.2.2
  have e : ({ word := word, legal := onLanes, lsrc := b.toList ++ [a], lcross := [a], ldst := [d], pdst := [7], region := some .memory } : Op).laneOperation =
    true := hw.2
  have hW : isWave key = false →
      ((t.pput is 7 (rs.map fun r => (r.1, r.2.2))).tokens = r.1.tokens ∧ (t.pput is 7 (rs.map fun r => (r.1, r.2.2))).rings = r.1.rings ∧
        (t.pput is 7 (rs.map fun r => (r.1, r.2.2))).slots = r.1.slots) ∧
      ((t.pput is 7 (rs.map fun r => (r.1, r.2.2))).ctlAt key 0).retire = (r.1.ctlAt key 0).retire ∧
      ((t.pput is 7 (rs.map fun r => (r.1, r.2.2))).ctlAt key 0).stall = (r.1.ctlAt key 0).stall ∧
      ((t.pput is 7 (rs.map fun r => (r.1, r.2.2))).ctlAt key 0).boundAs (r.1.ctlAt key 0) := by
    intro hk
    have hb : ∀ c : Ctl, c.boundAs c := fun _ => ⟨rfl, rfl, rfl⟩
    rw [State.pput_same, ht hk]
    exact And.intro (And.intro rfl (And.intro rfl rfl)) (And.intro rfl (And.intro rfl (hb _)))
  unfold State.cross
  refine (State.issue_lanes_at (set := set) (g := g) (w := t.pput is 7 (rs.map fun r => (r.1, r.2.2)))
    (rs := rs.map fun r => (r.1, r.2.1)) hi
    (by exact ⟨rfl, by simp [bitN], hal.legal, ho.legal rfl (by simp) (by simp), hw.1⟩) (.inr rfl) ⟨rfl, rfl, rfl, rfl, rfl⟩ ha ho rfl
    ?_ ?_).trans ?_
  · dsimp only
    rw [e]
    show _ = done ((t.pput is 7 _).lput is d _)
    have hq : ∀ l, (isWave key && match crossSource form (laneCount key) l (crossAmount b imm form r.2.2 l) with
        | some x => decide (a < 0x3A) && r.1.poisonLane.has (laneKey key a x)
        | none => false) = false := by
      intro l
      split
      · exact (congrArg (isWave key && ·) (hp _)).trans (by simp)
      · simp
    simp only [done]
    rw [filter_not_false, filter_false]
    · cases b <;> rfl
    · exact hq
    · exact hq
  · dsimp only
    rw [e]
    exact hW
  · rfl

theorem pairOk_plain {d : Nat} (h : pairOk d = true) : (d ≠ 0x3A ∧ d ≠ 0x3B) ∧ pairHi d ≠ 0x3A ∧ pairHi d ≠ 0x3B := by
  simp only [pairOk, Bool.or_eq_true, Bool.and_eq_true, decide_eq_true_eq, beq_iff_eq] at h
  unfold pairHi
  by_cases hd : d = 0x3C
  · subst hd; decide
  · have hb : (d == 0x3C) = false := by simpa using hd
    rw [hb]
    simp only [Bool.false_eq_true, if_false]
    omega

theorem State.lput_plain (s : State) (is : Iss) {d : Nat} (rs : List (Nat × Word)) (h : d ≠ 0x3A ∧ d ≠ 0x3B) :
    s.lput is d rs = s.giveLanes is.key d rs ∧ s.giveLanes is.key d rs = s.retireLanes is.key d rs := by
  simp [State.lput, State.giveLanes, h.1, h.2]

theorem convert_completes {i : Instr} {word d a n mode : Nat} {g : BitVec 4}
    (he : ∀ s, exec i s = s.convert word d a n mode) (hw : wordFits word 2 g true) :
    ({ instr := i, g := g, legal := 0x28, lane := true
       lsrc := (if cvtSrcPair n then [pairHi a, a] else [a]) ++ (if cvtInto n then [d] else [])
       ldst := if cvtDstPair n then [d, pairHi d] else [d]
       pairs := (if cvtSrcPair n then [a] else []) ++ (if cvtDstPair n then [d] else [])
       ready := fun _ _ _ _ => cvtInto n = true → d ≠ 0x3A ∧ d ≠ 0x3B
       effect := fun is s _ lv =>
        let rs := is.lanes.map fun l =>
          let x := if cvtSrcPair n then (lval lv 1 l).toNat + 2 ^ 32 * (lval lv 0 l).toNat else (lval lv 0 l).toNat
          (l, cvtLane n (rmOf mode) x (if cvtInto n then lval lv (if cvtSrcPair n then 2 else 1) l else 0))
        let s1 := s.orLaneFlags is.key (rs.map fun r => (r.1, r.2.2))
        let s2 := s1.giveLanes is.key d (rs.map fun r => (r.1, BitVec.ofNat 32 r.2.1))
        if cvtDstPair n then s2.giveLanes is.key (pairHi d) (rs.map fun r => (r.1, BitVec.ofNat 32 (r.2.1 / 2 ^ 32)))
        else s2 } : Run).completes := by
  intro s key set hi ha hal ho r is hr
  refine (he s).trans ?_
  dsimp only at ha ho hal hr r ⊢
  have hbad : (cvtInto n && laneReadBad d) = false := by
    cases h : cvtInto n
    · rfl
    · simp [laneReadBad, (hr h).1, (hr h).2]
  have hfl : ∀ (t : State) (fs : List (Nat × Fl)), isWave key = false →
      t.orLaneFlags key fs = { t with ctl := (t.orLaneFlags key fs).ctl } ∧
      ((t.orLaneFlags key fs).ctlAt key 0).retire = (t.ctlAt key 0).retire ∧
      ((t.orLaneFlags key fs).ctlAt key 0).stall = (t.ctlAt key 0).stall ∧
      ((t.orLaneFlags key fs).ctlAt key 0).boundAs (t.ctlAt key 0) := by
    intro t fs hk
    simp only [State.orLaneFlags, hk, Bool.false_eq_true, if_false]
    obtain ⟨h1, h2, h3⟩ := State.orFlags_ctlAt t key 0 (fs.foldl (fun acc f => acc ||| f.2) 0)
    exact And.intro (State.orFlags_same _ _ _ _) (And.intro h1 (And.intro h2 h3))
  have hgood : ∀ op : Op, op.ill = false → op.illOn = 0 → op.legal = onLanes → op.bad = (cvtInto n && laneReadBad d) →
      op.sread = [] → op.word = word → op.half = 2 → op.ssrc = [] → op.sdst = [] →
      op.lsrc = (if cvtSrcPair n then [pairHi a, a] else [a]) ++ (if cvtInto n then [d] else []) →
      op.ldst = (if cvtDstPair n then [d, pairHi d] else [d]) →
      op.pairs = (if cvtSrcPair n then [a] else []) ++ (if cvtDstPair n then [d] else []) → op.good key g := by
    intro op h1 h2 h3 h4 h5 h6 h7 h8 h9 h10 h11 h12
    refine ⟨h1, by rw [h2]; simp [bitN], ?_, ?_, ?_⟩
    · unfold Op.legalOn; rw [h3]; exact hal.legal
    · refine State.operandsReady.legal (links := []) (s := s) (set := set) (by rw [h4, hbad]) ?_ (by rw [h5]; simp) (by rw [h12]; exact hal.pairs)
      rw [h8, h9, h10, h11]; exact ho
    · have := hw.1
      unfold Op.g at this ⊢
      rw [h6, h7]; exact this
  have hlo : ∀ op : Op, op.word = word → op.half = 2 → op.laneOperation = true := by
    intro op h6 h7
    have := hw.2
    unfold Op.laneOperation at this ⊢
    rw [h6, h7]; exact this
  unfold State.convert
  let rs : List (Nat × Nat × Fl) := is.lanes.map fun l =>
    let x := if cvtSrcPair n then (lval r.2.2 1 l).toNat + 2 ^ 32 * (lval r.2.2 0 l).toNat else (lval r.2.2 0 l).toNat
    (l, cvtLane n (rmOf mode) x (if cvtInto n then lval r.2.2 (if cvtSrcPair n then 2 else 1) l else 0))
  let s1 := r.1.orLaneFlags key (rs.map fun r => (r.1, r.2.2))
  rcases Bool.eq_false_or_eq_true (cvtDstPair n) with ho2 | ho2
  rotate_left
  · have hd : (if cvtDstPair n then [d, pairHi d] else [d]) = [d] := by rw [ho2]; rfl
    refine (State.issue_lanes_at (set := set) (g := g) (w := s1) (rs := rs.map fun r => (r.1, BitVec.ofNat 32 r.2.1)) hi
      (hgood _ rfl rfl rfl rfl rfl rfl rfl rfl rfl rfl rfl rfl) (.inr rfl) ⟨rfl, rfl, rfl, rfl, rfl⟩ ha (by exact ho) hd ?_ ?_).trans ?_
    · rw [hlo _ rfl rfl]
      dsimp only
      rw [ho2]
      rfl
    · rw [hlo _ rfl rfl]
      intro hk
      obtain ⟨h1, h2, h3, h4⟩ := hfl r.1 (rs.map fun r => (r.1, r.2.2)) hk
      exact And.intro (And.intro ((congrArg State.tokens h1).trans rfl) (And.intro ((congrArg State.rings h1).trans rfl)
        ((congrArg State.slots h1).trans rfl))) (And.intro h2 (And.intro h3 h4))
    · rw [ho2]; rfl
  · have hp := pairOk_plain (hal.pairs d (by simp [ho2]))
    refine (State.issue_plain (set := set) (g := g) hi
      (hgood _ rfl rfl rfl rfl rfl rfl rfl rfl rfl rfl rfl rfl) (.inr rfl) ⟨rfl, rfl, rfl, rfl, rfl⟩ ha (by exact ho)
      (st := (s1.giveLanes key d (rs.map fun r => (r.1, BitVec.ofNat 32 r.2.1))).giveLanes key (pairHi d)
        (rs.map fun r => (r.1, BitVec.ofNat 32 (r.2.1 / 2 ^ 32)))) ?_ ?_).trans ?_
    · rw [hlo _ rfl rfl]
      dsimp only
      rw [ho2]
      simp only [if_true]
      rw [(State.lput_plain _ _ _ hp.1).1, (State.lput_plain _ _ _ hp.2).1]
    · intro hk
      have hrs := State.reads_stream s key set g true [] ((if cvtSrcPair n then [pairHi a, a] else [a]) ++ (if cvtInto n then [d] else [])) hk
      obtain ⟨h1, h2, h3, -⟩ := hfl r.1 (rs.map fun r => (r.1, r.2.2)) hk
      obtain ⟨-, -, -, hst, hrt, -⟩ := hi.2.2.2 0 (by rw [hi.2.2.1 hk]; simp)
      have hc0 : r.1.ctlAt key 0 = s.ctlAt key 0 := by show (s.reads key set g true [] _).1.ctlAt key 0 = _; rw [hrs]; rfl
      rw [(State.lput_plain _ { key := key, threads := [], lanes := [] } _ hp.1).2,
        (State.lput_plain _ { key := key, threads := [], lanes := [] } _ hp.2).2, State.retireLanes_same,
        State.retireLanes_same s1]
      refine ⟨?_, h2.trans (by rw [hc0, hrt]), h3.trans (by rw [hc0, hst])⟩
      show s1.tokens = _
      rw [show s1.tokens = r.1.tokens from (congrArg State.tokens h1).trans rfl]
      show (s.reads key set g true [] _).1.tokens = _
      rw [hrs]
    · simp only [ho2, if_true]; rfl


/-! ### Any effect that leaves tokens and what is owed at retirement alone -/

/-- A word is issued as its run says: same operands, places and G field. -/
structure Run.fits (w : Run) (op : Op) : Prop where
  half : op.half = w.half
  halves : w.half = 1 ∨ w.half = 2
  ssrc : op.ssrc = w.ssrc
  sdst : op.sdst = w.sdst
  lsrc : op.lsrc = w.lsrc
  ldst : op.ldst = w.ldst
  sread : op.sread = w.noQueue
  pairs : op.pairs = w.pairs
  legal : ∀ k, bitN w.legal k = true → bitN op.legal k = true
  word : op.g = w.g.toNat
  lane : op.laneOperation = w.lane
  turns : op.turnsBack = w.turns
  last : op.wait = w.last
  unplaced : op.noPlace = w.unplaced
  unit : op.atomic = w.unit
  inside : op.notLast = w.inside
  later : op.completes = w.later
  record : w.record = w.later
  links : ∀ r ∈ w.links, op.chain = some r
  fields : op.ill = false ∧ op.bad = false
  handler : op.inHandler = true → ∀ is s sv lv, w.ready is s sv lv → ∀ l ∈ is.threads, (s.ctlAt is.key l).handling = true
  on : ∀ k, bitN w.legal k = true → bitN op.illOn k = false

theorem Run.of_whole {w : Run} {op : Op} {body : Iss → State → List DWord → List (List Word) → Eff}
    (he : ∀ s key set, s.issuing key set w.unit → bitN w.legal (if isWave key then 5 else keyEng key) = true →
      exec w.instr s = s.issue op body) (hf : w.fits op)
    (hb : ∀ is s sv lv, (∀ x ∈ w.noQueue, isQueue is.key x = false) → w.ready is s sv lv →
      body is s sv lv = { st := w.effect is s sv lv, jumps := w.jumps is s sv lv,
                          held := if w.stays then is.threads else [] })
    (ht : ∀ is s sv lv, isWave is.key = false → is.threads = [0] → w.ready is s sv lv →
      (w.effect is s sv lv).tokens = s.tokens ∧ ((w.effect is s sv lv).ctlAt is.key 0).retire = (s.ctlAt is.key 0).retire ∧
      ((w.effect is s sv lv).ctlAt is.key 0).stall = (s.ctlAt is.key 0).stall) : w.completes := by
  intro s key set hi ha hal ho r is hr
  have ha' : s.admits key set w.g op.half := by rw [hf.half]; exact ha
  have ho' : s.operandsReady key set op.ssrc op.sdst op.lsrc op.ldst w.links := by
    rw [hf.ssrc, hf.sdst, hf.lsrc, hf.ldst]; exact ho
  have hnq : ∀ x ∈ w.noQueue, isQueue key x = false := fun x hx => (hal.noQueue x hx).2
  have hg : op.good key w.g := by
    refine ⟨hf.fields.1, hf.on _ hal.legal, hf.legal _ hal.legal, ho'.legal hf.fields.2 ?_ ?_, hf.word⟩
    · rw [hf.sread]; exact hal.noQueue
    · rw [hf.pairs]; exact hal.pairs
  refine (he s key set hi hal.legal).trans ((State.issue_whole (e := { st := w.effect is r.1 r.2.1 r.2.2, jumps := w.jumps is r.1 r.2.1 r.2.2, held := if w.stays then is.threads else [] })
    hi (fun h => by rw [hf.unit]; exact h) hg ?_ (by rw [hf.half]; exact hf.halves) ?_ ha' ho' hf.links ?_ ⟨rfl, rfl, rfl, rfl, rfl⟩ ?_).trans ?_)
  · intro l hl
    exact ⟨fun h => by rw [hf.half]; exact hal.last (by rw [← hf.last]; exact h) l hl,
      fun h => by rw [hf.half]; exact hal.inside (by rw [← hf.inside]; exact h) l hl,
      fun h => hal.unplaced (by rw [← hf.unplaced]; exact h) l hl,
      fun h => by
        have hc : r.1.ctl = s.ctl := State.reads_ctl ..
        have := hf.handler h is r.1 r.2.1 r.2.2 hr l hl
        rwa [State.ctlAt, hc] at this⟩
  · intro h; exact hal.record (by rw [hf.record, ← hf.later]; exact h)
  · dsimp only
    rw [hf.lane, hf.ssrc, hf.lsrc]
    exact hb is r.1 r.2.1 r.2.2 hnq hr
  · intro hk
    have hset : set = [0] := hi.2.2.1 hk
    obtain ⟨h1, h2, h3⟩ := ht is r.1 r.2.1 r.2.2 hk hset hr
    obtain ⟨-, -, -, hst, hre, -⟩ := hi.2.2.2 0 (by rw [hset]; simp)
    have hrs := State.reads_stream s key set w.g w.lane w.ssrc w.lsrc hk
    have hc0 : r.1.ctlAt key 0 = s.ctlAt key 0 := by show (s.reads key set w.g w.lane w.ssrc w.lsrc).1.ctlAt key 0 = _; rw [hrs]; rfl
    have htk : r.1.tokens = (s.popTokens key w.g.toNat).tokens := by show (s.reads key set w.g w.lane w.ssrc w.lsrc).1.tokens = _; rw [hrs]
    exact ⟨h1.trans htk, h2.trans (by rw [show is.key = key from rfl, hc0, hre]), h3.trans (by rw [show is.key = key from rfl, hc0, hst])⟩
  · congr 1
    have hmv : (fun l c => Eff.move { st := w.effect is r.1 r.2.1 r.2.2, jumps := w.jumps is r.1 r.2.1 r.2.2, held := if w.stays then is.threads else [] } op.half l c) =
        fun l c => if (if w.stays then set else []).contains l then c else Sys2Proof.Machine.moveOn w.half (w.jumps is r.1 r.2.1 r.2.2) l c := by
      funext l c
      unfold Eff.move Sys2Proof.Machine.moveOn
      rw [show op.half = w.half from hf.half]
      try rfl
    rw [hmv]
    dsimp only
    cases hk : isWave key
    · have hset : set = [0] := hi.2.2.1 hk
      simp only [Bool.and_false, Bool.false_eq_true, if_false, State.concluded, hk, hf.later]
      congr 1
      cases w.stays <;> simp [hset]
    · simp only [Bool.and_true, if_true, State.concluded, hk]
      have hnb : ∀ (t : State) (js : List (Nat × DWord)) (ia : DWord), t.noteBackward op key js ia = if w.turns then t.backwards key js ia else t := by
        intro t js ia
        unfold State.noteBackward State.backwards
        rw [hf.turns]
        cases w.turns
        · simp
        · simp only [Bool.true_and]; rfl
      rw [hnb]
      cases w.stays
      · have hfil : List.filter (fun l => !([] : List Nat).contains l) set = set := by simp
        simp only [Bool.false_eq_true, if_false, hfil]
        rfl
      · have hfil : List.filter (fun l => !set.contains l) set = [] := by simp
        simp only [if_true]
        rw [show is.threads = set from rfl, hfil]
        rfl

/-- A run that neither branches nor waits. -/
def Run.plain (w : Run) : Prop :=
  w.stays = false ∧ w.turns = false ∧ w.later = false ∧ w.last = false ∧ w.inside = false ∧ w.unit = false ∧ w.links = [] ∧
    (w.jumps = fun _ _ _ _ => []) ∧ w.unplaced = false

theorem Run.plain.ends {w : Run} (h : w.plain) {t : State} {key : Nat} {set : List Nat} {o : Host.Outcome State Fault Refusal}
    {is : Iss} {r : State × List DWord × List (List Word)} {ia : DWord}
    (he : o = .next (t.finish key set w.g w.half)) (ht : w.effect is r.1 r.2.1 r.2.2 = t) :
    o = .next (
      let e := w.effect is r.1 r.2.1 r.2.2
      let js := w.jumps is r.1 r.2.1 r.2.2
      let t := if w.turns && isWave key then e.backwards key js ia else e
      t.concluded key (if w.stays && isWave key then [] else set) (if w.later then [] else pushFifos key w.g.toNat)
        fun l c => if w.stays then c else Sys2Proof.Machine.moveOn w.half js l c) := by
  obtain ⟨h1, h2, h3, -, -, -, -, h4, -⟩ := h
  rw [he]
  simp only [h1, h2, h3, h4, Bool.false_and, Bool.false_eq_true, if_false, ht, State.finish, moveOn, List.find?_nil]

theorem Run.fits.good {w : Run} {op : Op} (hf : w.fits op) {s : State} {key : Nat} {set : List Nat}
    (hal : w.allowed s key set) {links : List Nat} (ho : s.operandsReady key set op.ssrc op.sdst op.lsrc op.ldst links) : op.good key w.g := by
  refine ⟨hf.fields.1, hf.on _ hal.legal, hf.legal _ hal.legal, ho.legal hf.fields.2 ?_ ?_, hf.word⟩
  · rw [hf.sread]; exact hal.noQueue
  · rw [hf.pairs]; exact hal.pairs

/-- A scalar result beside an effect that leaves tokens, queues and what is owed at retirement alone. -/
theorem Run.of_scalar {w : Run} {op : Op} {d : Nat} {body : Iss → State → List DWord → List (List Word) → Eff}
    {W : Iss → State → List DWord → List (List Word) → State} {F : Iss → State → List DWord → List (List Word) → DWord}
    (he : ∀ s key set, s.issuing key set w.unit → bitN w.legal (if isWave key then 5 else keyEng key) = true →
      exec w.instr s = s.issue op body) (hf : w.fits op) (hn : op.inHandler = false) (hp : w.plain) (hd : w.sdst = [d])
    (hw : ∀ is s sv lv, w.effect is s sv lv = (W is s sv lv).give is.key d (F is s sv lv))
    (hb : ∀ is s sv lv, w.ready is s sv lv → body is s sv lv = done ((W is s sv lv).sput is.key d (F is s sv lv)))
    (ht : ∀ is s sv lv, isWave is.key = false → is.threads = [0] → w.ready is s sv lv →
      (W is s sv lv).tokens = s.tokens ∧ (W is s sv lv).queues = s.queues ∧
      ((W is s sv lv).ctlAt is.key 0).retire = (s.ctlAt is.key 0).retire ∧
      ((W is s sv lv).ctlAt is.key 0).stall = (s.ctlAt is.key 0).stall ∧
      ((W is s sv lv).ctlAt is.key 0).region = (s.ctlAt is.key 0).region ∧
      ∀ q, (W is s sv lv).regionEntries (keyCtxKey is.key) q = s.regionEntries (keyCtxKey is.key) q) : w.completes := by
  intro s key set hi ha hal ho r is hr
  have ha' : s.admits key set w.g op.half := by rw [hf.half]; exact ha
  have ho' : s.operandsReady key set op.ssrc op.sdst op.lsrc op.ldst := by
    rw [hf.ssrc, hf.sdst, hf.lsrc, hf.ldst, ← hp.2.2.2.2.2.2.1]; exact ho
  refine hp.ends (t := (W is r.1 r.2.1 r.2.2).give key d (F is r.1 r.2.1 r.2.2)) ((he s key set hi hal.legal).trans ?_) (hw ..)
  refine (State.issue_scalars_at (w := W is r.1 r.2.1 r.2.2) (v := F is r.1 r.2.1 r.2.2) (by rw [hp.2.2.2.2.2.1] at hi; exact hi) (hf.good hal ho')
    (by rw [hf.half]; exact hf.halves)
    ⟨by rw [hf.last, hp.2.2.2.1], by rw [hf.inside, hp.2.2.2.2.1], by rw [hf.later, hp.2.2.1],
      by rw [hf.unplaced, hp.2.2.2.2.2.2.2.2], hn⟩ ha' ho' (by rw [hf.sdst, hd]) ?_ ?_).trans ?_
  · dsimp only
    rw [hf.lane, hf.ssrc, hf.lsrc]
    exact hb is r.1 r.2.1 r.2.2 hr
  · intro hk
    have := ht is r.1 r.2.1 r.2.2 hk (hi.2.2.1 hk) hr
    rw [hf.lane, hf.ssrc, hf.lsrc]
    exact this
  · rw [hf.half]

end Sys2Proof.Machine
end

