-- ==== Sys2Proof/Tests/Slice0.lean ====
section
/-! SUPPORT. Tests: the words of every instruction, ill-formed terms, states that meet the premises of the statements, and
single steps whose results the spec gives. -/

open Sys2Proof Sys2Proof.Machine

noncomputable section

set_option Elab.async false

namespace Sys2Proof.Tests

/-! ### Words

Every instruction as its row of spec/opcode_table.json lays it out, with the fields of a row at different values. -/

/-- A word stands for an instruction, and encodes it. -/
def means (x : Nat × Nat × Instr) : Bool :=
  decodeTableWord x.1 x.2.1 == some x.2.2 && (encodeWord x.2.2).toNat == x.2.1 && 16 * (encode x.2.2).length == x.1

def rows0 : List (Nat × Nat × Instr) :=
  [ (32, 0x1503, .br 1 5), (32, 0x4003507, .bz 1 3 5), (32, 0x400350B, .bnz 1 3 5),
    (32, 0x400350F, .bp 1 3 5), (32, 0x4003513, .bnp 1 3 5), (32, 0x4003517, .loop 1 3 5),
    (32, 0x400351B, .call 1 3 5), (32, 0x51F, .nop 5), (32, 0x151F, .halt 5),
    (32, 0x251F, .rdv 5), (32, 0x351F, .yield 5), (32, 0x430451F, .wait 1 3 5),
    (32, 0x10551F, .jr 1 5), (32, 0x400651F, .trap 1 5), (32, 0x751F, .eret 5),
    (32, 0x10851F, .hold 1 5), (32, 0x951F, .unhold 5), (32, 0x430A51F, .srd 1 3 5),
    (32, 0x430B51F, .swr 1 3 5), (32, 0x430C51F, .prof 1 3 5), (32, 0x400D51F, .rdtime 1 5),
    (32, 0x400E51F, .rdcyc 1 5), (32, 0xF51F, .exit 5), (32, 0x1051F, .are 5),
    (32, 0x1151F, .arx 5), (32, 0x11251F, .ret 1 5), (32, 0x431351F, .qbind 1 3 5),
    (32, 0x4314523, .add 1 3 5 5), (32, 0x4315523, .sub 1 3 5 5), (32, 0x4316523, .and 1 3 5 5),
    (32, 0x4317523, .or 1 3 5 5), (32, 0x4314527, .xor 1 3 5 5), (32, 0x4315527, .shl 1 3 5 5),
    (32, 0x4316527, .shr 1 3 5 5), (32, 0x4317527, .sra 1 3 5 5), (32, 0x431452B, .mul 1 3 5 5),
    (32, 0x431552B, .mulh 1 3 5 5), (32, 0x431652B, .mulhu 1 3 5 5), (32, 0x431752B, .mad 1 3 5 5),
    (32, 0x431452F, .min 1 3 5 5), (32, 0x431552F, .max 1 3 5 5), (32, 0x431652F, .minu 1 3 5 5),
    (32, 0x431752F, .maxu 1 3 5 5), (32, 0x4314533, .div 1 3 5 5) ]

theorem test_rows0 : rows0.all means = true := by decide +kernel

def rows1 : List (Nat × Nat × Instr) :=
  [ (32, 0x4315533, .divu 1 3 5 5), (32, 0x4316533, .rem 1 3 5 5), (32, 0x4317533, .remu 1 3 5 5),
    (32, 0x4314537, .seq 1 3 5 5), (32, 0x4315537, .slt 1 3 5 5), (32, 0x4316537, .sltu 1 3 5 5),
    (32, 0x4317537, .sel 1 3 5 5), (32, 0x431453B, .addi 1 3 5 5), (32, 0x431553B, .andi 1 3 5 5),
    (32, 0x431653B, .shli 1 3 5 5), (32, 0x431753B, .shri 1 3 5 5), (32, 0x400353F, .li 1 3 5),
    (32, 0x4003543, .lsi 1 3 5), (32, 0x4300547, .clz 1 3 5), (32, 0x4301547, .ctz 1 3 5),
    (32, 0x4302547, .popc 1 3 5), (32, 0x4303547, .not 1 3 5), (32, 0x4304547, .neg 1 3 5),
    (32, 0x4305547, .sext8 1 3 5), (32, 0x4306547, .sext16 1 3 5), (32, 0x4307547, .sext32 1 3 5),
    (32, 0x4308547, .zext8 1 3 5), (32, 0x4309547, .zext16 1 3 5), (32, 0x430A547, .zext32 1 3 5),
    (32, 0x430B547, .bswap 1 3 5), (32, 0x431454B, .addLane 1 3 5 5), (32, 0x431554B, .subLane 1 3 5 5),
    (32, 0x431654B, .andLane 1 3 5 5), (32, 0x431754B, .orLane 1 3 5 5), (32, 0x431454F, .xorLane 1 3 5 5),
    (32, 0x431554F, .shlLane 1 3 5 5), (32, 0x431654F, .shrLane 1 3 5 5), (32, 0x431754F, .sraLane 1 3 5 5),
    (32, 0x4314553, .mulLane 1 3 5 5), (32, 0x4315553, .mulhLane 1 3 5 5), (32, 0x4316553, .mulhuLane 1 3 5 5),
    (32, 0x4317553, .madLane 1 3 5 5), (32, 0x4314557, .minLane 1 3 5 5), (32, 0x4315557, .maxLane 1 3 5 5),
    (32, 0x4316557, .minuLane 1 3 5 5), (32, 0x4317557, .maxuLane 1 3 5 5), (32, 0x431455B, .addiLane 1 3 5 5),
    (32, 0x431555B, .andiLane 1 3 5 5), (32, 0x431655B, .shliLane 1 3 5 5) ]

theorem test_rows1 : rows1.all means = true := by decide +kernel

def rows2 : List (Nat × Nat × Instr) :=
  [ (32, 0x431755B, .shriLane 1 3 5 5), (32, 0x430055F, .clzLane 1 3 5), (32, 0x430155F, .popcLane 1 3 5),
    (32, 0x430255F, .notLane 1 3 5), (32, 0x430355F, .negLane 1 3 5), (32, 0x430455F, .abs 1 3 5),
    (32, 0x430555F, .sext8Lane 1 3 5), (32, 0x430655F, .sext16Lane 1 3 5), (32, 0x430755F, .zext8Lane 1 3 5),
    (32, 0x430855F, .zext16Lane 1 3 5), (32, 0x430955F, .bswapLane 1 3 5), (32, 0x4314563, .cmpEq 1 3 5 5),
    (32, 0x4315563, .cmpLt 1 3 5 5), (32, 0x4316563, .cmpLtu 1 3 5 5), (32, 0x4317563, .cmpNe 1 3 5 5),
    (32, 0x4316567, .fadd 1 3 5 2 5), (32, 0x431656B, .fsub 1 3 5 2 5), (32, 0x431656F, .fmul 1 3 5 2 5),
    (32, 0x4316573, .ffma 1 3 5 2 5), (32, 0x4316577, .fmin 1 3 5 2 5), (32, 0x431657B, .fmax 1 3 5 2 5),
    (32, 0x2C51D57F, .fcmp 1 3 5 7 1 5), (32, 0x4301583, .fsqrt 1 3 1 5), (32, 0x4305583, .frcp 1 3 1 5),
    (32, 0x4309583, .frsq 1 3 1 5), (32, 0x430D583, .fexp2 1 3 1 5), (32, 0x4311583, .flog2 1 3 1 5),
    (32, 0x4315583, .fsin 1 3 1 5), (32, 0x4319583, .fcos 1 3 1 5), (32, 0x431D583, .fabs 1 3 1 5),
    (32, 0x4321583, .fneg 1 3 1 5), (32, 0x4325583, .ffloor 1 3 1 5), (32, 0x4329583, .fceil 1 3 1 5),
    (32, 0x432D583, .ftrunc 1 3 1 5), (32, 0x4331583, .fround 1 3 1 5), (32, 0x4335583, .fclass 1 3 1 5),
    (32, 0x4317587, .cvt 1 3 5 3 5), (32, 0x431458B, .xlGet 1 3 5 5), (32, 0x431558B, .xlSh 1 3 5 5),
    (32, 0x431658B, .xlRot 1 3 5 5), (32, 0x431758B, .xlXor 1 3 5 5), (32, 0x431458F, .xliGet 1 3 5 5),
    (32, 0x431558F, .xliSh 1 3 5 5), (32, 0x431658F, .xliRot 1 3 5 5) ]

theorem test_rows2 : rows2.all means = true := by decide +kernel

def rows3 : List (Nat × Nat × Instr) :=
  [ (32, 0x431758F, .xliXor 1 3 5 5), (32, 0x4300593, .rfal 1 3 5), (32, 0x4301593, .ballot 1 3 5),
    (32, 0x4302593, .vany 1 3 5), (32, 0x4303593, .vall 1 3 5), (32, 0x4304593, .pcount 1 3 5),
    (32, 0x4305593, .movs 1 3 5), (32, 0x4306593, .mov 1 3 5), (32, 0x4007593, .laneid 1 5),
    (32, 0x4308593, .vredadd 1 3 5), (32, 0x4309593, .vredmin 1 3 5), (32, 0x430A593, .vredmax 1 3 5),
    (32, 0x430B593, .fredadd 1 3 5), (32, 0x4314597, .pand 1 3 5 5), (32, 0x4315597, .por 1 3 5 5),
    (32, 0x4316597, .pxor 1 3 5 5), (32, 0x4317597, .pandn 1 3 5 5), (32, 0x431759B, .ld 1 3 5 3 5),
    (32, 0x431759F, .st 1 3 5 3 5), (32, 0x43145A3, .ldg 1 3 5 5), (32, 0x43155A3, .stg 1 3 5 5),
    (32, 0x43165A3, .ldg16 1 3 5 5), (32, 0x43175A3, .stg16 1 3 5 5), (32, 0x43175A7, .lds 1 3 5 3 5),
    (32, 0x43175AB, .sts 1 3 5 3 5), (32, 0x43145AF, .ldsAcq 1 3 5 5), (32, 0x43155AF, .stsRel 1 3 5 5),
    (32, 0x15B3, .fenceAcq 1 5), (32, 0x55B3, .fenceRel 1 5), (32, 0x95B3, .fenceAr 1 5),
    (32, 0xD5B3, .fenceSc 1 5), (32, 0x105B3, .qsync 5), (32, 0x115B3, .afence 5),
    (32, 0x43125B3, .cclean 1 3 5), (32, 0x43135B3, .cflush 1 3 5), (32, 0x43145B3, .cinv 1 3 5),
    (32, 0x43155B3, .prefetch 1 3 5), (32, 0x43145B7, .atomAdd 1 3 5 5), (32, 0x43155B7, .atomAnd 1 3 5 5),
    (32, 0x43165B7, .atomOr 1 3 5 5), (32, 0x43175B7, .atomXor 1 3 5 5), (32, 0x43145BB, .atomMin 1 3 5 5),
    (32, 0x43155BB, .atomMax 1 3 5 5), (32, 0x43165BB, .atomMinu 1 3 5 5) ]

theorem test_rows3 : rows3.all means = true := by decide +kernel

def rows4 : List (Nat × Nat × Instr) :=
  [ (32, 0x43175BB, .atomMaxu 1 3 5 5), (32, 0x43145BF, .atomXchg 1 3 5 5), (32, 0x43155BF, .atomCas 1 3 5 5),
    (32, 0x43165BF, .atomFaddF32 1 3 5 5), (32, 0x43175BF, .atomFaddBf16x2 1 3 5 5), (32, 0xF010C5B7, .redAdd 1 3 5),
    (32, 0xF010D5B7, .redAnd 1 3 5), (32, 0xF010E5B7, .redOr 1 3 5), (32, 0xF010F5B7, .redXor 1 3 5),
    (32, 0xF010C5BB, .redMin 1 3 5), (32, 0xF010D5BB, .redMax 1 3 5), (32, 0xF010E5BB, .redMinu 1 3 5),
    (32, 0xF010F5BB, .redMaxu 1 3 5), (32, 0xF010C5BF, .redXchg 1 3 5), (32, 0xF010D5BF, .redCas 1 3 5),
    (32, 0xF010E5BF, .redFaddF32 1 3 5), (32, 0xF010F5BF, .redFaddBf16x2 1 3 5), (32, 0x15C3, .arb 1 5),
    (32, 0x43005C7, .finc 1 3 5), (32, 0x43015C7, .fset 1 3 5), (32, 0x43025C7, .fwait 1 3 5),
    (32, 0x43035C7, .fread 1 3 5), (32, 0x43005CB, .barInit 1 3 5), (32, 0x43015CB, .barArrive 1 3 5),
    (32, 0x43025CB, .barExpect 1 3 5), (32, 0x43035CB, .barWait 1 3 5), (32, 0x43005CF, .futRes 1 3 5),
    (32, 0x43015CF, .futReg 1 3 5), (32, 0x43025CF, .futFail 1 3 5), (32, 0x43075CF, .futGet 1 3 1 5),
    (32, 0x43145D3, .ldt 1 3 5 5), (32, 0x43155D3, .stt 1 3 5 5), (32, 0x43165D3, .copy 1 3 5 5),
    (32, 0x40035D3, .copyResume 1 5), (32, 0x43145D7, .copyCk 1 3 5 5), (32, 0x43155D7, .copyCkv 1 3 5 5),
    (32, 0x43165D7, .copyRed 1 3 5 5), (32, 0x43175D7, .copyMc 1 3 5 5), (32, 0x43175FB, .trec 1 3 5 5),
    (32, 0x43005DB, .rclaim 1 3 5), (32, 0x43015DB, .rfill 1 3 5), (32, 0x43025DB, .rwaitf 1 3 5),
    (32, 0x1035DB, .rwaite 1 5), (32, 0x43005DF, .rfree 1 3 5) ]

theorem test_rows4 : rows4.all means = true := by decide +kernel

def rows5 : List (Nat × Nat × Instr) :=
  [ (32, 0x43015DF, .rbind 1 3 5), (32, 0x43025DF, .rpush 1 3 5), (32, 0x43035DF, .rinit 1 3 5),
    (32, 0x2F9FC5E3, .mma 1 3 1 1 9 1 1 15 5), (32, 0x2F9FD5E3, .mmaP24 1 3 1 1 9 1 1 15 5), (32, 0x2F9FE5E3, .mmar 1 3 1 1 9 1 1 15 5),
    (32, 0x2F9FF5E3, .mmarP24 1 3 1 1 9 1 1 15 5), (32, 0x43005E7, .shp 1 3 5), (32, 0x43015E7, .accld 1 3 5),
    (32, 0x40025E7, .acczero 1 5), (32, 0x2C5A75E7, .accrd 1 3 5 1 9 5), (32, 0x43145EB, .amul 1 3 5 5),
    (32, 0x43015EB, .aconj 1 3 5), (32, 0x43025EB, .anorm 1 3 5), (32, 0x43175EB, .compress 1 3 5 5),
    (32, 0x43145EF, .wload 1 3 5 5), (32, 0x2F2415EF, .tma 1 3 1 1 9 5), (32, 0x629E65EF, .tmard 1 2 5 7 9 5),
    (32, 0x43035EF, .wstat 1 3 5), (32, 0x43005F3, .route 1 3 5), (32, 0x43015F3, .rret 1 3 5),
    (32, 0x43025F3, .rasm 1 3 5), (32, 0x1035F3, .rport 1 5), (32, 0x41035F3, .rportKey 1 5),
    (32, 0x81035F3, .rportRel 1 5), (32, 0x40005F7, .fetchwg 1 5), (32, 0x15F7, .xacq 5),
    (32, 0x25F7, .xrel 5), (32, 0x35F7, .gbar 5), (32, 0x5FB, .wbar 5),
    (32, 0x43155FB, .sample 1 3 5 5), (32, 0x43065FB, .waitl 1 3 1 5), (16, 0x9C, .addLaneShort 1 3 1),
    (16, 0x89C, .subLaneShort 1 3 1), (16, 0x109C, .andLaneShort 1 3 1), (16, 0x189C, .orLaneShort 1 3 1),
    (16, 0x209C, .xorLaneShort 1 3 1), (16, 0x289C, .shlLaneShort 1 3 1), (16, 0x309C, .shrLaneShort 1 3 1),
    (16, 0x389C, .sraLaneShort 1 3 1), (16, 0x409C, .mulLaneShort 1 3 1), (16, 0x489C, .minLaneShort 1 3 1),
    (16, 0x509C, .maxLaneShort 1 3 1), (16, 0x589C, .minuLaneShort 1 3 1) ]

theorem test_rows5 : rows5.all means = true := by decide +kernel

def rows6 : List (Nat × Nat × Instr) :=
  [ (16, 0x609C, .maxuLaneShort 1 3 1), (16, 0x689C, .faddF32Short 1 3 1), (16, 0x709C, .fsubF32Short 1 3 1),
    (16, 0x789C, .fmulF32Short 1 3 1), (16, 0x809C, .ffmaF32Short 1 3 1), (16, 0x889C, .fminF32Short 1 3 1),
    (16, 0x909C, .fmaxF32Short 1 3 1), (16, 0x989C, .faddF16Short 1 3 1), (16, 0xA09C, .fmulF16Short 1 3 1),
    (16, 0xA89C, .ffmaF16Short 1 3 1), (16, 0xB09C, .faddBf16Short 1 3 1), (16, 0xB89C, .fmulBf16Short 1 3 1),
    (16, 0xC09C, .ffmaBf16Short 1 3 1), (16, 0xC898, .movShort 1 3), (16, 0xD098, .negLaneShort 1 3),
    (16, 0xD898, .notLaneShort 1 3), (16, 0xE098, .absShort 1 3), (16, 0xE898, .fnegF32Short 1 3),
    (16, 0xF098, .fabsF32Short 1 3), (16, 0x10D, .addShort 1 3), (16, 0x110D, .subShort 1 3),
    (16, 0x210D, .andShort 1 3), (16, 0x310D, .orShort 1 3), (16, 0x410D, .xorShort 1 3),
    (16, 0x510D, .shlShort 1 3), (16, 0x610D, .shrShort 1 3), (16, 0x710D, .sraShort 1 3),
    (16, 0x810D, .mv 1 3), (16, 0x910D, .addiShort 1 3), (16, 0xA10D, .liShort 1 3),
    (16, 0xB10D, .shliShort 1 3), (16, 0xC10D, .shriShort 1 3), (16, 0xD10D, .andiShort 1 3),
    (16, 0xE10D, .negShort 1 3), (16, 0xF10D, .notShort 1 3), (16, 0x52, .nopShort 5),
    (16, 0x6, .yieldShort), (16, 0x1A, .stamp 1), (16, 0x67E, .amod 1 2 1 3) ]

theorem test_rows6 : rows6.all means = true := by decide +kernel

/-- Words that the spec writes out with their meaning. -/
def written : List (Nat × Nat × Instr) :=
  [ (32, 0xC1C8067, .fadd 3 1 50 0 0), (32, 0xC1C8B67, .fadd 3 1 50 0 11), (16, 0x6890, .faddF32Short 1 2 0),
    (16, 0x2BE, .amod 0 2 2 3), (32, 0xA01800E3, .mma 5 0 0 0 1 1 0 0 0), (32, 0x2000801F, .hold 512 0),
    (32, 0x1461E02B, .mulhu 5 6 7 0), (32, 0x420D063, .cmpLt 1 2 3 0), (32, 0x2811007F, .fcmp 1 2 1 4 0 0),
    (32, 0x2039E087, .cvt 8 3 39 2 0), (32, 0x1064209B, .ld 4 6 16 2 0), (32, 0x84070A7, .lds 2 4 1 3 0),
    (32, 0x103000DB, .rclaim 4 3 0), (32, 0x105180D3, .ldt 4 5 6 0), (32, 0x143000C7, .finc 5 3 0),
    (32, 0x144000CB, .barInit 5 4 0), (32, 0x144000CF, .futRes 5 4 0), (32, 0x1440E0FB, .waitl 5 4 3 0),
    (32, 0x102190FB, .sample 4 2 6 0), (32, 0x84140B7, .atomAdd 2 4 5 0), (32, 0x4420C0E3, .mma 2 1 0 0 2 0 0 3 0),
    (32, 0xA04950E3, .mmaP24 5 0 0 0 4 1 0 5 0), (32, 0x84000E7, .shp 2 4 0), (32, 0x46010E7, .accld 1 6 0),
    (32, 0xC0020E7, .acczero 3 0), (32, 0x459F0E7, .accrd 0 1 5 1 7 0), (32, 0x200100EB, .amul 8 0 4 0),
    (32, 0x2820B0EB, .compress 10 2 2 0), (32, 0x84140EF, .wload 2 4 5 0), (32, 0x60410EF, .tma 0 1 1 0 1 0),
    (32, 0x10CA0EF, .tmard 0 0 2 3 2 0), (32, 0x188030EF, .wstat 6 8 0), (32, 0x4000F3, .route 0 4 0),
    (32, 0x187010F3, .rret 6 7 0), (32, 0x143020F3, .rasm 5 3 0), (32, 0x100000F7, .fetchwg 4 0),
    (32, 0x5138803F, .li 20 5000 0), (32, 0x1850508F, .xliSh 6 5 1 0), (32, 0x185FD08F, .xliSh 6 5 63 0),
    (32, 0x8700093, .rfal 2 7 0), (32, 0x1090B093, .fredadd 4 9 0), (32, 0x800506F, .fmul 2 0 1 1 0),
    (32, 0xA020003B, .addi 40 2 0 0), (32, 0x7FFB017, .loop 1 16379 0), (32, 0xC3A0123, .add 3 3 40 1),
    (32, 0x81F, .nop 8), (32, 0x84040AF, .ldsAcq 2 4 1 0), (32, 0xC4010AF, .stsRel 3 4 0 0),
    (32, 0x143F00A3, .ldg 5 3 60 0), (32, 0xF03F10A3, .stg 60 3 60 0), (32, 0x60B3, .fenceRel 2 0),
    (32, 0x144120B3, .cclean 5 4 0), (32, 0x1400601F, .trap 5 0), (32, 0x140C3, .arb 20 0) ]

theorem test_written : written.all means = true := by decide +kernel

/-! ### Ill-formed instructions -/

/-- `Instr.wf` refuses an ill-formed instruction, and the decoder never gives one: the word that an atomic with destination 0x3C
would have is a red's (R326). -/
def refused (i : Instr) : Bool :=
  !i.wf && (match decodeBytes (encodeBytes i) with | .ok x => x.1 != i | .error _ => true)

def illFormed : List Instr :=
  [ .hold 0 0, .hold 513 0, .fadd 1 2 3 3 0, .fsub 1 2 3 3 0, .fmul 1 2 3 3 0, .ffma 1 2 3 3 0,
    .fmin 1 2 3 3 0, .fmax 1 2 3 3 0, .fcmp 1 2 3 4 3 0, .fsqrt 1 2 3 0, .frcp 1 2 3 0, .frsq 1 2 3 0,
    .fexp2 1 2 3 0, .flog2 1 2 3 0, .fsin 1 2 3 0, .fcos 1 2 3 0, .fabs 1 2 3 0, .fneg 1 2 3 0,
    .ffloor 1 2 3 0, .fceil 1 2 3 0, .ftrunc 1 2 3 0, .fround 1 2 3 0, .fclass 1 2 3 0, .cvt 1 2 63 0 0,
    .atomAdd 0x3C 2 3 0, .atomAnd 0x3C 2 3 0, .atomOr 0x3C 2 3 0, .atomXor 0x3C 2 3 0, .atomMin 0x3C 2 3 0, .atomMax 0x3C 2 3 0,
    .atomMinu 0x3C 2 3 0, .atomMaxu 0x3C 2 3 0, .atomXchg 0x3C 2 3 0, .atomCas 0x3C 2 3 0, .atomFaddF32 0x3C 2 3 0, .atomFaddBf16x2 0x3C 2 3 0,
    .mma 6 0 0 0 0 0 0 0 0, .mmaP24 6 0 0 0 0 0 0 0 0, .mmar 6 0 0 0 0 0 0 0 0, .mmarP24 6 0 0 0 0 0 0 0 0, .accrd 0 0 0 0 1 0, .compress 1 2 6 0,
    .tmard 0 3 0 0 0 0, .addLaneShort 11 0 0, .addLaneShort 0 11 0, .subLaneShort 11 0 0, .subLaneShort 0 11 0, .andLaneShort 11 0 0,
    .andLaneShort 0 11 0, .orLaneShort 11 0 0, .orLaneShort 0 11 0, .xorLaneShort 11 0 0, .xorLaneShort 0 11 0, .shlLaneShort 11 0 0,
    .shlLaneShort 0 11 0, .shrLaneShort 11 0 0, .shrLaneShort 0 11 0, .sraLaneShort 11 0 0, .sraLaneShort 0 11 0, .mulLaneShort 11 0 0,
    .mulLaneShort 0 11 0, .minLaneShort 11 0 0, .minLaneShort 0 11 0, .maxLaneShort 11 0 0, .maxLaneShort 0 11 0, .minuLaneShort 11 0 0,
    .minuLaneShort 0 11 0, .maxuLaneShort 11 0 0, .maxuLaneShort 0 11 0, .faddF32Short 11 0 0, .faddF32Short 0 11 0, .fsubF32Short 11 0 0,
    .fsubF32Short 0 11 0, .fmulF32Short 11 0 0, .fmulF32Short 0 11 0, .ffmaF32Short 11 0 0, .ffmaF32Short 0 11 0, .fminF32Short 11 0 0,
    .fminF32Short 0 11 0, .fmaxF32Short 11 0 0, .fmaxF32Short 0 11 0, .faddF16Short 11 0 0, .faddF16Short 0 11 0, .fmulF16Short 11 0 0,
    .fmulF16Short 0 11 0, .ffmaF16Short 11 0 0, .ffmaF16Short 0 11 0, .faddBf16Short 11 0 0, .faddBf16Short 0 11 0, .fmulBf16Short 11 0 0,
    .fmulBf16Short 0 11 0, .ffmaBf16Short 11 0 0, .ffmaBf16Short 0 11 0, .movShort 11 0, .movShort 0 11, .negLaneShort 11 0,
    .negLaneShort 0 11, .notLaneShort 11 0, .notLaneShort 0 11, .absShort 11 0, .absShort 0 11, .fnegF32Short 11 0,
    .fnegF32Short 0 11, .fabsF32Short 11 0, .fabsF32Short 0 11, .amod 0 3 0 0, .amod 1 0 0 2 ]

/-- One for each check of `Instr.wf`. -/
theorem test_ill_formed : illFormed.all refused = true := by decide +kernel

/-- Major 0x3F is reserved (R57), and half a word is no instruction. -/
theorem test_undefined_words :
    decodeTableWord 32 0xFF = none ∧ decodeTableWord 32 0xFFFFFFFF = none ∧
    decodeBytes [0x67, 0x80, 0x1C] = .error .truncated := by
  refine ⟨by decide +kernel, by decide +kernel, rfl⟩

/-! ### Hypotheses that are met -/

/-- The premises under which `Run.completes` speaks. -/
def Run.meets (w : Run) (s : State) (key : Nat) (set : List Nat) : Prop :=
  s.issuing key set w.unit ∧ s.admits key set w.g w.half ∧ w.allowed s key set ∧
  s.operandsReady key set w.ssrc w.sdst w.lsrc w.ldst w.links ∧
  let r := s.reads key set w.g w.lane w.ssrc w.lsrc
  w.ready { key := key, threads := set, lanes := issueLanes key set } r.1 r.2.1 r.2.2

/-- What `ready` asks of a run in a state. -/
def Run.isReady (w : Run) (s : State) (key : Nat) (set : List Nat) : Prop :=
  let r := s.reads key set w.g w.lane w.ssrc w.lsrc
  w.ready { key := key, threads := set, lanes := issueLanes key set } r.1 r.2.1 r.2.2

/-- The other premises, in a state with no poisoned register, as a check; inside a region no thread needs to have none. -/
def Run.fits (w : Run) (s : State) (key : Nat) (set : List Nat) (inside : Bool := false) : Bool :=
  decide (s.cur = some { wave := isWave key, key := key, set := set } ∧ set ≠ [] ∧ (isWave key = false → set = [0]) ∧
    ∀ l ∈ set, (inside = false → (s.ctlAt key l).region = none) ∧ (s.ctlAt key l).armed = none ∧ (w.unit = false → (s.ctlAt key l).amod = none) ∧
      (s.ctlAt key l).stall = [] ∧ (s.ctlAt key l).retire = none ∧ (s.ctlAt key l).owed.deferred = []) &&
  (if isWave key then (if w.half = 2 then decide (∀ l ∈ set, bit w.g 3 ≠ s.pget key (bits w.g 0 3) l) else decide (w.g = 0))
    else decide ((keyEng key = 0 → w.g = 0) ∧ (∀ n ∈ s.popNeeds key w.g.toNat [] [], s.needMet key n = true) ∧
      (∀ f ∈ pushFifos key w.g.toNat, (s.popTokens key w.g.toNat).tok (keyCtxKey key) f < 32) ∧
      (keyEng key = 2 → pushFifos key w.g.toNat ≠ [] → s.readoutsOut key = 0))) &&
  (decide (bitN w.legal (if isWave key then 5 else keyEng key) = true) &&
    decide (w.last = true → ∀ l ∈ set, (s.ctlAt key l).lastInBody w.half = true) &&
    decide (w.inside = true → ∀ l ∈ set, (s.ctlAt key l).lastInBody w.half = false) &&
    decide (w.unplaced = true → ∀ l ∈ set, (s.ctlAt key l).amod.isNone = true) &&
    decide (w.record = true → (s.ctlAt key 0).pp.length < 64) &&
    decide (∀ x ∈ w.noQueue, scalarOk key x = true ∧ isQueue key x = false) && decide (∀ x ∈ w.pairs, pairOk x = true)) &&
  decide ((∀ x ∈ w.ssrc ++ w.sdst, scalarOk key x = true) ∧
    (∀ x ∈ w.ssrc, s.queueCheck key x false = none ∧ (isQueue key x = false → s.poisonScalar.has (64 * key + x) = false)) ∧
    (∀ x ∈ w.sdst, s.queueCheck key x true = none) ∧ (∀ n ∈ s.popNeeds key 0 w.ssrc [], s.needMet key n = true) ∧
    ∀ x ∈ w.sdst, isQueue key x = true → (s.popScalars key w.ssrc).1.needMet key (.queueRoom (x - 32)) = true ∧
      (keyEng key = 2 → s.readoutsOut key = 0)) &&
  decide ((w.lsrc = [] ∧ w.ldst = []) ∨ ((isWave key = true ∨ keyEng key = 3) ∧ (∀ x ∈ w.lsrc ++ w.ldst, laneSrcOk key x = true) ∧
    (∀ x ∈ w.lsrc ++ w.ldst, isWave key = true → ¬ (24 ≤ x ∧ x < 48)) ∧ (∀ x ∈ w.lsrc ++ w.ldst, x ≠ 0x3A ∧ x ≠ 0x3B) ∧
    (∀ n ∈ s.popNeeds key 0 [] w.lsrc, s.needMet key n = true) ∧ (s.elementPoison key w.lsrc).isNone = true)) &&
  decide (s.poisonLane = [] ∧ (isWave key = false → ∀ x ∈ w.ssrc ++ w.sdst, x < 32 → x ∉ w.links → x ∉ (s.ctlAt key 0).pendRegs))

theorem Run.fits_parts {w : Run} {s : State} {key : Nat} {set : List Nat} {inside : Bool} (h : Run.fits w s key set inside = true) :
    s.admits key set w.g w.half ∧ w.allowed s key set ∧ s.operandsReady key set w.ssrc w.sdst w.lsrc w.ldst w.links := by
  simp only [Run.fits, Bool.and_eq_true, decide_eq_true_eq] at h
  obtain ⟨⟨⟨⟨⟨h1, h2⟩, ⟨⟨⟨⟨⟨h3, h4⟩, h5⟩, hu⟩, h6⟩, h7⟩, h8⟩, h9⟩, h10⟩, hp, h11⟩ := h
  have hl : ∀ k, s.poisonLane.has k = false := by intro k; rw [hp]; rfl
  refine ⟨?_, ⟨h3, h4, h5, fun u l hl a ha => absurd (hu u l hl) (by simp [ha]), h6, h7, h8, fun x _ _ l => hl _⟩, h9, ?_, h11⟩
  · unfold State.admits
    by_cases hw : isWave key = true
    · rw [if_pos hw] at h2 ⊢
      by_cases hh : w.half = 2
      · rw [if_pos hh] at h2 ⊢; exact of_decide_eq_true h2
      · rw [if_neg hh] at h2 ⊢; exact of_decide_eq_true h2
    · rw [if_neg hw] at h2 ⊢; exact of_decide_eq_true h2
  · rcases h10 with h | ⟨a, b, c, d, e, e'⟩
    · exact .inl h
    · refine .inr ⟨a, b, fun x hx hk h1 h2 => absurd ⟨h1, h2⟩ (c x hx hk), ?_, ?_, e, fun x _ _ l _ => hl _,
        fun _ => Option.isNone_iff_eq_none.1 e'⟩
      · intro x hx h
        have := d x (List.mem_append_left _ hx)
        rcases h with h | h <;> simp [h] at this
      · intro x hx h
        have := d x (List.mem_append_right _ hx)
        rcases h with h | h <;> simp [h] at this

theorem Run.fits_meets {w : Run} {s : State} {key : Nat} {set : List Nat} (h : Run.fits w s key set = true)
    (hr : Run.isReady w s key set) : Run.meets w s key set := by
  have h' := h
  simp only [Run.fits, Bool.and_eq_true, decide_eq_true_eq] at h'
  obtain ⟨⟨⟨⟨⟨⟨a, b, c, d⟩, -⟩, -⟩, -⟩, -⟩, -⟩ := h'
  exact ⟨⟨a, b, c, fun l hl => ⟨(d l hl).1 trivial, (d l hl).2⟩⟩, (Run.fits_parts h).1, (Run.fits_parts h).2.1, (Run.fits_parts h).2.2, hr⟩
/-- Every run of a list is ready. -/
def readyAll (s : State) (key : Nat) (set : List Nat) : List Run → Prop
  | [] => True
  | w :: l => Run.isReady w s key set ∧ readyAll s key set l

/-- Every run of a list meets the premises. -/
def meetAll (s : State) (key : Nat) (set : List Nat) (l : List Run) : Prop := ∀ w ∈ l, Run.meets w s key set

theorem meetAll_of {s : State} {key : Nat} {set : List Nat} {l : List Run} (h : (l.all fun w => Run.fits w s key set) = true)
    (hr : readyAll s key set l) : meetAll s key set l := by
  induction l with
  | nil => intro w hw; cases hw
  | cons a l ih =>
    simp only [List.all_cons, Bool.and_eq_true] at h
    intro w hw
    rcases List.mem_cons.1 hw with rfl | hw
    · exact Run.fits_meets h.1 hr.1
    · exact ih h.2 hr.2 w hw

/-- Streams of core 0, context 1, and wave slot 2 of vision core 0. -/
def ce : Nat := streamKey 0 1 0
def le : Nat := streamKey 0 1 1
def me : Nat := streamKey 0 1 2
def ve : Nat := streamKey 0 1 3
def se : Nat := streamKey 0 1 4
def wv : Nat := waveKey 0 2

/-- A running stream or thread at the first word of a block of `len` halfwords. -/
def running (len : Nat) : Ctl := { life := .live, pc := 0x4004, hdr := 0x4000, len := len, atHeader := false }

/-- A card of kind `k` with 128 units of scratchpad, all of a core's pages and tiles, and a handler at 0x4000. -/
def card (k : Nat) : List Byte :=
  (List.range 128).map fun i =>
    if i = 0 then BitVec.ofNat 8 k else if i = 1 then 2 else if i = 3 then 1 else if i = 0x2E then 0x80 else if i = 0x30 then 0xFF
    else if i = 0x31 then 0xFF else if i = 0x71 then 0x40 else 0

/-- The job's slot, on core 0. -/
def slot (k : Nat) : Slot := { state := 3, card := card k, started := true, cores := [0] }

/-- After reset, a tile job on core 0 in context 1, or a vision job of one workgroup of one wave; `key` and `set` issue. -/
def issuer (key : Nat) (set : List Nat) (len : Nat := 2) : State :=
  { State.reset with
    cur := some { wave := isWave key, key := key, set := set }
    slots := [(0, slot (if isWave key then 2 else 1))]
    ctxJob := if isWave key then [] else [(1, 0)]
    waves := if isWave key then [(wv, { job := 0, wg := 0, num := 0 })] else []
    groups := if isWave key then
      [(0, { job := 0, x := 0, y := 0, z := 0, threads := 32, base := 0, units := 2, slots := [2] })] else []
    ctl := set.map fun l => (ctlKey key l, running len) }

/-- Scalars and lane registers of an issuer, and bytes of its scratchpad or local store. -/
def scalars (key : Nat) (l : List (Nat × Nat)) (s : State) : State := l.foldl (fun s x => s.sset key x.1 (BitVec.ofNat 64 x.2)) s
def lanes (key : Nat) (l : List (Nat × (Nat → Nat))) (s : State) : State :=
  { s with lreg := l.flatMap fun x => (List.range 64).map fun k => (laneKey key x.1 k, BitVec.ofNat 32 (x.2 k)) }
def bytes (key off : Nat) (bs : List Nat) (s : State) : State := s.locWriteRaw (locKey (keyCore key) off) (bs.map (BitVec.ofNat 8))
/-- The aperture's lowest address. -/
def ap : Nat := 0xFFFFFFFFFF000000

/-- A run meets the premises where a state's issuer issues it. -/
def meetsIn (w : Run) (s : State) : Prop := ∃ key set, Run.meets w s key set

theorem meetsIn_of {w : Run} {s : State} (key : Nat) (set : List Nat) (h : Run.fits w s key set = true)
    (hr : Run.isReady w s key set) : meetsIn w s := ⟨key, set, Run.fits_meets h hr⟩

/-- Each of a list has a property in its own state. -/
def inTurn {α : Type} (p : α → State → Prop) : List α → List State → Prop
  | [], [] => True
  | a :: l, s :: ss => p a s ∧ inTurn p l ss
  | _, _ => False

def isOk {ε α : Type} : Except ε α → Bool
  | .ok _ => true
  | .error _ => false

theorem ok_of {ε α : Type} {e : Except ε α} (h : isOk e = true) : ∃ a, e = .ok a := by
  cases e with
  | ok a => exact ⟨a, rfl⟩
  | error _ => cases h

def okIs {ε α : Type} [DecidableEq α] (e : Except ε α) (a : α) : Bool :=
  match e with
  | .ok b => b == a
  | .error _ => false

theorem okIs_of {ε α : Type} [DecidableEq α] {e : Except ε α} {a : α} (h : okIs e a = true) : e = .ok a := by
  cases e with
  | ok b => simp only [okIs, beq_iff_eq] at h; rw [h]
  | error _ => cases h

/-! ### Arithmetic -/

theorem meets_scalarTable : meetAll (issuer ce [0]) ce [0] (scalarTable 31 2 3 0) :=
  meetAll_of (by decide +kernel) (by repeat (first | exact trivial | refine ⟨trivial, ?_⟩))
theorem meets_scalarImmediates : meetAll (issuer wv [3, 31]) wv [3, 31] (scalarImmediates 31 2 0x20 0x2000 0) :=
  meetAll_of (by decide +kernel) (by repeat (first | exact trivial | refine ⟨trivial, ?_⟩))
theorem meets_scalarUnary : meetAll (issuer le [0]) le [0] (scalarUnary 31 2 0) :=
  meetAll_of (by decide +kernel) (by repeat (first | exact trivial | refine ⟨trivial, ?_⟩))
theorem meets_scalarShorts : meetAll (issuer ce [0]) ce [0] (scalarShorts 15 31 0x3F) :=
  meetAll_of (by decide +kernel) (by repeat (first | exact trivial | refine ⟨trivial, ?_⟩))
theorem meets_laneTable : meetAll (issuer ve [0]) ve [0] (laneTable 8 1 2 0x3F 31 0) :=
  meetAll_of (by decide +kernel) (by repeat (first | exact trivial | refine ⟨?_, ?_⟩ | decide))
theorem meets_laneShorts : meetAll (issuer wv [0, 31]) wv [0, 31] (laneShorts 10 9 1) :=
  meetAll_of (by decide +kernel) (by repeat (first | exact trivial | refine ⟨?_, ?_⟩ | decide))
theorem meets_predicates : meetAll (issuer wv [0, 31]) wv [0, 31] (predicates 7 1 2 3 0x3C 0) :=
  meetAll_of (by decide +kernel) (by repeat (first | exact trivial | refine ⟨trivial, ?_⟩))
theorem meets_floatTable : meetAll (issuer ve [0]) ve [0] (floatTable 8 1 2 2 0 10 9 1) :=
  meetAll_of (by decide +kernel) (by repeat (first | exact trivial | refine ⟨?_, ?_⟩ | decide))
theorem meets_floatUnary : meetAll (issuer wv [5]) wv [5] (floatUnary 8 1 1 0 10 9) :=
  meetAll_of (by decide +kernel) (by repeat (first | exact trivial | refine ⟨trivial, ?_⟩))
theorem meets_floatCompare : meetAll (issuer ve [0]) ve [0] [floatCompare 7 7 1 2 2 0] :=
  meetAll_of (by decide +kernel) ⟨trivial, trivial⟩
/-- At the ends of the table of conversions: a pair, a part written into, a single result. -/
theorem meets_conversion : meetAll (issuer ve [0]) ve [0] [conversion 8 2 0 0 0, conversion 8 2 62 3 0] :=
  meetAll_of (by decide +kernel) ⟨fun _ => ⟨by decide, by decide⟩, fun _ => ⟨by decide, by decide⟩, trivial⟩
theorem meets_crossReads : meetAll (issuer wv [3, 5]) wv [3, 5] (crossReads 8 1 2 0) :=
  meetAll_of (by decide +kernel) (by repeat (first | exact trivial | refine ⟨trivial, ?_⟩))
theorem meets_laneScalars : meetAll (issuer ve [0]) ve [0] (laneScalars 8 1 7 0 ++ [floatSum 8 1 0]) :=
  meetAll_of (by decide +kernel) (by repeat (first | exact trivial | refine ⟨trivial, ?_⟩))
/-- A token is there to pop from each side, and the FIFOs pushed to have one place left. -/
def tokens (s : State) : State :=
  (((s.setTok 1 (fifoFromNext 3) 1).setTok 1 (fifoFromPrev 3) 1).setTok 1 (fifoToNext 3) 31).setTok 1 (fifoToPrev 3) 31
/-- The queue from the control engine to the vector engine holds an entry, and the one back has one place left. -/
def queues (s : State) : State :=
  { (s.setQueue 1 2 [7]).setQueue 1 6 (List.replicate 15 0) with qbinds := [(16 + 2, 0x41), (16 + 6, 0x14)] }
theorem meets_tokens_queues :
    meetAll (queues (tokens (issuer ve [0]))) ve [0] ((scalarTable 38 34 3 15).filter fun w => w.noQueue == []) :=
  meetAll_of (by decide +kernel) (by repeat (first | exact trivial | refine ⟨trivial, ?_⟩))

/-! ### Control flow and the system group -/

theorem meets_branches : meetAll (issuer wv [0, 31]) wv [0, 31] (branches 2 3 7 0x2000 0) :=
  meetAll_of (by decide +kernel)
    (by repeat (first | exact trivial | refine ⟨trivial, ?_⟩ | refine ⟨by change _ = _; decide +kernel, ?_⟩))
theorem meets_pauses : meetAll (issuer me [0] 4) me [0] (pauses 512 0xFFF 1 2 3 3 0) :=
  meetAll_of (by decide +kernel) (by repeat (first | exact trivial | refine ⟨trivial, ?_⟩))
/-- Where each special register exists: on an engine, or on vision. -/
theorem meets_specialReads :
    meetAll (issuer ce [0]) ce [0] ((specialReads 2 0).filter fun w => bitN w.legal 0) ∧
    meetAll (issuer wv [31]) wv [31] ((specialReads 2 0).filter fun w => bitN w.legal 5) := by
  constructor <;>
    exact meetAll_of (by decide +kernel) (by repeat (first | exact trivial | refine ⟨trivial, ?_⟩))
theorem meets_specialWrites : meetAll (issuer ve [0]) ve [0] (specialWrites 2 0) :=
  meetAll_of (by decide +kernel) (by repeat (first | exact trivial | refine ⟨trivial, ?_⟩))
theorem meets_clocks : meetAll (issuer wv [31]) wv [31] (clocks 2 3 4 0) :=
  meetAll_of (by decide +kernel) (by repeat (first | exact trivial | refine ⟨trivial, ?_⟩))

/-! ### Memory, atomics, regions and handlers -/

theorem quiet_of {s : State} {key : Nat} (h : decide ((s.finishReadouts key).tokens = s.tokens) = true) : s.readoutsQuiet key := by
  unfold State.readoutsQuiet; exact of_decide_eq_true h

/-- Two threads of a wave load and store in the local store's first and last words. -/
def accesses : State :=
  lanes wv [(2, fun l => 0xFF000000 + if l = 0 then 0 else 0x1FF8), (3, fun _ => 0xFFFFFFFF)]
    (scalars wv [(1, ap + 0x100)] (issuer wv [0, 31]))
theorem meets_laneAccesses : meetAll accesses wv [0, 31] (laneAccesses 8 1 2 0x3F 0 |>.take 8) ∧
    meetAll accesses wv [0, 31] (laneAccesses 8 2 3 0 0 |>.drop 8) :=
  ⟨meetAll_of (by decide +kernel) (by repeat (first | exact trivial | refine ⟨by change _ = _; decide +kernel, ?_⟩)),
   meetAll_of (by decide +kernel) (by repeat (first | exact trivial | refine ⟨by change _ = _; decide +kernel, ?_⟩))⟩
theorem meets_scalarAccesses :
    meetAll (scalars ce [(1, ap + 0x80000 - 8)] (issuer ce [0])) ce [0] (scalarAccesses 2 1 0 3 0) :=
  meetAll_of (by decide +kernel)
    (by repeat (first | exact trivial | refine ⟨⟨quiet_of (by decide +kernel), by decide +kernel, ok_of (by decide +kernel)⟩, ?_⟩))
theorem reset_bit (a : Nat) : bit (cregReset a) 63 = false := by
  unfold cregReset
  generalize (a == 0x3F0000008018) = x
  generalize (decide (0x3F0000100000 ≤ a) && decide (a < 0x3F0000150000) && decide (a % 4096 < 0x200)) = y
  cases x <;> cases y <;> decide
theorem listed_bit {t : Tab DWord} (h : (t.all fun e => !bit e.2 63) = true) (a : Nat) :
    bit ((t.find a).getD (cregReset a)) 63 = false := by
  induction t with
  | nil => exact reset_bit a
  | cons e t ih =>
    simp only [List.all_cons, Bool.and_eq_true] at h
    unfold Tab.find
    split
    · simpa using h.1
    · exact ih h.2
/-- No package injects an error where no control register has bit 63. -/
theorem unarmed_of {s : State} (h : (s.creg.all fun e => !bit e.2 63) = true) (p : Nat) :
    p ≠ s.pkg → bit (s.creg_ (s.errReg p)) 63 = false := fun _ => listed_bit h _
/-- A place that loads and stores find, and memory as data keep it. -/
theorem meets_memoryBytes :
    (issuer ce [0]).steady ∧ (issuer ce [0]).locate ce 0 .read (ap + 0x7FFF8) 8 = .ok (issuer ce [0], .loc (locKey 0 0x7FFF8)) ∧
    (issuer ce [0]).placePoisoned (.loc (locKey 0 0x7FFF8)) 8 = false ∧
    (issuer ce [0]).locate ce 0 .write (ap + 0x7FFF8) 8 = .ok (issuer ce [0], .loc (locKey 0 0x7FFF8)) := by
  refine ⟨⟨by decide +kernel, by decide +kernel, by decide +kernel, rfl, unarmed_of (by decide +kernel)⟩, okIs_of (by decide +kernel), by decide +kernel, okIs_of (by decide +kernel)⟩
def isDone (g : MaintEnd) : Bool := match g with | .done _ => true | _ => false
theorem isDone_of {g : MaintEnd} (h : isDone g = true) : ∃ t, g = .done t := by
  cases g with
  | done t => exact ⟨t, rfl⟩
  | _ => cases h
theorem meets_orderings : meetAll (scalars ce [(1, 0x2000), (2, ap + 0x100)] (issuer ce [0])) ce [0] (orderings 2 1 2 0) :=
  meetAll_of (by decide +kernel) (by
    repeat (first
      | exact trivial
      | refine ⟨trivial, ?_⟩
      | refine ⟨quiet_of (by decide +kernel), ?_⟩
      | refine ⟨⟨by decide +kernel, isDone_of (by decide +kernel)⟩, ?_⟩))
theorem meets_scalarAtomics :
    meetAll (scalars ce [(4, ap + 0x7FFF8), (5, 1)] (issuer ce [0])) ce [0] (scalarAtomics 2 4 5 0) :=
  meetAll_of (by decide +kernel) (by repeat (first | exact trivial | refine ⟨by change _ = _; decide +kernel, ?_⟩))
theorem meets_laneAtomics :
    meetAll (lanes wv [(2, fun _ => 0xFF001FFC), (3, fun _ => 0xFFFFFFFF)] (issuer wv [0, 31])) wv [0, 31] (laneAtomics 8 2 5 0) :=
  meetAll_of (by decide +kernel)
    (by repeat (first | exact trivial | refine ⟨⟨by decide +kernel, by change _ = _; decide +kernel⟩, ?_⟩))
theorem meets_regions : meetAll (issuer wv [3, 31]) wv [3, 31] (regions 20 0) :=
  meetAll_of (by decide +kernel) ⟨fun _ => .inr (by decide +kernel), trivial, trivial, trivial⟩

/-- A block of one long word at 0x4000 of identity-mapped memory. -/
def code (s : State) : State := { s with mem := (State.reset.placeCode 0x1F).mem, creg := (State.reset.placeCode 0x1F).creg }
/-- Thread 31 in its handler, to return into the block, or past it. -/
def handler (ret : DWord) : State :=
  (code (issuer wv [31])).modCtl wv 31 fun c => { c with handling := true, tr := { hdr := 0x4000, ret := ret } }
theorem meets_eret : inTurn meetsIn [eretRun 0, eretRun 0, eretRun 0] [handler 0x4000, handler 0x4004, handler 0x4008] := by
  refine ⟨?_, ?_, ?_, trivial⟩ <;>
    exact meetsIn_of wv [31] (by decide +kernel) (by change _ = _; decide +kernel)

/-- A control engine in an atomic region. -/
def inside : State := (issuer ce [0]).modCtl ce 0 fun c => { c with region := some { fallback := 0x4020 } }
theorem meets_inRegion : inside.inRegion ce 0 { fallback := 0x4020 } := by
  unfold State.inRegion
  and_intros <;> decide +kernel
theorem meets_regionCommits : (inside.begun ce [0] 0 false).takeLines ce 0 [] = .ok inside ∧ inside.staleFault { fallback := 0x4020 } = none :=
  ⟨okIs_of (by decide +kernel), rfl⟩
/-- A slot stale and pinned; and a constraint that no longer holds. -/
def torn : Region :=
  { fallback := 0x4020
    slots := [{ va := 0x5000, line := 0x50, snap := [], stale := true, pinned := true }]
    cons := [{ op := 0, lhs := { tag := none, k := 1 }, rhs := { tag := none, k := 2 }, outcome := true }] }
theorem meets_torn :
    torn.slots[0]?.any (fun x => x.stale && x.pinned) = true ∧
    consHolds 0 64 (torn.sideValue 64 { tag := none, k := 1 }) (torn.sideValue 64 { tag := none, k := 2 }) ≠ true := by decide +kernel
/-- A thread of a wave with a region open. -/
def insideWave : State := (issuer wv [31]).modCtl wv 31 fun c => { c with region := some { fallback := 0x4020 } }
theorem meets_inRegion_wave : insideWave.inRegion wv 31 { fallback := 0x4020 } := by
  unfold State.inRegion
  and_intros <;> decide +kernel
/-- Instructions that a region permits, and that it does not, with their premises. -/
theorem meets_within :
    ((scalarTable 31 2 3 0 ++ scalarUnary 31 2 0 ++ scalarShorts 15 31 0x3F ++
      [branch (.bz 2 3 0) 0 0x3F [2] 3 fun _ _ _ v => v = 0]).all fun w => Run.fits w inside ce [0] true) = true ∧
    ((laneTable 8 1 2 0x3F 31 0 ++ predicates 7 1 2 3 0x3C 0).all fun w => Run.fits w insideWave wv [31] true) = true ∧
    ((flags 63 3 0 ++ specialWrites 2 0).all fun w => Run.fits w inside ce [0] true) = true ∧
    ((floatTable 8 1 2 2 0 10 9 1 ++ laneAtomics 8 2 5 0).all fun w => Run.fits w insideWave wv [31] true) = true := by decide +kernel
/-- Registers with undo entries up to the limit, constraints up to theirs, and a queue's entry. -/
def sixteen : Region :=
  { fallback := 0x4020
    undo := (List.range 16).map fun i => { file := 0, reg := i, old := 0 }
    cons := List.replicate 16 { op := 0, lhs := { tag := none, k := 0 }, rhs := { tag := none, k := 0 }, outcome := true }
    tags := [(2, { slot := 0, off := 0, size := 8, c := 0 })] }
theorem meets_limits :
    sixteen.logs inside ce 0 [(0, 31)] = none ∧ (sixteen.logs inside ce 0 [(0, 15)]).isSome = true ∧
    tagUse (.seq 31 2 3 0) 64 sixteen [(3, 0), (2, 0)] = none ∧ (tagUse (.seq 31 3 4 0) 64 sixteen [(4, 0), (3, 0)]).isSome = true := by
  decide +kernel
/-- The first load of a line of normal cached memory, at the end of the line. -/
def regionMemory : State := code (scalars ce [(2, 0x40F8)] inside)
theorem meets_regionReads : ∃ u r' v t, regionMemory.regionReads ce 0 { fallback := 0x4020 } 0x40F8 8 u r' v t := by
  have h : (match regionMemory.locate ce 0 .read 0x40F8 8 with
      | .ok (w, .phys _ 0 grain part) => !w.placePoisoned (.phys 0x40F8 0 grain part) 8
      | _ => false) = true ∧ (match regionMemory.locate ce 0 .read 0x40F8 8 with
      | .ok (_, .phys pa 0 _ _) => pa == 0x40F8
      | _ => false) = true := by decide +kernel
  revert h
  unfold State.regionReads
  generalize regionMemory.locate ce 0 .read 0x40F8 8 = e
  intro h
  match e, h with
  | .ok (w, .phys pa 0 grain part), ⟨h1, h2⟩ =>
    have hp : pa = 0x40F8 := by simpa using h2
    subst hp
    exact ⟨_, _, _, _, w, 0x40F8, grain, part, 0, _, by decide, rfl, by simpa using h1,
      .inr ⟨by simp, by simp, rfl, rfl, rfl⟩, rfl, rfl, rfl⟩
/-- A region gives a load up where eight lines are held, and any access of the aperture. -/
theorem meets_regionRefuses :
    inside.regionRefuses ce 0 { fallback := 0x4020 } true ap 8 12 0 := .inl ⟨rfl, rfl, .inl (by decide)⟩
/-- The aligned accesses of `accessInside`. -/
theorem meets_accessInside :
    inside.readoutsOut ce = 0 ∧ (({ fallback := 0x4020 } : Region).logs inside ce 0 [(0, 31)]).isSome = true ∧
    Run.fits (scalarLoadRun (.lds 31 2 0 3 0) 0 31 2 0 8) inside ce [0] true = true ∧
    Run.fits (scalarStoreRun (.sts 31 2 0 3 0) 0 31 2 0 8) inside ce [0] true = true ∧
    Run.fits (loadRun (.ldg 8 1 2 0) 0 [] [2, 1] [8] [] gathered 4 4 [0]) insideWave wv [31] true = true ∧
    Run.fits (storeRun (.stg 8 1 2 0) 0 [] [2, 1, 8] [] gathered (fun lv l => (lval lv 2 l).toNat) 4) insideWave wv [31] true = true := by
  decide +kernel
/-- Four other waves hold the partition's buffers. -/
def wanting : State :=
  { issuer wv [3, 31] with regionBufs := [(0, [waveKey 0 3, waveKey 0 4, waveKey 0 5, waveKey 0 6])] }
theorem meets_regionWanting :
    Run.meets (restRun (.arb 20 0) 2 0 false) wanting wv [3, 31] ∧
    wv ∉ wanting.regionBufs.get [] (4 * (keyCore wv - 64) + keySlot wv / 12) ∧
    4 ≤ (wanting.regionBufs.get [] (4 * (keyCore wv - 64) + keySlot wv / 12)).length :=
  ⟨Run.fits_meets (by decide +kernel) trivial, by decide +kernel, by decide +kernel⟩
theorem meets_writesMakeStale : (inside.ctlAt ce 0).region = some { fallback := 0x4020 } ∧ ctlKey le 0 ≠ ctlKey ce 0 := by decide +kernel

/-! ### Waits, flags, barriers, futures -/

theorem meets_waits :
    inTurn meetsIn (waitRuns 2 0)
      [issuer le [0], issuer wv [31], issuer le [0], (issuer le [0]).setTok 1 (fifoFromPrev 1) 0, issuer le [0],
       scalars ve [(2, 2)] (queues (issuer ve [0])), scalars ve [(2, 6)] (queues (issuer ve [0])), issuer se [0]] := by
  refine ⟨?_, ?_, ?_, ?_, ?_, ?_, ?_, ?_, trivial⟩
  · exact meetsIn_of le [0] (by decide +kernel) (by change _ ≤ _; decide +kernel)
  · exact meetsIn_of wv [31] (by decide +kernel) (by change _ ≤ _; decide +kernel)
  · exact meetsIn_of le [0] (by decide +kernel) (by change _ ≤ _; decide +kernel)
  · exact meetsIn_of le [0] (by decide +kernel) (by change _ ≤ _; decide +kernel)
  · exact meetsIn_of le [0] (by decide +kernel) (by change _ ≤ _; decide +kernel)
  · exact meetsIn_of ve [0] (by decide +kernel) ⟨by decide +kernel, by decide +kernel⟩
  · exact meetsIn_of ve [0] (by decide +kernel) ⟨by decide +kernel, by change _ < _; decide +kernel⟩
  · exact meetsIn_of se [0] (by decide +kernel) (by change _ = _; decide +kernel)
theorem meets_flags : meetAll (issuer le [0]) le [0] (flags 63 3 0) :=
  meetAll_of (by decide +kernel) ⟨quiet_of (by decide +kernel), quiet_of (by decide +kernel), by change _ ≤ _; decide +kernel, trivial, trivial⟩
/-- A barrier of 7, 6 of which have arrived, in phase 0, is waited for with phase 1. -/
def barrier : State :=
  bytes le 0x7FFF0 [7, 0, 0, 0, 6, 0, 0, 0, 0, 0, 0, 0, 0, 0, 0, 0] (scalars le [(3, ap + 0x7FFF0), (5, 1)] (issuer le [0]))
theorem meets_barriers : meetAll barrier le [0] (barriers 5 3 0) :=
  meetAll_of (by decide +kernel) (by
    repeat (first
      | exact trivial
      | refine ⟨⟨quiet_of (by decide +kernel), by change _ = _; decide +kernel⟩, ?_⟩))
/-- A pending future that no card has registered, and one that is resolved. -/
def future (state : Nat) : State :=
  bytes le 0x7FFF0 [state, 0, 0xFF, 0xFF, 0, 0, 0, 0] (scalars le [(3, ap + 0x7FFF0), (5, 2)] (issuer le [0]))
theorem meets_futures : meetAll (future 0) le [0] (futures 5 3 0) :=
  meetAll_of (by decide +kernel) (by
    repeat (first
      | exact trivial
      | refine ⟨⟨quiet_of (by decide +kernel), by change _ = _; decide +kernel⟩, ?_⟩))
def visionFuture : State :=
  bytes wv 0x1FF0 [1, 0, 0xFF, 0xFF, 0, 0, 0, 0] (scalars wv [(3, ap + 0x1FF0)] (issuer wv [31]))
def someAnd {α : Type} (o : Option α) (p : α → Bool) : Bool := match o with | some a => p a | none => false
theorem someAnd_of {α : Type} {o : Option α} {p : α → Bool} (h : someAnd o p = true) : ∃ a, o = some a ∧ p a = true := by
  cases o with
  | some a => exact ⟨a, rfl, h⟩
  | none => cases h
theorem meets_watches :
    inTurn meetsIn (watches 5 3 2 0) [future 1, visionFuture, future 1] := by
  refine ⟨meetsIn_of le [0] (by decide +kernel) ⟨quiet_of (by decide +kernel), ?_⟩,
    meetsIn_of wv [31] (by decide +kernel) (by change _ = _; decide +kernel),
    meetsIn_of le [0] (by decide +kernel) ⟨quiet_of (by decide +kernel), by change _ = _; decide +kernel⟩, trivial⟩
  obtain ⟨r, hr, hp⟩ := someAnd_of (o := futureReads { key := le, threads := [0], lanes := issueLanes le [0] } (future 1)
    [BitVec.ofNat 64 (ap + 0x7FFF0)]) (p := fun r => r.2.toNat % 4 != 0) (by decide +kernel)
  exact ⟨r, hr, by simpa using hp⟩

/-! ### Vision workgroups -/

theorem meets_workgroups :
    inTurn meetsIn (workgroups 2 8 4 6 0)
      [issuer wv (List.range 32), issuer wv (List.range 32), issuer wv [3], issuer wv [3],
       scalars wv [(2, 0x1FF0)] (issuer wv [31]),
       bytes wv 0x100 [0, 0, 0, 0xFF, 0xFF, 0xFF, 0xFF, 0xFF, 2, 0, 2, 0, 8] (scalars wv [(6, ap + 0x100)] (issuer wv [31])),
       issuer wv [3, 31]] := by
  refine ⟨?_, ?_, ?_, ?_, ?_, ?_, ?_, trivial⟩
  · exact meetsIn_of wv (List.range 32) (by decide +kernel) ⟨by decide +kernel, by decide +kernel⟩
  · exact meetsIn_of wv (List.range 32) (by decide +kernel) ⟨by decide +kernel, by decide +kernel, by decide +kernel⟩
  · exact meetsIn_of wv [3] (by decide +kernel) (.inr ⟨by decide +kernel, by decide +kernel⟩)
  · exact meetsIn_of wv [3] (by decide +kernel) trivial
  · exact meetsIn_of wv [31] (by decide +kernel)
      ⟨0, { job := 0, x := 0, y := 0, z := 0, threads := 32, base := 0, units := 2, slots := [2] }, by decide +kernel,
        by decide +kernel, by decide +kernel, by decide +kernel, by decide +kernel⟩
  · exact meetsIn_of wv [31] (by decide +kernel) (by change _ = _; decide +kernel)
  · exact meetsIn_of wv [3, 31] (by decide +kernel) trivial

/-! ### Rings -/

/-- Ring 3 of core 0, the job's: two slots, the first at 0x200. -/
def ring (r : Ring) (s : State) : State :=
  s.setRing 0 3 { r with holder := some 0, gen := 1, base := 0x200, slotSize := 64, count := 2, prod := 0x1F, cons := 0x1F }
/-- A control block of four slots of 128 bytes from 0x600. -/
def controlBlock (key : Nat) (s : State) : State :=
  bytes key 0x400 [0, 6, 0, 0, 0x80, 0, 0, 0, 4, 0, 0, 0, 3, 3] (scalars key [(2, ap + 0x400)] s)

theorem mayUse_of {s : State} {key n : Nat} {side : Ring → Nat}
    (h : decide ((s.ringAt (keyCore key) n).holder = some (s.jobOf key 0) ∧ (s.ringAt (keyCore key) n).cls = 0 ∧
      bitN (side (s.ringAt (keyCore key) n)) (keyEng key) = true) = true) : s.mayUse key n side := by
  unfold State.mayUse; exact of_decide_eq_true h
theorem inJob_of {s : State} {key va n : Nat}
    (h : decide (0xFFFFFFFFFF000000 + cardBase (s.cardOf key 0) * 4096 ≤ va ∧
      va + n ≤ 0xFFFFFFFFFF000000 + (cardBase (s.cardOf key 0) + cardSize (s.cardOf key 0)) * 4096) = true) : s.inJob key va n := by
  unfold State.inJob; exact of_decide_eq_true h
theorem mayRead_of {s : State} {key va n : Nat}
    (h : decide (0xFFFFFFFFFF000000 + cardBase (s.cardOf key 0) * 4096 ≤ va ∧
      va + n ≤ 0xFFFFFFFFFF000000 + (cardBase (s.cardOf key 0) + cardSize (s.cardOf key 0)) * 4096) = true)
    (hp : s.placePoisoned (.loc (jobKey key va)) n = false) : s.mayRead key va n :=
  ⟨inJob_of h, hp⟩

theorem meets_rings :
    inTurn meetsIn (ringRuns 2 3 0)
      [ring {} (issuer ce [0]),
       ring { tail := 2, tags := [(0, 2), (1, 1)] } (scalars ve [(2, ap + 0x240)] (issuer ve [0])),
       ring { tail := 2, take := 1, tags := [(0, 3), (1, 2)] } (scalars se [(2, ap + 0x200)] (issuer se [0])),
       ring { tail := 2, take := 1, tags := [(0, 3), (1, 2)] } (issuer se [0]),
       ring { tail := 1, tags := [(0, 1)] } (issuer ce [0]),
       controlBlock se (issuer se [0])] := by
  refine ⟨?_, ?_, ?_, ?_, ?_, ?_, trivial⟩
  · exact meetsIn_of ce [0] (by decide +kernel) (mayUse_of (by decide +kernel))
  · exact meetsIn_of ve [0] (by decide +kernel)
      ⟨quiet_of (by decide +kernel), mayUse_of (by decide +kernel), inJob_of (by decide +kernel), 1, by decide +kernel, by decide +kernel⟩
  · exact meetsIn_of se [0] (by decide +kernel)
      ⟨quiet_of (by decide +kernel), mayUse_of (by decide +kernel), inJob_of (by decide +kernel), 0, by decide +kernel, by decide +kernel⟩
  · exact meetsIn_of se [0] (by decide +kernel)
      ⟨mayUse_of (by decide +kernel), by decide +kernel, by decide +kernel, by decide +kernel⟩
  · exact meetsIn_of ce [0] (by decide +kernel) ⟨mayUse_of (by decide +kernel), by decide +kernel, by decide +kernel⟩
  · exact meetsIn_of se [0] (by decide +kernel)
      ⟨quiet_of (by decide +kernel), .inl (by decide +kernel), by decide +kernel,
        mayRead_of (by decide +kernel) (by decide +kernel), by decide +kernel⟩
/-- A lane-class ring bound to an input stream, and no ring. -/
theorem meets_ringBind :
    inTurn meetsIn [ringBindRun 0 2 0, ringBindRun 3 2 0]
      [(scalars ve [(2, 0xFF43)] (issuer ve [0])).setRing 0 3 { holder := some 0, cls := 1, slotSize := 4 }, issuer ve [0]] := by
  refine ⟨?_, ?_, trivial⟩
  · exact meetsIn_of ve [0] (by decide +kernel) ⟨by decide +kernel, fun _ _ => ⟨by decide +kernel, by decide +kernel⟩⟩
  · exact meetsIn_of ve [0] (by decide +kernel) ⟨by decide +kernel, fun h => absurd h (by decide +kernel)⟩
/-- A descriptor of one target and 16 bytes. -/
def pushed : State :=
  bytes ce 0x400 ([0, 3, 1, 0] ++ List.replicate 60 0 ++ [16, 0, 0, 0, 1, 1, 0, 0])
    (scalars ce [(2, ap + 0x300), (3, ap + 0x400)] (issuer ce [0]))
theorem meets_push : meetsIn (pushRun 2 3 0) pushed :=
  meetsIn_of ce [0] (by decide +kernel)
    ⟨quiet_of (by decide +kernel), by decide +kernel, mayRead_of (by decide +kernel) (by decide +kernel), by decide +kernel,
      mayRead_of (by decide +kernel) (by decide +kernel), by decide +kernel⟩

/-! ### Copies -/

theorem okAnd_of {ε α β : Type} {e : Except ε (α × β)} {p : α → Prop} [DecidablePred p]
    (h : (match e with | .ok a => decide (p a.1) | .error _ => false) = true) : ∃ a b, e = .ok (a, b) ∧ p a := by
  cases e with
  | ok a => exact ⟨a.1, a.2, rfl, of_decide_eq_true h⟩
  | error _ => cases h

/-- s2 to s7: where to, a source or a tensor record at 0x100, a box at 0x140, no completion object. -/
def copying (z0 x y : Nat) : State :=
  bytes le 0x15C ((List.replicate 6 1 ++ [2]).flatMap fun n => [n, 0, 0, 0])
    (bytes le 0x100 [0, 0x70] (scalars le [(2, x), (3, y), (4, z0), (6, 1)] (issuer le [0])))
theorem meets_copies :
    inTurn meetsIn (copyRuns 2 3 4 0)
      [copying (ap + 0x140) (ap + 0x1000) (ap + 0x100), copying (ap + 0x140) (ap + 0x1000) (ap + 0x100),
       copying 0xFF0000000010 0x7000 0x6000, copying 0xFF0000000010 0x7000 0x6000, copying 0xFF0000000010 0x7000 0x6000,
       copying 0xFF0000000010 0x7000 0x6000, copying 0xFF0000000010 0x7000 0x6000] := by
  refine ⟨?_, ?_, ?_, ?_, ?_, ?_, ?_, trivial⟩ <;>
    exact meetsIn_of le [0] (by decide +kernel) (by
      change ∃ (t : State) (c : Cmd), _ = Except.ok (t, c) ∧ t.commandsOut le < 32
      exact okAnd_of (p := fun t : State => t.commandsOut le < 32) (by decide +kernel))
/-- A record that a plain copy of 64 bytes left after 8. -/
def resumable : State :=
  bytes le 0x100 (List.replicate 9 0 ++ [0x71] ++ List.replicate 7 0 ++ [0x70] ++ List.replicate 6 0 ++
    [64, 0, 0, 0, 0, 0xFF, 0, 0] ++ List.replicate 24 0 ++ [8] ++ List.replicate 47 0 ++ [0x34, 2, 0, 0, 4, 0, 2, 0])
    (scalars le [(3, ap + 0x100)] (issuer le [0]))
theorem meets_resume : meetsIn (resumeRun 3 0) resumable :=
  meetsIn_of le [0] (by decide +kernel) ⟨by decide +kernel, by decide +kernel⟩
theorem meets_count : meetsIn (countRun 7 3 4 0) (copying (ap + 0x140) 0 (ap + 0x100)) :=
  meetsIn_of le [0] (by decide +kernel) ⟨by decide, ok_of (by decide +kernel)⟩

/-! ### The arrays, algebra on lanes, macros -/

/-- A shape record of `r` × `c` elements from `base`, rows `p` bytes apart. -/
def shape (base r c p o : Nat) : List Byte :=
  leBytes 4 base ++ leBytes 2 r ++ leBytes 2 c ++ leBytes 4 p ++ List.replicate 6 0 ++ [BitVec.ofNat 8 o] ++ List.replicate 45 0
/-- Shapes 2, 3 and 4 of the context. -/
def shaped (r c : Nat) : State :=
  { issuer me [0] with
    shapes := [(16 + 2, shape 0x100 r c 128 0), (16 + 3, shape 0x1100 c r 128 0), (16 + 4, shape 0x2100 r r 128 0)] }
theorem footprint_of {o : Option Flt} (h : o.isNone = true) : o = none := by cases o with | none => rfl | some _ => cases h
theorem mmaFits_of {s : State} {key : Nat} {w : Mma}
    (h : decide (
      let a := s.shape key w.sa
      let b := s.shape key w.sb
      let t := s.shape key ((w.sb + 1) % 16)
      let d := accD (s.accord key a.accord)
      bitN (s.accMask key) w.acc = true ∧ a.cols = b.rows ∧ a.accord = b.accord ∧ (w.readout = true → t.accord = a.accord) ∧
      (w.pruned = true → d = 1 ∧ a.cols % 4 = 0) ∧ (w.readout = true → t.rows = a.rows ∧ t.cols = b.cols) ∧
      0 < a.rows ∧ 0 < a.cols ∧ 0 < b.cols ∧ a.rows ≤ 32 ∧ b.cols * d ≤ 32 ∧
      mmaCycles w.fmt a.rows a.cols d w.pruned ≤ 2048 ∧
      s.footprint key (mmaReads w a b d ++ (if w.readout then t.spans t.rows t.cols d (ofmtBytes t.ofmt) else [])) = none ∧
      s.footprintPoison key (mmaReads w a b d) = none ∧
      (w.z = false → ∀ c ∈ blockPositions a.rows b.cols d,
        s.poisonAcc.has (accKey (keyCore key) w.acc c.1 (c.2.1 * d + c.2.2)) = false)) = true) : mmaFits s key w := by
  unfold mmaFits; exact of_decide_eq_true h
/-- One element, and the largest number of rows. -/
theorem meets_arrays :
    meetAll (shaped 1 4) me [0] (arrayRuns 5 7 1 1 0 1 2 3 0) ∧ meetAll (shaped 32 4) me [0] (arrayRuns 0 0 0 0 1 0 2 3 0) := by
  constructor <;>
    exact meetAll_of (by decide +kernel) (by
      repeat (first
        | exact trivial
        | refine ⟨⟨quiet_of (by decide +kernel), mmaFits_of (by decide +kernel)⟩, ?_⟩))
/-- A shape record, and the accord of the real algebra. -/
theorem meets_tables :
    inTurn meetsIn (tableRuns 3 3 0)
      [bytes me 0x400 [0, 6, 0, 0, 2, 0, 2, 0, 16] (scalars me [(3, ap + 0x400)] (issuer me [0])),
       bytes me 0x400 [1, 0, 1, 0, 0, 0, 0, 0, 0, 0, 0, 0, 0, 0, 0, 0, 1] (scalars me [(3, ap + 0x400)] (issuer me [0])),
       issuer me [0]] := by
  refine ⟨?_, ?_, ?_, trivial⟩
  · exact meetsIn_of me [0] (by decide +kernel)
      ⟨quiet_of (by decide +kernel), by decide +kernel, mayRead_of (by decide +kernel) (by decide +kernel), by decide +kernel⟩
  · exact meetsIn_of me [0] (by decide +kernel)
      ⟨quiet_of (by decide +kernel), by decide +kernel, mayRead_of (by decide +kernel) (by decide +kernel), by decide +kernel⟩
  · exact meetsIn_of me [0] (by decide +kernel) (by change _ = _; decide +kernel)
theorem meets_readout : meetsIn (readoutRun 1 7 4 1 31 0) (shaped 2 2) :=
  meetsIn_of me [0] (by decide +kernel)
    ⟨quiet_of (by decide +kernel), by and_intros <;> decide +kernel⟩
/-- The complex algebra's table (dimension 2) in s15 and s16, with codes of products alone. -/
theorem meets_algebra :
    meetAll (scalars wv [(15, 0x02), (16, 0x1105)] (issuer wv [3, 31])) wv [3, 31] (algebraRuns 2 8 10 12 0) ∧
    algebraRuns 2 8 10 12 0 ≠ [] :=
  ⟨meetAll_of (by decide +kernel)
    ⟨⟨by decide +kernel, by decide +kernel⟩, ⟨by decide +kernel, by decide +kernel⟩, ⟨by decide +kernel, by decide +kernel⟩, trivial⟩,
   by simp [algebraRuns, regGroupOk]⟩
theorem meets_compress : meetAll (issuer ve [0]) ve [0] [compressRun 8 10 0 0, compressRun 8 10 5 0] :=
  meetAll_of (by decide +kernel) ⟨trivial, trivial, trivial⟩
/-- The last page of INT4 weights of a macro. -/
theorem meets_page : meetsIn (pageRun 7 2 3 0) (scalars me [(2, ap + 0x7F000), (3, 0x81F)] (issuer me [0])) :=
  meetsIn_of me [0] (by decide +kernel)
    ⟨quiet_of (by decide +kernel), by and_intros <;> decide +kernel⟩
/-- A chain of one INT4 page on an activation tile of one row. -/
def chained : State :=
  { issuer me [0] with
    shapes := [(16 + 2, shape 0x100 1 128 128 0)], pageTags := (List.range 32).map fun j => (pageKey 0 j 7, 1) }
theorem meets_chain : meetsIn (chainRun 7 0 1 1 2 0) chained :=
  meetsIn_of me [0] (by decide +kernel)
    ⟨quiet_of (by decide +kernel), by and_intros <;> decide +kernel⟩
/-- Sums of one row stand in the column accumulators. -/
def summed : State := { shaped 1 2 with caCtx := [(1, { claimed := true, mlast := 1 })] }
theorem meets_columns : meetsIn (columnsRun 3 2 23 0 2 0) summed :=
  meetsIn_of me [0] (by decide +kernel)
    ⟨quiet_of (by decide +kernel), by and_intros <;> decide +kernel⟩
theorem meets_status : inTurn meetsIn [statusRun 2 7 0, statusRun 2 8 0] [issuer me [0], issuer me [0]] :=
  ⟨meetsIn_of me [0] (by decide +kernel) (.inr (by decide +kernel)), meetsIn_of me [0] (by decide +kernel) (.inl rfl), trivial⟩

/-! ### Routes -/

/-- The gang's port 9 leads to ring 3 of core 0, and key 9 to that port. -/
def routed (s : State) : State :=
  { s with slots := [(0, { slot 1 with
      keyway := [(9, 0x8009)], ports := [(9, { core := 0, ring := 3, gen := 1, cap := 5, policy := 1, spill := 0 })] })] }
theorem meets_ports :
    inTurn meetsIn (portRuns 3 0)
      [ring {} (bytes le 0x400 [9, 3, 3, 0, 0, 1] (scalars le [(3, ap + 0x400)] (issuer le [0]))),
       scalars le [(3, ap + 0x400)] (issuer le [0]), routed (scalars le [(3, 9)] (issuer le [0]))] := by
  refine ⟨?_, ?_, ?_, trivial⟩
  · exact meetsIn_of le [0] (by decide +kernel)
      ⟨quiet_of (by decide +kernel), by decide +kernel, mayRead_of (by decide +kernel) (by decide +kernel), by decide +kernel,
        by decide +kernel, by decide +kernel⟩
  · exact meetsIn_of le [0] (by decide +kernel)
      ⟨quiet_of (by decide +kernel), mayRead_of (by decide +kernel) (by decide +kernel), by decide +kernel⟩
  · exact meetsIn_of le [0] (by decide +kernel)
      ⟨by decide +kernel, { core := 0, ring := 3, gen := 1, cap := 5, policy := 1, spill := 0 }, by decide +kernel,
        by decide +kernel⟩
/-- One row of one choice, of 4 bytes each way, under the key 9 and the weight 1. -/
def routing : State :=
  routed (ring {} (bytes le 0x700 [9, 0, 0, 0, 0, 0, 0x80, 0x3F]
    (bytes le 0x400 [0, 6, 0, 0, 16, 0, 0, 0, 0, 7, 0, 0, 0, 8, 0, 0, 16, 0, 0, 0, 0, 9, 0, 0, 0, 10, 0, 0, 1, 0, 0, 0, 4, 0, 4, 0,
      1, 0, 1, 63] (scalars le [(3, ap + 0x400)] (issuer le [0])))))
theorem meets_routes : inTurn meetsIn [routeRun 0 3 0, routeRun 2 3 0] [routing, routing] := by
  refine ⟨?_, ?_, trivial⟩ <;>
    exact meetsIn_of le [0] (by decide +kernel)
      ⟨quiet_of (by decide +kernel), by and_intros <;> decide +kernel⟩
theorem meets_return :
    meetsIn (returnRun 2 3 0) (bytes le 0x400 [0, 63, 0, 0, 0, 0, 9, 0, 0, 0, 0x80, 0x3F, 4, 0, 4, 0]
      (scalars le [(2, ap + 0x800), (3, ap + 0x400)] (issuer le [0]))) :=
  meetsIn_of le [0] (by decide +kernel)
    ⟨quiet_of (by decide +kernel), by and_intros <;> decide +kernel⟩
theorem meets_entry : meetsIn (entryRun 2 63 0) { issuer le [0] with rtes := [(63, { state := 2, fate := [2, 3] })] } :=
  meetsIn_of le [0] (by decide +kernel) ⟨by decide +kernel, by decide +kernel⟩
theorem meets_bind : meetsIn (bindRun 15 34 0) (queues (issuer ve [0])) :=
  meetsIn_of ve [0] (by decide +kernel) trivial

/-! ### Interruptions, waits that stop -/

/-- A state with a next state, as a check. -/
def goes (o : Host.Outcome State Fault Refusal) : Bool := match o with | .next _ => true | _ => false
theorem goes_of {o : Host.Outcome State Fault Refusal} (h : goes o = true) : ∃ t, o = .next t := by
  cases o with
  | next t => exact ⟨t, rfl⟩
  | _ => cases h

theorem meets_handles : (issuer ce [0]).handles ce 0 ∧ (issuer wv [31]).handles wv 31 :=
  ⟨⟨by decide +kernel, by decide +kernel, by decide +kernel, by decide +kernel⟩,
   ⟨by decide +kernel, by decide +kernel, by decide +kernel, by decide +kernel⟩⟩
/-- A stream in a wait, and one with a region open. -/
theorem meets_handles_wait :
    ((issuer me [0]).modCtl me 0 fun c => { c with waiting := some .rdv }).ctlAt me 0 ≠ {} ∧
    ((((issuer me [0]).modCtl me 0 fun c => { c with waiting := some .rdv }).unpop me).endWait me 0 true).handles me 0 ∧
    (inside.regionAbort ce 0 8 0).handles ce 0 :=
  ⟨by decide +kernel, ⟨by decide +kernel, by decide +kernel, by decide +kernel, by decide +kernel⟩,
   ⟨by decide +kernel, by decide +kernel, by decide +kernel, by decide +kernel⟩⟩
theorem meets_escalates : ((handler 0x4000).ctlAt wv 31).handling = true ∧ ((handler 0x4000).ctlAt wv 31).region = none := by
  decide +kernel
/-- The premises of `Obligations.Trap`, on an engine and on vision. -/
theorem meets_trap :
    (Run.meets (restRun (.trap 63 0) 2 0 false) (issuer ve [0]) ve [0] ∧ (issuer ve [0]).handles ve 0) ∧
    Run.meets (restRun (.trap 63 0) 2 0 false) (issuer wv [0, 31]) wv [0, 31] ∧
      ∀ l ∈ [0, 31], (issuer wv [0, 31]).handles wv l := by
  refine ⟨⟨Run.fits_meets (by decide +kernel) trivial, ?_⟩, Run.fits_meets (by decide +kernel) trivial, ?_⟩
  · exact ⟨by decide +kernel, by decide +kernel, by decide +kernel, by decide +kernel⟩
  · intro l hl
    exact ⟨by revert l; decide +kernel, by revert l; decide +kernel, by revert l; decide +kernel, by revert l; decide +kernel⟩

/-- A wait that stops, as a run with the same operands: its premises, and that the wait stays. -/
def stopping (i : Instr) (legal : Nat) (ssrc sdst : List Nat) (ok : Iss → State → List DWord → Prop)
    (wait : State → List DWord → Wait) (before : State → Nat → State) : Run :=
  { instr := i, legal := legal, last := true, ssrc := ssrc, sdst := sdst, effect := fun _ s _ _ => s
    ready := fun is s sv _ =>
      let t := before s is.key
      ok is t sv ∧ ∃ u, t.waitState is.key (is.threads.headD 0) (wait t sv) true = .stay u }
def isStay (g : WaitStep) : Bool := match g with | .stay _ => true | _ => false
theorem isStay_of {g : WaitStep} (h : isStay g = true) : ∃ u, g = .stay u := by
  cases g with
  | stay u => exact ⟨u, rfl⟩
  | _ => cases h
def same (s : State) (_ : Nat) : State := s
def always (_ : Iss) (_ : State) (_ : List DWord) : Prop := True
theorem meets_waitsStop :
    inTurn meetsIn
      [stopping (.wait 0 2 0) 0x3F [2] [] always (fun _ v => .cls 0 (v.getD 0 0)) same,
       stopping (.wait 5 2 0) 0x1F [2] [] (fun is s v => s.queueCheck is.key (32 + (v.getD 0 0).toNat % 16) false = none)
         (fun _ v => .cls 5 (v.getD 0 0)) same,
       stopping (.barWait 5 3 0) 0x3F [3, 5] [] always (fun _ v => .barWait (v.getD 0 0).toNat (bit (v.getD 1 0) 0)) State.finishReadouts,
       stopping (.fwait 5 2 0) 0x1F [2] [] always (fun _ v => .fwait 5 (v.getD 0 0)) same,
       stopping (.waitl 5 3 2 0) 0x3F [3, 5] [] always
         (fun s v => .waitl (v.getD 0 0).toNat 2 ((v.getD 1 0).toNat % 2 ^ (8 * 2 ^ 2)) s.cyc) State.finishReadouts,
       stopping (.futGet 5 3 1 0) 0x3F [3] [5] always (fun _ v => .futGet (v.getD 0 0).toNat 5) State.finishReadouts,
       stopping (.rwaitf 2 3 0) 0x1F [] [2] (fun is s _ => s.mayUse is.key 3 Ring.cons) (fun _ _ => .rwaitf 3 2) same,
       stopping (.rwaite 3 0) 0x1F [] [] (fun is s _ => s.mayUse is.key 3 Ring.prod) (fun _ _ => .rwaite 3) same,
       stopping (.rasm 2 63 0) 0x13 [] [2]
         (fun is s _ => (s.rteAt (keyCore is.key) 63).state = 1 ∧ (s.rteAt (keyCore is.key) 63).job = s.jobOf is.key 0)
         (fun _ _ => .rasm 63 2) same]
      [scalars wv [(2, 1)] (issuer wv [31]), scalars ve [(2, 2)] ((queues (issuer ve [0])).setQueue 1 2 []),
       scalars le [(5, 0)] barrier, scalars le [(2, 1)] (issuer le [0]),
       bytes le 0x7FFF0 [2] (scalars le [(3, ap + 0x7FFF0), (5, 2)] (issuer le [0])), future 0, ring {} (issuer ce [0]),
       ring { tail := 2, tags := [(0, 2), (1, 1)] } (issuer ce [0]), { issuer le [0] with rtes := [(63, { state := 1 })] }] := by
  refine ⟨?_, ?_, ?_, ?_, ?_, ?_, ?_, ?_, ?_, trivial⟩
  · exact meetsIn_of wv [31] (by decide +kernel) ⟨trivial, isStay_of (by decide +kernel)⟩
  · exact meetsIn_of ve [0] (by decide +kernel) ⟨by decide +kernel, isStay_of (by decide +kernel)⟩
  · exact meetsIn_of le [0] (by decide +kernel) ⟨trivial, isStay_of (by decide +kernel)⟩
  · exact meetsIn_of le [0] (by decide +kernel) ⟨trivial, isStay_of (by decide +kernel)⟩
  · exact meetsIn_of le [0] (by decide +kernel) ⟨trivial, isStay_of (by decide +kernel)⟩
  · exact meetsIn_of le [0] (by decide +kernel) ⟨trivial, isStay_of (by decide +kernel)⟩
  · exact meetsIn_of ce [0] (by decide +kernel) ⟨mayUse_of (by decide +kernel), isStay_of (by decide +kernel)⟩
  · exact meetsIn_of ce [0] (by decide +kernel) ⟨mayUse_of (by decide +kernel), isStay_of (by decide +kernel)⟩
  · exact meetsIn_of le [0] (by decide +kernel) ⟨⟨by decide +kernel, by decide +kernel⟩, isStay_of (by decide +kernel)⟩
theorem meets_rdv :
    Run.meets (restRun (.rdv 0) 2 0 false) (issuer me [0]) me [0] ∧ (issuer me [0]).allComplete me = true ∧ pushFifos me 0 = [] :=
  ⟨Run.fits_meets (by decide +kernel) trivial, by decide +kernel, by decide +kernel⟩

/-! ### Divisions, frames -/

/-- The least number by -1, and any number by 0. -/
theorem meets_divides :
    meetAll (scalars ce [(2, 2 ^ 63), (3, 2 ^ 64 - 1)] (issuer ce [0])) ce [0] ((scalarTable 31 2 3 0).drop 16 |>.take 4) ∧
    divCorner true false (BitVec.ofNat 64 (2 ^ 63)) (BitVec.ofNat 64 (2 ^ 64 - 1)) = some (BitVec.ofNat 64 (2 ^ 63)) ∧
    divCorner false true 5 0 = some 5 ∧ divCorner true false 5 2 = none :=
  ⟨meetAll_of (by decide +kernel) ⟨trivial, trivial, trivial, trivial, trivial⟩, by decide +kernel, by decide +kernel,
    by decide +kernel⟩
/-- One instruction of each group that `Obligations.Frames` names has a next state where it meets the premises. -/
theorem meets_frames :
    (∃ t, exec (.add 31 2 3 0) (issuer ce [0]) = .next t) ∧ (∃ t, exec (.addLane 8 1 2 0) (issuer ve [0]) = .next t) ∧
    (∃ t, exec (.cmpEq 7 2 3 0) (issuer wv [0, 31]) = .next t) ∧ ∃ t, exec (.fadd 8 1 2 2 0) (issuer ve [0]) = .next t :=
  ⟨goes_of (by decide +kernel), goes_of (by decide +kernel), goes_of (by decide +kernel), goes_of (by decide +kernel)⟩

/-- Loads, stores and atomics whose places are found without a walk. -/
theorem meets_memoryFrames :
    accesses.steady ∧
    (∀ x ∈ accessesOf { key := wv, threads := [0, 31], lanes := [0, 31] } [BitVec.ofNat 64 (ap + 0x100)] [] (.ld 8 1 0 3 0),
      ∃ p, accesses.locate wv x.1 .read x.2.1 x.2.2 = .ok (accesses, p)) ∧
    (∀ x ∈ accessesOf { key := wv, threads := [0, 31], lanes := [0, 31] } [BitVec.ofNat 64 (ap + 0x100)] [] (.st 8 1 0 3 0),
      ∃ p, accesses.locate wv x.1 .write x.2.1 x.2.2 = .ok (accesses, p)) ∧
    ∃ p, (issuer ce [0]).locate ce 0 .rmw (ap + 0x7FFF8) 8 = .ok (issuer ce [0], p) := by
  have place {s : State} {k l va n : Nat} {a : Acc} (h : (match s.locate k l a va n with | .ok x => x.1 == s | .error _ => false) = true) :
      ∃ p, s.locate k l a va n = .ok (s, p) := by
    revert h
    cases s.locate k l a va n with
    | error _ => intro h; cases h
    | ok x => intro h; exact ⟨x.2, by rw [← eq_of_beq h]⟩
  refine ⟨⟨by decide +kernel, by decide +kernel, by decide +kernel, rfl, unarmed_of (by decide +kernel)⟩, ?_, ?_, place (by decide +kernel)⟩
  · have h : accessesOf { key := wv, threads := [0, 31], lanes := [0, 31] } [BitVec.ofNat 64 (ap + 0x100)] [] (.ld 8 1 0 3 0) =
        [(0, ap + 0x100, 4), (0, ap + 0x104, 4), (31, ap + 0x1F8, 4), (31, ap + 0x1FC, 4)] := by decide +kernel
    rw [h]
    simp only [List.forall_mem_cons]
    exact ⟨place (by decide +kernel), place (by decide +kernel), place (by decide +kernel), place (by decide +kernel), by simp⟩
  · have h : accessesOf { key := wv, threads := [0, 31], lanes := [0, 31] } [BitVec.ofNat 64 (ap + 0x100)] [] (.st 8 1 0 3 0) =
        [(0, ap + 0x100, 8), (31, ap + 0x1F8, 8)] := by decide +kernel
    rw [h]
    simp only [List.forall_mem_cons]
    exact ⟨place (by decide +kernel), place (by decide +kernel), by simp⟩

/-! ### Faults -/

/-- A word where it is not legal, and one with an operand that is not. -/
theorem meets_misused :
    ((issuer ce [0]).issuing ce [0] ∧ (issuer ce [0]).judges ce [0] 0 2 ∧ bitN 0x28 (keyEng ce) = false) ∧
    ((issuer wv [0, 31]).judges wv [0, 31] 0 2 ∧ laneSrcOk wv 0x3A = false) ∧ scalarOk ce 48 = false ∧ scalarOk wv 31 = true := by
  unfold State.issuing Ctl.clear State.judges
  decide +kernel
/-- A poisoned source. -/
theorem meets_poisoned :
    Run.meets (scalarPair (.add 31 2 3 0) 2 0 31 2 3 fun x y => x + y) (issuer ce [0]) ce [0] ∧
    ({ issuer ce [0] with poisonScalar := [(64 * ce + 2, true)] } : State).poisonScalar.has (64 * ce + 2) = true :=
  ⟨meets_scalarTable _ (by simp [scalarTable]), by decide +kernel⟩
/-- Thread 3 fails the guard p1 and thread 31 passes it; all fail its complement. -/
def guarding : State := { issuer wv [3, 31] with preg := [(8 * wv + 1, 0x80000000)] }
theorem meets_guarded :
    [31] = [3, 31].filter (fun l => bit (1 : BitVec 4) 3 != guarding.pget wv (bits (1 : BitVec 4) 0 3) l) ∧
    goes (exec (.add 31 2 3 1) { guarding with cur := some { wave := true, key := wv, set := [31] } }) = true := by decide +kernel
def errs {α : Type} (e : Except Flt α) (cause info : Nat) : Bool := match e with
  | .error f => f.cause == cause && f.info == BitVec.ofNat 64 info
  | .ok _ => false
/-- Accesses that fault: outside the aperture's bytes of the job, not canonical, a poisoned byte; a misaligned address. -/
theorem meets_accessFaults :
    errs ((issuer ce [0]).locate ce 0 .read (ap + 0x80000) 8) 7 0x80000 = true ∧
    errs ((issuer ce [0]).locate ce 0 .write (2 ^ 60) 8) 9 (2 ^ 60) = true ∧
    errs ({ issuer ce [0] with poisonLoc := [(locKey 0 8 / 8, true)] }.memRead ce 0 (ap + 8) 8) 0x0B (ap + 8) = true ∧
    scalarAt 1 8 4 % 8 ≠ 0 ∧ contiguous 0 8 [4] [] 0 % 8 ≠ 0 := by decide +kernel
/-- Of two threads one faults in a gather, and one in a scatter. -/
def partlyWrong : State := lanes wv [(2, fun l => 0xFF000000 + if l = 0 then 0 else 2), (3, fun _ => 0xFFFFFFFF)] (issuer wv [0, 31])
theorem meets_gatherFaults :
    Run.fits (loadRun (.ldg 8 2 3 0) 0 [] [3, 2] [8] [] gathered 4 4 [0]) partlyWrong wv [0, 31] = true ∧
    Run.fits (storeRun (.stg 8 2 3 0) 0 [] [3, 2, 8] [] gathered (fun lv l => (lval lv 2 l).toNat % 256 ^ 4) 4) partlyWrong wv [0, 31] = true ∧
    (loadSome wv (fun l => ap + if l = 0 then 0 else 2) 4 partlyWrong [0, 31]).2.2 =
      [(31, { cause := 8, info := BitVec.ofNat 64 (ap + 2) })] ∧
    (storeSome wv (fun l => ap + if l = 0 then 0 else 2) (fun _ => 0) 4 partlyWrong [0, 31]).2 =
      [(31, { cause := 8, info := BitVec.ofNat 64 (ap + 2) })] := by decide +kernel
/-- A job that claims no tile and no page, a bad control word, a misaligned route descriptor, an entry of none. -/
def claimless : State := { issuer me [0] with slots := [(0, { slot 1 with card := ((card 1).set 0x30 0).set 0x31 0 })] }
theorem meets_unitFaults :
    (claimless.accMask me = 0 ∧ claimless.pageMask me = 0) ∧ Run.fits (restRun (.acczero 3 0) 2 0 false) claimless me [0] = true ∧
    Run.fits (pageRun 7 2 3 0) (scalars me [(2, ap + 0x7F000), (3, 0x1000)] (issuer me [0])) me [0] = true ∧
    bitN ((issuer me [0]).pageMask me) 7 = true ∧ Run.fits (routeRun 0 3 0) (scalars le [(3, ap + 0x401)] (issuer le [0])) le [0] = true ∧
    Run.fits (entryRun 2 63 0) (issuer le [0]) le [0] = true ∧ ((issuer le [0]).rteAt 0 63).state = 0 := by decide +kernel

/-! ### Encoding, steps, invariants -/

theorem meets_encoding :
    (Instr.fadd 3 1 50 0 11).wf = true ∧ encode (.fadd 3 1 50 0 11) ≠ [] ∧
    ∃ x, decodeBytes [0x67, 0x8B, 0x1C, 0x0C, 7] = .ok x ∧ x.2 = [7] := by
  refine ⟨by decide +kernel, by decide +kernel, (.fadd 3 1 50 0 11, [7]), ?_, rfl⟩
  exact okIs_of (by decide +kernel)
/-- The state in which an engine's very next step runs a word, and that in which a wave's does. -/
def streamWord : State := State.reset.withFetchWord 32 0x0C1C8B67
def waveWord : State := State.reset.withFetchWord 32 0x100000F7
theorem okFst_of {ε α β : Type} [DecidableEq β] {e : Except ε (α × β)} {b : β}
    (h : (match e with | .ok x => x.2 == b | .error _ => false) = true) : ∃ a, e = .ok (a, b) := by
  cases e with
  | ok x => simp only [beq_iff_eq] at h; exact ⟨x.1, by rw [← h]⟩
  | error _ => cases h
theorem actsNext_of {s : State} {t : Sched} {rest : List Sched} (h : s.agenda = t :: rest) (hs : s.stampDue t.cyc = none) :
    s.actsNext t rest := by
  simp [State.actsNext, h, hs]
/-- The premises of `streamStep`, in the state that an engine's turn reads. -/
theorem meets_streamStep :
    streamWord.actsNext { cyc := 0, ns := 0, turn := .tile 0 3 } [] ∧
    let s1 := streamWord.atEngine 0 3 0 0 []
    s1.freezing 0 = false ∧
    let r := s1.readied 0 3
    let key := streamKey 0 r.2 3
    r.2 < 4 ∧ r.1.issuesNow key ∧ (r.1.ctlAt key 0).atHeader = true ∧
    let s2 := r.1.enterBlock key 0
    (s2.ctlAt key 0).atHeader = false ∧ (∃ u, s2.fetchWord key 0 = .ok (u, 0x0C1C8B67, 2)) ∧
    decodesTo 0x0C1C8B67 2 (.fadd 3 1 50 0 11) :=
  ⟨actsNext_of rfl (by decide +kernel), by decide +kernel, by decide +kernel, by unfold State.issuesNow; decide +kernel,
    by decide +kernel, by decide +kernel, okFst_of (by decide +kernel), okIs_of (by decide +kernel)⟩
/-- The state in which a partition's turn begins, and that after its waits and headers. -/
def waveTurns : State := { waveWord with agenda := [], turns := waveWord.turns + 1, rank := waveWord.rank, fresh := waveWord.fresh }.tick 0 0
def waveReady : State :=
  (waveTurns.partWaves 0 0).foldl (fun s k => (s.waveWaits k).waveHeaders k 100)
    ((waveTurns.partWaves 0 0).foldl State.waveMaint waveTurns)
theorem meets_waveStep :
    waveWord.actsNext { cyc := 0, ns := 0, turn := .vision 0 0 } [] ∧
    ((waveTurns.partWaves 0 0).foldl State.waveMaint waveTurns).freezing 64 = false ∧
    let key := waveKey 0 0
    let t := waveReady
    t.firstWave (waveTurns.partWaves 0 0) = some key ∧ t.nextSet key = some 0 ∧ t.issueSet key 0 = [0] ∧ t.takeOwed key 0 = none ∧
    (∃ u, t.bodyHalf key 0 (t.ctlAt key 0).pc = .ok (u, 0x00F7#16)) ∧ isLong 0x00F7#16 = true ∧
    (t.ctlAt key 0).lastInBody 1 = false ∧ (∃ v, t.bodyHalf key 0 ((t.ctlAt key 0).pc + 2) = .ok (v, 0x1000#16)) ∧
    decodeHalves 0x00F7 0x1000 = .ok (.fetchwg 4 0) := by
  refine ⟨actsNext_of rfl (by decide +kernel), by decide +kernel, by decide +kernel, by decide +kernel, by decide +kernel, ?_⟩
  exact ⟨by decide +kernel, okFst_of (by decide +kernel), by decide, by decide +kernel, okFst_of (by decide +kernel),
    okIs_of (by decide +kernel)⟩
/-- A place that a fetch finds, and memory as data keep it. -/
theorem meets_fetch :
    ∃ u p, (code (issuer ce [0])).locate ce 0 .exec 0x4004 2 = .ok (u, p) ∧ u.steady ∧ u.placePoisoned p 2 = false := by
  have h : (match (code (issuer ce [0])).locate ce 0 .exec 0x4004 2 with
      | .ok x => decide (Memory.wf x.1.mem = true ∧ Memory.wf x.1.loc = true ∧ x.1.dirty.Pairwise (fun a b => a.1 < b.1) ∧
          x.1.migrated = [] ∧ (x.1.creg.all fun e => !bit e.2 63) = true ∧ x.1.placePoisoned x.2 2 = false)
      | .error _ => false) = true := by decide +kernel
  revert h
  generalize (code (issuer ce [0])).locate ce 0 .exec 0x4004 2 = e
  intro h
  cases e with
  | error _ => cases h
  | ok x =>
    obtain ⟨h1, h2, h3, h4, h5, h6⟩ := of_decide_eq_true h
    exact ⟨x.1, x.2, rfl, ⟨h1, h2, h3, h4, unarmed_of h5⟩, h6⟩
/-- Words that a next step runs, and steps that go on from a state in canonical form (and no stream waits). -/
theorem meets_steps : State.reset.canonical ∧ (∃ t, step State.reset = .next t) ∧ streamWord.canonical ∧ ∃ t, step streamWord = .next t :=
  ⟨⟨by decide +kernel, by decide +kernel⟩, goes_of (by decide +kernel), ⟨by decide +kernel, by decide +kernel⟩,
    goes_of (by decide +kernel)⟩

/-! ### Events that are due -/

/-- Each event of a list is due in its state. -/
def dueAll : List (Happening × State) → Prop
  | [] => True
  | x :: l => x.1.due x.2 ∧ dueAll l

/-- A tile job whose five streams run on core 0, in context 1. -/
def job : State :=
  { issuer ce [0] with ctl := [ce, le, me, ve, se].map fun k => (ctlKey k 0, running 4) }
/-- The matrix engine's control state changed. -/
def onMe (f : Ctl → Ctl) (s : State) : State := s.modCtl me 0 f
def late (l : Late) : State := onMe (fun c => { c with late := some l }) job
/-- The flights of a state. -/
def flying (f : Flight) (s : State) : State := { s with flights := [(1, f)], nextId := 2 }
def port : Port := { core := 0, ring := 3, gen := 1, cap := 5, policy := 1, spill := 0 }

/-- The tile cycle after the issue of a qbind. -/
def bound (q : Nat) (w : DWord) : State := { late (.qbind q w 5) with cyc := 6 }
def retiring : List (Happening × State) :=
  (retirements 0 1 2 [(33, 7), (34, 9)] [(64, 5)] [(5, 9)] [(3, 1)] (some [(0x100, 7)]) 5 2 255 true (some port)
    [0, 0x8005]).zip
    [late (.port 255 (some port)), late (.keyway [0, 0x8005]), late (.array [(33, 7), (34, 9)] 5 none),
     late (.array [(33, 7), (34, 9)] 5 (some [(0x100, 7)])), late (.wload [(5, 9)] [(3, 1)] 5), late (.tma [(64, 5)] true 2 5)]
def reading : Readout := { key := me, job := 0, bytes := (List.range 8).map fun i => (0x100 + i, 7), g := 0 }
def readings : List (Happening × State) := [(readoutEnds 1 reading, { flying (.readout reading) job with poisonLoc := [(0x20, true)] })]
def stalled (c : Ctl) : Ctl := { c with stall := [.stamp 100] }
def stands : List (Happening × State) :=
  (standing 0 1 2 100).zip
    [{ onMe (fun c => { stalled c with armed := some 100 }) job with cyc := 100 },
     { onMe stalled job with cyc := 100 }, onMe (fun c => { c with retire := some {} }) job,
     onMe (fun c => { c with pp := [true, false] }) job, { onMe (fun c => { c with holdEnd := some 100 }) job with cyc := 100 },
     onMe (fun c => { stalled c with holdOver := some 100 }) job,
     onMe (fun c => { c with retire := some {}, holdOver := some 100 }) job, onMe (fun c => { c with holdOver := some 100 }) job]
def owed : Deferred := { ord := 3, cause := 0x10, cls := 1, info := 7, atDelivery := true, byHandler := false, iaddr := some 0x4008 }
def excepts : List (Happening × State) :=
  (exceptions (.stream 0 1 2) 0 1 2 7 55 owed).zip
    [onMe (fun c => { stalled c with owed := { miss := some 55 } }) job, onMe (fun c => { stalled c with owed := { overrun := some 55 } }) job,
     onMe (fun c => { stalled c with owed := { routeTo := [7, 8] } }) job,
     onMe (fun c => { c with waiting := some .rdv, owed := { deferred := [owed] } }) job] ++
  ((exceptions (.thread 0 2 31) 0 1 2 7 55 owed).take 2).zip
    [(issuer wv [31]).modCtl wv 31 fun c => { c with waiting := some (.cls 0 9), owed := { miss := some 55 } },
     (issuer wv [31]).modCtl wv 31 fun c => { c with waiting := some (.cls 0 9), owed := { overrun := some 55 } }]
/-- One that stands at a wait without a fault, or is stalled. -/
def noFault (g : WaitStep) : Bool := match g with | .fault _ _ => false | _ => true
theorem stands_of {s : State} {key l : Nat} (h : (match (s.ctlAt key l).waiting with
    | some w => noFault (s.waitState key l w false)
    | none => decide ((s.ctlAt key l).stall ≠ [])) = true) : s.stands key l := by
  unfold State.stands
  cases hw : (s.ctlAt key l).waiting with
  | none => rw [hw] at h; exact of_decide_eq_true h
  | some w =>
    rw [hw] at h
    intro t f he
    simp only [he] at h
    cases h
def waits (w : Wait) : State := onMe (fun c => { c with waiting := some w }) job
def waitings : List (Happening × State) :=
  (waitEnds (.stream 0 1 2) (.cls 7 5) (waits (.cls 7 5)) 0x5000 2 5 7).zip
    [waits (.cls 7 5), waits .rdv, { waits (.waitl 0x5000 2 7 5) with cyc := 1500005 }, waits (.waitl 0x5000 2 7 5)]

def update : FlagUpd := { key := le, job := 0, flag := 63, add := true, value := 5 }
def plainCopy (n src : Nat) : Cmd :=
  { key := le, job := 0, iaddr := 0x4004, maj := 0x34, f := 2, g := 0, x := BitVec.ofNat 64 (ap + 0x100), y := BitVec.ofNat 64 src,
    z := [BitVec.ofNat 64 (0xFF0000000000 + n), 0], zreg := 4, rm := 0 }
def delivery (here : Bool) : Delivery :=
  { key := ce, job := 0, source := .push 1 0, core := 0, ring := 3, gen := 1, head := [1, 2, 3], arrived := here }
def pushing : Push :=
  { key := ce, job := 0, desc := 0x400, fou := true, status := [1, 2], ringsOf := [3, 4], g := 0, byHandler := false, iaddr := 0x4004 }
def returning (done : Bool) : Ret :=
  { key := le, job := 0, origin := 0, rte := 63, seq := 0, row := 0, choice := 0, bytes := [1, 2, 3, 4], g := 0, answered := done }
def arriving : List (Happening × State) :=
  (arrivals 1 update (plainCopy 16 (ap + 0x200)) (delivery false) pushing (returning false) 0 0).take 1 |>.zip
    [flying (.flag update) job]
/-- A copy that runs to its end, and one whose first byte it may not read. -/
theorem due_copies :
    let c := plainCopy 16 (ap + 0x200)
    let s := flying (.copy c) job
    (s.flights.find 1 = some (.copy c) ∧ c.stop = none ∧ c.after = none ∧ (s.copyRun c (c.count - c.pos)).2.2 = none) ∧
    let d := plainCopy 16 (ap + 0x1000000)
    let t := flying (.copy d) job
    t.flights.find 1 = some (.copy d) ∧ d.stop = none ∧ d.after = none ∧ (t.copyRun d (d.count - d.pos)).2.2.isSome = true := by
  decide +kernel
def arriving' : List (Happening × State) :=
  ((arrivals 1 update (plainCopy 16 (ap + 0x1000000)) (delivery false) pushing (returning false) 1 (ap + 0x1000000)).drop 3 |>.take 2).zip
    [flying (.delivery (delivery false)) (ring {} job), flying (.delivery (delivery false)) job] ++
  ((arrivals 1 update (plainCopy 16 0) (delivery true) pushing (returning false) 0 0).drop 6 |>.take 2).zip
    [flying (.push pushing) job,
     flying (.ret (returning false)) { job with rtes := [(63, { state := 1, fate := [1] })] }] ++
  ((arrivals 1 update (plainCopy 16 0) (delivery true) pushing { returning true with job := endedSlot } 0 0).drop 8 |>.take 1).zip
    [flying (.ret { returning true with job := endedSlot }) job] ++
  ((arrivals 1 update (plainCopy 16 0) (delivery true) pushing (returning true) 0 0).drop 9).zip [flying (.ret (returning true)) job]
/-- A queue from the control engine to the scatter engine is bound, and one is unbound. -/
theorem due_bindings : (bindingArrives 0 1 2 9 5 0x51).due (bound 9 0x51) ∧ (bindingArrives 0 1 2 8 5 0).due (bound 8 0) := by
  have none_before (q : Nat) (w : DWord) (h : ∀ e < 2, ((bound q w).ctlAt (streamKey 0 1 e) 0).late = none) :
      ∀ e < 2, ∀ v u, ((bound q w).ctlAt (streamKey 0 1 e) 0).late ≠ some (.qbind q v u) := by
    intro e he v u hl
    rw [h e he] at hl
    cases hl
  constructor <;>
    exact ⟨by decide, by decide, by decide, by decide +kernel, by decide +kernel, none_before _ _ (by decide +kernel),
      by decide +kernel⟩
theorem due_retiring : dueAll retiring := by
  refine ⟨?_, ?_, ?_, ?_, ?_, ?_, trivial⟩ <;> (dsimp only; decide +kernel)
theorem due_readings : dueAll readings := by
  refine ⟨?_, trivial⟩; unfold readoutEnds; dsimp only; decide +kernel
theorem due_stands : dueAll stands := by
  refine ⟨?_, ?_, ?_, ?_, ?_, ⟨by decide +kernel, stands_of (by decide +kernel), by decide +kernel⟩,
    ⟨by decide +kernel, by decide +kernel, by decide +kernel, {}, by decide +kernel, by decide +kernel⟩, ?_, trivial⟩ <;>
    (dsimp only; decide +kernel)
theorem due_excepts : dueAll excepts := by
  refine ⟨⟨⟨?_, ?_, ?_, ?_, ?_⟩, ?_⟩, ⟨⟨?_, ?_, ?_, ?_, ?_⟩, ?_, ?_⟩, ⟨⟨?_, ?_, ?_, ?_, ?_⟩, ?_, ?_, ?_⟩, ⟨?_, ?_, ?_⟩,
    ⟨⟨?_, ?_, ?_, ?_, ?_⟩, ?_⟩, ⟨⟨?_, ?_, ?_, ?_, ?_⟩, ?_, ?_⟩, trivial⟩ <;>
    first | exact stands_of (by decide +kernel) | decide +kernel
theorem due_waitings : dueAll waitings := by
  refine ⟨?_, ?_, ?_, ?_, trivial⟩ <;> (dsimp only; decide +kernel)
theorem due_arriving : dueAll arriving := by
  refine ⟨?_, trivial⟩; unfold State.noneBefore; decide +kernel
/-- A delivery that has arrived where a slot is free. -/
def accepting : State := flying (.delivery (delivery true)) (ring { tail := 1, tags := [(0, 2)] } job)
theorem due_accept :
    dueAll (((arrivals 1 update (plainCopy 16 0) (delivery true) pushing (returning false) 0 0).drop 5 |>.take 1).zip [accepting]) :=
  ⟨⟨by decide +kernel, by decide +kernel, by decide +kernel, id, by decide +kernel⟩, trivial⟩
theorem due_arriving' : dueAll arriving' := by
  repeat (first
    | exact trivial
    | refine ⟨⟨by decide +kernel, by decide +kernel, by dsimp only [State.noneBefore]; decide +kernel, id, by decide +kernel⟩, ?_⟩
    | refine ⟨by dsimp only; decide +kernel, ?_⟩)
def element : Retire := { elems := [(2, [1, 2, 3, 4])] }
def binding : DWord := 0x010143
def elements : List (Happening × State) :=
  (elementsAndDeadlines ve 0 element (2, [1, 2, 3, 4]) 0 63).zip
    [((job.modCtl ve 0 fun c => { c with retire := some element, ringIn := [(2, binding)] }).modSlot 0 fun x =>
        { x with cores := [0, 1] }).setRing 1 3
        { holder := some 0, gen := 1, base := 0x200, slotSize := 16, count := 2, cls := 1, flags := 1, prod := 8, cons := 8 },
     { job with rtes := [(63, { state := 1, deadline := 5, fate := [1, 2], desc := List.replicate 64 0, vec := [9, 9] })], ns := 5 }]

def ready (s : State) : State := { s with island := { s.island with phase := 2 } }
def dispatching : List (Happening × State) :=
  ((dispatcherEvents 0x1040 7 0x100 0 30 400 3 50 0 [] State.reset).drop 2).zip
    [ready State.reset, ready job, State.reset, { State.reset with ns := 8 }, { State.reset with pairCyc := 9 }, { State.reset with ns := 3000, cyc := 7, nextPair := 3000 },
     State.reset, { ready State.reset with ns := 100000 }, { State.reset with ns := 100000 },
     { State.reset with slots := [(0, { state := 1, card := card 1, nextRel := some (3, 50) })], ns := 50 },
     { State.reset with evaluations := 1 }]

/-- A card at address 0x1080: a tile job on one core. -/
def submitted : State :=
  (ready State.reset).extWrite 0x1080 ((List.range 128).map fun i =>
    if i = 0 ∨ i = 6 ∨ i = 0x24 then 1 else if i = 0x2E then 0x80 else 0)
def cardRead : State := (submitted.setCreg (dspBase + 0x80) (setBits (submitted.creg_ (dspBase + 0x80)) 1 1 0)).readCard 0x1080
theorem due_submit :
    ∃ u ls, submitted.island.phase = 2 ∧ 0x1080 % 128 = 0 ∧ cardRead.checkCard (cardRead.cardAt 0x1080) none = .ok (u, ls, .slot 0) := by
  have h : (match cardRead.checkCard (cardRead.cardAt 0x1080) none with
    | .ok x => decide (x.2.2 = .slot 0)
    | .error _ => false) = true := by decide +kernel
  revert h
  generalize cardRead.checkCard (cardRead.cardAt 0x1080) none = e
  intro h
  cases e with
  | error _ => cases h
  | ok x => exact ⟨x.1, x.2.1, by decide +kernel, by decide, by rw [← of_decide_eq_true h]⟩
theorem due_elements : dueAll elements := by
  refine ⟨?_, ?_, trivial⟩
  · refine ⟨by decide +kernel, by decide +kernel, by decide +kernel, by decide +kernel, ?_, by decide +kernel, by decide +kernel,
      by decide +kernel⟩
    intro y hy
    have h : ((elements.getD 0 (readoutEnds 1 reading, job)).2.retireNeeds ve element) = [.remote 2] := by decide +kernel
    exact ⟨2, by simpa using (show y ∈ [Need.remote 2] from h ▸ hy)⟩
  · dsimp only; decide +kernel
theorem due_dispatching : dueAll dispatching := by
  repeat (first | exact trivial | refine ⟨by first | trivial | (dsimp only; decide +kernel), ?_⟩)

def visionJob : State := issuer wv (List.range 32)
def mailbox : Mailbox := { key := wv, job := 0, group := 0, box := locKey 64 0x100 }
/-- A vision job of one workgroup of 32 threads, in its slot alone. -/
def gridJob (f : Slot → Slot) : State :=
  { State.reset with slots := [(0, f { state := 2, card := (card 2).set 0x2E 2, levels := [⟨1, 0⟩, ⟨1, 0⟩, ⟨1, 0⟩, ⟨32, 0⟩] })] }
def placing : List (Happening × State) :=
  (((placementEvents 0 0 1 2 1 5 2 3 mailbox State.reset).take 3).zip
    [visionJob.modSlot 0 fun x => { x with stopping := true, cores := [] },
     ({ job with ctl := [] }).modSlot 0 fun x => { x with stopping := true, started := false },
     { job.modSlot 0 fun x => { x with stopping := true, hingeMode := true } with ns := 100 }]) ++
  ((placementEvents 0 0 1 2 1 5 2 3 mailbox State.reset).drop 4 |>.take 1).zip
    [{ job with ctl := [], ctxJob := [] }.modSlot 0 fun x => { x with state := 2, restoring := true, started := false }] ++
  ((placementEvents 0 0 1 2 1 5 2 3 mailbox State.reset).drop 6).zip
    [{ (visionJob.modSlot 0 fun x => { x with firstIssue := some 5, laneOps := 500, sectors := 3 }) with ns := 64005 },
     flying (.mailbox mailbox) (visionJob.modSlot 0 fun x => { x with levels := [⟨4, 0⟩, ⟨2, 0⟩, ⟨1, 0⟩, ⟨32, 0⟩], nextWg := 5 }),
     flying (.mailbox mailbox) (visionJob.modSlot 0 fun x => { x with levels := [⟨1, 0⟩, ⟨1, 0⟩, ⟨1, 0⟩, ⟨32, 0⟩], nextWg := 1 })] ++
  (let m := { mailbox with group := boxEnded }
   ((placementEvents 0 0 1 2 1 5 2 3 m State.reset).drop 9 |>.take 2).zip
    [flying (.mailbox m) (visionJob.modSlot 0 fun x => { x with levels := [⟨4, 0⟩, ⟨2, 0⟩, ⟨1, 0⟩, ⟨32, 0⟩], nextWg := 5 }),
     flying (.mailbox m) (visionJob.modSlot 0 fun x => { x with levels := [⟨1, 0⟩, ⟨1, 0⟩, ⟨1, 0⟩, ⟨32, 0⟩], nextWg := 1 })]) ++
  ((placementEvents 0 0 1 2 1 5 2 3 mailbox State.reset).drop 11).zip
    [{ job.modSlot 0 fun x => { x with deadline := 100 } with ns := 100 },
     bytes ce 0x2000 [1, 2] (flying (.clearRegion 0 2 3) job), { flying (.clearPage 0 2) job with pageTags := [(2, 1)] }]
theorem due_placing : dueAll placing := by
  repeat (first | exact trivial | refine ⟨by dsimp only [State.noneBefore]; decide +kernel, ?_⟩)
/-- A workgroup to place, and one to restore. -/
theorem due_workgroups :
    ((((gridJob id).slotAt 0).savedGroups = [] ∧ (gridJob id).nextDistributed = some 0) ∧
      ∃ u, (gridJob id).distribute 0 = some u) ∧
    let s := gridJob fun x => { x with savedGroups := [(0, { job := 0, x := 0, y := 0, z := 0, threads := 32, base := 0, units := 2, slots := [0] })] }
    (cardVision (s.slotAt 0).card = true ∧ (s.slotAt 0).savedGroups ≠ [] ∧ s.nextDistributed = some 0) ∧ ∃ u, s.distribute 0 = some u :=
  ⟨⟨by decide +kernel, Option.isSome_iff_exists.1 (by decide +kernel)⟩, by decide +kernel,
    Option.isSome_iff_exists.1 (by decide +kernel)⟩

/-- Events of a list from the n-th on, each with a state. -/
def after (n : Nat) (l : List Happening) (ss : List State) : List (Happening × State) := (l.drop n).zip ss
/-- A stream that has escalated: the matrix engine's of the job. -/
def escalated : State := onMe (fun c => { c with life := .escalated, handling := true }) job
/-- The router at which an endpoint attaches. -/
def routerOf (e : Nat) : Nat := ((endpointAt e).map (·.1)).getD 0
def sector : SectorReq := { part := 3, slot := none, pa := 0x5000, holds := true }
def invalidating : State := { State.reset with invalidating := some (1, 2, 3) }
def registers (v : DWord) : List Happening := registerEvents 0x1000 v 3 5 2 1 1 0x5000 sector .memory
def registering : List (Happening × State) :=
  after 0 (registers 0) [State.reset, State.reset] ++ after 2 (registers 0x100) [State.reset] ++
  after 3 (registers 0x200) [State.reset] ++ after 4 (registers 0) [invalidating] ++ after 5 (registers 0x100) [invalidating] ++
  after 6 (registers 0x200) [invalidating,
    { State.reset with
      invalidating := some (1, 5, 0x5000)
      tlbs := [(0, [{ part := 5, vpage := 5, ppage := 5, lg := 12, bits := 0, pte := 0, level := 3 }])] }] ++
  after 8 (registers 0x200)
    [{ (issuer ce [0]).modCtl ce 0 fun c =>
        { c with region := some { fallback := 0x4020, slots := [{ va := 0x5000, line := 0x50, snap := [], stale := false, pinned := false }] } } with
      invalidating := some (1, 5, 0x5000), slots := [(0, { slot 1 with card := (card 1).set 2 5 })] }] ++
  after 9 (registers 0x30000) [escalated] ++
  after 10 (registers 0x40030000) [escalated, job, issuer wv [0, 31],
    { State.reset with creg := [(escBase + 0x28, 8)] }, { State.reset with creg := [(escBase + 0x30, 8)] },
    flying (.sector sector) job] ++
  after 16 (registerEvents 0x1000 0 3 (routerOf (epSlice (homeSlice sector.pa))) 2 1 1 0x5000 sector .memory)
    [flying (.sector sector) { job with routing := [(50 * routerOf (epSlice (homeSlice sector.pa)) +
      routerOf (epController (controllerOf sector.pa)), 0)] }] ++
  after 17 (registers 0x40030000) [{ flying (.sector sector) job with
      island := { job.island with isolated := (endpointDomain (epController (controllerOf sector.pa))).toList } }] ++
  after 18 (registers 0x40030000) [{ State.reset with regulators := [(5, { window := 10, budget := 100, stop := 10000 })], ns := 10000 },
    State.reset, flying (.upset .memory 3) job]
/-- A frame for stream 3 that no stream, or stream 3, accepts. -/
def frame : Frame := { source := 1, port := 2, vc := 0, dt := 0, sid := 7, bytes := [1, 2, 3], seq := 1, capture := 5, bad := false }
def ingest (ctl buf : Nat) : State :=
  { State.reset with creg := [(ingReg 3 0, BitVec.ofNat 64 ctl), (ingReg 3 8, 7), (ingReg 3 0x18, BitVec.ofNat 64 buf)] }
def ingesting : List (Happening × State) :=
  after 0 (ingestEvents 3 1 frame) [ingest 0x23 0x400000040, ingest 0x23 0x300000040,
    flying (.frame frame) ((ingest 0x23 0x400000040).setCreg (ingReg 3 0x38) 1), flying (.frame frame) (ingest 0x23 0x400000040)]
/-- An engine that fetches at 0x4004 through the page tables. -/
def walking : State := code (issuer ce [0])
theorem due_registering : dueAll registering := by
  repeat (first | exact trivial | refine ⟨by first | trivial | (dsimp only; decide +kernel), ?_⟩)
theorem due_ingesting : dueAll ingesting := by
  refine ⟨?_, ?_, ?_, ?_, trivial⟩ <;> (dsimp only; decide +kernel)
theorem due_walk :
    walking.running ce 0 = true ∧ canonicalVa 0x4004 = true ∧ inAperture 0x4004 = false ∧
    walking.tlbLookup (walking.partOf ce 0) 0x4004 (tlbPath ce true 0x4004) = none ∧
    isOk (walking.walkInstall (walking.partOf ce 0) 0x4004 (tlbPath ce true 0x4004)) = true := by decide +kernel

def msg (k : MsgKind) : Msg := { kind := k, unit := 0x5000, grain := 0, part := 0, src := 2, dst := 31, addr := 0x5000, len := 8 }
/-- One event for a message of a kind on its way. -/
def home (n : Nat) (k : MsgKind) (s : State) : List (Happening × State) := after n (homeEvents 1 (msg k)) [flying (.msg (msg k)) s]
/-- The unit is held by a home operation. -/
def held : State :=
  { State.reset with
    flights := [(0, .home { kind := .read, unit := 0x5000, grain := 0, mtype := 0, part := 0, slot := none, agent := 3, addr := 0x5000,
                            len := 8, waiting := 1 }), (1, .msg (msg .putS))]
    nextId := 2 }
def heldPut (k : MsgKind) : State := { held with flights := held.flights.put 1 (.msg (msg k)) }
def carrying (k : MsgKind) : Msg := { msg k with bytes := [1] }
def homes : List (Happening × State) :=
  home 0 .getS .reset ++ home 1 .getM .reset ++ home 2 .upg .reset ++
  after 5 (homeEvents 1 (msg .putS)) [heldPut .putS] ++ after 8 (homeEvents 1 (msg .putM)) [heldPut .putM] ++
  after 11 (homeEvents 1 (msg .putO)) [heldPut .putO] ++
  home 12 .atomFar .reset ++ home 13 .homeRead .reset ++ home 14 .homeWrite .reset ++
  after 15 (homeEvents 1 (carrying .atomFar)) [flying (.msg (carrying .atomFar)) .reset] ++
  after 16 (homeEvents 1 (carrying .homeWrite)) [flying (.msg (carrying .homeWrite)) .reset] ++
  after 17 (homeEvents 1 (msg .recalled)) [{ held with flights := held.flights.put 1 (.msg { msg .recalled with op := 0 }) }]
/-- The directory names agent 2, which puts the unit, as its owner. -/
def entry (s : Nat) (u : Nat) : DirEnt := { unit := u, grain := 0, state := s, owner := some 2 }
def owned (k : MsgKind) : State := flying (.msg (msg k)) { State.reset with dir := [((dirWays 0x5000).headD 0, entry 2 0x5000)] }
def owners : List (Happening × State) :=
  after 3 (homeEvents 1 (msg .putS)) [owned .putS] ++ after 6 (homeEvents 1 (msg .putM)) [owned .putM] ++
  after 9 (homeEvents 1 (msg .putO)) [owned .putO]
/-- A message from the home to agent 2, which holds the unit in S. -/
def note (k : MsgKind) : Msg := { kind := k, unit := 0x5000, grain := 0, part := 0, src := 31, dst := 2, req := 3, addr := 0x5000 }
def caching (st : CState) (k : MsgKind) : State :=
  flying (.msg (note k)) { State.reset with caches := [(2 ^ 48 * 2 + 0x5000, { st := st })] }
def line : Line := { line := 0x50, part := 0, sectors := [{ filling := true, wmask := 3 }, {}, {}, {}] }
def lineKey : Nat := (lineWays 0x5000).headD 0
/-- One event for a message that arrives at agent 2. -/
def arrives (n : Nat) (st : CState) (k : MsgKind) : List (Happening × State) :=
  after n (cacheEvents 1 lineKey (routerOf (epSlice (homeSlice 0x5000))) (note k) line .reset) [caching st k]
def probing (n : Nat) (k : MsgKind) : List (Happening × State) :=
  after n (cacheEvents 1 0 0 (note k) line (((caching .s k).applyHomeOut 1 (note k)).getD .reset)) [caching .s k]
def toHome (k : MsgKind) : Msg := { note k with src := 2, dst := 31 }
def toNone (k : MsgKind) : Msg := { note k with dst := 40 }
def atHome' (n : Nat) (m : Msg) (s : State) : List (Happening × State) := after n (cacheEvents 1 0 0 m line .reset) [flying (.msg m) s]
def agents : List (Happening × State) :=
  atHome' 3 (toHome .data) .reset ++ arrives 4 .isD .data ++
  after 5 (cacheEvents 1 lineKey 0 (note .data) line .reset) [{ caching .isD .data with lines := [(lineKey, line)] }] ++
  arrives 6 .smAD .grant ++ arrives 7 .miA .putAck ++ arrives 8 .isD .nackMoved ++ arrives 9 .i .atomResp ++
  atHome' 10 (toNone .atomResp) .reset ++
  after 11 (cacheEvents 1 lineKey 0 (msg .fill) line .reset) [flying (.msg (msg .fill)) { State.reset with lines := [(lineKey, line)] }] ++
  after 12 (cacheEvents 1 0 (routerOf (epSlice (homeSlice 0x5000))) (note .grant) line .reset)
    [{ caching .smAD .grant with routing := [(50 * routerOf (epSlice (homeSlice 0x5000)) + routerOf 66, 0)] }] ++
  after 13 (cacheEvents 1 0 0 (note .grant) line .reset)
    [{ caching .smAD .grant with island := { State.reset.island with isolated := allDomains } }] ++
  atHome' 14 (toHome .invAck) .reset ++ arrives 15 .imA .invAck ++ atHome' 16 (toHome .probeMiss) .reset ++ arrives 17 .imA .probeMiss
def probes : List (Happening × State) := probing 0 .inv ++ probing 1 .fwdGetS ++ probing 2 .fwdGetM
/-- A message about a unit of package 1, for which this package's proxy is agent 30; some states also list a local copy. -/
def far (k : MsgKind) (src dst : Nat) : Msg := { kind := k, unit := 2 ^ 46 + 0x5000, grain := 0, part := 0, src := src, dst := dst }
def copied (s : State) : State :=
  { s with dir := [((dirWays (2 ^ 46 + 0x5000)).headD 0, { unit := 2 ^ 46 + 0x5000, grain := 0, state := 1, sharers := [2] })] }
def proxyOf (n : Nat) (m : Msg) (s : State) : List (Happening × State) :=
  after n (proxyEvents 1 m (((flying (.msg m) s).applyHomeOut 1 m).getD s)) [flying (.msg m) s]
/-- A home operation holds the unit. -/
def recalled (m : Msg) : State :=
  { State.reset with
    flights := [(0, .home { kind := .backInv, unit := m.unit, grain := 0, mtype := 0, part := 0, slot := none, agent := 31, addr := m.unit
                            len := 0, waiting := 1 }), (1, .msg m)]
    nextId := 2 }
def lost : State := { State.reset with failedLinks := [1] }
def proxies : List (Happening × State) :=
  proxyOf 0 (far .getS 2 31) .reset ++ proxyOf 1 (far .getM 2 31) .reset ++ proxyOf 2 (far .upg 2 31) .reset ++
  proxyOf 3 (far .homeRead 31 31) .reset ++ proxyOf 4 (far .homeWrite 31 31) .reset ++ proxyOf 5 (far .atomFar 2 31) .reset ++
  proxyOf 6 (far .inv 31 30) (copied .reset) ++ proxyOf 7 (far .fwdGetS 31 30) (copied .reset) ++
  proxyOf 8 (far .fwdGetM 31 30) (copied .reset) ++
  proxyOf 9 (far .data 31 30) { State.reset with caches := [(2 ^ 48 * 30 + 2 ^ 46 + 0x5000, { st := .isD })] } ++
  proxyOf 10 { far .homeRead 31 31 with mtype := 1 } .reset ++ proxyOf 11 { far .inv 31 28 with unit := 0x5000 } .reset ++
  after 12 (proxyEvents 1 (far .inv 31 30) .reset) [recalled (far .inv 31 30)] ++ proxyOf 13 (far .inv 31 30) .reset ++
  after 14 (proxyEvents 1 (far .fwdGetS 31 30) .reset) [recalled (far .fwdGetS 31 30)] ++ proxyOf 15 (far .fwdGetS 31 30) .reset ++
  after 16 (proxyEvents 1 (far .fwdGetM 31 30) .reset) [recalled (far .fwdGetM 31 30)] ++ proxyOf 17 (far .fwdGetM 31 30) .reset
def leaving : List (Happening × State) :=
  proxyOf 18 (far .getS 30 31) .reset ++ proxyOf 19 (far .getS 30 31) lost ++ proxyOf 20 (far .getM 30 31) .reset ++
  proxyOf 21 (far .getM 30 31) lost ++ proxyOf 22 (far .upg 30 31) .reset ++ proxyOf 23 (far .upg 30 31) lost ++
  proxyOf 24 (far .putS 30 31) (copied .reset) ++ proxyOf 25 (far .putS 30 31) .reset ++ proxyOf 26 (far .putS 30 31) lost ++
  proxyOf 27 (far .putM 30 31) (copied .reset) ++ proxyOf 28 (far .putM 30 31) .reset ++ proxyOf 29 (far .putM 30 31) lost ++
  proxyOf 30 (far .putO 30 31) (copied .reset) ++ proxyOf 31 (far .putO 30 31) .reset ++ proxyOf 32 (far .putO 30 31) lost
/-- A migration of some bytes from 0x5000 to 0x6000 begins, or copies a byte of it; the directory names OLD's unit, or none. -/
def migrating (size : Nat) (off : Option Nat) (known : Bool) : State :=
  { State.reset with
    creg := [(migBase, 0x5000), (migBase + 8, 0x6000), (migBase + 16, BitVec.ofNat 64 size), (migBase + 24, 1)]
    migrated := match off with | none => [] | some o => [(0, o)]
    dir := if known then [((dirWays 0x5040).headD 0, entry 2 0x5040)] else [] }
def packages : List (Happening × State) :=
  after 0 (packageEvents 3 0 64 (entry 2 0x5040)) [{ State.reset with dirty := [(3 * 2 ^ 46 + 64, 1)] }, migrating 65 none false,
    migrating 0 none false, migrating 65 (some 64) true, migrating 65 (some 64) false]
theorem due_homes : dueAll homes := by
  repeat (first | exact trivial | refine ⟨by dsimp only [arrival, State.comes, State.travels, State.underWay]; decide +kernel, ?_⟩)
theorem due_owners : dueAll owners := by
  refine ⟨?_, ?_, ?_, trivial⟩ <;>
    exact ⟨by dsimp only [State.comes, State.travels, State.underWay]; decide +kernel, by decide +kernel,
      (dirWays 0x5000).headD 0, entry 2 0x5000, by decide +kernel, by decide +kernel, by decide +kernel⟩
/-- It names none. -/
def strangers : List (Happening × State) := home 4 .putS .reset ++ home 7 .putM .reset ++ home 10 .putO .reset
theorem unowned {s : State} {u g : Nat} {p : Nat → DirEnt → Prop} (h : s.dirFind u g = none) :
    ¬ ∃ k e, s.dirFind u g = some (k, e) ∧ p k e := by
  rintro ⟨k, e, h1, -⟩
  rw [h] at h1
  cases h1
theorem due_strangers : dueAll strangers := by
  refine ⟨?_, ?_, ?_, trivial⟩ <;>
    exact ⟨by dsimp only [State.comes, State.travels, State.underWay]; decide +kernel, by decide +kernel, unowned (by decide +kernel)⟩
theorem due_agents : dueAll agents := by
  repeat (first | exact trivial | refine ⟨by dsimp only [arrival, State.comes, State.travels, State.underWay]; decide +kernel, ?_⟩)
theorem due_probes :
    (caching .s .inv).comes 1 (note .inv) .inv ∧ (caching .s .inv).sentBefore 1 (note .inv) = false ∧
    (∃ u, (caching .s .inv).applyHomeOut 1 (note .inv) = some u) ∧ (caching .s .fwdGetM).comes 1 (note .fwdGetM) .fwdGetM ∧
    ∃ u, (caching .s .fwdGetM).applyHomeOut 1 (note .fwdGetM) = some u := by
  refine ⟨?_, by decide +kernel, Option.isSome_iff_exists.1 (by decide +kernel), ?_, Option.isSome_iff_exists.1 (by decide +kernel)⟩ <;>
    (dsimp only [State.comes, State.travels, State.underWay]; decide +kernel)
theorem due_proxies : dueAll proxies := by
  repeat (first | exact trivial | refine ⟨by dsimp only [arrival, State.comes, State.travels, State.underWay]; decide +kernel, ?_⟩)
theorem due_leaving : dueAll leaving := by
  repeat (first | exact trivial | refine ⟨by dsimp only [State.travels, State.underWay]; decide +kernel, ?_⟩)
theorem due_packages : dueAll packages := by
  refine ⟨?_, ?_, ?_, ?_, ?_, trivial⟩ <;> (dsimp only; decide +kernel)

def isl (f : Island → Island) : State := { State.reset with island := f State.reset.island }
/-- A monitor whose limits are -5 and 5. -/
def limited : State := State.reset.setCreg (dspBase + 0x8500 + 8 * 84) 0x00000005FFFFFFFB
def stage (n : Nat) : State := isl fun i => { i with phase := 1, stage := n }
def restarting : State := isl fun i => { i with restarting := true, queue := [(1, 2)], current := some (0, 3) }
def islands : List (Happening × State) :=
  after 0 (islandEvents 0x1041 84 0x1040 6 true) [.reset] ++ after 7 (islandEvents 0x1041 84 0x1040 6 true) [stage 5, stage 5, stage 6,
    restarting, job, isl fun i => { i with lserr := 255 }, restarting, isl fun i => { i with siErr := true }, .reset,
    isl fun i => { i with attest := some 0x1040 }] ++
  after 17 (islandEvents 300 84 0x1040 (-6) true) [.reset, limited] ++ after 19 (islandEvents 300 84 0x1040 6 true) [limited] ++
  after 20 (islandEvents 300 84 0x1040 5 true) [limited] ++ after 21 (islandEvents 300 39 0x1040 125000 true) [job, restarting,
    job.setCreg (dspBase + 0x8100 + 8 * 39) 125000]
/-- Whether the images are good is no value of the model's: the stages that check them, where they are and where they are not. -/
theorem due_images (ok : Bool) :
    let l := islandEvents 0 0 0 0 ok
    (imageOk 1 (Config.image 1) = true → dueAll (after 1 (l.take 2) [stage 0])) ∧
    (¬ imageOk 1 (Config.image 1) = true → dueAll (after 2 (l.take 3) [stage 0])) ∧
    (imageOk 2 (Config.image 2) = true → imageOk 3 (Config.image 3) = true → imageOk 4 (Config.image 4) = true →
      dueAll (after 3 (l.take 4) [stage 1])) ∧
    (¬ imageOk 2 (Config.image 2) = true → dueAll (after 4 (l.take 5) [stage 1])) ∧
    (imageOk 2 (Config.image 2) = true → ¬ imageOk 3 (Config.image 3) = true → dueAll (after 5 (l.take 6) [stage 1])) ∧
    (imageOk 2 (Config.image 2) = true → imageOk 3 (Config.image 3) = true → ¬ imageOk 4 (Config.image 4) = true →
      dueAll (after 6 (l.take 7) [stage 1])) := by
  have h (n : Nat) (hn : n < 2) : (stage n).island.phase = 1 ∧ (stage n).island.restarting = false ∧ (stage n).island.stage = n :=
    ⟨rfl, rfl, rfl⟩
  exact ⟨fun a => ⟨⟨h 0 (by decide), a⟩, trivial⟩, fun a => ⟨⟨h 0 (by decide), a⟩, trivial⟩,
    fun a b c => ⟨⟨h 1 (by decide), a, b, c⟩, trivial⟩, fun a => ⟨⟨h 1 (by decide), a⟩, trivial⟩,
    fun a b => ⟨⟨h 1 (by decide), a, b⟩, trivial⟩, fun a b c => ⟨⟨h 1 (by decide), a, b, c⟩, trivial⟩⟩
def restarts : List (Happening × State) :=
  after 0 (restartEvents 63 0 63 [(1, 2)]) [.reset, isl fun i => { i with queue := List.replicate 8 (0, 1) }, .reset,
    isl fun i => { i with queue := [(0, 63), (1, 2)] }, isl fun i => { i with current := some (0, 63), isolated := [(0, 63)] }]
theorem due_islands : dueAll islands := by
  repeat (first | exact trivial | refine ⟨by first | trivial | (dsimp only; decide +kernel), ?_⟩)
theorem due_restarts : dueAll restarts := by
  refine ⟨?_, ?_, ?_, ?_, ?_, trivial⟩ <;> (dsimp only; decide +kernel)

/-! ### Single steps, whose results the spec gives -/

/-- An instruction answers a next state with a property. -/
def gives (i : Instr) (s : State) (p : State → Bool) : Bool := match exec i s with | .next t => p t | _ => false

/-- A control engine with s4 and s5. -/
def two (a b : Nat) : State := scalars ce [(4, a), (5, b)] (issuer ce [0])
/-- s6 afterwards. -/
def six (v : Nat) (t : State) : Bool := t.sget ce 6 == BitVec.ofNat 64 v

/-- R161: sums are mod 2^64, and the high half of a signed product is signed. -/
theorem test_add_wraps : gives (.add 6 4 5 0) (two (2 ^ 64 - 1) 2) (six 1) = true := by decide +kernel
theorem test_sub_order : gives (.sub 6 4 5 0) (two 3 5) (six (2 ^ 64 - 2)) = true := by decide +kernel
theorem test_mulh_signed : gives (.mulh 6 4 5 0) (two (2 ^ 64 - 1) 1) (six (2 ^ 64 - 1)) = true := by decide +kernel
theorem test_mulhu_unsigned : gives (.mulhu 6 4 5 0) (two (2 ^ 64 - 1) 2) (six 1) = true := by decide +kernel
/-- R161: bits 63:6 of an amount are ignored. -/
theorem test_shl_amount : gives (.shl 6 4 5 0) (two 1 65) (six 2) = true := by decide +kernel
theorem test_sra_sign : gives (.sra 6 4 5 0) (two (2 ^ 63) 63) (six (2 ^ 64 - 1)) = true := by decide +kernel
/-- R161: the destination selects, and is also where the result goes. -/
theorem test_sel : gives (.sel 4 5 6 0) (two 0 7) (fun t => t.sget ce 4 == 7) = false ∧
    gives (.sel 4 5 6 0) (two 1 7) (fun t => t.sget ce 4 == 7) = true := by decide +kernel
/-- R162: quotient and remainder at the boundaries; an exact quotient is cut towards zero. -/
theorem test_div_by_zero : gives (.div 6 4 5 0) (two 9 0) (six (2 ^ 64 - 1)) = true ∧ gives (.remu 6 4 5 0) (two 9 0) (six 9) = true := by
  decide +kernel
theorem test_div_overflow : gives (.div 6 4 5 0) (two (2 ^ 63) (2 ^ 64 - 1)) (six (2 ^ 63)) = true ∧
    gives (.rem 6 4 5 0) (two (2 ^ 63) (2 ^ 64 - 1)) (six 0) = true := by decide +kernel
theorem test_div_truncates : gives (.div 6 4 5 0) (two (2 ^ 64 - 7) 2) (six (2 ^ 64 - 3)) = true ∧
    gives (.rem 6 4 5 0) (two (2 ^ 64 - 7) 2) (six (2 ^ 64 - 1)) = true := by decide +kernel
/-- R163: the immediate is signed. R164: `li s20, 0x100` and `lsi s20, 0` leave 0x0040_0000. -/
theorem test_addi_signed : gives (.addi 6 4 0x20 0) (two 1 0) (six (2 ^ 64 - 31)) = true := by decide +kernel
theorem test_li_lsi : gives (.li 6 0x100 0) (two 0 0)
    (fun t => gives (.lsi 6 0 0) t (six 0x400000)) = true := by decide +kernel
/-- R165. -/
theorem test_bswap : gives (.bswap 6 4 0) (two 0x0102030405060708 0) (six 0x0807060504030201) = true := by decide +kernel
theorem test_clz_ctz_zero : gives (.clz 6 4 0) (two 0 0) (six 64) = true ∧ gives (.ctz 6 4 0) (two 0 0) (six 64) = true := by decide +kernel

/-- Threads 3 and 5 of a wave; v1 and v2 in every lane. -/
def pair3 (f h : Nat → Nat) : State := lanes wv [(1, f), (2, h)] (issuer wv [3, 5])
def lane8 (l v : Nat) (t : State) : Bool := t.lget wv 8 l == BitVec.ofNat 32 v
/-- Only the threads that execute are written (R144). -/
theorem test_lane_add : gives (.addLane 8 1 2 0) (pair3 (fun l => 2 ^ 32 - l) fun _ => 4)
    (fun t => lane8 3 1 t && lane8 5 (2 ^ 32 - 1) t && lane8 4 0 t) = true := by decide +kernel
/-- R172 with R27: 1 + 2^-24 is halfway, and goes to the even value, 1, with NX (bit 0 of the flags, R24). -/
theorem test_fadd_rounds_even : gives (.fadd 8 1 2 0 0) (pair3 (fun _ => 0x3F800000) fun _ => 0x33800000)
    (fun t => lane8 3 0x3F800000 t) = true := by decide +kernel
/-- R173: a NaN compares equal to nothing, and `un` holds of it. -/
theorem test_fcmp_nan : gives (.fcmp 0 1 1 2 0 0) (pair3 (fun _ => 0x7FC00000) fun _ => 0x7FC00000)
    (fun t => !t.pget wv 1 3) = true ∧
    gives (.fcmp 7 1 1 2 0 0) (pair3 (fun _ => 0x7FC00000) fun _ => 0x7FC00000) (fun t => t.pget wv 1 3) = true := by decide +kernel
/-- R176: a source past the end gives 0 and a clear validity bit; a positive amount reads lower lanes. -/
theorem test_xli_sh : gives (.xliSh 8 1 4 0) (pair3 (fun l => 100 + l) fun _ => 0)
    (fun t => lane8 3 0 t && !t.pget wv 7 3 && lane8 5 101 t && t.pget wv 7 5) = true := by decide +kernel
/-- R177: the lowest active lane, zero-extended; the ballot of active lanes; the exact signed sum. -/
theorem test_rfal : gives (.rfal 6 1 0) (pair3 (fun l => 2 ^ 32 - l) fun _ => 0) (fun t => t.sget wv 6 == 0xFFFFFFFD) = true := by
  decide +kernel
theorem test_ballot : gives (.ballot 6 0 0) (pair3 (fun _ => 0) fun _ => 0) (fun t => t.sget wv 6 == 0x28) = true := by decide +kernel
theorem test_vredadd : gives (.vredadd 6 1 0) (pair3 (fun _ => 2 ^ 31) fun _ => 0) (fun t => t.sget wv 6 == 0xFFFFFFFF00000000) = true := by
  decide +kernel

/-- R327: an atomic answers the old value and stores the new one. -/
theorem test_atom_add : gives (.atomAdd 6 4 5 0) (bytes ce 0x7FFF8 [0xFF, 0xFF, 0xFF, 0xFF] (two (ap + 0x7FFF8) 2))
    (fun t => six 0xFFFFFFFF t && t.locRead (locKey 0 0x7FFF8) 8 == 0x100000001) = true := by decide +kernel
/-- R343: the last arrival answers the old phase, flips it, and starts the count again. -/
theorem test_bar_arrive : gives (.barArrive 5 3 0) barrier
    (fun t => t.sget le 5 == 0 && t.locRead (locKey 0 0x7FFF0) 8 == 0x8000000000000007) = true := by decide +kernel
/-- R189: a claim takes slot TAIL mod COUNT, FILLING; a full ring answers all ones. -/
theorem test_rclaim : gives (.rclaim 6 3 0) (ring { head := 2, tail := 3 } (issuer ce [0]))
    (fun t => six (ap + 0x240) t && (t.ringAt 0 3).tail == 4) = true := by decide +kernel
theorem test_rclaim_full : gives (.rclaim 6 3 0) (ring { head := 1, tail := 3 } (issuer ce [0]))
    (fun t => six (2 ^ 64 - 1) t && (t.ringAt 0 3).tail == 3) = true := by decide +kernel
/-- R121, R373, R375 to R378: `trap 5` has cause 0x45 of class 1; the record in the save image holds the header, the return address
after the word, and the word's own address (R121 puts the image of this job at 0x68000); the handler starts at its header. -/
theorem test_trap : gives (.trap 5 0) (issuer ce [0] 4) (fun t =>
    (t.ctlAt ce 0).handling && (t.ctlAt ce 0).pc == 0x4000 && t.locRead (locKey 0 0x6AC00) 8 == 0x4000 &&
      t.locRead (locKey 0 0x6AC08) 8 == 0x4008 && t.locRead (locKey 0 0x6AC18) 8 == 0x4004 &&
      t.locRead (locKey 0 0x6AC20) 8 == 0x145) = true := by decide +kernel
/-- R376: a return address that is a header is HDR too. -/
theorem test_trap_last : gives (.trap 5 0) (issuer ce [0]) (fun t => t.locRead (locKey 0 0x6AC00) 8 == 0x4008) = true := by
  decide +kernel

end Sys2Proof.Tests

end
end

section
/-! PROOFS. What loads and stores do to the bytes of their place (R15, R281, R285). The bytes themselves stand in a few fields of the state,
which the caches, the messages and the homes leave alone. -/

namespace Sys2Proof.Machine

/-! ### Tables -/

theorem Tab.find_filter_key {β : Type} (q : Nat → Bool) (t : Tab β) (k : Nat) :
    Tab.find (t.filter fun e => q e.1) k = if q k then t.find k else none := by
  induction t with
  | nil => simp
  | cons e t ih =>
    by_cases hk : e.1 = k
    · cases hq : q e.1 <;> simp_all [Tab.find]
    · cases hq : q e.1 <;> simp [Tab.find, hq, hk, ih]

theorem Tab.find_of_below {β : Type} {t : Tab β} {k : Nat} (h : ∀ e ∈ t, k < e.1) : t.find k = none := by
  induction t with
  | nil => rfl
  | cons e t ih =>
    obtain ⟨he, ht⟩ := List.forall_mem_cons.1 h
    rw [Tab.find, if_neg (by omega), ih ht]

/-- Entries of a table set one after another: each listed key reads as its entry. -/
theorem Tab.get_foldl_set {β : Type} [DecidableEq β] (d : β) {t : Tab β} (h : t.sorted) (m : Tab β) (k : Nat) :
    Tab.get d (t.foldl (fun m e => Tab.set d m e.1 e.2) m) k = (t.find k).getD (m.get d k) := by
  induction t generalizing m with
  | nil => rfl
  | cons e t ih =>
    obtain ⟨hlt, ht⟩ := List.pairwise_cons.1 h
    rw [List.foldl_cons, ih ht, Tab.get_set, Tab.find]
    by_cases hk : e.1 = k
    · rw [if_pos hk, if_pos hk.symm, Tab.find_of_below fun f hf => hk ▸ hlt f hf]
      rfl
    · rw [if_neg hk, if_neg (Ne.symm hk)]

/-! ### Bytes of a number -/

@[simp] theorem leBytes_length (n v : Nat) : (leBytes n v).length = n := by
  induction n generalizing v with
  | zero => rfl
  | succ n ih => rw [leBytes, List.length_cons, ih]

theorem leBytes_getD {n i : Nat} (h : i < n) (v : Nat) : (leBytes n v).getD i 0 = BitVec.ofNat 8 (v / 256 ^ i) := by
  induction n generalizing i v with
  | zero => omega
  | succ n ih =>
    cases i with
    | zero => simp [leBytes]
    | succ i => rw [leBytes, List.getD_cons_succ, ih (by omega), Nat.div_div_eq_div_mul, Nat.pow_succ']

/-! ### What stands where -/

/-- The fields of a state that say which byte stands at an address, and what its agents have stored. -/
structure Contents where
  mem : Tab Byte
  dirty : Tab Byte
  loc : Tab Byte
  migrated : Tab Nat
  creg : Tab DWord
  aliases : Tab (List OwnStore)

def State.contents (s : State) : Contents :=
  { mem := s.mem, dirty := s.dirty, loc := s.loc, migrated := s.migrated, creg := s.creg, aliases := s.aliases }

theorem State.settled_of_contents {s t : State} (h : t.contents = s.contents) (a : Nat) : t.settled a = s.settled a := by
  have hmig : t.migrated = s.migrated := congrArg Contents.migrated h
  have hcreg : t.creg = s.creg := congrArg Contents.creg h
  unfold State.settled State.creg_
  rw [hmig, hcreg]

theorem State.byteAt_of_contents {s t : State} (h : t.contents = s.contents) (a : Nat) : t.byteAt a = s.byteAt a := by
  have hmem : t.mem = s.mem := congrArg Contents.mem h
  have hdirty : t.dirty = s.dirty := congrArg Contents.dirty h
  rw [State.byteAt, State.settled_of_contents h, hmem, hdirty, State.byteAt]

theorem State.loc_of_contents {s t : State} (h : t.contents = s.contents) : t.loc = s.loc :=
  congrArg Contents.loc h

theorem State.aliases_of_contents {s t : State} (h : t.contents = s.contents) : t.aliases = s.aliases :=
  congrArg Contents.aliases h

/-- Where no page migrates, a byte is its newer copy, or external memory's (R281). -/
theorem State.byteAt_settled (s : State) (h : s.migrated = []) (a : Nat) :
    s.byteAt a = (s.dirty.find a).getD (s.mem.get 0 a) := by
  rw [State.byteAt, s.settled_of_none a h]

/-! ### The caches and the homes leave every byte where it is -/

@[simp] theorem State.setCache_contents (s : State) (agent unit grain : Nat) (c : CUnit) :
    (s.setCache agent unit grain c).contents = s.contents := by
  unfold State.setCache
  split <;> rfl

@[simp] theorem State.send_contents (s : State) (m : Msg) : (s.send m).contents = s.contents := rfl

@[simp] theorem State.loseWatch_contents (s : State) (agent lo n : Nat) : (s.loseWatch agent lo n).contents = s.contents := by
  unfold State.loseWatch
  split <;> rfl

@[simp] theorem State.evictUnit_contents (s : State) (agent : Nat) (e : Nat × CUnit) :
    (s.evictUnit agent e).contents = s.contents := by
  unfold State.evictUnit
  split
  · rfl
  · simp

@[simp] theorem State.evictOne_contents (s : State) (agent : Nat) : (s.evictOne agent).contents = s.contents := by
  unfold State.evictOne
  dsimp only
  split
  · rfl
  · exact foldl_same State.contents _ (fun t e => t.evictUnit_contents agent e) _ s

@[simp] theorem State.makeRoom_contents (s : State) (agent unit grain k : Nat) :
    (s.makeRoom agent unit grain k).contents = s.contents := by
  induction k generalizing s with
  | zero => rfl
  | succ k ih =>
    rw [State.makeRoom]
    split
    · rfl
    · rw [ih, State.evictOne_contents]

@[simp] theorem State.predictUpdate_contents (s : State) (agent pa : Nat) (b : Bool) :
    (s.predictUpdate agent pa b).contents = s.contents := rfl

@[simp] theorem State.cacheAccess_contents (s : State) (agent pa grain part : Nat) (slot : Option Nat) (store : Bool)
    (atomic : Option Nat) : (s.cacheAccess agent pa grain part slot store atomic).contents = s.contents := by
  unfold State.cacheAccess
  dsimp only
  split
  case h_1 =>
    split
    · exact s.makeRoom_contents _ _ _ 4
    · split <;> simp
  case h_8 => exact s.setCache_contents ..
  all_goals split <;> simp

@[simp] theorem State.noteAccess_contents (s : State) (agent ep pa n mtype grain part : Nat) (slot : Option Nat) (write : Bool)
    (undo : List (Nat × Byte × Byte)) :
    (s.noteAccess agent ep pa n mtype grain part slot write undo).contents = s.contents := by
  unfold State.noteAccess
  split
  · exact s.cacheAccess_contents ..
  · rfl

@[simp] theorem State.cleanSector_contents (s : State) (agent : Nat) (p : Place) : (s.cleanSector agent p).contents = s.contents := by
  unfold State.cleanSector
  split
  · rfl
  · split <;> rfl

/-! ### Newer copies written back -/

/-- Data written back is the byte that its address gave before (R300). -/
theorem State.writeBack_byteAt (s : State) (lo n a : Nat) (hm : s.migrated = []) (hd : s.dirty.sorted) :
    (s.writeBack lo n).byteAt a = s.byteAt a := by
  have hs : Tab.sorted (s.dirty.filter fun e => lo ≤ e.1 && e.1 < lo + n) := List.Pairwise.filter _ hd
  rw [s.byteAt_settled hm, (s.writeBack lo n).byteAt_settled hm]
  simp only [State.writeBack]
  rw [Tab.get_foldl_set 0 hs, Tab.find_filter_key (fun k => !(lo ≤ k && k < lo + n)),
    Tab.find_filter_key (fun k => lo ≤ k && k < lo + n)]
  cases hin : (decide (lo ≤ a) && decide (a < lo + n)) <;> simp

theorem State.recallFor_byteAt (s : State) (pa mtype grain a : Nat) (hm : s.migrated = []) (hd : s.dirty.sorted) :
    (s.recallFor pa mtype grain).byteAt a = s.byteAt a := by
  unfold State.recallFor
  split
  · rfl
  · exact s.writeBack_byteAt _ _ a hm hd

/-- An uncached access recalls data alone (R401). -/
theorem State.recallFor_rest (s : State) (pa mtype grain : Nat) :
    (s.recallFor pa mtype grain).migrated = s.migrated ∧ (s.recallFor pa mtype grain).loc = s.loc ∧
      (s.recallFor pa mtype grain).aliases = s.aliases := by
  unfold State.recallFor
  split <;> exact ⟨rfl, rfl, rfl⟩

/-! ### Stores -/

@[simp] theorem State.extWrite_loc (s : State) (pa : Nat) (bs : List Byte) : (s.extWrite pa bs).loc = s.loc := by
  induction bs generalizing s pa with
  | nil => rfl
  | cons b bs ih => rw [State.extWrite, ih]

@[simp] theorem State.physWrite_loc (s : State) (pa : Nat) (bs : List Byte) : (s.physWrite pa bs).loc = s.loc := by
  induction bs generalizing s pa with
  | nil => rfl
  | cons b bs ih => rw [State.physWrite, ih]

theorem State.locWriteRaw_byteAt (s : State) (k a : Nat) (bs : List Byte) :
    (s.locWriteRaw k bs).byteAt a = s.byteAt a := by
  induction bs generalizing s k with
  | nil => rfl
  | cons b bs ih => rw [State.locWriteRaw, ih]; rfl

theorem State.locWrite_byteAt (s : State) (k a : Nat) (bs : List Byte) : (s.locWrite k bs).byteAt a = s.byteAt a :=
  s.locWriteRaw_byteAt k a bs

/-- A byte written to external memory itself is the one found there, whatever newer copy stood (R401). -/
theorem State.byteAt_setMem (s : State) (pa a : Nat) (b : Byte) (h : s.migrated = []) :
    State.byteAt { s with mem := s.mem.set 0 (s.settled pa) b, dirty := s.dirty.del (s.settled pa) } a =
      if a = pa then b else s.byteAt a := by
  rw [s.byteAt_settled h, State.byteAt_settled _ (by exact h), s.settled_of_none pa h]
  by_cases ha : a = pa
  · simp [ha]
  · simp [ha, Tab.find_del_other _ ha, Tab.get_set_other _ _ _ ha]

/-- A byte after a write to external memory itself, where no page migrates. -/
theorem State.extWrite_byteAt (s : State) (pa a : Nat) (bs : List Byte) (h : s.migrated = []) :
    (s.extWrite pa bs).byteAt a = if pa ≤ a ∧ a < pa + bs.length then bs.getD (a - pa) 0 else s.byteAt a := by
  induction bs generalizing s pa with
  | nil => rw [if_neg (by simp)]; rfl
  | cons b bs ih =>
    rw [State.extWrite, ih _ _ (by exact h), State.byteAt_setMem s pa a b h, List.length_cons]
    rcases Nat.lt_trichotomy a pa with hlt | rfl | hgt
    · rw [if_neg (by omega), if_neg (by omega), if_neg (by omega)]
    · rw [if_neg (by omega), if_pos rfl, if_pos (by omega), Nat.sub_self, List.getD_cons_zero]
    · have hsub : a - pa = (a - (pa + 1)) + 1 := by omega
      have hrange : pa + 1 ≤ a ∧ a < pa + 1 + bs.length ↔ pa ≤ a ∧ a < pa + (bs.length + 1) := by omega
      rw [hsub, List.getD_cons_succ, if_neg (show ¬a = pa by omega)]
      simp only [hrange]

/-- A store to memory writes its bytes into external memory itself or as newer data, once the caches have given up what an
uncached access recalls (R281, R310, R401). -/
theorem State.placeStore_phys (s : State) (writer : Option Nat) (pa mtype grain part : Nat) (bs : List Byte) :
    ∃ (t : State) (through : Bool), t.contents = (s.recallFor pa mtype grain).contents ∧
      s.placeStore writer (.phys pa mtype grain part) bs = if through then t.extWrite pa bs else t.physWrite pa bs := by
  have hclean (r : State) (agent : Nat) (whole : Bool) :
      (if whole then r.cleanSector agent (.phys pa mtype grain part) else r).contents = r.contents := by
    split
    · exact r.cleanSector_contents ..
    · rfl
  cases writer <;> exact ⟨_, _, hclean ((s.recallFor pa mtype grain).markStale _ pa grain) _ _, rfl⟩

/-- A byte of memory after a store there by any way: one of those stored, or what stood there. -/
theorem State.placeStore_byteAt (s : State) (writer : Option Nat) (pa mtype grain part a : Nat) (bs : List Byte)
    (hm : s.migrated = []) (hd : s.dirty.sorted) :
    (s.placeStore writer (.phys pa mtype grain part) bs).byteAt a =
      if pa ≤ a ∧ a < pa + bs.length then bs.getD (a - pa) 0 else s.byteAt a := by
  obtain ⟨t, through, hc, heq⟩ := s.placeStore_phys writer pa mtype grain part bs
  have hmt : t.migrated = [] :=
    (congrArg Contents.migrated hc).trans ((s.recallFor_rest pa mtype grain).1.trans hm)
  rw [heq, ← s.recallFor_byteAt pa mtype grain a hm hd, ← State.byteAt_of_contents hc]
  split
  · exact t.extWrite_byteAt pa a bs hmt
  · exact t.physWrite_byteAt pa a bs hmt

theorem State.placeStore_phys_loc (s : State) (writer : Option Nat) (pa mtype grain part : Nat) (bs : List Byte) :
    (s.placeStore writer (.phys pa mtype grain part) bs).loc = s.loc := by
  obtain ⟨t, through, hc, heq⟩ := s.placeStore_phys writer pa mtype grain part bs
  have ht : t.loc = s.loc := (State.loc_of_contents hc).trans (s.recallFor_rest pa mtype grain).2.1
  rw [heq]
  split
  · exact (t.extWrite_loc pa bs).trans ht
  · exact (t.physWrite_loc pa bs).trans ht

/-- A store puts its bytes at its place and leaves every other byte alone. -/
theorem State.placeStore_bytes (s : State) (writer : Option Nat) (p : Place) (bs : List Byte) (hm : s.migrated = [])
    (hd : s.dirty.sorted) :
    (∀ i < bs.length, placeByte (s.placeStore writer p bs) p i = bs.getD i 0) ∧
      s.sameBut (s.placeStore writer p bs) p bs.length := by
  cases p with
  | loc k =>
    refine ⟨fun i hi => ?_, fun a => s.locWrite_byteAt k a bs, fun j hj => ?_⟩
    · exact (s.locWrite_get k (k + i) bs).trans (by rw [if_pos (by omega), Nat.add_sub_cancel_left])
    · exact (s.locWrite_get k j bs).trans (if_neg (by omega))
  | phys pa mtype grain part =>
    refine ⟨fun i hi => ?_, fun a ha => ?_, fun j => ?_⟩
    · exact (s.placeStore_byteAt writer pa mtype grain part (pa + i) bs hm hd).trans
        (by rw [if_pos (by omega), Nat.add_sub_cancel_left])
    · exact (s.placeStore_byteAt writer pa mtype grain part a bs hm hd).trans (if_neg (by omega))
    · rw [s.placeStore_phys_loc]

theorem State.errInject_unarmed (s : State) (addr : Nat) (bs : List Byte)
    (h : bit (s.creg_ (s.errReg (addr / 2 ^ 46))) 63 = false) : s.errInject addr bs = (s, bs) := by
  simp only [State.errInject, h, Bool.false_and, Bool.false_eq_true, if_false]

/-- A store over a Kolte port stores its own bytes where no error injection is armed (R397). -/
theorem State.sendStore_unarmed (s : State) (writer : Option Nat) (p : Place) (bs : List Byte)
    (h : ∀ q, q ≠ s.pkg → bit (s.creg_ (s.errReg q)) 63 = false) : s.sendStore writer p bs = s.placeStore writer p bs := by
  cases p with
  | loc k => rfl
  | phys pa mtype grain part =>
    by_cases hpkg : pa / 2 ^ 46 = s.pkg
    · simp only [State.sendStore, hpkg, bne_self_eq_false, Bool.false_and, Bool.false_eq_true, if_false]
    · simp only [State.sendStore, s.errInject_unarmed pa bs (h _ hpkg), ite_self]

/-- What a store does to the caches and the homes changes no byte. -/
theorem State.placeWrite_contents (s : State) (writer slot : Option Nat) (ep : Nat) (p : Place) (bs : List Byte) :
    (s.placeWrite writer slot ep p bs).contents = (s.sendStore writer p bs).contents := by
  unfold State.placeWrite
  cases p with
  | loc k => rfl
  | phys pa mtype grain part => exact State.noteAccess_contents ..

/-! ### The agent's own stores (R294) -/

/-- An access with no store of its agent through another address at its place need wait behind none. -/
theorem openStores_of_sameWay {l : List OwnStore} {va pa n : Nat} (device : Bool)
    (h : ∀ x ∈ l, x.pa < pa + n → pa < x.pa + x.before.length → x.va + pa = va + x.pa) : openStores l va pa n device = [] := by
  refine List.foldlRecOn (motive := fun acc => acc = []) _ _ rfl fun acc hacc x hx => ?_
  by_cases hmeet : x.1.meets pa n = true
  · have hin : x.1.pa < pa + n ∧ pa < x.1.pa + x.1.before.length := by simpa [OwnStore.meets] using hmeet
    have hway : x.1.sameWay va pa = true := beq_iff_eq.2 (h x.1 (List.fst_mem_of_mem_zipIdx hx) hin.1 hin.2)
    simp [hmeet, hway]
  · simp [hmeet, hacc]

theorem State.placeRead_eq (s : State) (p : Place) (n : Nat) :
    s.placeRead p n = leNat ((List.range n).map (placeByte s p)) := by
  cases p <;> rfl

theorem State.loadValue_of_unaliased {s : State} {who va n : Nat} {p : Place} (h : s.unaliased who va p n) :
    s.loadValue who va p n = (s, s.placeRead p n) := by
  cases p with
  | loc k => rfl
  | phys pa mtype grain part => simp only [State.loadValue, openStores_of_sameWay _ h]

/-- An unaliased store stores its bytes as they are, and is noted. -/
theorem State.storeBytes_of_unaliased {s : State} {who va : Nat} {p : Place} {bs : List Byte}
    (h : s.unaliased who va p bs.length) : ∃ own, s.storeBytes who va p bs = ({ s with aliases := own }, bs) := by
  cases p with
  | loc k => exact ⟨s.aliases, rfl⟩
  | phys pa mtype grain part =>
    refine ⟨(s.ownWrite who va (.phys pa mtype grain part) bs.length).aliases, ?_⟩
    simp only [State.storeBytes, openStores_of_sameWay _ h]
    rfl

/-! ### A load and a store of a stream or thread -/

/-- What a read does to the caches and the homes changes no byte, and notes no store. -/
theorem State.readAccess_same (s : State) (key lane : Nat) (p : Place) (n : Nat) (hm : s.migrated = []) (hd : s.dirty.sorted) :
    (∀ a, (s.readAccess key lane p n).byteAt a = s.byteAt a) ∧ (s.readAccess key lane p n).loc = s.loc ∧
      (s.readAccess key lane p n).aliases = s.aliases := by
  cases p with
  | loc k => exact ⟨fun _ => rfl, rfl, rfl⟩
  | phys pa mtype grain part =>
    obtain ⟨-, hloc, hown⟩ := s.recallFor_rest pa mtype grain
    have hc : (s.readAccess key lane (.phys pa mtype grain part) n).contents = (s.recallFor pa mtype grain).contents :=
      State.noteAccess_contents ..
    exact ⟨fun a => (State.byteAt_of_contents hc a).trans (s.recallFor_byteAt pa mtype grain a hm hd),
      (State.loc_of_contents hc).trans hloc, (State.aliases_of_contents hc).trans hown⟩

theorem placeByte_congr {s t : State} (hb : ∀ a, t.byteAt a = s.byteAt a) (hl : t.loc = s.loc) (p : Place) :
    placeByte t p = placeByte s p := by
  funext i
  cases p with
  | loc k => exact congrArg (fun m => Tab.get 0 m (k + i)) hl
  | phys pa mtype grain part => exact hb (pa + i)

theorem State.sameBut_congr {s t u : State} (hb : ∀ a, u.byteAt a = t.byteAt a) (hl : u.loc = t.loc) {p : Place} {n : Nat}
    (h : s.sameBut t p n) : s.sameBut u p n := by
  cases p <;> simpa only [State.sameBut, hb, hl] using h

theorem State.sameBut_of_same {s t : State} (hb : ∀ a, t.byteAt a = s.byteAt a) (hl : t.loc = s.loc) (p : Place) (n : Nat) :
    s.sameBut t p n := by
  cases p with
  | loc k => exact ⟨hb, fun _ _ => by rw [hl]⟩
  | phys pa mtype grain part => exact ⟨fun a _ => hb a, fun _ => by rw [hl]⟩

/-- A load of a translated place gives its bytes, low byte first, and changes none (R15, R285). -/
theorem State.memRead_bytes {s t : State} {key l va n : Nat} {p : Place} (hs : t.steady) (hu : t.unaliased (ctlKey key l) va p n)
    (hloc : s.locate key l .read va n = .ok (t, p)) (hp : t.placePoisoned p n = false) :
    ∃ u, s.memRead key l va n = .ok (u, leNat ((List.range n).map (placeByte t p))) ∧ t.sameBut u p 0 := by
  obtain ⟨-, -, hd, hm, -⟩ := hs
  obtain ⟨hb, hl, hown⟩ := t.readAccess_same key l p n hm hd
  have hu' : (t.readAccess key l p n).unaliased (ctlKey key l) va p n := by
    cases p with
    | loc k => exact hu
    | phys pa mtype grain part => simpa only [State.unaliased, hown] using hu
  refine ⟨t.readAccess key l p n, ?_, State.sameBut_of_same hb hl p 0⟩
  simp only [State.memRead, State.readPlace, hloc, hp, Bool.false_eq_true, if_false, State.loadValue_of_unaliased hu',
    State.placeRead_eq, placeByte_congr hb hl]

/-- A store to a translated place puts the bytes of its value there and changes no other (R15, R281). -/
theorem State.memWrite_bytes {s t : State} {key l va n v : Nat} {p : Place} (hs : t.steady)
    (hu : t.unaliased (ctlKey key l) va p n) (hloc : s.locate key l .write va n = .ok (t, p)) :
    ∃ u, s.memWrite key l va n v = .ok u ∧ (∀ i < n, placeByte u p i = BitVec.ofNat 8 (v / 256 ^ i)) ∧ t.sameBut u p n := by
  obtain ⟨-, -, hd, hm, herr⟩ := hs
  obtain ⟨own, hst⟩ := State.storeBytes_of_unaliased (bs := leBytes n v) (by rwa [leBytes_length])
  let w := some (ctlKey key l)
  let t1 : State := { t with aliases := own }
  let u := t1.placeWrite w (some (t1.jobOf key l)) 200 p (leBytes n v)
  have hc : u.contents = (t1.placeStore w p (leBytes n v)).contents := by
    rw [← State.sendStore_unarmed t1 w p _ herr]
    exact State.placeWrite_contents ..
  have hb := State.byteAt_of_contents hc
  have hl := State.loc_of_contents hc
  obtain ⟨hput, hrest⟩ := t1.placeStore_bytes w p (leBytes n v) hm hd
  rw [leBytes_length] at hput hrest
  refine ⟨u, ?_, fun i hi => ?_, State.sameBut_congr hb hl hrest⟩
  · simp only [State.memWrite, hloc, hst]
    rfl
  · rw [placeByte_congr hb hl, hput i hi, leBytes_getD hi]

/-- Settles O19: a load and a store of a translated place, one lemma each. -/
theorem memoryBytes : Obligations.MemoryBytes := by
  intro s t key l va n v p hs hu
  exact ⟨fun hloc hp => State.memRead_bytes hs hu hloc hp, fun hloc => State.memWrite_bytes hs hu hloc⟩

end Sys2Proof.Machine
end

section
/-! PROOFS. What reset leaves (R26, R312, R385, R391). -/

namespace Sys2Proof.Machine

/-- Before anything is stored, every byte of memory reads 0: no page migrates, no copy is newer, and memory lists no byte. -/
@[simp] theorem State.reset_byteAt (a : Nat) : State.reset.byteAt a = 0 :=
  State.reset.byteAt_settled rfl a

/-- The way mask of every partition in every slice is all ways at reset (R312). -/
theorem cregReset_wayMask {h p : Nat} (hh : h < 80) (hp : p < 64) : cregReset (slcBase h + 8 * p) = 0xFFFF := by
  have hlow : (slcBase h + 8 * p) % 4096 < 0x200 := by unfold slcBase; omega
  have hrate : slcBase h + 8 * p ≠ 0x3F0000008018 := by unfold slcBase; omega
  have hblock : 0x3F0000100000 ≤ slcBase h + 8 * p ∧ slcBase h + 8 * p < 0x3F0000150000 := by
    unfold slcBase; omega
  simp [cregReset, hlow, hrate, hblock]

/-- No register of the part has been written at reset. -/
@[simp] theorem State.reset_creg (a : Nat) : State.reset.creg_ a = cregReset a := rfl

/-- No stream or thread has a context at reset: each reads as one that never ran. -/
@[simp] theorem State.reset_ctlAt (key l : Nat) : State.reset.ctlAt key l = {} := rfl

/-- Settles O58: the tables of the reset state are empty, and a way mask that is not written has its reset value. -/
theorem resetState : Obligations.ResetState := by
  have hcanonical : State.reset.canonical := ⟨rfl, rfl⟩
  have hctl (key l : Nat) : (State.reset.ctlAt key l).life = .off ∧ (State.reset.ctlAt key l).fmode = 0 ∧
      (State.reset.ctlAt key l).fflags = 0 := by simp
  have hmask (h p : Nat) (hh : h < 80) (hp : p < 64) : State.reset.creg_ (slcBase h + 8 * p) = 0xFFFF := by
    rw [State.reset_creg, cregReset_wayMask hh hp]
  exact ⟨hcanonical, State.reset_byteAt, fun _ => rfl, fun _ => rfl, rfl, rfl, hctl, hmask, rfl, rfl⟩

end Sys2Proof.Machine
end

section
/-! PROOFS. Reads of time and profile counters (R97, R98, R100, R133). -/

namespace Sys2Proof.Machine

/-! ### What the end of an issue looks at -/

/-- What a stream's issue looks at as it ends: the tokens, and what the stream owes at its retirement and stands stalled for. -/
def State.unfinished (s : State) (key : Nat) : Tab Nat × Option Retire × List Need :=
  (s.tokens, (s.ctlAt key 0).retire, (s.ctlAt key 0).stall)

@[simp] theorem State.unfinished_ite (c : Prop) [Decidable c] (s t : State) (key : Nat) :
    (if c then s else t).unfinished key = if c then s.unfinished key else t.unfinished key := by
  split <;> rfl

/-- A read of a table after a change of its values that leaves alone a part of each. -/
theorem Tab.get_map_part {β γ : Type} (p : β → γ) (f : Nat × β → Nat × β) (hkey : ∀ e, (f e).1 = e.1)
    (hpart : ∀ e, p (f e).2 = p e.2) (d : β) (t : Tab β) (k : Nat) : p (Tab.get d (t.map f) k) = p (t.get d k) := by
  induction t with
  | nil => rfl
  | cons e t ih =>
    rw [List.map_cons, Tab.get, Tab.get, hkey]
    split
    · exact hpart e
    · exact ih

/-- Slots that become stale change nothing but open regions (R336). -/
@[simp] theorem State.staleWhere_unfinished (s : State) (who : Nat → Bool) (pa grain key : Nat) :
    (s.staleWhere who pa grain).unfinished key = s.unfinished key := by
  refine congrArg (Prod.mk s.tokens)
    (Tab.get_map_part (fun c : Ctl => (c.retire, c.stall)) _ (fun e => ?_) (fun e => ?_) _ _ _)
  all_goals
    split
    · rfl
    · split <;> rfl

@[simp] theorem State.recallFor_unfinished (s : State) (pa mtype grain key : Nat) :
    (s.recallFor pa mtype grain).unfinished key = s.unfinished key := by
  unfold State.recallFor
  split <;> rfl

@[simp] theorem State.cleanSector_unfinished (s : State) (agent : Nat) (p : Place) (key : Nat) :
    (s.cleanSector agent p).unfinished key = s.unfinished key := by
  unfold State.cleanSector
  split
  · rfl
  · split <;> rfl

@[simp] theorem State.extWrite_unfinished (s : State) (pa : Nat) (bs : List Byte) (key : Nat) :
    (s.extWrite pa bs).unfinished key = s.unfinished key := by
  induction bs generalizing s pa with
  | nil => rfl
  | cons b bs ih => exact (ih _ _).trans rfl

@[simp] theorem State.physWrite_unfinished (s : State) (pa : Nat) (bs : List Byte) (key : Nat) :
    (s.physWrite pa bs).unfinished key = s.unfinished key := by
  induction bs generalizing s pa with
  | nil => rfl
  | cons b bs ih => exact (ih _ _).trans rfl

@[simp] theorem State.locWrite_unfinished (s : State) (k : Nat) (bs : List Byte) (key : Nat) :
    (s.locWrite k bs).unfinished key = s.unfinished key := by
  have hraw : (s.locWriteRaw k bs).unfinished key = s.unfinished key := by
    induction bs generalizing s k with
    | nil => rfl
    | cons b bs ih => exact (ih _ _).trans rfl
  exact hraw

/-- A store, whoever makes it, leaves alone what streams owe. -/
@[simp] theorem State.placeStore_unfinished (s : State) (writer : Option Nat) (p : Place) (bs : List Byte) (key : Nat) :
    (s.placeStore writer p bs).unfinished key = s.unfinished key := by
  cases p with
  | loc k => exact s.locWrite_unfinished k bs key
  | phys pa mtype grain part =>
    simp [State.placeStore, State.markStale]

@[simp] theorem State.sendStore_unfinished (s : State) (writer : Option Nat) (p : Place) (bs : List Byte) (key : Nat) :
    (s.sendStore writer p bs).unfinished key = s.unfinished key := by
  cases p with
  | loc k => exact s.placeStore_unfinished ..
  | phys pa mtype grain part =>
    have hinject : (s.errInject pa bs).1.unfinished key = s.unfinished key := by
      unfold State.errInject
      dsimp only
      split <;> rfl
    simp [State.sendStore, hinject]

/-- A store of one of the part's own units: it has no cache, and sends its bytes to their home (R297, R305). -/
@[simp] theorem State.placeWrite_unfinished (s : State) (slot : Option Nat) (ep : Nat) (p : Place) (bs : List Byte) (key : Nat) :
    (s.placeWrite none slot ep p bs).unfinished key = s.unfinished key := by
  have hstore := s.sendStore_unfinished none p bs key
  cases p with
  | loc k => exact hstore
  | phys pa mtype grain part =>
    have hhome : s.placeWrite none slot ep (.phys pa mtype grain part) bs =
        (s.sendStore none (.phys pa mtype grain part) bs).homeAccess ep pa bs.length mtype grain part slot true
          (s.storeUndo 31 (.phys pa mtype grain part) bs) := by
      simp [State.placeWrite, State.noteAccess]
    rw [hhome]
    exact hstore

@[simp] theorem State.partWrite_unfinished (s : State) (ep part pa : Nat) (bs : List Byte) (key : Nat) :
    (s.partWrite ep part pa bs).unfinished key = s.unfinished key := by
  refine foldl_same (State.unfinished · key) _ (fun t q => ?_) _ s
  split
  · exact t.placeWrite_unfinished ..
  · rfl

@[simp] theorem State.setCreg_unfinished (s : State) (a : Nat) (v : DWord) (key : Nat) :
    (s.setCreg a v).unfinished key = s.unfinished key := rfl

@[simp] theorem State.ringRecord_unfinished (s : State) (reg size part : Nat) (rec : Nat → List Byte) (key : Nat) :
    (s.ringRecord reg size part rec).unfinished key = s.unfinished key := by
  unfold State.ringRecord
  dsimp only
  split <;> simp

@[simp] theorem State.sillage_unfinished (s : State) (k l kind object start : Nat) (abandoned : Bool) (key : Nat) :
    (s.sillage k l kind object start abandoned).unfinished key = s.unfinished key := by
  unfold State.sillage State.sillageAs
  dsimp only
  split
  · rfl
  · exact s.ringRecord_unfinished ..

/-- The records of prof (R133) leave alone what streams owe. -/
@[simp] theorem State.profile_unfinished (s : State) (k : Nat) (threads : List Nat) (n : Nat) (v : DWord) (key : Nat) :
    (s.profile k threads n v).unfinished key = s.unfinished key :=
  foldl_same (State.unfinished · key) _ (fun t _ => t.sillage_unfinished ..) _ s

/-! ### The instructions -/

/-- A long word of the system group is no lane operation, and its G field stands in bits 11:8. -/
theorem wordFits_system {word : Nat} {g : BitVec 4} (hmajor : word % 256 = 0x1F) (hg : word / 256 % 16 = g.toNat) :
    wordFits word 2 g false := by
  have hlane : bitsN word 2 6 = 7 := by unfold bitsN; omega
  exact ⟨hg, by simp [Op.laneOperation, laneWord, hlane]⟩

/-- A read of a clock (R100): its value as the instruction has its effect goes to the destination. -/
theorem readClock_completes {i : Instr} {word d : Nat} {v : State → DWord} {g : BitVec 4}
    (he : ∀ s, exec i s = s.readClock word d v) (hw : wordFits word 2 g false) :
    ({ instr := i, g := g, sdst := [d], effect := fun is s _ _ => s.give is.key d (v s) } : Run).completes := by
  intro s key set hi ha hal ho r is _
  refine (he s).trans ?_
  have hgood : Op.good { word := word, legal := onAll, sdst := [d] } key g :=
    ⟨rfl, by simp [bitN], onAll_legal key, ho.legal rfl (by simp) (by simp), hw.1⟩
  refine (State.issue_scalar (F := fun _ s _ _ => v s) hi hgood (.inr rfl) ⟨rfl, rfl, rfl, rfl, rfl⟩ ha ho rfl).trans ?_
  have hlane : ({ word := word, legal := onAll, sdst := [d] } : Op).laneOperation = false := hw.2
  rw [hlane]
  rfl

theorem execRdtime_completes (d : BitVec 6) (g : BitVec 4) :
    ({ instr := .rdtime d g, g := g, sdst := [d.toNat]
       effect := fun is s _ _ => s.give is.key d.toNat (BitVec.ofNat 64 s.ns) } : Run).completes :=
  readClock_completes (word := 0x0000D01F + put d 26 + put g 8) (fun _ => rfl) (by
    have := g.isLt
    exact wordFits_system (by unfold put; omega) (by unfold put; omega))

theorem execRdcyc_completes (d : BitVec 6) (g : BitVec 4) :
    ({ instr := .rdcyc d g, g := g, sdst := [d.toNat]
       effect := fun is s _ _ => s.give is.key d.toNat (BitVec.ofNat 64 s.cyc) } : Run).completes :=
  readClock_completes (word := 0x0000E01F + put d 26 + put g 8) (fun _ => rfl) (by
    have := g.isLt
    exact wordFits_system (by unfold put; omega) (by unfold put; omega))

/-- prof (R133): each executing thread writes its record, with the time as the instruction has its effect. -/
theorem execProf_completes (k a : BitVec 6) (g : BitVec 4) :
    ({ instr := .prof k a g, g := g, ssrc := [a.toNat]
       effect := fun is s sv _ => s.profile is.key is.threads k.toNat (sval sv 0) } : Run).completes := by
  let word := 0x0000C01F + put k 26 + put a 20 + put g 8
  have hg := g.isLt
  have hw : wordFits word 2 g false := wordFits_system (by unfold word put; omega) (by unfold word put; omega)
  have hturns : ({ word := word, legal := onAll, ssrc := [a.toNat] } : Op).turnsBack = false := by
    have hmajor : bitsN word 2 6 = 7 := by unfold word put bitsN; omega
    have hminor : bitsN word 12 8 = 0x0C := by unfold word put bitsN; omega
    simp [Op.turnsBack, hmajor, hminor]
  refine Run.of_whole (op := { word := word, legal := onAll, ssrc := [a.toNat] })
    (body := fun is s sv _ => done (s.profile is.key is.threads k.toNat (sval sv 0))) (fun _ _ _ _ _ => rfl) ?_
    (fun _ _ _ _ _ _ => rfl) (fun is s sv _ _ _ _ => ?_)
  · exact
      { half := rfl, halves := .inr rfl, ssrc := rfl, sdst := rfl, lsrc := rfl, ldst := rfl, sread := rfl, pairs := rfl
        legal := fun _ h => h, word := hw.1, lane := hw.2, turns := hturns, last := rfl, unplaced := rfl, unit := rfl
        inside := rfl, later := rfl, record := rfl, links := nofun, fields := ⟨rfl, rfl⟩, handler := nofun
        on := fun _ _ => by simp [bitN] }
  · have h := s.profile_unfinished is.key is.threads k.toNat (sval sv 0) is.key
    simpa only [State.unfinished, Prod.mk.injEq] using h

end Sys2Proof.Machine

namespace Sys2Proof
open Machine

/-- Settles O16: two reads of a clock, and the records of prof. -/
theorem clocks : Obligations.Clocks := fun d a k g =>
  List.forall_mem_cons.2 ⟨execRdtime_completes d g, List.forall_mem_cons.2 ⟨execRdcyc_completes d g,
    List.forall_mem_singleton.2 (execProf_completes k a g)⟩⟩

end Sys2Proof
end

section
/-! PROOFS. The interruptions that a stream is owed, taken at a boundary (R130, R212, R272, R367, R377). -/

namespace Sys2Proof.Machine

/-! ### Lists of events -/

theorem Happening.occurs_cons {e : Happening} {l : List Happening} (h : e.occurs) (hl : ∀ x ∈ l, x.occurs) :
    ∀ x ∈ e :: l, x.occurs := List.forall_mem_cons.2 ⟨h, hl⟩

theorem Happening.occurs_singleton {e : Happening} (h : e.occurs) : ∀ x ∈ [e], x.occurs := List.forall_mem_singleton.2 h

/-! ### Where an interruption is taken -/

/-- One that stands takes what it is owed there: its wait raises no fault of its own, which would come first (R377). -/
theorem State.stands.interruptAt {s : State} {key l : Nat} (h : s.stands key l) (t : State) :
    s.interruptAt key l (some t) = t := by
  unfold State.stands at h
  cases hw : (s.ctlAt key l).waiting with
  | none =>
    rw [hw] at h
    simp [State.interruptAt, hw, h]
  | some w =>
    rw [hw] at h
    cases hs : s.waitState key l w false with
    | fault u f => exact absurd hs (h u f)
    | stay u => simp only [State.interruptAt, hw, hs]
    | go u => simp only [State.interruptAt, hw, hs]

theorem State.stands.stopped {s : State} {key l : Nat} (h : s.stands key l) : (s.ctlAt key l).stopped = true := by
  unfold State.stands at h
  unfold Ctl.stopped
  cases hw : (s.ctlAt key l).waiting with
  | none =>
    rw [hw] at h
    simp [h]
  | some w => rfl

/-- A stream or thread stands at a boundary where no trap is due and nothing holds an asynchronous exception back (R377). -/
structure State.quietAt (s : State) (key l : Nat) : Prop where
  boundary : s.atBoundary key l = true
  stands : s.stands key l
  trap : s.trapDue key l = false
  handling : (s.ctlAt key l).handling = false
  hold : (s.ctlAt key l).holdEnd = none

theorem State.quietAt.holdsAsync {s : State} {key l : Nat} (h : s.quietAt key l) : (s.ctlAt key l).holdsAsync = false := by
  simp [Ctl.holdsAsync, h.handling, h.hold]

/-! ### The asynchronous exceptions -/

/-- An asynchronous exception taken: what owed it is struck out by `f`, and the interruption is of class 2 (R377). -/
def State.takeAsync (s : State) (key l cause : Nat) (info : DWord) (f : Owed → Owed) : State :=
  (s.modCtl key l fun c => { c with owed := f c.owed }).interrupt key l cause 2 info 0 (s.ctlAt key l).pc

theorem State.takeMiss_eq {s : State} {key l : Nat} {e : DWord} (hc : (s.ctlAt key l).holdsAsync = false)
    (ho : (s.ctlAt key l).owed.miss = some e) :
    s.takeMiss key l = some (s.takeAsync key l 0x31 e fun o => { o with miss := none }) := by
  simp only [State.takeMiss, hc, ho, Bool.false_eq_true, if_false, Option.map_some]
  rfl

theorem State.takeBudget_eq {s : State} {key l : Nat} {e : DWord} (hc : (s.ctlAt key l).holdsAsync = false)
    (ho : (s.ctlAt key l).owed.overrun = some e) :
    s.takeBudget key l = some (s.takeAsync key l 0x32 e fun o => { o with overrun := none }) := by
  simp only [State.takeBudget, hc, ho, Bool.false_eq_true, if_false, Option.map_some]
  rfl

theorem State.takeRouteNote_eq {s : State} {key l n : Nat} (hc : (s.ctlAt key l).holdsAsync = false)
    (ho : (s.ctlAt key l).owed.routeTo.head? = some n) :
    s.takeRouteNote key l =
      some (s.takeAsync key l 0x33 (BitVec.ofNat 64 n) fun o => { o with routeTo := o.routeTo.drop 1 }) := by
  obtain ⟨rest, hr⟩ := List.head?_eq_some_iff.1 ho
  simp only [State.takeRouteNote, State.takeAsync, State.modCtl, hc, hr, Bool.false_eq_true, if_false, List.drop_one,
    List.tail_cons]

theorem execDeadlineMissException_quiet {s : State} {who : Agent} {e : DWord}
    (h : s.quietAt (agentKey who).1 (agentKey who).2)
    (ho : (s.ctlAt (agentKey who).1 (agentKey who).2).owed.miss = some e) :
    execDeadlineMissException who s =
      .next (s.takeAsync (agentKey who).1 (agentKey who).2 0x31 e fun o => { o with miss := none }) := by
  simp only [execDeadlineMissException, h.boundary, h.trap, Bool.not_false, Bool.and_self, if_true,
    State.takeMiss_eq h.holdsAsync ho, h.stands.interruptAt]

theorem execBudgetOverrunException_quiet {s : State} {who : Agent} {e : DWord}
    (h : s.quietAt (agentKey who).1 (agentKey who).2)
    (hm : (s.ctlAt (agentKey who).1 (agentKey who).2).owed.miss = none)
    (ho : (s.ctlAt (agentKey who).1 (agentKey who).2).owed.overrun = some e) :
    execBudgetOverrunException who s =
      .next (s.takeAsync (agentKey who).1 (agentKey who).2 0x32 e fun o => { o with overrun := none }) := by
  simp only [execBudgetOverrunException, h.boundary, h.trap, hm, Option.isNone_none, Bool.not_false, Bool.and_self, if_true,
    State.takeBudget_eq h.holdsAsync ho, h.stands.interruptAt]

theorem execRouteTimeoutNotification_quiet {s : State} {core ctx eng n : Nat} (h : s.quietAt (streamKey core ctx eng) 0)
    (hm : (s.ctlAt (streamKey core ctx eng) 0).owed.miss = none)
    (hb : (s.ctlAt (streamKey core ctx eng) 0).owed.overrun = none)
    (ho : (s.ctlAt (streamKey core ctx eng) 0).owed.routeTo.head? = some n) :
    execRouteTimeoutNotification core ctx eng s =
      .next (s.takeAsync (streamKey core ctx eng) 0 0x33 (BitVec.ofNat 64 n) fun o =>
        { o with routeTo := o.routeTo.drop 1 }) := by
  simp only [execRouteTimeoutNotification, h.boundary, h.trap, hm, hb, Option.isNone_none, Bool.not_false, Bool.and_self,
    if_true, State.takeRouteNote_eq h.holdsAsync ho, h.stands.interruptAt]

/-! ### Deferred faults -/

/-- A deferred fault taken (R212): that of a copy command is noted at the command (R211), and one that keeps no address takes the
program counter's (log 29). -/
def State.deliverFault (s : State) (key l : Nat) (d : Deferred) : State :=
  let t := s.modCtl key l fun c => { c with owed := { c.owed with deferred := (s.ctlAt key l).owed.deferred.erase d } }
  let u := if d.cause = 0x12 then t.copyFaultTaken key d.ord else t
  u.interrupt key l d.cause d.cls d.info 0 (d.iaddr.getD (s.ctlAt key l).pc)

theorem State.takeDeferred_eq {s : State} {key l : Nat} {delivery : Bool} {d : Deferred}
    (h : (s.ctlAt key l).owed.deferred.find? (fun d => d.due (s.ctlAt key l).handling delivery) = some d) :
    s.takeDeferred key l delivery = some (s.deliverFault key l d) := by
  simp only [State.takeDeferred, State.deliverFault, h, beq_iff_eq]

theorem execDeferredFaultDelivery_stands {s : State} {core ctx eng : Nat} {d : Deferred}
    (hrun : s.running (streamKey core ctx eng) 0 = true) (h : s.stands (streamKey core ctx eng) 0)
    (hd : (s.ctlAt (streamKey core ctx eng) 0).owed.deferred.find?
      (fun d => d.due (s.ctlAt (streamKey core ctx eng) 0).handling true) = some d) :
    execDeferredFaultDelivery core ctx eng s = .next (s.deliverFault (streamKey core ctx eng) 0 d) := by
  simp only [execDeferredFaultDelivery, hrun, h.stopped, Bool.and_self, if_true, State.takeDeferred_eq hd, h.interruptAt]

end Sys2Proof.Machine

namespace Sys2Proof
open Machine

/-- Settles O45: one lemma for each exception. -/
theorem exceptionEvents : Obligations.ExceptionEvents := by
  intro who core ctx eng n e d
  refine Happening.occurs_cons (fun s h => ?_) <| Happening.occurs_cons (fun s h => ?_) <|
    Happening.occurs_cons (fun s h => ?_) <| Happening.occurs_singleton fun s h => ?_
  · obtain ⟨⟨hboundary, hstands, htrap, hhandling, hhold⟩, howed⟩ := h
    exact execDeadlineMissException_quiet ⟨hboundary, hstands, htrap, hhandling, hhold⟩ howed
  · obtain ⟨⟨hboundary, hstands, htrap, hhandling, hhold⟩, hmiss, howed⟩ := h
    exact execBudgetOverrunException_quiet ⟨hboundary, hstands, htrap, hhandling, hhold⟩ hmiss howed
  · obtain ⟨⟨hboundary, hstands, htrap, hhandling, hhold⟩, hmiss, hoverrun, howed⟩ := h
    exact execRouteTimeoutNotification_quiet ⟨hboundary, hstands, htrap, hhandling, hhold⟩ hmiss hoverrun howed
  · obtain ⟨hrun, hstands, howed⟩ := h
    exact execDeferredFaultDelivery_stands hrun hstands howed

end Sys2Proof
end

section
/-! PROOFS. Evictions, restores, workgroups, misses and clearings, each event where it is due (R120 to R149, R183, R248). -/

namespace Sys2Proof.Machine

/-! ### Evictions (R120, R122, R125) -/

/-- The cores that a job stands on, as the freezing of cores numbers them. -/
def State.coresOf (s : State) (slot : Nat) : List Nat :=
  if cardVision (s.slotAt slot).card then (s.visionCores slot).map fun c => 64 + c else (s.slotAt slot).cores

/-- No save waits for a core on which nothing is frozen. -/
theorem State.coresOf_none_frozen {s : State} {slot : Nat} (h : ∀ c ∈ s.coresOf slot, s.coreFrozen c = false) :
    (s.coresOf slot).any s.coreFrozen = false := by
  simpa using h

theorem execEvictionSaveComplete_vision {s : State} {slot : Nat} (hstop : (s.slotAt slot).stopping = true)
    (hfrozen : ∀ c ∈ s.coresOf slot, s.coreFrozen c = false) (hv : cardVision (s.slotAt slot).card = true)
    (hr : s.visionRetires slot = false) : execEvictionSaveComplete slot s = .next (s.evictVision slot) := by
  have hnone := State.coresOf_none_frozen hfrozen
  rw [State.coresOf, if_pos hv] at hnone
  simp only [execEvictionSaveComplete, hstop, hv, hr, hnone, Bool.not_true, Bool.or_self, Bool.false_eq_true, if_false, if_true]

theorem execEvictionSaveComplete_tile {s : State} {slot : Nat} (hstop : (s.slotAt slot).stopping = true)
    (hfrozen : ∀ c ∈ s.coresOf slot, s.coreFrozen c = false) (hv : ¬cardVision (s.slotAt slot).card = true)
    (hr : (s.slotAt slot).started = false ∨ (s.slotAt slot).restoring = true ∨ s.allStopped slot = true) :
    execEvictionSaveComplete slot s = .next (s.finishEviction slot) := by
  have hnone := State.coresOf_none_frozen hfrozen
  rw [State.coresOf, if_neg hv] at hnone
  have hsaved : (!(s.slotAt slot).started || (s.slotAt slot).restoring || s.allStopped slot) = true := by
    simpa [or_assoc] using hr
  simp only [execEvictionSaveComplete, hstop, hv, if_false, hnone, hsaved, Bool.not_true, Bool.or_self, Bool.false_eq_true,
    if_true]

theorem execHingeFallback_due {s : State} {core ctx eng : Nat}
    (h : let c := s.ctlAt (streamKey core ctx eng) 0
      let x := s.slotAt c.job
      x.stopping = true ∧ x.hingeMode = true ∧ (eng = 2 ∨ eng = 3) ∧ c.life = .live ∧ c.stopAt = none ∧ c.fellBack = false ∧
        x.decided + cardHinge x.card ≤ s.ns) :
    execHingeFallback core ctx eng s =
      .next (((s.modCtl (streamKey core ctx eng) 0 fun c => { c with fellBack := true }).modSlot
        (s.ctlAt (streamKey core ctx eng) 0).job fun x => { x with fallbacks := x.fallbacks + 1 }).orderStream
          (streamKey core ctx eng) false) := by
  obtain ⟨hstop, hmode, heng, hlife, hat, hfell, htime⟩ := h
  have hdata : (eng == 2 || eng == 3) = true := by simpa using heng
  simp only [execHingeFallback, hstop, hmode, hdata, hlife, hat, hfell, htime, Option.isNone_none, beq_self_eq_true,
    Bool.not_false, Bool.and_self, decide_true, if_true]

/-! ### Restores and workgroups (R120, R125, R136 to R138, R148) -/

theorem execJobRestore_vision {s u : State} {slot : Nat} (hv : cardVision (s.slotAt slot).card = true)
    (hsaved : (s.slotAt slot).savedGroups ≠ []) (hnext : s.nextDistributed = some slot) (hu : s.distribute slot = some u) :
    execJobRestore slot s = .next u := by
  simp [execJobRestore, hv, hsaved, hnext, hu]

theorem execJobRestore_tile {s : State} {slot : Nat} (hv : ¬ cardVision (s.slotAt slot).card = true)
    (hrestore : (s.slotAt slot).restoring = true) (hstop : (s.slotAt slot).stopping = false) :
    execJobRestore slot s = .next ((s.restoreTile slot).orderPreempt slot) := by
  simp [execJobRestore, hv, hrestore, hstop]

theorem execWorkgroupPlacement_due {s u : State} {slot : Nat} (hsaved : (s.slotAt slot).savedGroups = [])
    (hnext : s.nextDistributed = some slot) (hu : s.distribute slot = some u) :
    execWorkgroupPlacement slot s = .next u := by
  simp [execWorkgroupPlacement, hsaved, hnext, hu]

/-- The larger of a number and 1, as the classification of R138 divides by it. -/
theorem maxN_one (n : Nat) : maxN n 1 = if n = 0 then 1 else n := by
  unfold maxN
  split <;> split <;> omega

theorem execKernelClassification_due {s : State} {slot t : Nat} (hfirst : (s.slotAt slot).firstIssue = some t)
    (hcls : (s.slotAt slot).cls = 0) (htime : t + 64000 ≤ s.ns) :
    execKernelClassification slot s = .next (s.setSlot slot { s.slotAt slot with
      cls := if 128 ≤ (s.slotAt slot).laneOps / (if (s.slotAt slot).sectors = 0 then 1 else (s.slotAt slot).sectors)
        then 1 else 2 }) := by
  simp only [execKernelClassification, hfirst, hcls, htime, maxN_one, beq_self_eq_true, decide_true, Bool.and_self, if_true]

/-! ### Requests for workgroups (R149) -/

/-- Whether a flight is a request of a job. -/
def requestOf (job : Nat) (f : Flight) : Bool := match f with | .mailbox o => o.job == job | _ => false

/-- A request is the oldest of its job, and its workgroup is on a core or has ended (R149). -/
structure State.answers (s : State) (id : Nat) (m : Mailbox) : Prop where
  found : s.flights.find id = some (.mailbox m)
  oldest : s.noneBefore id (requestOf m.job)
  here : m.group < boxEvicted ∨ m.group = boxEnded

/-- What a request is answered with: nothing to a workgroup that has ended (log 33). -/
def State.answerTo (s : State) (id : Nat) (m : Mailbox) (at_ : Option (Nat × Nat × Nat)) : State :=
  if m.group = boxEnded then s.land id else (s.land id).answerBox m at_

theorem execFetchwgAnswer_due {s : State} {id : Nat} {m : Mailbox} (h : s.answers id m) :
    execFetchwgAnswer id s = .next (
      let x := s.slotAt m.job
      let n := x.nextWg
      if n < x.gridSize then
        (s.answerTo id m (some (n % x.gridX, n / x.gridX % x.gridY, n / (x.gridX * x.gridY)))).withdrawGroup m.job
      else s.answerTo id m none) := by
  have hoverdue : (s.flights.any fun e => decide (e.1 < id) && requestOf m.job e.2) = false := by
    simpa using fun k f => h.oldest (k, f)
  have hhere : (decide (boxEvicted ≤ m.group) && m.group != boxEnded) = false := by
    rcases h.here with hlt | heq
    · simp [Nat.not_le.2 hlt]
    · simp [heq]
  have hdue : ¬((s.flights.any fun e => decide (e.1 < id) && requestOf m.job e.2) ||
      (decide (boxEvicted ≤ m.group) && m.group != boxEnded)) = true := by simp only [hoverdue, hhere]; decide
  simp only [execFetchwgAnswer, h.found]
  refine (if_neg hdue).trans ?_
  simp only [State.answerTo, beq_iff_eq]
  split <;> rfl

theorem State.answerTo_core {s : State} {id : Nat} {m : Mailbox} (h : m.group < boxEvicted) (at_ : Option (Nat × Nat × Nat)) :
    s.answerTo id m at_ = (s.land id).answerBox m at_ :=
  if_neg fun hended => absurd (hended ▸ h) (by decide)

theorem State.answerTo_ended {s : State} {id : Nat} {m : Mailbox} (h : m.group = boxEnded) (at_ : Option (Nat × Nat × Nat)) :
    s.answerTo id m at_ = s.land id :=
  if_pos h

/-! ### Misses and clearings (R128, R183, R248) -/

theorem execDeadlineMiss_due {s : State} {slot : Nat} (hstate : 2 ≤ (s.slotAt slot).state)
    (htime : (s.slotAt slot).deadline ≤ s.ns) (hmissed : (s.slotAt slot).missed = false) :
    execDeadlineMiss slot s =
      .next ((((s.ringRecord (dspBase + 0x50) 64 (cardPart (s.slotAt slot).card) fun _ => s.missRecord slot).sendMsi).modSlot slot
        fun y => { y with missed := true }).applyMiss slot) := by
  simp only [execDeadlineMiss, hstate, htime, hmissed, decide_true, Bool.not_false, Bool.and_self, if_true]

theorem execRegionClearDone_due {s : State} {id core a b : Nat} (h : s.flights.find id = some (.clearRegion core a b)) :
    execRegionClearDone id s = .next { s.land id with
      loc := s.loc.dropRange (locKey core (4096 * a)) (4096 * b)
      poisonLoc := s.poisonLoc.dropRange (locKey core (4096 * a) / 8) (512 * b)
      evaluations := s.evaluations + 1 } := by
  simp only [execRegionClearDone, h]

/-- Whether a key of the macros' tags is one of a page of a core (R246). -/
def ofPage (core page k : Nat) : Bool := k / 256 == core && k % 8 == page

theorem execPageClearDone_due {s : State} {id core page : Nat} (h : s.flights.find id = some (.clearPage core page)) :
    execPageClearDone id s = .next { s.land id with
      pages := s.pages.filter fun e => !ofPage core page (e.1 / 4096)
      pageTags := s.pageTags.filter fun e => !ofPage core page e.1
      poisonPage := s.poisonPage.filter fun e => !ofPage core page e.1
      evaluations := s.evaluations + 1 } := by
  simp only [execPageClearDone, h, ofPage]

end Sys2Proof.Machine

namespace Sys2Proof
open Machine

/-- Settles O48: one lemma for each event; a request for a workgroup has four answers, as its workgroup is on a core or has ended and
as the grid has a workgroup left or none. -/
theorem placementEvents : Obligations.PlacementEvents := by
  intro slot core ctx eng id t a b m u
  refine Happening.occurs_cons (fun s h => ?_) <| Happening.occurs_cons (fun s h => ?_) <|
    Happening.occurs_cons (fun s h => ?_) <| Happening.occurs_cons (fun s h => ?_) <|
    Happening.occurs_cons (fun s h => ?_) <| Happening.occurs_cons (fun s h => ?_) <|
    Happening.occurs_cons (fun s h => ?_) <| Happening.occurs_cons (fun s h => ?_) <|
    Happening.occurs_cons (fun s h => ?_) <| Happening.occurs_cons (fun s h => ?_) <|
    Happening.occurs_cons (fun s h => ?_) <| Happening.occurs_cons (fun s h => ?_) <|
    Happening.occurs_cons (fun s h => ?_) <| Happening.occurs_singleton fun s h => ?_
  · obtain ⟨⟨hstop, hfrozen⟩, hvision, hretires⟩ := h
    exact execEvictionSaveComplete_vision hstop hfrozen hvision hretires
  · obtain ⟨⟨hstop, hfrozen⟩, htile, hstopped⟩ := h
    exact execEvictionSaveComplete_tile hstop hfrozen htile hstopped
  · exact execHingeFallback_due h
  · obtain ⟨hvision, hsaved, hnext, hu⟩ := h
    exact execJobRestore_vision hvision hsaved hnext hu
  · obtain ⟨htile, hrestoring, hstop⟩ := h
    exact execJobRestore_tile htile hrestoring hstop
  · obtain ⟨hsaved, hnext, hu⟩ := h
    exact execWorkgroupPlacement_due hsaved hnext hu
  · obtain ⟨hfirst, hcls, htime⟩ := h
    exact execKernelClassification_due hfirst hcls htime
  · obtain ⟨⟨hfound, holdest⟩, hcore, hleft⟩ := h
    refine (execFetchwgAnswer_due ⟨hfound, holdest, .inl hcore⟩).trans ?_
    rw [if_pos hleft, State.answerTo_core hcore]
  · obtain ⟨⟨hfound, holdest⟩, hcore, hnone⟩ := h
    refine (execFetchwgAnswer_due ⟨hfound, holdest, .inl hcore⟩).trans ?_
    rw [if_neg hnone, State.answerTo_core hcore]
  · obtain ⟨⟨hfound, holdest⟩, hended, hleft⟩ := h
    refine (execFetchwgAnswer_due ⟨hfound, holdest, .inr hended⟩).trans ?_
    rw [if_pos hleft, State.answerTo_ended hended]
  · obtain ⟨⟨hfound, holdest⟩, hended, hnone⟩ := h
    refine (execFetchwgAnswer_due ⟨hfound, holdest, .inr hended⟩).trans ?_
    rw [if_neg hnone, State.answerTo_ended hended]
  · obtain ⟨hstate, htime, hmissed⟩ := h
    exact execDeadlineMiss_due hstate htime hmissed
  · exact execRegionClearDone_due h
  · exact execPageClearDone_due h

end Sys2Proof
end

section
/-! PROOFS. The vision workgroup instructions (R147 to R156). -/

namespace Sys2Proof.Machine

/-! ### What a wave issues -/

/-- A word that is legal on vision alone is issued by a wave (R49). -/
theorem isWave_of_visionLegal {key : Nat} (h : bitN 0x20 (if isWave key then 5 else keyEng key) = true) :
    isWave key = true := by
  cases hk : isWave key with
  | true => rfl
  | false =>
    have hstream : ∀ n < 5, bitN 0x20 n = false := by decide
    have heng : keyEng key < 5 := by unfold keyEng; omega
    rw [if_neg (ne_true_of_eq_false hk), hstream _ heng] at h
    cases h

/-- Lane destinations of a wave that are ready are no output streams (R188). -/
theorem State.operandsReady.noStream {s : State} {key : Nat} {set ssrc sdst lsrc ldst links : List Nat}
    (h : s.operandsReady key set ssrc sdst lsrc ldst links) (hk : isWave key = true) :
    ∀ d ∈ ldst, d ≠ 0x3A ∧ d ≠ 0x3B := by
  intro d hd
  obtain ⟨-, ⟨-, hnil⟩ | ⟨-, hok, -⟩, -⟩ := h
  · rw [hnil] at hd; cases hd
  · have hd := hok d (List.mem_append_right _ hd)
    simp only [laneSrcOk, hk, Bool.not_true, Bool.false_and, Bool.or_false, Bool.or_eq_true, decide_eq_true_eq,
      beq_iff_eq] at hd
    omega

/-- What is known of those who issue an instruction of vision alone: threads of a wave, whose destinations are no streams. -/
def Run.byWave (w : Run) (is : Iss) : Prop :=
  isWave is.key = true ∧ is.threads ≠ [] ∧ ∀ d ∈ w.ldst, d ≠ 0x3A ∧ d ≠ 0x3B

/-- A long word of vision alone that is no branch of R143 and has no completion point. -/
structure Run.vision (w : Run) (word : Nat) : Prop where
  legal : w.legal = 0x20
  half : w.half = 2
  fits : wordFits word 2 w.g w.lane
  major : 5 < bitsN word 2 6
  minor : bitsN word 2 6 = 7 → bitsN word 12 8 ≠ 5 ∧ bitsN word 12 8 ≠ 0x12
  turns : w.turns = false
  record : w.record = w.later
  links : w.links = []

/-- What issue knows of a run's word. -/
def Run.op (w : Run) (word : Nat) (region : Option TagRule := none) : Op :=
  { word := word, legal := w.legal, wait := w.last, atomic := w.unit, ssrc := w.ssrc, sdst := w.sdst, lsrc := w.lsrc,
    ldst := w.ldst, sread := w.noQueue, pairs := w.pairs, region := region, notLast := w.inside, completes := w.later,
    noPlace := w.unplaced }

/-- A long word of a major above 5 is no branch of R143, where it is not jr or ret. -/
theorem turnsBack_other {op : Op} (hmajor : 5 < bitsN op.word 2 6)
    (hminor : bitsN op.word 2 6 = 7 → bitsN op.word 12 8 ≠ 5 ∧ bitsN op.word 12 8 ≠ 0x12) : op.turnsBack = false := by
  simp only [Op.turnsBack, Bool.and_eq_false_imp, Bool.or_eq_false_iff, decide_eq_false_iff_not, Nat.not_le,
    beq_eq_false_iff_ne]
  exact fun _ => ⟨hmajor, fun h => by simpa using hminor (by simpa using h)⟩

theorem Run.vision.fits_op {w : Run} {word : Nat} {region : Option TagRule} (h : w.vision word) :
    w.fits (w.op word region) where
  half := h.half.symm
  halves := .inr h.half
  ssrc := rfl
  sdst := rfl
  lsrc := rfl
  ldst := rfl
  sread := rfl
  pairs := rfl
  legal _ hl := hl
  word := h.fits.1
  lane := h.fits.2
  turns := (turnsBack_other h.major h.minor).trans h.turns.symm
  last := rfl
  unplaced := rfl
  unit := rfl
  inside := rfl
  later := rfl
  record := h.record
  links r hr := by rw [h.links] at hr; cases hr
  fields := ⟨rfl, rfl⟩
  handler := nofun
  on _ _ := by simp [Run.op, bitN]

/-- An instruction of vision alone completes when its body has the effect for threads of a wave. -/
theorem Run.of_wave {w : Run} {word : Nat} {region : Option TagRule}
    {body : Iss → State → List DWord → List (List Word) → Eff} (hw : w.vision word)
    (he : ∀ s, exec w.instr s = s.issue (w.op word region) body)
    (hb : ∀ is s sv lv, w.byWave is → w.ready is s sv lv →
      body is s sv lv = { st := w.effect is s sv lv, jumps := w.jumps is s sv lv,
                          held := if w.stays then is.threads else [] }) : w.completes := by
  have hcompletes : ({ w with ready := fun is s sv lv => w.byWave is ∧ w.ready is s sv lv } : Run).completes :=
    Run.of_whole (fun s _ _ _ _ => he s) { hw.fits_op with handler := nofun }
      (fun is s sv lv _ hr => hb is s sv lv hr.1 hr.2)
      (fun _ _ _ _ hk _ hr => absurd hr.1.1 (by rw [hk]; exact Bool.false_ne_true))
  intro s key set hi ha hal ho r is hr
  have hk : isWave key = true := isWave_of_visionLegal (by rw [← hw.legal]; exact hal.legal)
  exact hcompletes s key set hi ha { hal with } ho ⟨⟨hk, hi.2.1, ho.noStream hk⟩, hr⟩

/-- A word of majors 0x3D and 0x3E has its G field in bits 11:8, and of them only sample is a lane operation (R138). -/
theorem wordFits_waves {word : Nat} {g : BitVec 4} {lane : Bool} (hmajor : word % 256 = 0xF7 ∧ lane = false ∨
      word % 256 = 0xFB ∧ lane = (bitsN word 12 2 == 1)) (hg : word / 256 % 16 = g.toNat) :
    wordFits word 2 g lane ∧ 7 < bitsN word 2 6 := by
  have hbits : bitsN word 2 6 = word % 256 / 4 := by unfold bitsN; omega
  refine ⟨⟨hg, ?_⟩, by omega⟩
  rcases hmajor with ⟨hm, rfl⟩ | ⟨hm, rfl⟩ <;> simp [Op.laneOperation, laneWord, hbits, hm]

/-- A run whose word has major 0x3D or 0x3E. -/
theorem Run.vision_waves {w : Run} {word : Nat} {g : BitVec 4} (hmajor : word % 256 = 0xF7 ∧ w.lane = false ∨
      word % 256 = 0xFB ∧ w.lane = (bitsN word 12 2 == 1)) (hg : word / 256 % 16 = g.toNat)
    (hplain : w.g = g ∧ w.legal = 0x20 ∧ w.half = 2 ∧ w.turns = false ∧ w.record = w.later ∧ w.links = []) :
    w.vision word := by
  obtain ⟨rfl, hlegal, hhalf, hturns, hrecord, hlinks⟩ := hplain
  obtain ⟨hfits, hmaj⟩ := wordFits_waves hmajor hg
  exact ⟨hlegal, hhalf, hfits, by omega, by omega, hturns, hrecord, hlinks⟩

/-! ### Threads that go on, and lanes that do not stop -/

/-- A fold each of whose steps leaves the value as it is. -/
theorem foldl_unchanged {α β : Type} {f : β → α → β} {b : β} {l : List α} (h : ∀ a ∈ l, f b a = b) : l.foldl f b = b :=
  List.foldlRecOn l f (motive := (· = b)) rfl fun _ hb a ha => hb ▸ h a ha

/-- Threads of a wave that all go on leave a wait with nothing further to do (R43). -/
theorem State.block_goes {s : State} {is : Iss} {w : Nat → Wait} (hk : isWave is.key = true)
    (h : ∀ l ∈ is.threads, s.waitState is.key l (w l) true = .go s) : s.block is w = done s := by
  unfold State.block
  rw [foldl_unchanged fun l hl => by simp only [h l hl], if_pos hk]
  rfl

/-- A fold follows one that may fail, where each of its steps does. -/
theorem foldl_of_foldlM {α β γ : Type} {f : γ → α → γ} {step : β → α → Option β} (embed : β → γ)
    (hstep : ∀ b a next, step b a = some next → f (embed b) a = embed next) {l : List α} {b out : β}
    (h : l.foldlM step b = some out) : l.foldl f (embed b) = embed out := by
  induction l generalizing b with
  | nil =>
    cases h
    rfl
  | cons a l ih =>
    rw [List.foldlM_cons] at h
    obtain ⟨next, hnext, hrest⟩ := Option.bind_eq_some_iff.1 h
    rw [List.foldl_cons, hstep b a next hnext]
    exact ih hrest

/-- Lanes each of which answers are passed through one after another, and none stops. -/
theorem eachLane_of_foldlM {β : Type} {f : State → Nat → Except Stop (State × β)}
    {step : State × List (Nat × β) → Nat → Option (State × List (Nat × β))}
    (hstep : ∀ acc l next, step acc l = some next → ∃ v r, f acc.1 l = .ok (v, r) ∧ next = (v, acc.2 ++ [(l, r)]))
    {s : State} {lanes : List Nat} {out : State × List (Nat × β)} (h : lanes.foldlM step (s, []) = some out) :
    eachLane s lanes f = (out.1, out.2, []) := by
  refine foldl_of_foldlM (fun acc => (acc.1, acc.2, [])) (fun acc l next hnext => ?_) h
  obtain ⟨v, r, hf, rfl⟩ := hstep acc l next hnext
  simp only [hf]

/-! ### wbar (R150) -/

/-- A workgroup as it stands from now on. -/
def State.withGroup (s : State) (k : Nat) (x : Workgroup) : State := { s with groups := s.groups.put k x }

@[simp] theorem State.withGroup_find (s : State) (k : Nat) (x : Workgroup) : (s.withGroup k x).groups.find k = some x :=
  Tab.find_put_same ..

@[simp] theorem State.withGroup_withGroup (s : State) (k : Nat) (x y : Workgroup) :
    (s.withGroup k x).withGroup k y = s.withGroup k y := by
  simp only [State.withGroup, Tab.put_put]

theorem State.checkWbar_all {s : State} {core wg : Nat} {x : Workgroup} (hx : s.groups.find (64 * core + wg) = some x)
    (hsome : 0 < x.arrived) (hall : s.liveThreads (s.groupWaves core wg) ≤ x.arrived) :
    s.checkWbar core wg = s.withGroup (64 * core + wg) { x with phase := x.phase + 1, arrived := 0 } := by
  simp only [State.checkWbar, hx, hsome, hall, decide_true, Bool.and_self, if_true, State.withGroup]

/-- A phase that has ended lets a thread of the workgroup go on. -/
theorem State.waitState_wbar {s : State} {key lane phase : Nat} {first : Bool} {w : Wave} {x : Workgroup}
    (hw : s.waves.find key = some w) (hx : s.groups.find (64 * (keyCore key - 64) + w.wg) = some x) (h : x.phase ≠ phase) :
    s.waitState key lane (.wbar phase) first = .go s := by
  have hphase : (x.phase != phase) = true := by simpa using h
  simp only [State.waitState, State.groupOf, hw, hx, hphase, if_true]

/-- The threads that complete a phase of their workgroup's barrier, and what it leaves. -/
theorem groupBarrier_ready {g : BitVec 4} {is : Iss} {s : State} {sv : List DWord} {lv : List (List Word)}
    (h : (groupBarrier g).ready is s sv lv) :
    ∃ w x, s.waves.find is.key = some w ∧
      let core := keyCore is.key - 64
      let k := 64 * core + w.wg
      let n := x.arrived + is.threads.length
      let t := s.withGroup k { x with arrived := n }
      s.groups.find k = some x ∧ t.liveThreads (t.groupWaves core w.wg) ≤ n ∧
        (groupBarrier g).effect is s sv lv = s.withGroup k { x with arrived := 0, phase := x.phase + 1 } := by
  obtain ⟨hsome, hwg⟩ := h
  obtain ⟨p, hall⟩ := Option.isSome_iff_exists.1 hsome
  have heffect : (groupBarrier g).effect is s sv lv = s.withGroup p.1 { p.2 with arrived := 0, phase := p.2.phase + 1 } := by
    simp only [groupBarrier, waitRun, hall, State.withGroup]
  obtain ⟨k, hkey, hall⟩ := Option.bind_eq_some_iff.1 hall
  obtain ⟨x, hx, hall⟩ := Option.bind_eq_some_iff.1 hall
  obtain ⟨hlive, hp⟩ := Option.ite_none_right_eq_some.1 hall
  cases hp
  obtain ⟨w, hw, rfl⟩ := Option.map_eq_some_iff.1 hkey
  have hmod : (64 * (keyCore is.key - 64) + w.wg) % 64 = w.wg := by
    have := hwg w hw
    omega
  rw [hmod] at hlive
  exact ⟨w, x, hw, hx, hlive, heffect⟩

theorem groupBarrier_vision (g : BitVec 4) : (groupBarrier g).vision (0x000000FB + put g 8) := by
  have hg := g.isLt
  refine Run.vision_waves (g := g) (.inr ⟨?_, ?_⟩) ?_ ⟨rfl, rfl, rfl, rfl, rfl, rfl⟩
  · unfold put; omega
  · exact (beq_eq_false_iff_ne.2 (by unfold bitsN put; omega)).symm
  · unfold put; omega

/-- The threads that complete a phase arrive and go on. -/
theorem execWbar_completes (g : BitVec 4) : (groupBarrier g).completes := by
  refine Run.of_wave (groupBarrier_vision g) (fun _ => rfl) fun is s sv lv ⟨hk, hne, _⟩ hr => ?_
  obtain ⟨w, x, hw, hx, hlive, heffect⟩ := groupBarrier_ready hr
  have harrived : 0 < x.arrived + is.threads.length := Nat.add_pos_right _ (List.length_pos_iff.2 hne)
  have hends := (State.checkWbar_all (State.withGroup_find ..) harrived hlive).trans (State.withGroup_withGroup ..)
  simp only [hw, hx]
  refine (congrArg (State.block · is fun _ => .wbar x.phase) hends).trans ?_
  rw [heffect]
  exact State.block_goes hk fun l _ => State.waitState_wbar hw (State.withGroup_find ..) (Nat.succ_ne_self _)

/-! ### gbar (R151) -/

@[simp] theorem State.setSlot_setSlot (s : State) (k : Nat) (x y : Slot) : (s.setSlot k x).setSlot k y = s.setSlot k y := by
  simp only [State.setSlot, Tab.put_put]

theorem State.checkGbar_all {s : State} {slot : Nat} (hsome : 0 < (s.slotAt slot).gbarCount)
    (hall : s.liveThreads (s.jobWaves slot) ≤ (s.slotAt slot).gbarCount) :
    s.checkGbar slot = s.modSlot slot fun x => { x with gbarPhase := x.gbarPhase + 1, gbarCount := 0 } := by
  simp only [State.checkGbar, State.modSlot, hsome, hall, decide_true, Bool.and_self, if_true]

/-- A phase that has ended lets a thread of the grid's job go on. -/
theorem State.waitState_gbar {s : State} {key lane phase : Nat} {first : Bool}
    (h : (s.slotAt (s.jobOf key lane)).gbarPhase ≠ phase) : s.waitState key lane (.gbar phase) first = .go s := by
  have hphase : ((s.slotAt (s.jobOf key lane)).gbarPhase != phase) = true := by simpa using h
  exact if_pos hphase

theorem gridBarrier_vision (g : BitVec 4) : (gridBarrier g).vision (0x000030F7 + put g 8) := by
  have hg := g.isLt
  refine Run.vision_waves (g := g) (.inl ⟨?_, rfl⟩) ?_ ⟨rfl, rfl, rfl, rfl, rfl, rfl⟩ <;> (unfold put; omega)

/-- The threads that complete a phase of their grid's barrier arrive and go on. -/
theorem execGbar_completes (g : BitVec 4) : (gridBarrier g).completes := by
  refine Run.of_wave (gridBarrier_vision g) (fun _ => rfl) fun is s sv lv ⟨hk, hne, _⟩ ⟨hflag, hjob, hlive⟩ => ?_
  let slot := s.jobOf is.key (is.threads.headD 0)
  let n := (s.slotAt slot).gbarCount + is.threads.length
  let reached : Slot := { s.slotAt slot with gbarCount := n }
  let ended : Slot := { s.slotAt slot with gbarPhase := (s.slotAt slot).gbarPhase + 1, gbarCount := 0 }
  have hcount : ((s.setSlot slot reached).slotAt slot).gbarCount = n := congrArg Slot.gbarCount (s.slotAt_setSlot_same ..)
  have harrived : 0 < n := Nat.add_pos_right _ (List.length_pos_iff.2 hne)
  have hends : (s.setSlot slot reached).checkGbar slot = s.setSlot slot ended := by
    rw [State.checkGbar_all (by rwa [hcount]) (by rwa [hcount]), State.modSlot, State.slotAt_setSlot_same,
      State.setSlot_setSlot]
  have hgoes : ∀ l ∈ is.threads, (s.setSlot slot ended).waitState is.key l (.gbar (s.slotAt slot).gbarPhase) true =
      .go (s.setSlot slot ended) := fun l hl => State.waitState_gbar (by
    have hslot : (s.setSlot slot ended).jobOf is.key l = slot := hjob l hl
    rw [hslot, State.slotAt_setSlot_same]
    exact Nat.succ_ne_self _)
  refine (if_neg (ne_true_of_eq_false (congrArg not hflag))).trans ?_
  exact (congrArg (State.block · is fun _ => .gbar (s.slotAt slot).gbarPhase) hends).trans (State.block_goes hk hgoes)

/-! ### Extended blocks (R147) -/

/-- A wave that holds a block goes on (R147). -/
theorem State.waitState_xacq {s : State} {key lane : Nat} {first : Bool} {w : Wave} (hw : s.waves.find key = some w)
    (hb : w.block.isSome = true) : s.waitState key lane .xacq first = .go s := by
  simp only [State.waitState, hw, hb, if_true]

theorem blockAcquire_vision (g : BitVec 4) : (blockAcquire g).vision (0x000010F7 + put g 8) := by
  have hg := g.isLt
  refine Run.vision_waves (g := g) (.inl ⟨?_, rfl⟩) ?_ ⟨rfl, rfl, rfl, rfl, rfl, rfl⟩ <;> (unfold put; omega)

/-- xacq (R147). -/
theorem execXacq_completes (g : BitVec 4) : (blockAcquire g).completes := by
  refine Run.of_wave (blockAcquire_vision g) (fun _ => rfl) fun is s sv lv ⟨hk, _⟩ hr => ?_
  have hholds (w : Wave) (hw : s.waves.find is.key = some w) (hb : w.block.isSome = true) :
      s.block is (fun _ => .xacq) = done s := State.block_goes hk fun _ _ => State.waitState_xacq hw hb
  obtain hheld | ⟨hempty, hfree⟩ := hr
  · cases hw : s.waves.find is.key with
    | none => simp [hw] at hheld
    | some w =>
      have hb : w.block.isSome = true := by simpa [hw] using hheld
      simp [hw, hb, hholds w hw hb, blockAcquire, waitRun, done]
  · obtain ⟨b, hfree⟩ := Option.isSome_iff_exists.1 hfree
    cases hw : s.waves.find is.key with
    | none => simp [hw, hempty, hfree, blockAcquire, waitRun, done]
    | some w =>
      cases hb : w.block.isSome with
      | true => simp [hw, hb, hholds w hw hb, blockAcquire, waitRun, done]
      | false => simp [hw, hb, hempty, hfree, blockAcquire, waitRun, done]

/-! ### Words without a wait -/

/-- xrel (R147). -/
theorem execXrel_completes (g : BitVec 4) :
    ({ instr := .xrel g, g := g, legal := 0x20, effect := fun is s _ _ => s.yieldBlock is.key } : Run).completes := by
  have hg := g.isLt
  refine Run.of_wave (word := 0x000020F7 + put g 8) (Run.vision_waves (g := g) (.inl ⟨?_, rfl⟩) ?_
    ⟨rfl, rfl, rfl, rfl, rfl, rfl⟩) (fun _ => rfl) fun _ _ _ _ _ _ => rfl <;> (unfold put; omega)

/-- exit (R156): the effect itself says where the threads stand. -/
theorem execExit_completes (g : BitVec 4) :
    ({ instr := .exit g, g := g, legal := 0x20, stays := true,
       effect := fun is s _ _ => s.exitThreads is.key is.threads } : Run).completes := by
  let word := 0x0000F01F + put g 8
  have hg := g.isLt
  have hminor : bitsN word 12 8 = 0x0F := by unfold word put bitsN; omega
  exact Run.of_wave (word := word) (region := some .own)
    { legal := rfl
      half := rfl
      fits := wordFits_system (by unfold word put; omega) (by unfold word put; show _ = g.toNat; omega)
      major := by unfold word put bitsN; omega
      minor := fun _ => by omega
      turns := rfl
      record := rfl
      links := rfl } (fun _ => rfl) fun _ _ _ _ _ _ => rfl

theorem groupFetch_vision (x : BitVec 6) (g : BitVec 4) : (groupFetch x g).vision (0x000000F7 + put x 26 + put g 8) := by
  have hg := g.isLt
  refine Run.vision_waves (g := g) (.inl ⟨?_, rfl⟩) ?_ ⟨rfl, rfl, rfl, rfl, rfl, rfl⟩ <;> (unfold put; omega)

/-- fetchwg (R149): a request that the workgroup may make. -/
theorem execFetchwg_completes (x : BitVec 6) (g : BitVec 4) : (groupFetch x g).completes := by
  refine Run.of_wave (groupFetch_vision x g) (fun _ => rfl) fun is s sv lv _ ⟨k, y, hkey, hy, halign, hin, hspare⟩ => ?_
  have hchosen : (groupKey s is.key).bind (fun k => (s.groups.find k).map fun y => (k, y)) = some (k, y) := by
    rw [hkey, Option.bind_some, hy, Option.map_some]
  obtain ⟨w, hw, rfl⟩ := Option.map_eq_some_iff.1 hkey
  have hfits : ((sval sv 0).toNat % 16 != 0 || decide (y.units * 4096 < (sval sv 0).toNat + 16)) = false := by
    simpa [sval, Nat.not_lt] using And.intro halign hin
  simp only [hw, hy, hfits, Nat.not_le.2 hspare, Bool.false_eq_true, if_false, groupFetch, hchosen]
  rfl

/-! ### sample (R154, R155) -/

/-- The descriptor and the samples of a good sample, and what it leaves. -/
theorem sampleRun_ready {d c im : BitVec 6} {g : BitVec 4} {is : Iss} {s : State} {sv : List DWord} {lv : List (List Word)}
    (h : (sampleRun d c im g).ready is s sv lv) :
    ∃ t b image step out, (sval sv 0).toNat % 32 = 0 ∧
      s.memRead is.key (is.threads.headD 0) (sval sv 0).toNat 32 = .ok (t, b) ∧ imageOf (leBytes 32 b) = some image ∧
      (∀ acc l next, step acc l = some next → ∃ v r,
        acc.1.sampleAt is.key l image (lval lv 0 l).toNat (lval lv 1 l).toNat = .ok (v, r) ∧
          next = (v, acc.2 ++ [(l, r)])) ∧
      is.lanes.foldlM step (t, []) = some out ∧
      (sampleRun d c im g).effect is s sv lv = (out.1.orLaneFlags is.key (out.2.map fun r => (r.1, r.2.2))).giveLanes is.key
        d.toNat (out.2.map fun r => (r.1, r.2.1)) := by
  obtain ⟨out, hact⟩ := Option.isSome_iff_exists.1 h
  have heffect : (sampleRun d c im g).effect is s sv lv =
      (out.1.orLaneFlags is.key (out.2.map fun r => (r.1, r.2.2))).giveLanes is.key d.toNat
        (out.2.map fun r => (r.1, r.2.1)) := by
    simp only [sampleRun, hact]
  obtain ⟨halign, hact⟩ := Option.ite_none_left_eq_some.1 hact
  split at hact
  case h_1 => cases hact
  case h_2 t b hread =>
  obtain ⟨image, himage, hlanes⟩ := Option.bind_eq_some_iff.1 hact
  refine ⟨t, b, image, _, out, Decidable.not_not.1 halign, hread, himage, fun acc l next hnext => ?_, hlanes, heffect⟩
  split at hnext
  case h_1 => cases hnext
  case h_2 u r hsample =>
  cases hnext
  exact ⟨u, r, hsample, rfl⟩

theorem sampleRun_vision (d c im : BitVec 6) (g : BitVec 4) :
    (sampleRun d c im g).vision (0x000010FB + put d 26 + put c 20 + put im 14 + put g 8) := by
  have hg := g.isLt
  refine Run.vision_waves (g := g) (.inr ⟨?_, ?_⟩) ?_ ⟨rfl, rfl, rfl, rfl, rfl, rfl⟩
  · unfold put; omega
  · exact (beq_iff_eq.2 (by unfold bitsN put; omega)).symm
  · unfold put; omega

/-- Every lane's sample is taken, and none stops. -/
theorem execSample_completes (d c im : BitVec 6) (g : BitVec 4) : (sampleRun d c im g).completes := by
  refine Run.of_wave (sampleRun_vision d c im g) (fun _ => rfl) fun is s sv lv ⟨_, _, hd⟩ hr => ?_
  obtain ⟨t, b, image, step, out, halign, hread, himage, hstep, hlanes, heffect⟩ := sampleRun_ready hr
  rw [heffect, ← (State.lput_plain _ is _ (hd d.toNat (List.mem_singleton.2 rfl))).1]
  have hodd : ((sval sv 0).toNat % 32 != 0) = false := by simpa using halign
  simp only [hodd, hread, himage, Bool.false_eq_true, if_false]
  rw [eachLane_of_foldlM (fun acc l next hnext => ?_) hlanes]
  · rfl
  · obtain ⟨v, r, hsample, hout⟩ := hstep acc l next hnext
    exact ⟨v, r, by rw [hsample], hout⟩

end Sys2Proof.Machine

namespace Sys2Proof
open Machine

/-- Settles O29: one lemma for each of the seven words. -/
theorem workgroups : Obligations.Workgroups := by
  intro x d c im g
  exact List.forall_mem_cons.2 ⟨execWbar_completes g, List.forall_mem_cons.2 ⟨execGbar_completes g,
    List.forall_mem_cons.2 ⟨execXacq_completes g, List.forall_mem_cons.2 ⟨execXrel_completes g,
    List.forall_mem_cons.2 ⟨execFetchwg_completes x g, List.forall_mem_cons.2 ⟨execSample_completes d c im g,
    List.forall_mem_singleton.2 (execExit_completes g)⟩⟩⟩⟩⟩⟩

end Sys2Proof
end

section
/-! PROOFS. rinit and the deliveries that stand at its ring (R81, R192, R196, R267, R271). -/

namespace Sys2Proof.Machine

/-! ### A delivery that rinit drops completes its route -/

/-- The stream of LE on core 0, context 1. -/
def loader : Nat := streamKey 0 1 1

/-- A tile card (R103) with 128 units of scratchpad from the start. -/
def loaderCard : List Byte := 1 :: List.replicate 0x2D 0 ++ 0x80 :: List.replicate 0x51 0

/-- A route descriptor (R264) of one row of 4 bytes with one choice: its output at 0x1000, its drop map at 0x2000, a timeout of
1000 ns, entry 0. -/
def oneChoiceDesc : List Byte :=
  [0x300, 4, 0x400, 0x1000, 4, 0x4000, 0x2000, 1000].flatMap (leBytes 4) ++ [4, 4, 1].flatMap (leBytes 2) ++
    1 :: List.replicate 25 0

/-- The loader's route, which waits for its one choice and pushes a token towards ME when it completes (R271). -/
def oneChoiceRoute : Rte :=
  { state := 1, deadline := 1000, key := loader, desc := oneChoiceDesc, vec := [0], g := 1, fate := [1], rowsDone := [false] }

/-- The loader issues rinit of ring 3 with s2, the address of a control block of COUNT 0. Its token FIFO towards ME has room for
one token, and the delivery of its route stands at ring 3, which is full. -/
def lastRoom : State :=
  { State.reset with
    cur := some { wave := false, key := loader, set := [0] }
    ctl := [(ctlKey loader 0, { life := .live, len := 2, atHeader := false })]
    sreg := [(64 * loader + 2, 0xFFFFFFFFFF000000)]
    slots := [(0, { state := 3, card := loaderCard, started := true, cores := [0] })]
    ctxJob := [(ctxKey 0 1, 0)]
    tokens := [(8 * ctxKey 0 1 + fifoToNext 1, 31)]
    rings := [(3, { holder := some 0, tail := 1 })]
    rtes := [(0, oneChoiceRoute)]
    flights := [(1, .delivery { key := loader, job := 0, source := .route 0 0 0 0 0, core := 0, ring := 3, gen := 0,
                                head := List.replicate 20 0, arrived := true })]
    nextId := 2 }

/-- rinit of ring 3 with s2, which pushes a token towards ME. -/
def initRing3 : Run := ringInitRun 2 3 1

theorem lastRoom_issuing : lastRoom.issuing loader [0] initRing3.unit := by
  refine ⟨rfl, by decide, fun _ => rfl, fun l hl => ?_⟩
  obtain rfl := List.mem_singleton.1 hl
  exact ⟨rfl, rfl, fun _ => rfl, rfl, rfl, rfl⟩

theorem lastRoom_admits : lastRoom.admits loader [0] initRing3.g initRing3.half := by
  have htile : ¬isWave loader = true := by decide
  rw [State.admits, if_neg htile]
  decide +kernel

theorem lastRoom_allowed : initRing3.allowed lastRoom loader [0] where
  legal := by decide
  last := nofun
  inside := nofun
  unplaced := nofun
  record := nofun
  noQueue := nofun
  pairs := nofun
  crosses := nofun

theorem lastRoom_operands :
    lastRoom.operandsReady loader [0] initRing3.ssrc initRing3.sdst initRing3.lsrc initRing3.ldst initRing3.links := by
  refine ⟨?_, .inl ⟨rfl, rfl⟩, fun _ _ _ _ _ => List.not_mem_nil⟩
  unfold State.scalarsReady
  decide +kernel

/-- The state in which rinit has its effect, and the operands it reads. -/
def lastRoomRead : State × List DWord × List (List Word) :=
  lastRoom.reads loader [0] initRing3.g initRing3.lane initRing3.ssrc initRing3.lsrc

theorem lastRoom_ready :
    initRing3.ready { key := loader, threads := [0], lanes := issueLanes loader [0] } lastRoomRead.1 lastRoomRead.2.1
      lastRoomRead.2.2 := by
  have hread : State.mayRead (lastRoomRead.1.finishReadouts loader) loader (lastRoomRead.2.1.getD 0 0).toNat 64 := by
    unfold State.mayRead State.inJob
    decide +kernel
  refine ⟨?_, .inr ?_, ?_, hread, ?_⟩
  · unfold State.readoutsQuiet
    decide +kernel
  all_goals decide +kernel

/-- Whether the loader's instruction stands at its retirement. -/
def retiring : Host.Outcome State Fault Refusal → Bool
  | .next t => (t.ctlAt loader 0).retire.isSome
  | _ => false

/-- The route's completion takes the last room of the FIFO, so rinit is not past its retirement: it waits there for room for its own
token (R80). -/
theorem initRing3_stalls : ¬initRing3.completes := by
  intro h
  have hends := congrArg retiring
    (h lastRoom loader [0] lastRoom_issuing lastRoom_admits lastRoom_allowed lastRoom_operands lastRoom_ready)
  have hstands : retiring (exec initRing3.instr lastRoom) = true := by decide +kernel
  rw [hstands] at hends
  revert hends
  decide +kernel

end Sys2Proof.Machine

namespace Sys2Proof
open Machine

/-- Refutes O30: rinit drops the deliveries that stand at its ring (R192), which completes the route of one of them (R267, R271);
the token that the completion pushes fills the FIFO to which rinit itself pushes, and rinit stalls at its retirement. -/
theorem not_rings : ¬Obligations.Rings := by
  intro h
  obtain ⟨hruns, -, -⟩ := h
  exact initRing3_stalls (hruns 2 3 1 (by decide) initRing3 (by simp [ringRuns, initRing3]))

end Sys2Proof
end

section
/-! PROOFS. Copies, deliveries, pushes, returns, flag updates and elements, each as it arrives (R188, R194 to R197, R204, R210, R211,
R267 to R272, R341). -/

namespace Sys2Proof.Machine

/-! ### Flag updates and copies (R204, R210, R211, R341) -/

/-- Whether a flight is a flag update of a stream of a job: those are performed in the order they were sent. -/
def flagOf (key job : Nat) (f : Flight) : Bool := match f with | .flag v => v.key == key && v.job == job | _ => false

/-- No flight before another meets a test. -/
theorem State.noneBefore.any {s : State} {id : Nat} {p : Flight → Bool} (h : s.noneBefore id p) :
    (s.flights.any fun e => decide (e.1 < id) && p e.2) = false := by
  simpa using fun k f => h (k, f)

theorem execFlagUpdate_first {s : State} {id : Nat} {u : FlagUpd} (hfound : s.flights.find id = some (.flag u))
    (hfirst : s.noneBefore id (flagOf u.key u.job)) : execFlagUpdate id s = .next (s.performFlag id u) := by
  simp only [execFlagUpdate, hfound]
  exact congrArg Host.Outcome.next (if_neg (ne_true_of_eq_false hfirst.any))

theorem State.runCopy_runs {s : State} {id : Nat} {c : Cmd} (hfound : s.flights.find id = some (.copy c)) (hstop : c.stop = none)
    (hafter : c.after = none) : s.runCopy id = some (s.copyRun c (c.count - c.pos)) := by
  simp only [State.runCopy, hfound, Cmd.runs, hstop, hafter, Option.isNone_none, Bool.and_self, if_true]

/-- A command all of whose elements are performed completes. -/
theorem execCopyCompletion_whole {s t : State} {id : Nat} {c : Cmd} (h : s.runCopy id = some (t, c, none)) :
    execCopyCompletion id s = .next ((t.setFlight id (.copy c)).finishCopy id c) := by
  simp only [execCopyCompletion, h]

/-- A command one of whose elements cannot be completed stops there. -/
theorem execCopyElementFault_at {s t : State} {id : Nat} {c : Cmd} {reason faddr : Nat}
    (h : s.runCopy id = some (t, c, some (reason, faddr))) :
    execCopyElementFault id s = .next (t.failCopy id c reason faddr) := by
  simp only [execCopyElementFault, h]

/-! ### Deliveries (R196, R267, R272) -/

/-- Whether a delivery's route has reached its deadline and has not completed (R272). -/
def State.sourceLate (s : State) (src : Source) : Prop :=
  match src with
  | .route core n _ _ _ => (s.rteAt core n).state = 1 ∧ (s.rteAt core n).deadline ≤ s.ns
  | .push _ _ => False

theorem State.routeDue_late {s : State} {core n : Nat} (hactive : (s.rteAt core n).state = 1)
    (htime : (s.rteAt core n).deadline ≤ s.ns) : s.routeDue core n = s.routeDeadline core n := by
  simp [State.routeDue, hactive, htime]

/-- A route that is not late keeps its deliveries. -/
theorem State.sourceDue_of_not_late {s : State} {src : Source} (h : ¬s.sourceLate src) : s.sourceDue src = s := by
  cases src with
  | push id j => rfl
  | route core n seq row choice =>
    have hdue : ((s.rteAt core n).state == 1 && decide ((s.rteAt core n).deadline ≤ s.ns)) = false := by
      simpa [State.sourceLate] using h
    exact if_neg (ne_true_of_eq_false hdue)

/-- Whether a flight is a delivery of the stream of another to the same ring that has not arrived: they arrive in the order in which
they were sent (R196, R267). -/
def sameRing (d : Delivery) (f : Flight) : Bool := match f with
  | .delivery x => !x.arrived && x.key == d.key && x.job == d.job && x.core == d.core && x.ring == d.ring
  | _ => false

/-- A delivery on its way, of a route that is not late. -/
structure State.delivers (s : State) (id : Nat) (d : Delivery) : Prop where
  found : s.flights.find id = some (.delivery d)
  intime : ¬s.sourceLate d.source

theorem State.delivers.due {s : State} {id : Nat} {d : Delivery} (h : s.delivers id d) : s.deliveryDue id = s := by
  simp only [State.deliveryDue, h.found, State.sourceDue_of_not_late h.intime]

/-- A delivery that is next to arrive does so where its ring accepts it, and is dropped elsewhere. -/
theorem execRpushDeliveryArrival_next {s : State} {id : Nat} {d : Delivery} (h : s.delivers id d) (hway : d.arrived = false)
    (hfirst : s.noneBefore id (sameRing d)) :
    execRpushDeliveryArrival id s = .next (
      if s.ringAccepts d.core d.ring d.gen (keyCore d.key) (cardPart (s.slotAt d.job).card) d.head.length = true then
        { s.setFlight id (.delivery { d with arrived := true, order := s.nextId }) with nextId := s.nextId + 1 }
      else s.dropDelivery id d) := by
  have hbehind : s.deliveryBehind id d = false := hfirst.any
  simp only [execRpushDeliveryArrival, h.due, h.found, hway, hbehind, Bool.or_self, Bool.false_eq_true, if_false]
  split <;> rfl

/-- A delivery that arrived is accepted before later ones, where its ring has room. -/
theorem execRpushDeliveryAccept_room {s : State} {id : Nat} {d : Delivery} (h : s.delivers id d) (harrived : d.arrived = true)
    (hfirst : s.arrivedBefore d.core d.ring d.order = false)
    (hroom : (s.ringAt d.core d.ring).used < (s.ringAt d.core d.ring).count) :
    execRpushDeliveryAccept id s = .next (((s.land id).ringAppend d.core d.ring d.head).targetAccepted d.source) := by
  simp only [execRpushDeliveryAccept, h.due, h.found, harrived, hroom, hfirst, decide_true, Bool.not_false, Bool.and_self, if_true]

/-! ### Pushes that complete (R197) -/

/-- The targets that a push has lost, in order. -/
def Push.lost (p : Push) : List Nat := (p.status.zipIdx.filter fun x => x.1 = 2).map fun x => x.2

/-- A push that completes: STATUS and the tokens of its G field. -/
def State.pushEnds (s : State) (id : Nat) (p : Push) : State :=
  (((s.land id).locWrite (p.desc + 0x48)
    (leBytes 4 (0x80000000 + p.lost.length * 2 ^ 16 + (p.lost.map fun j => 2 ^ j).sum))).pushCompletion p.job p.key
      p.g).noteOutstanding p.job p.key

/-- The trap that a push owes for a lost target. -/
def Push.lossFault (p : Push) (id j : Nat) : Deferred :=
  { ord := id, cause := 0x10, cls := 1, info := (ringFault p.key (p.ringsOf.getD j 0) 11).info, atDelivery := false
    byHandler := p.byHandler, iaddr := some p.iaddr }

/-- Bits set one after another add up. -/
theorem foldl_two_pow (l : List Nat) (a : Nat) : l.foldl (fun a j => a + 2 ^ j) a = a + (l.map fun j => 2 ^ j).sum := by
  induction l generalizing a with
  | nil => rfl
  | cons j l ih => rw [List.foldl_cons, ih, List.map_cons, List.sum_cons, Nat.add_assoc]

/-- The first lost target is the one that the trap names. -/
theorem State.finishPush_eq (s : State) (id : Nat) (p : Push) :
    s.finishPush id p = match p.lost with
      | [] => s.pushEnds id p
      | j :: _ => if p.fou then (s.pushEnds id p).owe p.job p.key (p.lossFault id j) else s.pushEnds id p := by
  have hlost : (p.status.zipIdx.filter (·.1 == 2)).map (·.2) = p.lost := rfl
  simp only [State.finishPush, hlost, foldl_two_pow, Nat.zero_add, State.pushEnds]
  generalize p.lost = lost
  cases p.fou <;> cases lost <;> rfl

theorem execRpushCompletion_answered {s : State} {id : Nat} {p : Push} (hfound : s.flights.find id = some (.push p))
    (hall : ∀ x ∈ p.status, x ≠ 0) : execRpushCompletion id s = .next (s.finishPush id p) := by
  have hanswered : (p.status.all fun x => x != 0) = true := by simpa using hall
  simp only [execRpushCompletion, hfound, hanswered, if_true]

/-! ### Returns (R268 to R270) -/

theorem execRouteReturnArrival_first {s : State} {id : Nat} {r : Ret} (hfound : s.flights.find id = some (.ret r))
    (hway : r.answered = false) :
    execRouteReturnArrival id s =
      .next ((s.setFlight id (.ret { r with answered := true })).acceptReturn r.origin r.rte r.seq r.row r.choice r.bytes) := by
  simp only [execRouteReturnArrival, hfound, hway, Bool.false_eq_true, if_false]

/-- A return that was answered lands, and signals its stream unless its job has ended. -/
theorem execRretCompletion_answered {s : State} {id : Nat} {r : Ret} (hfound : s.flights.find id = some (.ret r))
    (hanswered : r.answered = true) :
    execRretCompletion id s = .next (if r.job = endedSlot then s.land id
      else ((s.land id).pushCompletion r.job r.key r.g).noteOutstanding r.job r.key) := by
  simp only [execRretCompletion, hfound, hanswered, Bool.true_and, beq_iff_eq, if_true]

/-! ### Elements and deadlines (R194, R272) -/

/-- A retirement that waits for nothing but rings of other cores. -/
theorem State.others_none {s : State} {key : Nat} {r : Retire} (h : ∀ y ∈ s.retireNeeds key r, ∃ m, y = .remote m) :
    ((s.retireNeeds key r).filter fun x => match x with | .remote _ => false | _ => true) = [] := by
  refine List.filter_eq_nil_iff.2 fun y hy => ?_
  obtain ⟨m, rfl⟩ := h y hy
  exact Bool.false_ne_true

/-- The first element that waits for a ring of another core, which accepts it and has room. -/
structure State.sendsElement (s : State) (key k : Nat) (r : Retire) (e : Nat × List Word) : Prop where
  running : (s.ctlAt key 0).frozenAt = none
  retires : (s.ctlAt key 0).retire = some r
  found : r.elems.find? (fun y => y.1 == k) = some e
  away : s.pushesHere key k = false
  alone : ∀ y ∈ s.retireNeeds key r, ∃ m, y = .remote m
  accepted : s.pushAccepted key k (bits (s.ringBinding key k) 8 8) = true
  room : (s.ringAt (bits (s.ringBinding key k) 8 8) (bits (s.ringBinding key k) 0 5)).used <
    (s.ringAt (bits (s.ringBinding key k) 8 8) (bits (s.ringBinding key k) 0 5)).count
  first : s.arrivedBefore (bits (s.ringBinding key k) 8 8) (bits (s.ringBinding key k) 0 5) (r.arrived.get s.nextId k) = false

theorem State.deliverElement_sent {s : State} {key k : Nat} {r : Retire} {e : Nat × List Word} (h : s.sendsElement key k r e) :
    s.deliverElement key k =
      let core := bits (s.ringBinding key k) 8 8
      let n := bits (s.ringBinding key k) 0 5
      ((s.ringAppend core n (laneBytes e.2 (s.ringAt core n).slotSize)).modCtl key 0 fun c =>
        { c with retire := some { r with elems := r.elems.erase e, arrived := r.arrived.del k } }).settle key := by
  have hothers := bne_eq_false_iff_eq.2 (State.others_none h.alone)
  have hroom := Nat.not_le.2 h.room
  unfold State.deliverElement
  simp only [h.running, h.retires, h.found]
  refine (if_neg ?_).trans ((if_neg ?_).trans (if_neg ?_))
  · exact ne_true_of_eq_false (Bool.or_eq_false_iff.2 ⟨Bool.or_eq_false_iff.2 ⟨h.away, hothers⟩, rfl⟩)
  · simp [h.accepted]
  · simp [hroom, h.first]

/-- The number of a ring element's delivery names its stream and its register. -/
theorem execRingElementDelivery_sent {s : State} {key : Nat} {x : BitVec 1} {r : Retire} {e : Nat × List Word}
    (h : s.sendsElement key (2 + x.toNat) r e) :
    execRingElementDelivery (2 * key + x.toNat) s = .next (
      let core := bits (s.ringBinding key (2 + x.toNat)) 8 8
      let n := bits (s.ringBinding key (2 + x.toNat)) 0 5
      ((s.ringAppend core n (laneBytes e.2 (s.ringAt core n).slotSize)).modCtl key 0 fun c =>
        { c with retire := some { r with elems := r.elems.erase e, arrived := r.arrived.del (2 + x.toNat) } }).settle key) := by
  have hx := x.isLt
  have hkey : (2 * key + x.toNat) / 2 = key := by omega
  have hreg : (2 * key + x.toNat) % 2 = x.toNat := by omega
  rw [execRingElementDelivery, hkey, hreg, State.deliverElement_sent h]

end Sys2Proof.Machine

namespace Sys2Proof
open Machine

/-- Flags, copies, deliveries, pushes and returns: an arriving delivery is accepted or dropped, and the job of a return goes on or
has ended. -/
theorem arrivals_occur (id : Nat) (u : FlagUpd) (c : Cmd) (d : Delivery) (p : Push) (r : Ret) (reason faddr : Nat) :
    ∀ h ∈ arrivals id u c d p r reason faddr, h.occurs := by
  refine Happening.occurs_cons (fun s h => ?_) <| Happening.occurs_cons (fun s h => ?_) <|
    Happening.occurs_cons (fun s h => ?_) <| Happening.occurs_cons (fun s h => ?_) <|
    Happening.occurs_cons (fun s h => ?_) <| Happening.occurs_cons (fun s h => ?_) <|
    Happening.occurs_cons (fun s h => ?_) <| Happening.occurs_cons (fun s h => ?_) <|
    Happening.occurs_cons (fun s h => ?_) <| Happening.occurs_singleton fun s h => ?_
  · obtain ⟨hfound, hfirst⟩ := h
    exact execFlagUpdate_first hfound hfirst
  · obtain ⟨hfound, hstop, hafter, hmoved⟩ := h
    refine execCopyCompletion_whole ((State.runCopy_runs hfound hstop hafter).trans ?_)
    rw [← hmoved]
  · obtain ⟨hfound, hstop, hafter, hmoved⟩ := h
    refine execCopyElementFault_at ((State.runCopy_runs hfound hstop hafter).trans ?_)
    rw [← hmoved]
  · obtain ⟨hfound, hway, hfirst, hlate, haccepted⟩ := h
    exact (execRpushDeliveryArrival_next ⟨hfound, hlate⟩ hway hfirst).trans (congrArg _ (if_pos haccepted))
  · obtain ⟨hfound, hway, hfirst, hlate, haccepted⟩ := h
    exact (execRpushDeliveryArrival_next ⟨hfound, hlate⟩ hway hfirst).trans (congrArg _ (if_neg haccepted))
  · obtain ⟨hfound, harrived, hfirst, hlate, hroom⟩ := h
    exact execRpushDeliveryAccept_room ⟨hfound, hlate⟩ harrived hfirst hroom
  · obtain ⟨hfound, hall⟩ := h
    exact (execRpushCompletion_answered hfound hall).trans (congrArg _ (s.finishPush_eq id p))
  · obtain ⟨hfound, hway⟩ := h
    exact execRouteReturnArrival_first hfound hway
  · obtain ⟨hfound, hanswered, hended⟩ := h
    exact (execRretCompletion_answered hfound hanswered).trans (congrArg _ (if_pos hended))
  · obtain ⟨hfound, hanswered, hruns⟩ := h
    exact (execRretCompletion_answered hfound hanswered).trans (congrArg _ (if_neg hruns))

/-- Settles O46: one lemma for each event, those of flights above, an element's delivery and a route's deadline here. -/
theorem arrivals : Obligations.Arrivals := by
  refine ⟨arrivals_occur, fun key x r e core n => ?_⟩
  refine Happening.occurs_cons (fun s h => ?_) <| Happening.occurs_singleton fun s h => ?_
  · obtain ⟨hrunning, hretires, hfound, haway, halone, haccepted, hroom, hfirst⟩ := h
    exact execRingElementDelivery_sent ⟨hrunning, hretires, hfound, haway, halone, haccepted, hroom, hfirst⟩
  · obtain ⟨hactive, htime⟩ := h
    exact congrArg Host.Outcome.next (State.routeDue_late hactive htime)

end Sys2Proof
end

section
/-! PROOFS. The weight macros (R251 to R258). -/

namespace Sys2Proof.Machine

/-! ### An instruction that begins now and retires later -/

/-- A stream's instruction with nothing in its way that only begins (R78). -/
theorem State.issue_pending {s t : State} {op : Op} {key : Nat} {set : List Nat} {g : BitVec 4}
    {body : Iss → State → List DWord → List (List Word) → Eff}
    (hi : s.issuing key set) (hk : isWave key = false) (hg : op.good key g) (hp : op.placed (s.ctlAt key 0))
    (hcmp : op.completes = true → (s.ctlAt key 0).pp.length < 64) (ha : s.admits key set g op.half)
    (ho : s.operandsReady key set op.ssrc op.sdst op.lsrc op.ldst) (hd : op.deliver = false) (hw : op.wait = false)
    (hbody :
      let r := s.reads key set g op.laneOperation op.ssrc op.lsrc
      body { key := key, threads := set, lanes := issueLanes key set } r.1 r.2.1 r.2.2 = { st := t, pending := true }) :
    s.issue op body = .next (t.modCtl key 0 fun c =>
      { c with waitG := g.toNat, stall := [], poppedT := popFifos key g.toNat
               poppedQ := popEntries key op.ssrc (s.reads key set g op.laneOperation op.ssrc op.lsrc).2.1 }) := by
  obtain rfl : set = [0] := hi.2.2.1 hk
  obtain ⟨hcur, -, -, hclear⟩ := hi
  have hc : (s.ctlAt key 0).clear := hclear 0 (List.mem_singleton.2 rfl)
  obtain ⟨hregion, harmed, -, -, -, hdeferred⟩ := id hc
  have hadm := ha
  rw [State.admits, if_neg (ne_true_of_eq_false hk)] at hadm
  obtain ⟨hce, hpop, -, -⟩ := hadm
  have htokens : op.tokens key = g.toNat := Op.good_tokens hg hk hce
  have hword : s.wordFault op key 0 = none := State.wordFault_none <|
    Op.good_fault (u := false) hg s 0 hp nofun hc (fun _ => hce) fun h => absurd h (ne_true_of_eq_false hk)
  have hreadouts : (if s.pushing op key = true then s.finishReadouts key else s) = s :=
    ite_eq_right_iff.2 fun h => State.finishReadouts_none s key (ho.quiet ha hg h)
  have hmet : (s.popNeeds key g.toNat op.ssrc op.lsrc ++ (if op.completes then [Need.recordRoom] else []) ++
      (((op.ssrc ++ op.sdst).filter fun x => x < 32 && op.chain != some x).map Need.register)).filter
        (fun n => !s.needMet key n) = [] := by
    rw [List.filter_eq_nil_iff]
    intro n hn
    suffices h : s.needMet key n = true by simp [h]
    rw [List.mem_append, List.mem_append, mem_popNeeds] at hn
    obtain ((hn | hn) | hn) | hn := hn
    · exact hpop n hn
    · exact ho.needs n (List.mem_append.2 hn)
    · obtain ⟨hcp, hn⟩ := List.mem_ite_nil_right.1 hn
      obtain rfl := List.mem_singleton.1 hn
      simpa [State.needMet] using hcmp hcp
    · obtain ⟨x, hx, rfl⟩ := List.mem_map.1 hn
      obtain ⟨hx, hlow⟩ := List.mem_filter.1 hx
      simp only [Bool.and_eq_true, decide_eq_true_eq, bne_iff_ne, ne_eq] at hlow
      simpa [State.needMet] using ho.pend hk (links := []) (by simp) x hx hlow.1 hlow.2
  have hnone : s.hasDeferred key 0 true = false := by simp [State.hasDeferred, hdeferred]
  have hbegins : body { key := key, threads := [0], lanes := upTo (laneCount key) }
      (((s.popTokens key g.toNat).popScalars key op.ssrc).1.popLanes key op.lsrc).1
      ((s.popTokens key g.toNat).popScalars key op.ssrc).2
      (((s.popTokens key g.toNat).popScalars key op.ssrc).1.popLanes key op.lsrc).2 = { st := t, pending := true } := by
    simpa [State.reads, State.begun, hk, issueLanes] using hbody
  simp only [State.issue, hcur, hk, Bool.false_eq_true, if_false, State.issueStream, hword, hregion, Option.isSome_none,
    Bool.false_and, harmed, State.issueReady, ho.bind, htokens, hreadouts, hmet, bne_self_eq_false, Bool.or_false,
    ho.sourced (List.mem_singleton.2 rfl) hk, State.regionCheck, hbegins, hd, hw, hnone, Bool.and_false, if_true,
    State.reads, State.begun]

/-- An instruction of tile engines that begins now and retires later: it completes when its body holds what it will write. -/
theorem heldRun_completes {i : Instr} {word legal : Nat} {g : BitVec 4} {ssrc units : List Nat} {record bad : Bool}
    {ready : Iss → State → List DWord → Prop} {held : Iss → State → List DWord → State × Late}
    {body : Iss → State → List DWord → List (List Word) → Eff}
    (he : ∀ s, exec i s =
      s.issue { word := word, legal := legal, completes := record, ssrc := ssrc, units := units, bad := bad } body)
    (hw : wordFits word 2 g false) (hbad : bad = false) (hlegal : bitN legal 5 = false)
    (hb : ∀ is s sv lv, isWave is.key = false → ready is s sv → body is s sv lv =
      { st := (held is s sv).1.modCtl is.key 0 fun c => { c with late := some (held is s sv).2 }, pending := true }) :
    (heldRun i g legal ssrc record ready held).completes := by
  intro s key set hi ha hal ho r is hr
  have hk : isWave key = false := by
    cases hk : isWave key with
    | false => rfl
    | true =>
      have := hal.legal
      rw [hk, if_pos rfl] at this
      exact absurd (hlegal.symm.trans this) nofun
  let op : Op := { word := word, legal := legal, completes := record, ssrc := ssrc, units := units, bad := bad }
  have hgood : op.good key g := ⟨rfl, by simp [op, bitN], hal.legal, ho.legal hbad (by simp [op]) (by simp [op]), hw.1⟩
  have hplaced : op.placed (s.ctlAt key 0) := ⟨nofun, nofun, nofun, nofun⟩
  have hlane : op.laneOperation = false := hw.2
  have hbegins := State.issue_pending
    (t := (held is r.1 r.2.1).1.modCtl key 0 fun c => { c with late := some (held is r.1 r.2.1).2 }) hi hk hgood
    hplaced hal.record ha ho rfl rfl (by rw [hlane]; exact hb is r.1 r.2.1 r.2.2 hk hr)
  rw [hlane] at hbegins
  refine ((he s).trans hbegins).trans ?_
  simp only [heldRun, is, State.concluded, hk, Bool.and_false, Bool.false_eq_true, if_false, if_true, List.foldl_nil,
    State.modCtl_modCtl]
  rfl

/-- A long word of major 0x3B has its G field in bits 11:8, is no lane operation (R138) and no branch of R143. -/
theorem wordFits_macro {word : Nat} {g : BitVec 4} (hmajor : word % 256 = 0xEF) (hg : word / 256 % 16 = g.toNat) :
    wordFits word 2 g false ∧ ({ word := word, legal := onMe } : Op).turnsBack = false := by
  have hbits : bitsN word 2 6 = 59 := by unfold bitsN; omega
  refine ⟨⟨hg, by simp [Op.laneOperation, laneWord, hbits]⟩, turnsBack_other ?_ ?_⟩
  · simp [hbits]
  · simp [hbits]

/-! ### What an instruction may read -/

/-- A stream's access that lies in its card's slice translates to that place. -/
theorem State.aperture_of_in {s : State} {key va n : Nat} (hk : isWave key = false)
    (hlow : ¬apertureOff va < cardBase (s.cardOf key 0) * 4096)
    (hhigh : ¬(cardBase (s.cardOf key 0) + cardSize (s.cardOf key 0)) * 4096 < apertureOff va + n) :
    s.aperture key 0 va n = .ok (locKey (keyCore key) 0 + apertureOff va) := by
  simp only [State.aperture, State.apertureOf, hk, Bool.false_eq_true, if_false, hlow, hhigh]

theorem State.apertureBytes_of_sound {s : State} {key va n k : Nat} (hin : s.aperture key 0 va n = .ok k)
    (hsound : s.placePoisoned (.loc k) n = false) : s.apertureBytes key 0 va n = .ok (s.locBytes k n) := by
  -- Opened before its arguments stand in it: the kernel would else count down from the offset of a literal address.
  have hdef : @State.apertureBytes = @State.apertureBytes := rfl
  conv at hdef => rhs; delta State.apertureBytes
  rw [hdef]
  simp only [hin, hsound, Bool.false_eq_true, if_false]

/-- An address in the aperture lies as far into it as it lies above its base. -/
theorem apertureOff_of_le {va : Nat} (hlow : 0xFFFFFFFFFF000000 ≤ va) (hva : va < 2 ^ 64) :
    apertureOff va = va - 0xFFFFFFFFFF000000 := by
  unfold apertureOff
  omega

/-- A read that a job may make gives the bytes that stand there. -/
theorem State.apertureBytes_of_mayRead {s : State} {key va n : Nat} (hk : isWave key = false) (hva : va < 2 ^ 64)
    (h : s.mayRead key va n) : s.apertureBytes key 0 va n = .ok (s.jobBytes key va n) := by
  obtain ⟨⟨hlow, hhigh⟩, hsound⟩ := h
  have hoff : apertureOff va = va - 0xFFFFFFFFFF000000 := apertureOff_of_le (Nat.le_trans (Nat.le_add_right ..) hlow) hva
  have hkey : jobKey key va = locKey (keyCore key) 0 + apertureOff va := by
    rw [hoff, locKey, jobKey, locKey, Nat.add_zero]
  rw [State.jobBytes, hkey]
  rw [hkey] at hsound
  exact State.apertureBytes_of_sound (State.aperture_of_in hk (by omega) (by omega)) hsound

/-! ### Readouts that are performed leave alone what a stream owes -/

@[simp] theorem State.locWriteRaw_unfinished (s : State) (k : Nat) (bs : List Byte) (key : Nat) :
    (s.locWriteRaw k bs).unfinished key = s.unfinished key := by
  induction bs generalizing s k with
  | nil => rfl
  | cons b bs ih => exact (ih _ _).trans rfl

/-- What a stream owes at its retirement and stands stalled for. -/
def State.owes (s : State) (key : Nat) : Option Retire × List Need := (s.unfinished key).2

theorem State.locScatter_owes (s : State) (bs : List (Nat × Byte)) (key : Nat) :
    (s.locScatter bs).owes key = s.owes key :=
  foldl_same (State.owes · key) (fun (t : State) (b : Nat × Byte) => t.locWriteRaw b.1 [b.2])
    (fun t b => congrArg Prod.snd (t.locWriteRaw_unfinished b.1 [b.2] key)) bs s

theorem State.pushSaved_owes (s : State) (slot k : Nat) (fifos : List Nat) (key : Nat) :
    (s.pushSaved slot k fifos).owes key = s.owes key := by
  refine foldl_same (State.owes · key) _ (fun t f => ?_) fifos s
  dsimp only
  split
  · exact congrArg Prod.snd ((State.locWriteRaw_unfinished ..).trans (State.locWriteRaw_unfinished ..))
  · rfl

theorem State.setCtl_owes {s : State} {k key : Nat} {c : Ctl} (hr : c.retire = (s.ctlAt k 0).retire)
    (hs : c.stall = (s.ctlAt k 0).stall) : (s.setCtl k 0 c).owes key = s.owes key := by
  by_cases h : ctlKey key 0 = ctlKey k 0
  · simp only [State.owes, State.unfinished, State.ctlAt, State.setCtl, h, Tab.get_put_same] at hr hs ⊢
    rw [hr, hs]
  · simp only [State.owes, State.unfinished, State.ctlAt, State.setCtl, Tab.get_put_other _ _ _ h]

/-- A completion point pushes tokens, or leaves them pending (R81). -/
theorem State.pushCompletion_owes (s : State) (slot k g key : Nat) : (s.pushCompletion slot k g).owes key = s.owes key := by
  unfold State.pushCompletion
  split
  · exact s.pushSaved_owes ..
  · refine foldl_same (State.owes · key) _ (fun t f => ?_) _ s
    dsimp only
    split
    · rfl
    · exact State.setCtl_owes rfl rfl

theorem State.finishReadout_owes (s : State) (id : Nat) (r : Readout) (key : Nat) :
    (s.finishReadout id r).owes key = s.owes key :=
  (State.pushCompletion_owes ..).trans (State.locScatter_owes ..)

theorem State.finishReadouts_owes (s : State) (k key : Nat) : (s.finishReadouts k).owes key = s.owes key := by
  refine foldl_same (State.owes · key) _ (fun t e => ?_) s.flights s
  split
  · split
    · exact t.finishReadout_owes ..
    · rfl
  · rfl

/-- A sum that is added up from the left. -/
theorem foldl_add_sum {α M : Type} [Add M] [Zero M] [Std.Associative (α := M) (· + ·)]
    [Std.LawfulRightIdentity (α := M) (· + ·) 0] (f : α → M) (l : List α) (a : M) :
    l.foldl (fun a x => a + f x) a = a + (l.map f).sum := by
  induction l generalizing a with
  | nil => exact (Std.LawfulRightIdentity.right_id a).symm
  | cons x l ih =>
    rw [List.foldl_cons, ih, List.map_cons, List.sum_cons]
    exact Std.Associative.assoc ..

/-! ### wload (R251) -/

/-- The flag of codes that are not valid (R251). -/
theorem flIf_any (l : List (Byte × Bool)) (f : Fl) :
    flIf (l.any fun x => x.2) f = if ∃ x ∈ l, x.2 = true then f else 0 := by
  simp only [flIf, List.any_eq_true]

/-- wload reads the bytes of its pages as it issues (log 7): its control word is good and the pages are its job's. -/
theorem execWload_completes {p : BitVec 6} (a c : BitVec 6) (g : BitVec 4) (hp : p.toNat < 8) :
    (pageRun p a c g).completes := by
  let word := 0x000000EF + put p 26 + put a 20 + put c 14 + put g 8
  have hg := g.isLt
  have hw : wordFits word 2 g false := (wordFits_macro (by unfold word put; omega) (by unfold word put; omega)).1
  refine heldRun_completes (word := word) (fun _ => rfl) hw (by simpa using hp) (by decide) fun is s sv lv hk hr => ?_
  obtain ⟨-, hpage, hhigh, hplain, hlast, halign, hread⟩ := hr
  have hbytes := State.apertureBytes_of_mayRead hk (BitVec.isLt _) hread
  have hzero : bits (sv.getD 0 0) 12 52 = 0 := by rw [bits, bitsN, Nat.div_eq_of_lt hhigh, Nat.zero_mod]
  have hfirst : bits (sv.getD 0 0) 0 5 = (sv.getD 0 0).toNat % 2 ^ 5 := by rw [bits, bitsN, Nat.pow_zero, Nat.div_one]
  have hcount : bits (sv.getD 0 0) 6 5 = (sv.getD 0 0).toNat / 2 ^ 6 % 2 ^ 5 := rfl
  have hfits : ¬32 < (sv.getD 0 0).toNat % 2 ^ 5 + ((sv.getD 0 0).toNat / 2 ^ 6 % 2 ^ 5 + 1) := Nat.not_lt.2 hlast
  -- hbytes says all that is needed of the read, which the kernel must not evaluate.
  generalize @State.apertureBytes = reads at hbytes ⊢
  cases hint : bit (sv.getD 0 0) 11 <;>
    simp only [sval, hint, hpage, hzero, hplain, hfirst, hcount, hfits, halign, hbytes, Bool.not_true, Bool.not_false,
      Bool.false_eq_true, if_false, if_true, decide_false, bne_self_eq_false, Bool.or_self, flIf_any, upTo]

/-! ### tma (R253, R254) -/

theorem signedN_toInt (w : Word) : signedN 32 w.toNat = w.toInt := by
  simp only [signedN, BitVec.toInt_eq_toNat_cond, Nat.mod_eq_of_lt w.isLt]
  rfl

theorem signedN_byte {b : Nat} (h : b < 2 ^ 8) : signedN 8 b = signedOf 8 b := by
  simp only [signedN, signedOf, Nat.mod_eq_of_lt h, Int.ofNat_eq_natCast]
  split <;> split <;> omega

theorem ofNat_wrapN (v : Int) : BitVec.ofNat 32 (wrapN 32 v) = BitVec.ofInt 32 v := by
  apply BitVec.eq_of_toNat_eq
  simp only [wrapN, BitVec.toNat_ofNat, BitVec.toNat_ofInt]
  omega

theorem State.locRead_byte_lt (s : State) (k : Nat) : s.locRead k 1 < 2 ^ 8 := by
  have := (s.loc.get 0 k).isLt
  simpa [State.locRead, upTo, leNat] using this

theorem pageDepth_eq (tag : Nat) : pageDepth tag = if tag = 1 then 128 else 256 := by
  simp only [pageDepth, beq_iff_eq]

/-- The pages of a chain, from a first input on. -/
theorem State.chain_foldl (s : State) (core p0 : Nat) (l : List Nat) (acc : List (Nat × Nat × Nat)) (first : Nat) :
    (l.foldl (fun (acc : List (Nat × Nat × Nat) × Nat) i =>
      (acc.1 ++ [(p0 + i, acc.2, pageDepth (s.pageTag core 0 (p0 + i)))], acc.2 + pageDepth (s.pageTag core 0 (p0 + i))))
      (acc, first)).1 = acc ++ chainOf s core first (l.map (p0 + ·)) := by
  induction l generalizing acc first with
  | nil => simp [chainOf]
  | cons i l ih => rw [List.foldl_cons, ih, List.map_cons, chainOf, ← pageDepth_eq, List.append_assoc, List.singleton_append]

theorem State.chain_eq (s : State) (core p0 np : Nat) :
    s.chain core p0 np = chainOf s core 0 ((List.range np).map (p0 + ·)) :=
  s.chain_foldl core p0 (List.range np) [] 0

theorem chainOf_depths (s : State) (core first : Nat) (ps : List Nat) :
    (chainOf s core first ps).map (fun x => x.2.2) = ps.map fun p => pageDepth (s.pageTag core 0 p) := by
  induction ps generalizing first with
  | nil => rfl
  | cons p ps ih => simp only [chainOf, List.map_cons, ih, pageDepth_eq]

theorem State.chainDepth_eq (s : State) (core p0 np : Nat) :
    s.chainDepth core p0 np = ((chainOf s core 0 ((List.range np).map (p0 + ·))).map fun x => x.2.2).sum := by
  rw [State.chainDepth, foldl_add_sum, Nat.zero_add, chainOf_depths, List.map_map]
  rfl

theorem State.tmaSum_eq (s : State) (core j : Nat) (pages : List (Nat × Nat × Nat)) (row : Nat → Int) (c : Nat) :
    s.tmaSum core j pages row c =
      (pages.map fun y => ((List.range y.2.2).map fun k => row (y.2.1 + k) * s.weight core j y.1 k c).sum).sum := by
  simp only [State.tmaSum, foldl_add_sum, Int.zero_add, upTo]

/-- The flag of sums that lie beyond 32 bits (R254). -/
theorem flIf_beyond {α : Type} (cells : List α) (place : α → Nat) (sum : α → Int) :
    flIf ((cells.map fun q => (place q, sum q)).any fun v => v.2 < -(2 ^ 31) || 2 ^ 31 - 1 < v.2) flOF =
      if ∃ q ∈ cells, sum q < -(2 ^ 31) ∨ 2 ^ 31 ≤ sum q then flOF else 0 := by
  simp only [flIf, List.any_map, List.any_eq_true, Function.comp_apply, Bool.or_eq_true, decide_eq_true_eq, Int.sub_one_lt_iff]

theorem not_and_eq_false_of_imp {z : BitVec 1} {b : Bool} (h : z = 0 → b = false) : (!(z == 1) && b) = false := by
  obtain rfl | rfl := BitVec.eq_zero_or_eq_one z
  · rw [h rfl, Bool.and_false]
  · rfl

/-- tma computes its sums as it issues (log 7): the chain is its job's and fits the activation tile. -/
theorem execTma_completes (p n : BitVec 3) (z u : BitVec 1) (s1 : BitVec 4) (g : BitVec 4) :
    (chainRun p n z u s1 g).completes := by
  let word := 0x000010EF + put p 29 + put n 26 + put z 25 + put u 24 + put s1 18 + put g 8
  have hg := g.isLt
  have hw : wordFits word 2 g false := (wordFits_macro (by unfold word put; omega) (by unfold word put; omega)).1
  refine heldRun_completes (word := word) (fun _ => rfl) hw rfl (by decide) fun is s sv lv hk hr => ?_
  obtain ⟨-, hlast, hpages, hrows, hmany, hcols, hclaimed, hinside, hsound, hwhole, hsums⟩ := hr
  have hmissing : (List.range (n.toNat + 1)).find? (fun i => decide (p.toNat + i < 8) &&
      !bitN ((s.finishReadouts is.key).pageMask is.key) (p.toNat + i)) = none := by
    rw [List.find?_eq_none]
    intro i hi
    simp [hpages i (List.mem_range.1 hi)]
  generalize s.finishReadouts is.key = t at *
  have hshape : ((t.shape is.key s1.toNat).rows == 0 || decide (32 < (t.shape is.key s1.toNat).rows)) = false := by
    simp [Nat.not_lt.2 hmany, Nat.ne_of_gt hrows]
  have hclaim := not_and_eq_false_of_imp (z := z) (b := !(t.caOf is.key).claimed) fun h => by rw [hclaimed h]; rfl
  have hpoison : ((List.range 32).any fun j => (List.range (n.toNat + 1)).any fun i =>
      t.poisonPage.has (pageKey (keyCore is.key) j (p.toNat + i))) = false := by
    simpa using hwhole
  have hold := not_and_eq_false_of_imp fun h => List.any_eq_false.2 fun q hq => ne_true_of_eq_false (hsums h q hq)
  simp only [upTo, State.chainDepth_eq, hmissing, hshape, hcols, hclaim, hinside, hsound, hpoison, hold, Nat.not_lt.2 hlast,
    bne_self_eq_false, Bool.or_self, Bool.false_eq_true, if_false]
  simp only [State.chain_eq, State.tmaSum_eq, signedN_toInt, signedN_byte (t.locRead_byte_lt _), ofNat_wrapN, flIf_beyond,
    beq_iff_eq, List.map_map, Function.comp_def]

/-! ### tmard (R256, R257) -/

theorem tmardFmt_toNat (o : BitVec 2) :
    tmardFmt o.toNat = if o = 0 then 0 else if o = 1 then 2 else if o = 2 then 1 else 5 := by
  revert o
  decide

/-- An instruction that launches a readout changes neither tokens nor what its stream owes, where the readouts before it push
none. -/
theorem State.readout_same {s : State} {key : Nat} (hquiet : s.readoutsQuiet key) (core n : Nat) (us : List Nat) (f : Fl)
    (r : Flight) :
    let t := (((s.finishReadouts key).occupy core us n).orFlags key 0 f).launch r
    t.tokens = s.tokens ∧ (t.ctlAt key 0).retire = (s.ctlAt key 0).retire ∧
      (t.ctlAt key 0).stall = (s.ctlAt key 0).stall := by
  let u := (s.finishReadouts key).occupy core us n
  obtain ⟨hretire, hstall, -⟩ := u.orFlags_ctlAt key 0 f
  have howes := s.finishReadouts_owes key key
  exact ⟨(congrArg State.tokens (u.orFlags_same key 0 f)).trans hquiet, hretire.trans (congrArg Prod.fst howes),
    hstall.trans (congrArg Prod.snd howes)⟩

/-- tmard launches a readout of the claimed column accumulators, whose last tma had as many rows. -/
theorem execTmard_completes (o ss : BitVec 2) {w a : BitVec 5} (sd : BitVec 4) (g : BitVec 4) (hweights : w.toNat < 24)
    (hacts : a.toNat < 24) : (columnsRun o ss w a sd g).completes := by
  let word := 0x000020EF + put o 30 + put ss 28 + put w 23 + put a 18 + put sd 14 + put g 8
  have hg := g.isLt
  obtain ⟨hw, hturns⟩ := wordFits_macro (word := word) (g := g) (by unfold word put; omega) (by unfold word put; omega)
  have hfield : bitsN word 8 4 = g.toNat := by unfold word put bitsN; omega
  refine Run.of_whole (op := { word := word, legal := onMe, completes := true, bad := 24 ≤ w.toNat || 24 ≤ a.toNat
                               units := [10] }) (fun _ _ _ _ _ => rfl) ?_ (fun is s sv lv _ hr => ?_)
    (fun is s sv lv _ _ hr => ?_)
  · have hpairs : (decide (24 ≤ w.toNat) || decide (24 ≤ a.toNat)) = false := by
      simp [Nat.not_le.2 hweights, Nat.not_le.2 hacts]
    exact
      { half := rfl, halves := .inr rfl, ssrc := rfl, sdst := rfl, lsrc := rfl, ldst := rfl, sread := rfl, pairs := rfl
        legal := fun _ h => h, word := hw.1, lane := hw.2, turns := hturns, last := rfl, unplaced := rfl, unit := rfl
        inside := rfl, later := rfl, record := rfl, links := nofun, fields := ⟨rfl, hpairs⟩, handler := nofun
        on := fun _ _ => by simp [bitN] }
  · obtain ⟨-, hclaimed, hrows, hmany, hcols, hwide, hlast, hinside, hsums, hacts, hweights⟩ := hr
    let t := s.finishReadouts is.key
    let x := t.shape is.key sd.toNat
    let ve := streamKey (keyCore is.key) (keyCtx is.key) 3
    have hshape : (x.rows == 0 || decide (32 < x.rows) || x.cols == 0 || decide (2048 < x.cols)) = false := by
      simp [x, t, Nat.not_lt.2 hmany, Nat.not_lt.2 hwide, Nat.ne_of_gt hrows, Nat.ne_of_gt hcols]
    have hcells := List.any_eq_false.2 fun c hc => ne_true_of_eq_false (hsums c hc)
    have hlanes (k n : Nat) (h : ∀ l < n, ∀ r ∈ [2 * k, 2 * k + 1], t.poisonLane.has (laneKey ve r l) = false) :
        (((List.range n).flatMap fun l => [laneKey ve (2 * k) l, laneKey ve (2 * k + 1) l]).any fun r =>
          t.poisonLane.has r) = false := by
      simpa using h
    simp only [x, ve, t] at hshape hlanes
    simp only [word] at hfield
    simp only [columnsRun, upTo, hclaimed, hshape, Nat.not_lt.2 hlast, tmardFmt_toNat, hinside, hcells, List.any_append,
      hlanes _ _ hacts, hlanes _ _ hweights, signedN_toInt, hfield, Bool.not_true, Bool.or_self, Bool.false_eq_true, if_false]
    rfl
  · obtain ⟨hquiet, -⟩ := hr
    exact State.readout_same hquiet ..

/-! ### wstat (R258) -/

/-- A status selector reads a page's tags, or what stands of the column accumulators. -/
theorem execWstat_completes (d : BitVec 6) {sel : BitVec 6} (g : BitVec 4) (hsel : sel.toNat ≤ 8) :
    (statusRun d sel g).completes := by
  let word := 0x000030EF + put d 26 + put sel 20 + put g 8
  have hg := g.isLt
  obtain ⟨hw, hturns⟩ := wordFits_macro (word := word) (g := g) (by unfold word put; omega) (by unfold word put; omega)
  refine Run.of_scalar (op := { word := word, legal := onMe, sdst := [d.toNat], bad := 9 ≤ sel.toNat
                                units := [if sel.toNat < 8 then sel.toNat else 10] })
    (W := fun _ s _ _ => s) (fun _ _ _ _ _ => rfl) ?_ rfl
    ⟨rfl, rfl, rfl, rfl, rfl, rfl, rfl, rfl, rfl⟩ rfl (fun _ _ _ _ => rfl)
    (fun is s sv lv hr => ?_) (fun _ _ _ _ _ _ _ => ⟨rfl, rfl, rfl, rfl, rfl, fun _ => rfl⟩)
  · have hselector : decide (9 ≤ sel.toNat) = false := decide_eq_false (by omega)
    exact
      { half := rfl, halves := .inr rfl, ssrc := rfl, sdst := rfl, lsrc := rfl, ldst := rfl, sread := rfl, pairs := rfl
        legal := fun _ h => h, word := hw.1, lane := hw.2, turns := hturns, last := rfl, unplaced := rfl, unit := rfl
        inside := rfl, later := rfl, record := rfl, links := nofun, fields := ⟨rfl, hselector⟩, handler := nofun
        on := fun _ _ => by simp [bitN] }
  · by_cases hcolumns : sel.toNat = 8
    · have hlost : 2 * b2n (s.caOf is.key).lost = if (s.caOf is.key).lost = true then 2 else 0 := by
        cases (s.caOf is.key).lost <;> rfl
      simp only [hcolumns, hlost, if_true, Nat.lt_irrefl, if_false]
      rfl
    · have hpage : bitN (s.pageMask is.key) sel.toNat = true := hr.resolve_left hcolumns
      have hlow : sel.toNat < 8 := by omega
      simp only [hlow, hpage, hcolumns, foldl_add_sum, Nat.zero_add, upTo, if_true, if_false, Bool.not_true, Bool.false_eq_true]

end Sys2Proof.Machine

namespace Sys2Proof
open Machine

/-- Settles O35: one lemma for each of the four words. -/
theorem weightMacros : Obligations.WeightMacros :=
  ⟨fun _ a c g hp => execWload_completes a c g hp, execTma_completes,
    fun o ss _ _ sd g hw ha => execTmard_completes o ss sd g hw ha, fun d _ g hsel => execWstat_completes d g hsel⟩

end Sys2Proof
end
